-- ==== Sys2Proof/Syntax.lean ====
section
/-! DEFINITION. The instructions and events of the Ranhal A20: one constructor for each row of the opcode table.
A word's constructor carries the fields of its encoding (spec/03, R45 to R48) raw, at the width the format gives them;
an event's constructor carries what the event names. -/

namespace Sys2Proof

/-- The guard and hold fields that every word carries (R45, Table 3-1). -/
structure Ctl where
  pg : BitVec 4
  hold : BitVec 4
  deriving DecidableEq, Repr

/-- The guard, hold and semaphore fields of a T-format word (R45, R46, R48). -/
structure TCtl where
  pg : BitVec 4
  hold : BitVec 4
  sw : BitVec 6
  sr : BitVec 6
  deriving DecidableEq, Repr

/-- What the management core counts as lost with an uncorrectable error: the die, its stacked store (R13, R82). -/
structure Loss where
  die : Bool := false
  stack : Bool := false
  deriving DecidableEq, Repr

/-- What the secure management core establishes before READY rises (R12, R13, R70, R82, R90, R91, R339): the values
its self-test, its fuses and its firmware supply, which no rule of the manual computes.
DEDUCED (notes/assumptions/31.md). -/
structure FirmwareInfo where
  /-- DMIX as the management core fills it (R12). -/
  dmix : BitVec 64
  /-- EMASK, the errata workarounds active (Table 5-6). -/
  emask : BitVec 64
  /-- Failed physical cells, as (slot, cell) pairs (R82). -/
  badCells : List (Nat × Nat)
  /-- The trusted key store: (slot 0 to 7, RSA modulus) (R70). -/
  keys : List (Nat × Nat)
  /-- The secure physical ranges declared in the firewalls: (first byte, length) (R339). -/
  secure : List (Nat × Nat)
  /-- Physical address of the HBM area where the core keeps page tables (R153, R339). -/
  tableArea : Nat
  deriving DecidableEq, Repr

/-- The rows of the opcode table. -/
inductive Instr where
  /-- AT, issue at a stated tick (R55). -/
  | atTick (imm : BitVec 28)
  /-- RPT, repeat the next word (R56): `count` holds the count less one. -/
  | rpt (count : BitVec 6) (stepD stepA stepB : BitVec 3)
  /-- ADD (R109, Table 7-1). -/
  | add (g : Ctl) (d : BitVec 6) (a : BitVec 6) (b : BitVec 6)
  /-- SUB (R109, Table 7-1). -/
  | sub (g : Ctl) (d : BitVec 6) (a : BitVec 6) (b : BitVec 6)
  /-- AND (R109, Table 7-1). -/
  | and (g : Ctl) (d : BitVec 6) (a : BitVec 6) (b : BitVec 6)
  /-- OR (R109, Table 7-1). -/
  | or (g : Ctl) (d : BitVec 6) (a : BitVec 6) (b : BitVec 6)
  /-- XOR (R109, Table 7-1). -/
  | xor (g : Ctl) (d : BitVec 6) (a : BitVec 6) (b : BitVec 6)
  /-- ANDN (R109, Table 7-1). -/
  | andn (g : Ctl) (d : BitVec 6) (a : BitVec 6) (b : BitVec 6)
  /-- SLL (R109, Table 7-1). -/
  | sll (g : Ctl) (d : BitVec 6) (a : BitVec 6) (b : BitVec 6)
  /-- SRL (R109, Table 7-1). -/
  | srl (g : Ctl) (d : BitVec 6) (a : BitVec 6) (b : BitVec 6)
  /-- SRA (R109, Table 7-1). -/
  | sra (g : Ctl) (d : BitVec 6) (a : BitVec 6) (b : BitVec 6)
  /-- SLT (R109, Table 7-1). -/
  | slt (g : Ctl) (d : BitVec 6) (a : BitVec 6) (b : BitVec 6)
  /-- SLTU (R109, Table 7-1). -/
  | sltu (g : Ctl) (d : BitVec 6) (a : BitVec 6) (b : BitVec 6)
  /-- MIN (R109, Table 7-1). -/
  | min (g : Ctl) (d : BitVec 6) (a : BitVec 6) (b : BitVec 6)
  /-- MAX (R109, Table 7-1). -/
  | max (g : Ctl) (d : BitVec 6) (a : BitVec 6) (b : BitVec 6)
  /-- MINU (R109, Table 7-1). -/
  | minu (g : Ctl) (d : BitVec 6) (a : BitVec 6) (b : BitVec 6)
  /-- MAXU (R109, Table 7-1). -/
  | maxu (g : Ctl) (d : BitVec 6) (a : BitVec 6) (b : BitVec 6)
  /-- CLZ (R109, Table 7-1). -/
  | clz (g : Ctl) (d : BitVec 6) (a : BitVec 6)
  /-- CTZ (R109, Table 7-1). -/
  | ctz (g : Ctl) (d : BitVec 6) (a : BitVec 6)
  /-- POPC (R109, Table 7-1). -/
  | popc (g : Ctl) (d : BitVec 6) (a : BitVec 6)
  /-- SEL (R109: `c` names a predicate). -/
  | sel (g : Ctl) (d : BitVec 6) (a : BitVec 6) (b : BitVec 6) (c : BitVec 6)
  /-- ADDI (R110, Table 7-2). -/
  | addi (g : Ctl) (d : BitVec 6) (a : BitVec 6) (imm : BitVec 20)
  /-- ANDI (R110, Table 7-2). -/
  | andi (g : Ctl) (d : BitVec 6) (a : BitVec 6) (imm : BitVec 20)
  /-- ORI (R110, Table 7-2). -/
  | ori (g : Ctl) (d : BitVec 6) (a : BitVec 6) (imm : BitVec 20)
  /-- XORI (R110, Table 7-2). -/
  | xori (g : Ctl) (d : BitVec 6) (a : BitVec 6) (imm : BitVec 20)
  /-- SLLI (R110, Table 7-2). -/
  | slli (g : Ctl) (d : BitVec 6) (a : BitVec 6) (imm : BitVec 20)
  /-- SRLI (R110, Table 7-2). -/
  | srli (g : Ctl) (d : BitVec 6) (a : BitVec 6) (imm : BitVec 20)
  /-- SRAI (R110, Table 7-2). -/
  | srai (g : Ctl) (d : BitVec 6) (a : BitVec 6) (imm : BitVec 20)
  /-- SLTI (R110, Table 7-2). -/
  | slti (g : Ctl) (d : BitVec 6) (a : BitVec 6) (imm : BitVec 20)
  /-- ADDHI (R111). -/
  | addhi (g : Ctl) (d : BitVec 6) (a : BitVec 6) (imm : BitVec 20)
  /-- ADDPCH (R111). -/
  | addpch (g : Ctl) (d : BitVec 6) (imm : BitVec 20)
  /-- MOVHI (R111). -/
  | movhi (g : Ctl) (d : BitVec 6) (a : BitVec 6) (imm : BitVec 20)
  /-- CMP_EQ (R112, Table 7-3: `d` names a predicate). -/
  | cmpEq (g : Ctl) (d : BitVec 6) (a : BitVec 6) (b : BitVec 6)
  /-- CMP_NE (R112, Table 7-3: `d` names a predicate). -/
  | cmpNe (g : Ctl) (d : BitVec 6) (a : BitVec 6) (b : BitVec 6)
  /-- CMP_LT (R112, Table 7-3: `d` names a predicate). -/
  | cmpLt (g : Ctl) (d : BitVec 6) (a : BitVec 6) (b : BitVec 6)
  /-- CMP_GE (R112, Table 7-3: `d` names a predicate). -/
  | cmpGe (g : Ctl) (d : BitVec 6) (a : BitVec 6) (b : BitVec 6)
  /-- CMP_LTU (R112, Table 7-3: `d` names a predicate). -/
  | cmpLtu (g : Ctl) (d : BitVec 6) (a : BitVec 6) (b : BitVec 6)
  /-- CMP_GEU (R112, Table 7-3: `d` names a predicate). -/
  | cmpGeu (g : Ctl) (d : BitVec 6) (a : BitVec 6) (b : BitVec 6)
  /-- CMP_TST (R112, Table 7-3: `d` names a predicate). -/
  | cmpTst (g : Ctl) (d : BitVec 6) (a : BitVec 6) (b : BitVec 6)
  /-- CMP_NTST (R112, Table 7-3: `d` names a predicate). -/
  | cmpNtst (g : Ctl) (d : BitVec 6) (a : BitVec 6) (b : BitVec 6)
  /-- PAND (R113, Table 7-4: all three name predicates). -/
  | pand (g : Ctl) (d : BitVec 6) (a : BitVec 6) (b : BitVec 6)
  /-- POR (R113, Table 7-4: all three name predicates). -/
  | por (g : Ctl) (d : BitVec 6) (a : BitVec 6) (b : BitVec 6)
  /-- PXOR (R113, Table 7-4: all three name predicates). -/
  | pxor (g : Ctl) (d : BitVec 6) (a : BitVec 6) (b : BitVec 6)
  /-- PANDN (R113, Table 7-4: all three name predicates). -/
  | pandn (g : Ctl) (d : BitVec 6) (a : BitVec 6) (b : BitVec 6)
  /-- PNOT (R113). -/
  | pnot (g : Ctl) (d : BitVec 6) (a : BitVec 6)
  /-- PRD (R113). -/
  | prd (g : Ctl) (d : BitVec 6)
  /-- PWR (R113). -/
  | pwr (g : Ctl) (a : BitVec 6)
  /-- MUL (R114, Table 7-5). -/
  | mul (g : Ctl) (d : BitVec 6) (a : BitVec 6) (b : BitVec 6)
  /-- MULW (R114, Table 7-5). -/
  | mulw (g : Ctl) (d : BitVec 6) (a : BitVec 6) (b : BitVec 6)
  /-- MULWU (R114, Table 7-5). -/
  | mulwu (g : Ctl) (d : BitVec 6) (a : BitVec 6) (b : BitVec 6)
  /-- MULWSU (R114, Table 7-5). -/
  | mulwsu (g : Ctl) (d : BitVec 6) (a : BitVec 6) (b : BitVec 6)
  /-- DIV (R114, Table 7-5). -/
  | div (g : Ctl) (d : BitVec 6) (a : BitVec 6) (b : BitVec 6)
  /-- DIVU (R114, Table 7-5). -/
  | divu (g : Ctl) (d : BitVec 6) (a : BitVec 6) (b : BitVec 6)
  /-- DIVREM (R114, Table 7-5). -/
  | divrem (g : Ctl) (d : BitVec 6) (a : BitVec 6) (b : BitVec 6)
  /-- DIVREMU (R114, Table 7-5). -/
  | divremu (g : Ctl) (d : BitVec 6) (a : BitVec 6) (b : BitVec 6)
  /-- LD (R117). -/
  | ld (g : Ctl) (d : BitVec 6) (a : BitVec 6) (sz : BitVec 2) (ord : BitVec 4) (imm : BitVec 12)
  /-- LDU (R117). -/
  | ldu (g : Ctl) (d : BitVec 6) (a : BitVec 6) (sz : BitVec 2) (ord : BitVec 4) (imm : BitVec 12)
  /-- ST (R118: `d` names the source register). -/
  | st (g : Ctl) (d : BitVec 6) (a : BitVec 6) (sz : BitVec 2) (ord : BitVec 4) (imm : BitVec 12)
  /-- LDX (R120). -/
  | ldx (g : Ctl) (d : BitVec 6) (a : BitVec 6) (b : BitVec 6) (sz : BitVec 2)
  /-- LDXU (R120). -/
  | ldxu (g : Ctl) (d : BitVec 6) (a : BitVec 6) (b : BitVec 6) (sz : BitVec 2)
  /-- STX (R120: `c` names the source register). -/
  | stx (g : Ctl) (a : BitVec 6) (b : BitVec 6) (c : BitVec 6) (sz : BitVec 2)
  /-- CSRR (R121). -/
  | csrr (g : Ctl) (d : BitVec 6) (csr : BitVec 12)
  /-- CSRW (R121). -/
  | csrw (g : Ctl) (d : BitVec 6) (a : BitVec 6) (csr : BitVec 12)
  /-- CSRS (R121). -/
  | csrs (g : Ctl) (d : BitVec 6) (a : BitVec 6) (csr : BitVec 12)
  /-- CSRC (R121). -/
  | csrc (g : Ctl) (d : BitVec 6) (a : BitVec 6) (csr : BitVec 12)
  /-- BEQ (R122). -/
  | beq (g : Ctl) (a : BitVec 6) (b : BitVec 6) (off : BitVec 18)
  /-- BNE (R122). -/
  | bne (g : Ctl) (a : BitVec 6) (b : BitVec 6) (off : BitVec 18)
  /-- BLT (R122). -/
  | blt (g : Ctl) (a : BitVec 6) (b : BitVec 6) (off : BitVec 18)
  /-- BGE (R122). -/
  | bge (g : Ctl) (a : BitVec 6) (b : BitVec 6) (off : BitVec 18)
  /-- BLTU (R122). -/
  | bltu (g : Ctl) (a : BitVec 6) (b : BitVec 6) (off : BitVec 18)
  /-- BGEU (R122). -/
  | bgeu (g : Ctl) (a : BitVec 6) (b : BitVec 6) (off : BitVec 18)
  /-- BRA (R122). -/
  | bra (g : Ctl) (off : BitVec 18)
  /-- JAL (R123). -/
  | jal (g : Ctl) (d : BitVec 6) (imm : BitVec 28)
  /-- JALR (R124). -/
  | jalr (g : Ctl) (d : BitVec 6) (a : BitVec 6) (imm : BitVec 20)
  /-- RET (R124). -/
  | ret (g : Ctl) (a : BitVec 6)
  /-- NOP (R126). -/
  | nop (g : Ctl)
  /-- LOOP (R127: `n` holds the body length less one). -/
  | loop (g : Ctl) (n : BitVec 6) (a : BitVec 6)
  /-- END (R128). -/
  | endStrand (g : Ctl)
  /-- HALT (R129). -/
  | halt (g : Ctl) (a : BitVec 6)
  /-- TRAP (R130). -/
  | trap (g : Ctl) (code : BitVec 12)
  /-- ERET (R131, R307). -/
  | eret (g : Ctl)
  /-- HGET (R175, Tables 11-1 and 11-2). -/
  | hget (g : Ctl) (d : BitVec 6) (a : BitVec 6) (fld : BitVec 4)
  /-- HSET (R175, Tables 11-1 and 11-2). -/
  | hset (g : Ctl) (d : BitVec 6) (a : BitVec 6) (fld : BitVec 4)
  /-- HADD (R175, Tables 11-1 and 11-2). -/
  | hadd (g : Ctl) (d : BitVec 6) (a : BitVec 6) (fld : BitVec 4)
  /-- HCPY (R175). -/
  | hcpy (g : Ctl) (d : BitVec 6) (a : BitVec 6)
  /-- HCLR (R175). -/
  | hclr (g : Ctl) (d : BitVec 6)
  /-- HLD (R176). -/
  | hld (g : Ctl) (d : BitVec 6) (a : BitVec 6) (ord : BitVec 4) (imm : BitVec 12)
  /-- HST (R176). -/
  | hst (g : Ctl) (d : BitVec 6) (a : BitVec 6) (ord : BitVec 4) (imm : BitVec 12)
  /-- PBIND (R177, Table 11-3). -/
  | pbind (t : TCtl) (d : BitVec 4) (a : BitVec 4)
  /-- PSAVE (R177, Table 11-3). -/
  | psave (t : TCtl) (d : BitVec 4) (a : BitVec 4)
  /-- PREST (R177, Table 11-3). -/
  | prest (t : TCtl) (d : BitVec 4) (a : BitVec 4)
  /-- PUNBIND (R177, Table 11-3). -/
  | punbind (t : TCtl) (d : BitVec 4)
  /-- SEMINIT (R132, R133: SR names the target). -/
  | seminit (t : TCtl) (n : BitVec 16)
  /-- SEMWAIT (R132, R134: `d` names a predicate). -/
  | semwait (t : TCtl) (d : BitVec 4)
  /-- SEMPOST (R132, R134). -/
  | sempost (t : TCtl) (n : BitVec 16)
  /-- SEMROT (R132, R135). -/
  | semrot (t : TCtl) (k : BitVec 5)
  /-- SEMTEST (R132, R136: SR names the target). -/
  | semtest (t : TCtl) (d : BitVec 4) (n : BitVec 12)
  /-- ZST (R137: `d` names a quarantined register). -/
  | zst (g : Ctl) (d : BitVec 6) (a : BitVec 6) (imm : BitVec 12)
  /-- CPY (R179 to R183: `c` is a predicate select). -/
  | cpy (t : TCtl) (d : BitVec 4) (a : BitVec 4) (c : BitVec 4)
  /-- CPYM (R179 to R183: `c` is a predicate select). -/
  | cpym (t : TCtl) (d : BitVec 4) (a : BitVec 4) (c : BitVec 4)
  /-- CLOSE (R184). -/
  | close (t : TCtl)
  /-- CWAIT (R185). -/
  | cwait (t : TCtl) (n : BitVec 4)
  /-- LCTX_R (R186). -/
  | lctxR (t : TCtl) (ctx : BitVec 8) (b : BitVec 4) (c : BitVec 4)
  /-- LCTX_S (R186). -/
  | lctxS (t : TCtl) (ctx : BitVec 8) (c : BitVec 4)
  /-- LOPEN (R187). -/
  | lopen (t : TCtl) (ctx : BitVec 8) (b : BitVec 4) (c : BitVec 4)
  /-- LPUSH (R188). -/
  | lpush (t : TCtl) (ctx : BitVec 8) (b : BitVec 4)
  /-- LCLOSE (R191). -/
  | lclose (t : TCtl) (ctx : BitVec 8)
  /-- LSTAT (R191). -/
  | lstat (t : TCtl) (ctx : BitVec 8) (b : BitVec 4)
  /-- GATH (R192, R193). -/
  | gath (t : TCtl) (d : BitVec 4) (a : BitVec 4) (b : BitVec 4) (c : BitVec 4)
  /-- SCAT (R192, R193). -/
  | scat (t : TCtl) (d : BitVec 4) (a : BitVec 4) (b : BitVec 4) (c : BitVec 4)
  /-- SCATADD (R192, R193). -/
  | scatadd (t : TCtl) (d : BitVec 4) (a : BitVec 4) (b : BitVec 4) (c : BitVec 4)
  /-- FRENEW (R194, R169). -/
  | frenew (t : TCtl) (a : BitVec 4) (c : BitVec 4)
  /-- FLIFE (R194, R169). -/
  | flife (t : TCtl) (d : BitVec 4) (a : BitVec 4)
  /-- FCHK (R194, R169). -/
  | fchk (t : TCtl) (d : BitVec 4) (a : BitVec 4)
  /-- FBIRTH (R194, R169). -/
  | fbirth (t : TCtl) (d : BitVec 4) (a : BitVec 4)
  /-- MMA (R209, R210: `ga` and `gb` hold the gang sizes less one). -/
  | mma (t : TCtl) (bank : BitVec 1) (init : BitVec 1) (fa : BitVec 4) (ga : BitVec 4) (fb : BitVec 4) (gb : BitVec 4)
  /-- MMAW (R209, R210). -/
  | mmaw (t : TCtl) (bank : BitVec 1) (init : BitVec 1) (w : BitVec 4) (fa : BitVec 4) (ga : BitVec 4) (fb : BitVec 4) (gb : BitVec 4)
  /-- MDRAIN (R212). -/
  | mdrain (t : TCtl) (bank : BitVec 1) (zero : BitVec 1) (d : BitVec 4)
  /-- MZERO (R213). -/
  | mzero (t : TCtl) (bank : BitVec 1)
  /-- MSUM (R214: `gm` holds the gang size less one). -/
  | msum (t : TCtl) (bank : BitVec 1) (side : BitVec 1) (f : BitVec 4) (gm : BitVec 4) (c : BitVec 4)
  /-- MSCALE (R215). -/
  | mscale (t : TCtl) (d : BitVec 4)
  /-- MMODE (R216). -/
  | mmode (t : TCtl) (c : BitVec 4)
  /-- MSTAT (R217). -/
  | mstat (t : TCtl) (d : BitVec 4)
  /-- MRAIL_UP (R218). -/
  | mrailUp (g : Ctl)
  /-- MRAIL_DN (R218). -/
  | mrailDn (g : Ctl)
  /-- VADD (R231, Table 15-4). -/
  | vadd (t : TCtl) (d : BitVec 4) (a : BitVec 4) (b : BitVec 4)
  /-- VSUB (R231, Table 15-4). -/
  | vsub (t : TCtl) (d : BitVec 4) (a : BitVec 4) (b : BitVec 4)
  /-- VMUL (R231, Table 15-4). -/
  | vmul (t : TCtl) (d : BitVec 4) (a : BitVec 4) (b : BitVec 4)
  /-- VMIN (R231, Table 15-4). -/
  | vmin (t : TCtl) (d : BitVec 4) (a : BitVec 4) (b : BitVec 4)
  /-- VMAX (R231, Table 15-4). -/
  | vmax (t : TCtl) (d : BitVec 4) (a : BitVec 4) (b : BitVec 4)
  /-- VQADD (R231, Table 15-4). -/
  | vqadd (t : TCtl) (d : BitVec 4) (a : BitVec 4) (b : BitVec 4)
  /-- VQSUB (R231, Table 15-4). -/
  | vqsub (t : TCtl) (d : BitVec 4) (a : BitVec 4) (b : BitVec 4)
  /-- VQMUL (R231, Table 15-4). -/
  | vqmul (t : TCtl) (d : BitVec 4) (a : BitVec 4) (b : BitVec 4)
  /-- VFMA (R231, Table 15-4). -/
  | vfma (t : TCtl) (d : BitVec 4) (a : BitVec 4) (b : BitVec 4) (c : BitVec 4)
  /-- VFMS (R231, Table 15-4). -/
  | vfms (t : TCtl) (d : BitVec 4) (a : BitVec 4) (b : BitVec 4) (c : BitVec 4)
  /-- VFNMA (R231, Table 15-4). -/
  | vfnma (t : TCtl) (d : BitVec 4) (a : BitVec 4) (b : BitVec 4) (c : BitVec 4)
  /-- VABS (R231, Table 15-4). -/
  | vabs (t : TCtl) (d : BitVec 4) (a : BitVec 4)
  /-- VNEG (R231, Table 15-4). -/
  | vneg (t : TCtl) (d : BitVec 4) (a : BitVec 4)
  /-- VMOV (R231, Table 15-4). -/
  | vmov (t : TCtl) (d : BitVec 4) (a : BitVec 4)
  /-- VADDS (R231, R228: `c` names a scalar register). -/
  | vadds (t : TCtl) (d : BitVec 4) (a : BitVec 4) (c : BitVec 4)
  /-- VMULS (R231, R228: `c` names a scalar register). -/
  | vmuls (t : TCtl) (d : BitVec 4) (a : BitVec 4) (c : BitVec 4)
  /-- VAXPB (R231, R228: `b` and `c` name scalar registers). -/
  | vaxpb (t : TCtl) (d : BitVec 4) (a : BitVec 4) (b : BitVec 4) (c : BitVec 4)
  /-- VAND (R231, Table 15-4). -/
  | vand (t : TCtl) (d : BitVec 4) (a : BitVec 4) (b : BitVec 4)
  /-- VOR (R231, Table 15-4). -/
  | vor (t : TCtl) (d : BitVec 4) (a : BitVec 4) (b : BitVec 4)
  /-- VXOR (R231, Table 15-4). -/
  | vxor (t : TCtl) (d : BitVec 4) (a : BitVec 4) (b : BitVec 4)
  /-- VANDN (R231, Table 15-4). -/
  | vandn (t : TCtl) (d : BitVec 4) (a : BitVec 4) (b : BitVec 4)
  /-- VSHL (R231: `c` names a scalar register). -/
  | vshl (t : TCtl) (d : BitVec 4) (a : BitVec 4) (c : BitVec 4)
  /-- VSHR (R231: `c` names a scalar register). -/
  | vshr (t : TCtl) (d : BitVec 4) (a : BitVec 4) (c : BitVec 4)
  /-- VCMP_EQ (R233). -/
  | vcmpEq (t : TCtl) (d : BitVec 4) (a : BitVec 4) (b : BitVec 4)
  /-- VCMP_NE (R233). -/
  | vcmpNe (t : TCtl) (d : BitVec 4) (a : BitVec 4) (b : BitVec 4)
  /-- VCMP_LT (R233). -/
  | vcmpLt (t : TCtl) (d : BitVec 4) (a : BitVec 4) (b : BitVec 4)
  /-- VCMP_LE (R233). -/
  | vcmpLe (t : TCtl) (d : BitVec 4) (a : BitVec 4) (b : BitVec 4)
  /-- VCMP_GT (R233). -/
  | vcmpGt (t : TCtl) (d : BitVec 4) (a : BitVec 4) (b : BitVec 4)
  /-- VCMP_GE (R233). -/
  | vcmpGe (t : TCtl) (d : BitVec 4) (a : BitVec 4) (b : BitVec 4)
  /-- VSEL (R233). -/
  | vsel (t : TCtl) (d : BitVec 4) (a : BitVec 4) (b : BitVec 4) (c : BitVec 4)
  /-- VCVT (R235). -/
  | vcvt (t : TCtl) (d : BitVec 4) (a : BitVec 4) (sat : BitVec 1) (rm : BitVec 2)
  /-- VQUANT (R236). -/
  | vquant (t : TCtl) (d : BitVec 4) (a : BitVec 4) (c : BitVec 4)
  /-- VDEQUANT (R237). -/
  | vdequant (t : TCtl) (d : BitVec 4) (a : BitVec 4)
  /-- VRED_ADD (R238). -/
  | vredAdd (t : TCtl) (d : BitVec 4) (a : BitVec 4)
  /-- VRED_MAX (R238). -/
  | vredMax (t : TCtl) (d : BitVec 4) (a : BitVec 4)
  /-- VRED_MIN (R238). -/
  | vredMin (t : TCtl) (d : BitVec 4) (a : BitVec 4)
  /-- VREDX_ADD (R239). -/
  | vredxAdd (t : TCtl) (d : BitVec 4) (a : BitVec 4)
  /-- VREDX_MAX (R239). -/
  | vredxMax (t : TCtl) (d : BitVec 4) (a : BitVec 4)
  /-- VREDX_MIN (R239). -/
  | vredxMin (t : TCtl) (d : BitVec 4) (a : BitVec 4)
  /-- VSCAN_ADD (R240). -/
  | vscanAdd (t : TCtl) (d : BitVec 4) (a : BitVec 4)
  /-- VSCAN_MAX (R240). -/
  | vscanMax (t : TCtl) (d : BitVec 4) (a : BitVec 4)
  /-- VSCAN_MIN (R240). -/
  | vscanMin (t : TCtl) (d : BitVec 4) (a : BitVec 4)
  /-- VTOPK (R241). -/
  | vtopk (t : TCtl) (d : BitVec 4) (b : BitVec 4) (a : BitVec 4) (c : BitVec 4)
  /-- VEXP2 (R242, R42). -/
  | vexp2 (t : TCtl) (d : BitVec 4) (a : BitVec 4)
  /-- VLOG2 (R242, R42). -/
  | vlog2 (t : TCtl) (d : BitVec 4) (a : BitVec 4)
  /-- VRCP (R242, R42). -/
  | vrcp (t : TCtl) (d : BitVec 4) (a : BitVec 4)
  /-- VRSQRT (R242, R42). -/
  | vrsqrt (t : TCtl) (d : BitVec 4) (a : BitVec 4)
  /-- VTANH (R242, R42). -/
  | vtanh (t : TCtl) (d : BitVec 4) (a : BitVec 4)
  /-- VPERM (R243). -/
  | vperm (t : TCtl) (d : BitVec 4) (a : BitVec 4) (b : BitVec 4)
  /-- VSPLAT (R244). -/
  | vsplat (t : TCtl) (d : BitVec 4) (c : BitVec 4)
  /-- VIOTA (R244). -/
  | viota (t : TCtl) (d : BitVec 4) (c : BitVec 4)
  /-- VEXTR (R245). -/
  | vextr (t : TCtl) (d : BitVec 4) (a : BitVec 4) (c : BitVec 4)
  /-- VRAND_U (R246). -/
  | vrandU (t : TCtl) (d : BitVec 4) (b : BitVec 4) (c : BitVec 4)
  /-- VRAND_B (R246). -/
  | vrandB (t : TCtl) (d : BitVec 4) (b : BitVec 4) (c : BitVec 4)
  /-- SPUP (R263, R256). -/
  | spup (g : Ctl) (shape : BitVec 8) (list : BitVec 10) (dest : BitVec 10)
  /-- SPDN (R263, R258). -/
  | spdn (g : Ctl) (shape : BitVec 8) (list : BitVec 10) (dest : BitVec 10)
  /-- SPMODE (R264). -/
  | spmode (g : Ctl) (fp : BitVec 1) (mx : BitVec 1) (goff : BitVec 10)
  /-- SPSHAPE (R265). -/
  | spshape (g : Ctl) (shape : BitVec 8) (h : BitVec 4)
  /-- SPLIST (R265). -/
  | splist (g : Ctl) (list : BitVec 10) (h : BitVec 4)
  /-- SPLD (R266). -/
  | spld (g : Ctl) (h : BitVec 4) (dest : BitVec 10)
  /-- SPLD_CVT (R266). -/
  | spldCvt (g : Ctl) (h : BitVec 4) (dest : BitVec 10)
  /-- SPST (R266). -/
  | spst (g : Ctl) (h : BitVec 4) (dest : BitVec 10)
  /-- SPST_CVT (R266). -/
  | spstCvt (g : Ctl) (h : BitVec 4) (dest : BitVec 10)
  /-- SPNORM (R267, R261). -/
  | spnorm (g : Ctl) (shape : BitVec 8) (list : BitVec 10) (dest : BitVec 10)
  /-- SPSYNC (R268). -/
  | spsync (g : Ctl) (sw : BitVec 6) (sr : BitVec 6)
  /-- SPCLR (R269: `n` holds the count less one). -/
  | spclr (g : Ctl) (n : BitVec 10) (dest : BitVec 10)
  /-- FENCE (R293, R294). -/
  | fence (g : Ctl) (scope : BitVec 6) (pre : BitVec 10) (suc : BitVec 10)
  /-- RDV (R295, R297). -/
  | rdv (g : Ctl) (tick : BitVec 24)
  /-- SSEND (R300). -/
  | ssend (g : Ctl)
  /-- COMMIT (R295, R299). -/
  | commit (g : Ctl) (tick : BitVec 24)
  /-- FOLDADD (R302, Table 21-4). -/
  | foldadd (g : Ctl) (d : BitVec 6) (a : BitVec 6) (sz : BitVec 2) (ord : BitVec 4) (imm : BitVec 12)
  /-- FOLDAND (R302, Table 21-4). -/
  | foldand (g : Ctl) (d : BitVec 6) (a : BitVec 6) (sz : BitVec 2) (ord : BitVec 4) (imm : BitVec 12)
  /-- FOLDOR (R302, Table 21-4). -/
  | foldor (g : Ctl) (d : BitVec 6) (a : BitVec 6) (sz : BitVec 2) (ord : BitVec 4) (imm : BitVec 12)
  /-- FOLDXOR (R302, Table 21-4). -/
  | foldxor (g : Ctl) (d : BitVec 6) (a : BitVec 6) (sz : BitVec 2) (ord : BitVec 4) (imm : BitVec 12)
  /-- FOLDMIN (R302, Table 21-4). -/
  | foldmin (g : Ctl) (d : BitVec 6) (a : BitVec 6) (sz : BitVec 2) (ord : BitVec 4) (imm : BitVec 12)
  /-- FOLDMAX (R302, Table 21-4). -/
  | foldmax (g : Ctl) (d : BitVec 6) (a : BitVec 6) (sz : BitVec 2) (ord : BitVec 4) (imm : BitVec 12)
  /-- FOLDMINU (R302, Table 21-4). -/
  | foldminu (g : Ctl) (d : BitVec 6) (a : BitVec 6) (sz : BitVec 2) (ord : BitVec 4) (imm : BitVec 12)
  /-- FOLDMAXU (R302, Table 21-4). -/
  | foldmaxu (g : Ctl) (d : BitVec 6) (a : BitVec 6) (sz : BitVec 2) (ord : BitVec 4) (imm : BitVec 12)
  /-- FOLDFADD (R302, Table 21-4). -/
  | foldfadd (g : Ctl) (d : BitVec 6) (a : BitVec 6) (sz : BitVec 2) (ord : BitVec 4) (imm : BitVec 12)
  /-- FOLDFMIN (R302, Table 21-4). -/
  | foldfmin (g : Ctl) (d : BitVec 6) (a : BitVec 6) (sz : BitVec 2) (ord : BitVec 4) (imm : BitVec 12)
  /-- FOLDFMAX (R302, Table 21-4). -/
  | foldfmax (g : Ctl) (d : BitVec 6) (a : BitVec 6) (sz : BitVec 2) (ord : BitVec 4) (imm : BitVec 12)
  /-- TAKEADD (R303, Table 21-5). -/
  | takeadd (g : Ctl) (d : BitVec 6) (a : BitVec 6) (sz : BitVec 2) (ord : BitVec 4) (imm : BitVec 12)
  /-- TAKEAND (R303, Table 21-5). -/
  | takeand (g : Ctl) (d : BitVec 6) (a : BitVec 6) (sz : BitVec 2) (ord : BitVec 4) (imm : BitVec 12)
  /-- TAKEOR (R303, Table 21-5). -/
  | takeor (g : Ctl) (d : BitVec 6) (a : BitVec 6) (sz : BitVec 2) (ord : BitVec 4) (imm : BitVec 12)
  /-- TAKEXOR (R303, Table 21-5). -/
  | takexor (g : Ctl) (d : BitVec 6) (a : BitVec 6) (sz : BitVec 2) (ord : BitVec 4) (imm : BitVec 12)
  /-- TAKEMIN (R303, Table 21-5). -/
  | takemin (g : Ctl) (d : BitVec 6) (a : BitVec 6) (sz : BitVec 2) (ord : BitVec 4) (imm : BitVec 12)
  /-- TAKEMAX (R303, Table 21-5). -/
  | takemax (g : Ctl) (d : BitVec 6) (a : BitVec 6) (sz : BitVec 2) (ord : BitVec 4) (imm : BitVec 12)
  /-- TAKEMINU (R303, Table 21-5). -/
  | takeminu (g : Ctl) (d : BitVec 6) (a : BitVec 6) (sz : BitVec 2) (ord : BitVec 4) (imm : BitVec 12)
  /-- TAKEMAXU (R303, Table 21-5). -/
  | takemaxu (g : Ctl) (d : BitVec 6) (a : BitVec 6) (sz : BitVec 2) (ord : BitVec 4) (imm : BitVec 12)
  /-- TAKEFADD (R303, Table 21-5). -/
  | takefadd (g : Ctl) (d : BitVec 6) (a : BitVec 6) (sz : BitVec 2) (ord : BitVec 4) (imm : BitVec 12)
  /-- TRADE (R303). -/
  | trade (g : Ctl) (d : BitVec 6) (a : BitVec 6) (sz : BitVec 2) (ord : BitVec 4) (imm : BitVec 12)
  /-- CTRADE (R303). -/
  | ctrade (g : Ctl) (d : BitVec 6) (a : BitVec 6) (sz : BitVec 2) (ord : BitVec 4) (imm : BitVec 12)
  /-- BASK_PREF (R336). -/
  | baskPref (g : Ctl) (mask : BitVec 2)
  /-- RAIL_STEP_STANDS (R207, R218, R331). -/
  | railStepStands (slot cluster : Nat)
  /-- SYNC_ENGINE_ATOMIC_APPLY (R290, R305). -/
  | syncEngineAtomicApply (slot : Nat)
  /-- ENGINE_DISPATCH (R100). -/
  | engineDispatch (queue : Nat)
  /-- ENGINE_WORD_COMPLETION (R96, R103). -/
  | engineWordCompletion (seq : Nat)
  /-- BLOCK_FETCH_COMPLETE (R92). -/
  | blockFetchComplete
  /-- TRAP_ENTRY (R306). -/
  | trapEntry
  /-- LINK_SEGMENT_LANDING (R189). -/
  | linkSegmentLanding (seg : Nat)
  /-- LINK_SEGMENT_ADMIT (R190). -/
  | linkSegmentAdmit (seg : Nat)
  /-- DIE_WINDOW_ACCESS (R155 to R158). -/
  | dieWindowAccess (write : Bool) (fromSlot : Nat) (addr : BitVec 48) (data : List (BitVec 8))
  /-- TILE_EXPIRY (R160). -/
  | tileExpiry (slot tile : Nat)
  /-- TILE_BUSY_WINDOW_END (R167). -/
  | tileBusyWindowEnd (slot tile : Nat)
  /-- RENDEZVOUS_CHECK (R297). -/
  | rendezvousCheck (prio : Bool)
  /-- RENDEZVOUS_COMMIT (R325, R297). -/
  | rendezvousCommit (prio : Bool)
  /-- LOCK_RENDEZVOUS (R298). -/
  | lockRendezvous (prio : Bool)
  /-- SUPERSTEP_ABORT (R311). -/
  | superstepAbort (prio : Bool)
  /-- UNCORRECTABLE_MEMORY_ERROR (R310, R161): `retire` and `cell` are the health change that the management core decides
  on with it, to be applied when R13 allows (R82, R83). -/
  | uncorrectableMemoryError (slot : Nat) (addr : BitVec 48) (retire : Loss) (cell : Option Nat)
  /-- LINK_FAILURE (R310). -/
  | linkFailure (slotA slotB : Nat)
  /-- JOB_RETIREMENT (R329). -/
  | jobRetirement (prio : Bool)
  /-- LAUNCH (R75). -/
  | launch (addr : BitVec 48) (link : Nat)
  /-- PRIORITY_LAUNCH_SWAP_IN (R315). -/
  | priorityLaunchSwapIn
  /-- PRIORITY_LAUNCH_SWAP_BACK (R315, R316). -/
  | priorityLaunchSwapBack
  /-- RERUN_REQUEST (R328): the doubleword written to 0x038. -/
  | rerunRequest (value : BitVec 64)
  /-- RERUN_START (R328). -/
  | rerunStart
  /-- HOST_BAR2_ACCESS (R77, R78). -/
  | hostBar2Access (write : Bool) (link : Nat) (addr : BitVec 48) (data : List (BitVec 8))
  /-- HOST_REGISTER_WRITE (R74, R76, R328). -/
  | hostRegisterWrite (off : BitVec 12) (value : BitVec 64)
  /-- PACKAGE_RESET (R18, R8). -/
  | packageReset
  /-- FIRMWARE_READY (R13, R78). -/
  | firmwareReady (fw : FirmwareInfo)
  /-- FIRMWARE_UPDATE (R90). -/
  | firmwareUpdate (emask : BitVec 64)
  /-- CONTROL_INTERVAL_BOUNDARY (R333). -/
  | controlIntervalBoundary
  /-- CURRENT_LIMIT_DEMAND (R333, R334). -/
  | currentLimitDemand (slot code rail : Nat)
  /-- THERMAL_DEMAND (R333). -/
  | thermalDemand (slot code rail : Nat)
  /-- STAGGER (R337). -/
  | stagger
  /-- SCALAR_ACCESS_COMPLETION (R117, R118, R133, R134). -/
  | scalarAccessCompletion
  /-- BOOST_DEMAND (R333). -/
  | boostDemand (code : Nat)
  /-- HOST_STOPS_THE_JOB (R107). -/
  | hostStopsTheJob (prio : Bool)
  deriving DecidableEq, Repr

end Sys2Proof
end

