-- ==== Sys2Proof/WellFormed.lean ====
section
/-! DEFINITION. Which field values a word may hold (R47, R51 and the entries), and which arguments an event may carry.
A word outside these is an illegal word (R52, check 3). -/

namespace Sys2Proof

/-- A 6-bit field that names p0 to p7 (R47). -/
def isPred (f : BitVec 6) : Bool := decide (f.toNat < 8)

/-- A 4-bit field that names p0 to p7 (R132, R194). -/
def isPred4 (f : BitVec 4) : Bool := decide (f.toNat < 8)

/-- A 6-bit field that names h0 to h15 (R175). -/
def isHandle (f : BitVec 6) : Bool := decide (f.toNat < 16)

/-- A T-format field that names q0 to q11 (R47). -/
def isPort (f : BitVec 4) : Bool := decide (f.toNat < 12)

/-- A predicate select: 0, or 8 + k (R174). -/
def isPredSel (f : BitVec 4) : Bool := f == 0 || decide (8 ≤ f.toNat)

/-- An even register number, as the pair forms ask (R114, R303). -/
def isEven (f : BitVec 6) : Bool := f.extractLsb' 0 1 == 0

/-- A plain access has SCOPE 00 (R116). -/
def ordPlainOk (ord : BitVec 4) : Bool := ord.extractLsb' 0 2 != 0 || ord.extractLsb' 2 2 == 0

/-- An atomic takes a word or a doubleword (R301). -/
def atomSizeOk (sz : BitVec 2) : Bool := decide (2 ≤ sz.toNat)

/-- The handle fields that HADD accepts: BASE, EXT0 to EXT3, STR1 to STR3 (R175). -/
def hfieldAddable (fld : BitVec 4) : Bool := fld == 0 || decide (3 ≤ fld.toNat ∧ fld.toNat ≤ 9)

/-- The CSR numbers of Table 3-4 (R58). -/
def csrKnown (csr : BitVec 12) : Bool :=
  [0x000, 0x001, 0x002, 0x008, 0x009, 0x00A, 0x00B, 0x010, 0x011, 0x012, 0x013, 0x014, 0x015, 0x016, 0x018, 0x019,
   0x020, 0x021, 0x022, 0x028, 0x029, 0x02A, 0x02B, 0x02C, 0x02D, 0x030].contains csr.toNat

/-- The operand rules of each row: R47, R51 and the row's own entry for a word; slot, queue and code ranges for an
event (R9, R98, R333). -/
def Instr.wf : Instr → Bool
  | .atTick _ => true
  | .rpt _ _ _ _ => true
  | .add _ _ _ _ => true
  | .sub _ _ _ _ => true
  | .and _ _ _ _ => true
  | .or _ _ _ _ => true
  | .xor _ _ _ _ => true
  | .andn _ _ _ _ => true
  | .sll _ _ _ _ => true
  | .srl _ _ _ _ => true
  | .sra _ _ _ _ => true
  | .slt _ _ _ _ => true
  | .sltu _ _ _ _ => true
  | .min _ _ _ _ => true
  | .max _ _ _ _ => true
  | .minu _ _ _ _ => true
  | .maxu _ _ _ _ => true
  | .clz _ _ _ => true
  | .ctz _ _ _ => true
  | .popc _ _ _ => true
  | .sel _ _ _ _ c => isPred c
  | .addi _ _ _ _ => true
  | .andi _ _ _ _ => true
  | .ori _ _ _ _ => true
  | .xori _ _ _ _ => true
  | .slli _ _ _ imm => decide (imm.toNat < 64)
  | .srli _ _ _ imm => decide (imm.toNat < 64)
  | .srai _ _ _ imm => decide (imm.toNat < 64)
  | .slti _ _ _ _ => true
  | .addhi _ _ _ _ => true
  | .addpch _ _ _ => true
  | .movhi _ _ _ _ => true
  | .cmpEq _ d _ _ => isPred d
  | .cmpNe _ d _ _ => isPred d
  | .cmpLt _ d _ _ => isPred d
  | .cmpGe _ d _ _ => isPred d
  | .cmpLtu _ d _ _ => isPred d
  | .cmpGeu _ d _ _ => isPred d
  | .cmpTst _ d _ _ => isPred d
  | .cmpNtst _ d _ _ => isPred d
  | .pand _ d a b => isPred d && isPred a && isPred b
  | .por _ d a b => isPred d && isPred a && isPred b
  | .pxor _ d a b => isPred d && isPred a && isPred b
  | .pandn _ d a b => isPred d && isPred a && isPred b
  | .pnot _ d a => isPred d && isPred a
  | .prd _ _ => true
  | .pwr _ _ => true
  | .mul _ _ _ _ => true
  | .mulw _ d _ _ => isEven d
  | .mulwu _ d _ _ => isEven d
  | .mulwsu _ d _ _ => isEven d
  | .div _ _ _ _ => true
  | .divu _ _ _ _ => true
  | .divrem _ d _ _ => isEven d
  | .divremu _ d _ _ => isEven d
  | .ld _ _ _ _ ord _ => ordPlainOk ord && ord.extractLsb' 1 1 == 0
  | .ldu _ _ _ sz ord _ => sz != 3 && ordPlainOk ord && ord.extractLsb' 1 1 == 0
  | .st _ _ _ _ ord _ => ordPlainOk ord && ord.extractLsb' 0 1 == 0
  | .ldx _ _ _ _ _ => true
  | .ldxu _ _ _ _ sz => sz != 3
  | .stx _ _ _ _ _ => true
  | .csrr _ _ csr => csrKnown csr
  | .csrw _ _ _ csr => csrKnown csr
  | .csrs _ _ _ csr => csrKnown csr
  | .csrc _ _ _ csr => csrKnown csr
  | .beq _ _ _ _ => true
  | .bne _ _ _ _ => true
  | .blt _ _ _ _ => true
  | .bge _ _ _ _ => true
  | .bltu _ _ _ _ => true
  | .bgeu _ _ _ _ => true
  | .bra _ _ => true
  | .jal _ _ _ => true
  | .jalr _ _ _ _ => true
  | .ret _ _ => true
  | .nop _ => true
  | .loop _ _ _ => true
  | .endStrand _ => true
  | .halt _ _ => true
  | .trap _ _ => true
  | .eret _ => true
  | .hget _ _ a fld => isHandle a && decide (fld.toNat < 12)
  | .hset _ d _ fld => isHandle d && decide (fld.toNat < 12)
  | .hadd _ d _ fld => isHandle d && hfieldAddable fld
  | .hcpy _ d a => isHandle d && isHandle a
  | .hclr _ d => isHandle d
  | .hld _ d _ ord _ => isHandle d && ordPlainOk ord && ord.extractLsb' 1 1 == 0
  | .hst _ d _ ord _ => isHandle d && ordPlainOk ord && ord.extractLsb' 0 1 == 0
  | .pbind _ d _ => isPort d
  | .psave _ d _ => isPort d
  | .prest _ d _ => isPort d
  | .punbind _ d => isPort d
  | .seminit t _ => t.sw == 0 && t.sr != 0
  | .semwait t d => isPred4 d && t.sw != 0
  | .sempost t n => n != 0 && t.sr != 0
  | .semrot t _ => t.sw == 0 && t.sr == 0
  | .semtest t d _ => isPred4 d && t.sw == 0 && t.sr != 0
  | .zst _ d _ _ => isPred d
  | .cpy _ _ _ c => isPredSel c
  | .cpym _ _ _ c => isPredSel c
  | .close _ => true
  | .cwait _ _ => true
  | .lctxR _ _ _ _ => true
  | .lctxS _ _ _ => true
  | .lopen _ _ _ _ => true
  | .lpush _ _ _ => true
  | .lclose _ _ => true
  | .lstat _ _ _ => true
  | .gath _ _ _ b c => isPort b && isPredSel c
  | .scat _ _ _ b c => isPort b && isPredSel c
  | .scatadd _ _ _ b c => isPort b && isPredSel c
  | .frenew _ _ c => isPredSel c
  | .flife _ _ _ => true
  | .fchk _ d _ => isPred4 d
  | .fbirth _ _ _ => true
  | .mma _ _ _ fa _ fb _ => isPort fa && isPort fb
  | .mmaw _ _ _ w fa _ fb _ => isPort fa && isPort fb && isPort w
  | .mdrain _ _ _ d => isPort d
  | .mzero _ _ => true
  | .msum _ _ _ f _ _ => isPort f
  | .mscale _ d => isPort d
  | .mmode _ _ => true
  | .mstat _ _ => true
  | .mrailUp _ => true
  | .mrailDn _ => true
  | .vadd _ d a b => isPort d && isPort a && isPort b
  | .vsub _ d a b => isPort d && isPort a && isPort b
  | .vmul _ d a b => isPort d && isPort a && isPort b
  | .vmin _ d a b => isPort d && isPort a && isPort b
  | .vmax _ d a b => isPort d && isPort a && isPort b
  | .vqadd _ d a b => isPort d && isPort a && isPort b
  | .vqsub _ d a b => isPort d && isPort a && isPort b
  | .vqmul _ d a b => isPort d && isPort a && isPort b
  | .vfma _ d a b c => isPort d && isPort a && isPort b && isPort c
  | .vfms _ d a b c => isPort d && isPort a && isPort b && isPort c
  | .vfnma _ d a b c => isPort d && isPort a && isPort b && isPort c
  | .vabs _ d a => isPort d && isPort a
  | .vneg _ d a => isPort d && isPort a
  | .vmov _ d a => isPort d && isPort a
  | .vadds _ d a _ => isPort d && isPort a
  | .vmuls _ d a _ => isPort d && isPort a
  | .vaxpb _ d a _ _ => isPort d && isPort a
  | .vand _ d a b => isPort d && isPort a && isPort b
  | .vor _ d a b => isPort d && isPort a && isPort b
  | .vxor _ d a b => isPort d && isPort a && isPort b
  | .vandn _ d a b => isPort d && isPort a && isPort b
  | .vshl _ d a _ => isPort d && isPort a
  | .vshr _ d a _ => isPort d && isPort a
  | .vcmpEq _ d a b => isPort d && isPort a && isPort b
  | .vcmpNe _ d a b => isPort d && isPort a && isPort b
  | .vcmpLt _ d a b => isPort d && isPort a && isPort b
  | .vcmpLe _ d a b => isPort d && isPort a && isPort b
  | .vcmpGt _ d a b => isPort d && isPort a && isPort b
  | .vcmpGe _ d a b => isPort d && isPort a && isPort b
  | .vsel _ d a b c => isPort d && isPort a && isPort b && isPort c
  | .vcvt _ d a _ _ => isPort d && isPort a
  | .vquant _ d a _ => isPort d && isPort a
  | .vdequant _ d a => isPort d && isPort a
  | .vredAdd _ d a => isPort d && isPort a
  | .vredMax _ d a => isPort d && isPort a
  | .vredMin _ d a => isPort d && isPort a
  | .vredxAdd _ _ a => isPort a
  | .vredxMax _ _ a => isPort a
  | .vredxMin _ _ a => isPort a
  | .vscanAdd _ d a => isPort d && isPort a
  | .vscanMax _ d a => isPort d && isPort a
  | .vscanMin _ d a => isPort d && isPort a
  | .vtopk _ d b a _ => isPort d && isPort a && isPort b
  | .vexp2 _ d a => isPort d && isPort a
  | .vlog2 _ d a => isPort d && isPort a
  | .vrcp _ d a => isPort d && isPort a
  | .vrsqrt _ d a => isPort d && isPort a
  | .vtanh _ d a => isPort d && isPort a
  | .vperm _ d a b => isPort d && isPort a && isPort b
  | .vsplat _ d _ => isPort d
  | .viota _ d _ => isPort d
  | .vextr _ _ a _ => isPort a
  | .vrandU _ d _ _ => isPort d
  | .vrandB _ d _ _ => isPort d
  | .spup _ _ _ _ => true
  | .spdn _ _ _ _ => true
  | .spmode _ _ _ _ => true
  | .spshape _ _ _ => true
  | .splist _ _ _ => true
  | .spld _ _ _ => true
  | .spldCvt _ _ _ => true
  | .spst _ _ _ => true
  | .spstCvt _ _ _ => true
  | .spnorm _ _ _ _ => true
  | .spsync _ sw sr => sw != 0 || sr != 0
  | .spclr _ _ _ => true
  | .fence _ scope pre suc => decide (scope.toNat < 5) && pre != 0 && suc != 0
  | .rdv g _ => g.hold == 0
  | .ssend _ => true
  | .commit g _ => g.hold == 0
  | .foldadd _ _ _ sz ord _ => atomSizeOk sz && ordPlainOk ord && ord.extractLsb' 0 1 == 0
  | .foldand _ _ _ sz ord _ => atomSizeOk sz && ordPlainOk ord && ord.extractLsb' 0 1 == 0
  | .foldor _ _ _ sz ord _ => atomSizeOk sz && ordPlainOk ord && ord.extractLsb' 0 1 == 0
  | .foldxor _ _ _ sz ord _ => atomSizeOk sz && ordPlainOk ord && ord.extractLsb' 0 1 == 0
  | .foldmin _ _ _ sz ord _ => atomSizeOk sz && ordPlainOk ord && ord.extractLsb' 0 1 == 0
  | .foldmax _ _ _ sz ord _ => atomSizeOk sz && ordPlainOk ord && ord.extractLsb' 0 1 == 0
  | .foldminu _ _ _ sz ord _ => atomSizeOk sz && ordPlainOk ord && ord.extractLsb' 0 1 == 0
  | .foldmaxu _ _ _ sz ord _ => atomSizeOk sz && ordPlainOk ord && ord.extractLsb' 0 1 == 0
  | .foldfadd _ _ _ sz ord _ => atomSizeOk sz && sz == 2 && ordPlainOk ord && ord.extractLsb' 0 1 == 0
  | .foldfmin _ _ _ sz ord _ => atomSizeOk sz && sz == 2 && ordPlainOk ord && ord.extractLsb' 0 1 == 0
  | .foldfmax _ _ _ sz ord _ => atomSizeOk sz && sz == 2 && ordPlainOk ord && ord.extractLsb' 0 1 == 0
  | .takeadd _ _ _ sz ord _ => atomSizeOk sz && ordPlainOk ord
  | .takeand _ _ _ sz ord _ => atomSizeOk sz && ordPlainOk ord
  | .takeor _ _ _ sz ord _ => atomSizeOk sz && ordPlainOk ord
  | .takexor _ _ _ sz ord _ => atomSizeOk sz && ordPlainOk ord
  | .takemin _ _ _ sz ord _ => atomSizeOk sz && ordPlainOk ord
  | .takemax _ _ _ sz ord _ => atomSizeOk sz && ordPlainOk ord
  | .takeminu _ _ _ sz ord _ => atomSizeOk sz && ordPlainOk ord
  | .takemaxu _ _ _ sz ord _ => atomSizeOk sz && ordPlainOk ord
  | .takefadd _ _ _ sz ord _ => atomSizeOk sz && sz == 2 && ordPlainOk ord
  | .trade _ _ _ sz ord _ => atomSizeOk sz && ordPlainOk ord
  | .ctrade _ d _ sz ord _ => atomSizeOk sz && ordPlainOk ord && isEven d
  | .baskPref _ _ => true
  | .railStepStands slot cluster => decide (slot < 21 ∧ cluster < 4)
  | .syncEngineAtomicApply slot => decide (slot < 21)
  | .engineDispatch queue => decide (queue < 6)
  | .engineWordCompletion _ => true
  | .blockFetchComplete => true
  | .trapEntry => true
  | .linkSegmentLanding _ => true
  | .linkSegmentAdmit _ => true
  | .dieWindowAccess _ fromSlot _ _ => decide (fromSlot < 21)
  | .tileExpiry slot tile => decide (slot < 21 ∧ tile < 24576)
  | .tileBusyWindowEnd slot tile => decide (slot < 21 ∧ tile < 24576)
  | .rendezvousCheck _ => true
  | .rendezvousCommit _ => true
  | .lockRendezvous _ => true
  | .superstepAbort _ => true
  | .uncorrectableMemoryError slot _ _ _ => decide (slot < 21)
  | .linkFailure slotA slotB => decide (slotA < 21 ∧ slotB < 21)
  | .jobRetirement _ => true
  | .launch _ link => link == 19 || link == 20
  | .priorityLaunchSwapIn => true
  | .priorityLaunchSwapBack => true
  | .rerunRequest _ => true
  | .rerunStart => true
  | .hostBar2Access _ link _ _ => link == 19 || link == 20
  | .hostRegisterWrite _ _ => true
  | .packageReset => true
  | .firmwareReady _ => true
  | .firmwareUpdate _ => true
  | .controlIntervalBoundary => true
  | .currentLimitDemand slot code _ => decide (slot < 21 ∧ 65 ≤ code ∧ code ≤ 128)
  | .thermalDemand slot code _ => decide (slot < 21 ∧ 65 ≤ code ∧ code ≤ 128)
  | .stagger => true
  | .scalarAccessCompletion => true
  | .boostDemand code => decide (56 ≤ code ∧ code ≤ 63)
  | .hostStopsTheJob _ => true

/-- The events: rows of the table that no strand's text holds. -/
def Instr.isEvent : Instr → Bool
  | .railStepStands _ _ => true
  | .syncEngineAtomicApply _ => true
  | .engineDispatch _ => true
  | .engineWordCompletion _ => true
  | .blockFetchComplete => true
  | .trapEntry => true
  | .linkSegmentLanding _ => true
  | .linkSegmentAdmit _ => true
  | .dieWindowAccess _ _ _ _ => true
  | .tileExpiry _ _ => true
  | .tileBusyWindowEnd _ _ => true
  | .rendezvousCheck _ => true
  | .rendezvousCommit _ => true
  | .lockRendezvous _ => true
  | .superstepAbort _ => true
  | .uncorrectableMemoryError _ _ _ _ => true
  | .linkFailure _ _ => true
  | .jobRetirement _ => true
  | .launch _ _ => true
  | .priorityLaunchSwapIn => true
  | .priorityLaunchSwapBack => true
  | .rerunRequest _ => true
  | .rerunStart => true
  | .hostBar2Access _ _ _ _ => true
  | .hostRegisterWrite _ _ => true
  | .packageReset => true
  | .firmwareReady _ => true
  | .firmwareUpdate _ => true
  | .controlIntervalBoundary => true
  | .currentLimitDemand _ _ _ => true
  | .thermalDemand _ _ _ => true
  | .stagger => true
  | .scalarAccessCompletion => true
  | .boostDemand _ => true
  | .hostStopsTheJob _ => true
  | _ => false

end Sys2Proof
end

