-- ==== Sys2Proof/Word.lean ====
section
/-! DEFINITION. The machine's word types. -/

namespace Sys2Proof

/-- A byte of memory. -/
abbrev Byte := BitVec 8

/-- A scalar register, an address or a CSR value (R57, R108). -/
abbrev Word := BitVec 64

/-- A handle record (R143). -/
abbrev HRec := BitVec 256

end Sys2Proof
end

