-- ==== Sys2Proof/Decode.lean ====
section
/-! DEFINITION. From a 48-bit word to an instruction, or the reason it is an illegal word (R44 to R52), and the encoder
that lays a word out again. Every field position is that of Table 3-2; every minor code is that of the row's entry. -/

namespace Sys2Proof

/-- Why a word is an illegal word (R50, R51, R47). -/
inductive DecodeError where
  /-- A reserved MAJ value (R50). -/
  | reservedMajor
  /-- A minor code that no entry defines (R50). -/
  | reservedMinor
  /-- A non-zero reserved or unused field (R51). -/
  | reservedField
  /-- A field value that the entry declares invalid (R47). -/
  | badOperand (i : Instr)
  deriving DecidableEq, Repr

/-- The fields of the R format (R46, Table 3-2). -/
structure FldR where
  c : Ctl
  FN : BitVec 6
  D : BitVec 6
  A : BitVec 6
  B : BitVec 6
  C : BitVec 6
  MOD : BitVec 4
  deriving DecidableEq, Repr

/-- Read the R format out of a word. -/
def FldR.ofWord (w : BitVec 48) : FldR :=
  { c := { pg := w.extractLsb' 38 4, hold := w.extractLsb' 0 4 },
    FN := w.extractLsb' 32 6, D := w.extractLsb' 26 6, A := w.extractLsb' 20 6, B := w.extractLsb' 14 6, C := w.extractLsb' 8 6, MOD := w.extractLsb' 4 4 }

/-- Lay out a word of the R format (R45, R46). -/
def encR (maj : BitVec 6) (c : Ctl) (FN : BitVec 6) (D : BitVec 6) (A : BitVec 6) (B : BitVec 6) (C : BitVec 6) (MOD : BitVec 4) : BitVec 48 :=
  maj ++ c.pg ++ FN ++ D ++ A ++ B ++ C ++ MOD ++ c.hold

/-- The fields of the I format (R46, Table 3-2). -/
structure FldI where
  c : Ctl
  FN : BitVec 2
  D : BitVec 6
  A : BitVec 6
  IMM : BitVec 20
  deriving DecidableEq, Repr

/-- Read the I format out of a word. -/
def FldI.ofWord (w : BitVec 48) : FldI :=
  { c := { pg := w.extractLsb' 38 4, hold := w.extractLsb' 0 4 },
    FN := w.extractLsb' 36 2, D := w.extractLsb' 30 6, A := w.extractLsb' 24 6, IMM := w.extractLsb' 4 20 }

/-- Lay out a word of the I format (R45, R46). -/
def encI (maj : BitVec 6) (c : Ctl) (FN : BitVec 2) (D : BitVec 6) (A : BitVec 6) (IMM : BitVec 20) : BitVec 48 :=
  maj ++ c.pg ++ FN ++ D ++ A ++ IMM ++ c.hold

/-- The fields of the M format (R46, Table 3-2). -/
structure FldM where
  c : Ctl
  FN : BitVec 4
  D : BitVec 6
  A : BitVec 6
  SZ : BitVec 2
  ORD : BitVec 4
  IMM : BitVec 12
  deriving DecidableEq, Repr

/-- Read the M format out of a word. -/
def FldM.ofWord (w : BitVec 48) : FldM :=
  { c := { pg := w.extractLsb' 38 4, hold := w.extractLsb' 0 4 },
    FN := w.extractLsb' 34 4, D := w.extractLsb' 28 6, A := w.extractLsb' 22 6, SZ := w.extractLsb' 20 2, ORD := w.extractLsb' 16 4, IMM := w.extractLsb' 4 12 }

/-- Lay out a word of the M format (R45, R46). -/
def encM (maj : BitVec 6) (c : Ctl) (FN : BitVec 4) (D : BitVec 6) (A : BitVec 6) (SZ : BitVec 2) (ORD : BitVec 4) (IMM : BitVec 12) : BitVec 48 :=
  maj ++ c.pg ++ FN ++ D ++ A ++ SZ ++ ORD ++ IMM ++ c.hold

/-- The fields of the B format (R46, Table 3-2). -/
structure FldB where
  c : Ctl
  FN : BitVec 4
  A : BitVec 6
  B : BitVec 6
  OFF : BitVec 18
  deriving DecidableEq, Repr

/-- Read the B format out of a word. -/
def FldB.ofWord (w : BitVec 48) : FldB :=
  { c := { pg := w.extractLsb' 38 4, hold := w.extractLsb' 0 4 },
    FN := w.extractLsb' 34 4, A := w.extractLsb' 28 6, B := w.extractLsb' 22 6, OFF := w.extractLsb' 4 18 }

/-- Lay out a word of the B format (R45, R46). -/
def encB (maj : BitVec 6) (c : Ctl) (FN : BitVec 4) (A : BitVec 6) (B : BitVec 6) (OFF : BitVec 18) : BitVec 48 :=
  maj ++ c.pg ++ FN ++ A ++ B ++ OFF ++ c.hold

/-- The fields of the U format (R46, Table 3-2). -/
structure FldU where
  c : Ctl
  D : BitVec 6
  IMM : BitVec 28
  deriving DecidableEq, Repr

/-- Read the U format out of a word. -/
def FldU.ofWord (w : BitVec 48) : FldU :=
  { c := { pg := w.extractLsb' 38 4, hold := w.extractLsb' 0 4 },
    D := w.extractLsb' 32 6, IMM := w.extractLsb' 4 28 }

/-- Lay out a word of the U format (R45, R46). -/
def encU (maj : BitVec 6) (c : Ctl) (D : BitVec 6) (IMM : BitVec 28) : BitVec 48 :=
  maj ++ c.pg ++ D ++ IMM ++ c.hold

/-- The fields of the T format (R46, Table 3-2). -/
structure FldT where
  c : TCtl
  FN : BitVec 6
  D : BitVec 4
  A : BitVec 4
  B : BitVec 4
  C : BitVec 4
  deriving DecidableEq, Repr

/-- Read the T format out of a word. -/
def FldT.ofWord (w : BitVec 48) : FldT :=
  { c := { pg := w.extractLsb' 38 4, hold := w.extractLsb' 0 4, sw := w.extractLsb' 10 6, sr := w.extractLsb' 4 6 },
    FN := w.extractLsb' 32 6, D := w.extractLsb' 28 4, A := w.extractLsb' 24 4, B := w.extractLsb' 20 4, C := w.extractLsb' 16 4 }

/-- Lay out a word of the T format (R45, R46). -/
def encT (maj : BitVec 6) (c : TCtl) (FN : BitVec 6) (D : BitVec 4) (A : BitVec 4) (B : BitVec 4) (C : BitVec 4) : BitVec 48 :=
  maj ++ c.pg ++ FN ++ D ++ A ++ B ++ C ++ c.sw ++ c.sr ++ c.hold

/-- The fields of the S format (R46, Table 3-2). -/
structure FldS where
  c : Ctl
  FN : BitVec 6
  SHAPE : BitVec 8
  LIST : BitVec 10
  DEST : BitVec 10
  deriving DecidableEq, Repr

/-- Read the S format out of a word. -/
def FldS.ofWord (w : BitVec 48) : FldS :=
  { c := { pg := w.extractLsb' 38 4, hold := w.extractLsb' 0 4 },
    FN := w.extractLsb' 32 6, SHAPE := w.extractLsb' 24 8, LIST := w.extractLsb' 14 10, DEST := w.extractLsb' 4 10 }

/-- Lay out a word of the S format (R45, R46). -/
def encS (maj : BitVec 6) (c : Ctl) (FN : BitVec 6) (SHAPE : BitVec 8) (LIST : BitVec 10) (DEST : BitVec 10) : BitVec 48 :=
  maj ++ c.pg ++ FN ++ SHAPE ++ LIST ++ DEST ++ c.hold
/-- A word whose reserved fields are zero is the instruction; otherwise it is illegal (R51). -/
def rsv (ok : Bool) (i : Instr) : Except DecodeError Instr :=
  if ok then .ok i else .error .reservedField

/-- MAJ 0x01 (R format). -/
def decode01 (w : BitVec 48) : Except DecodeError Instr :=
  let f := FldR.ofWord w
  match f.FN.toNat with
  | 0 => rsv (f.C == 0 && f.MOD == 0) (.add f.c f.D f.A f.B)
  | 1 => rsv (f.C == 0 && f.MOD == 0) (.sub f.c f.D f.A f.B)
  | 2 => rsv (f.C == 0 && f.MOD == 0) (.and f.c f.D f.A f.B)
  | 3 => rsv (f.C == 0 && f.MOD == 0) (.or f.c f.D f.A f.B)
  | 4 => rsv (f.C == 0 && f.MOD == 0) (.xor f.c f.D f.A f.B)
  | 5 => rsv (f.C == 0 && f.MOD == 0) (.andn f.c f.D f.A f.B)
  | 6 => rsv (f.C == 0 && f.MOD == 0) (.sll f.c f.D f.A f.B)
  | 7 => rsv (f.C == 0 && f.MOD == 0) (.srl f.c f.D f.A f.B)
  | 8 => rsv (f.C == 0 && f.MOD == 0) (.sra f.c f.D f.A f.B)
  | 9 => rsv (f.C == 0 && f.MOD == 0) (.slt f.c f.D f.A f.B)
  | 10 => rsv (f.C == 0 && f.MOD == 0) (.sltu f.c f.D f.A f.B)
  | 11 => rsv (f.C == 0 && f.MOD == 0) (.min f.c f.D f.A f.B)
  | 12 => rsv (f.C == 0 && f.MOD == 0) (.max f.c f.D f.A f.B)
  | 13 => rsv (f.C == 0 && f.MOD == 0) (.minu f.c f.D f.A f.B)
  | 14 => rsv (f.C == 0 && f.MOD == 0) (.maxu f.c f.D f.A f.B)
  | 15 => rsv (f.B == 0 && f.C == 0 && f.MOD == 0) (.clz f.c f.D f.A)
  | 16 => rsv (f.B == 0 && f.C == 0 && f.MOD == 0) (.ctz f.c f.D f.A)
  | 17 => rsv (f.B == 0 && f.C == 0 && f.MOD == 0) (.popc f.c f.D f.A)
  | 18 => rsv (f.MOD == 0) (.sel f.c f.D f.A f.B f.C)
  | _ => .error .reservedMinor

/-- MAJ 0x02 (I format). -/
def decode02 (w : BitVec 48) : Except DecodeError Instr :=
  let f := FldI.ofWord w
  match f.FN.toNat with
  | 0 => rsv (true) (.addi f.c f.D f.A f.IMM)
  | 1 => rsv (true) (.andi f.c f.D f.A f.IMM)
  | 2 => rsv (true) (.ori f.c f.D f.A f.IMM)
  | 3 => rsv (true) (.xori f.c f.D f.A f.IMM)
  | _ => .error .reservedMinor

/-- MAJ 0x03 (I format). -/
def decode03 (w : BitVec 48) : Except DecodeError Instr :=
  let f := FldI.ofWord w
  match f.FN.toNat with
  | 0 => rsv (true) (.slli f.c f.D f.A f.IMM)
  | 1 => rsv (true) (.srli f.c f.D f.A f.IMM)
  | 2 => rsv (true) (.srai f.c f.D f.A f.IMM)
  | 3 => rsv (true) (.slti f.c f.D f.A f.IMM)
  | _ => .error .reservedMinor

/-- MAJ 0x04 (I format). -/
def decode04 (w : BitVec 48) : Except DecodeError Instr :=
  let f := FldI.ofWord w
  match f.FN.toNat with
  | 0 => rsv (true) (.addhi f.c f.D f.A f.IMM)
  | 1 => rsv (f.A == 0) (.addpch f.c f.D f.IMM)
  | 2 => rsv (true) (.movhi f.c f.D f.A f.IMM)
  | _ => .error .reservedMinor

/-- MAJ 0x05 (R format). -/
def decode05 (w : BitVec 48) : Except DecodeError Instr :=
  let f := FldR.ofWord w
  match f.FN.toNat with
  | 0 => rsv (f.C == 0 && f.MOD == 0) (.cmpEq f.c f.D f.A f.B)
  | 1 => rsv (f.C == 0 && f.MOD == 0) (.cmpNe f.c f.D f.A f.B)
  | 2 => rsv (f.C == 0 && f.MOD == 0) (.cmpLt f.c f.D f.A f.B)
  | 3 => rsv (f.C == 0 && f.MOD == 0) (.cmpGe f.c f.D f.A f.B)
  | 4 => rsv (f.C == 0 && f.MOD == 0) (.cmpLtu f.c f.D f.A f.B)
  | 5 => rsv (f.C == 0 && f.MOD == 0) (.cmpGeu f.c f.D f.A f.B)
  | 6 => rsv (f.C == 0 && f.MOD == 0) (.cmpTst f.c f.D f.A f.B)
  | 7 => rsv (f.C == 0 && f.MOD == 0) (.cmpNtst f.c f.D f.A f.B)
  | _ => .error .reservedMinor

/-- MAJ 0x06 (R format). -/
def decode06 (w : BitVec 48) : Except DecodeError Instr :=
  let f := FldR.ofWord w
  match f.FN.toNat with
  | 0 => rsv (f.C == 0 && f.MOD == 0) (.pand f.c f.D f.A f.B)
  | 1 => rsv (f.C == 0 && f.MOD == 0) (.por f.c f.D f.A f.B)
  | 2 => rsv (f.C == 0 && f.MOD == 0) (.pxor f.c f.D f.A f.B)
  | 3 => rsv (f.C == 0 && f.MOD == 0) (.pandn f.c f.D f.A f.B)
  | 4 => rsv (f.B == 0 && f.C == 0 && f.MOD == 0) (.pnot f.c f.D f.A)
  | 5 => rsv (f.A == 0 && f.B == 0 && f.C == 0 && f.MOD == 0) (.prd f.c f.D)
  | 6 => rsv (f.D == 0 && f.B == 0 && f.C == 0 && f.MOD == 0) (.pwr f.c f.A)
  | _ => .error .reservedMinor

/-- MAJ 0x07 (R format). -/
def decode07 (w : BitVec 48) : Except DecodeError Instr :=
  let f := FldR.ofWord w
  match f.FN.toNat with
  | 0 => rsv (f.C == 0 && f.MOD == 0) (.mul f.c f.D f.A f.B)
  | 1 => rsv (f.C == 0 && f.MOD == 0) (.mulw f.c f.D f.A f.B)
  | 2 => rsv (f.C == 0 && f.MOD == 0) (.mulwu f.c f.D f.A f.B)
  | 3 => rsv (f.C == 0 && f.MOD == 0) (.mulwsu f.c f.D f.A f.B)
  | 4 => rsv (f.C == 0 && f.MOD == 0) (.div f.c f.D f.A f.B)
  | 5 => rsv (f.C == 0 && f.MOD == 0) (.divu f.c f.D f.A f.B)
  | 6 => rsv (f.C == 0 && f.MOD == 0) (.divrem f.c f.D f.A f.B)
  | 7 => rsv (f.C == 0 && f.MOD == 0) (.divremu f.c f.D f.A f.B)
  | _ => .error .reservedMinor

/-- MAJ 0x08 (M format). -/
def decode08 (w : BitVec 48) : Except DecodeError Instr :=
  let f := FldM.ofWord w
  match f.FN.toNat with
  | 0 => rsv (true) (.ld f.c f.D f.A f.SZ f.ORD f.IMM)
  | 1 => rsv (true) (.ldu f.c f.D f.A f.SZ f.ORD f.IMM)
  | _ => .error .reservedMinor

/-- MAJ 0x09 (M format). -/
def decode09 (w : BitVec 48) : Except DecodeError Instr :=
  let f := FldM.ofWord w
  match f.FN.toNat with
  | 0 => rsv (true) (.st f.c f.D f.A f.SZ f.ORD f.IMM)
  | _ => .error .reservedMinor

/-- MAJ 0x0A (R format). -/
def decode0A (w : BitVec 48) : Except DecodeError Instr :=
  let f := FldR.ofWord w
  match f.FN.toNat with
  | 0 => rsv (f.C == 0 && f.MOD.extractLsb' 2 2 == 0) (.ldx f.c f.D f.A f.B (f.MOD.extractLsb' 0 2))
  | 1 => rsv (f.C == 0 && f.MOD.extractLsb' 2 2 == 0) (.ldxu f.c f.D f.A f.B (f.MOD.extractLsb' 0 2))
  | 2 => rsv (f.D == 0 && f.MOD.extractLsb' 2 2 == 0) (.stx f.c f.A f.B f.C (f.MOD.extractLsb' 0 2))
  | _ => .error .reservedMinor

/-- MAJ 0x0B (I format). -/
def decode0B (w : BitVec 48) : Except DecodeError Instr :=
  let f := FldI.ofWord w
  match f.FN.toNat with
  | 0 => rsv (f.A == 0 && f.IMM.extractLsb' 12 8 == 0) (.csrr f.c f.D (f.IMM.extractLsb' 0 12))
  | 1 => rsv (f.IMM.extractLsb' 12 8 == 0) (.csrw f.c f.D f.A (f.IMM.extractLsb' 0 12))
  | 2 => rsv (f.IMM.extractLsb' 12 8 == 0) (.csrs f.c f.D f.A (f.IMM.extractLsb' 0 12))
  | 3 => rsv (f.IMM.extractLsb' 12 8 == 0) (.csrc f.c f.D f.A (f.IMM.extractLsb' 0 12))
  | _ => .error .reservedMinor

/-- MAJ 0x0C (B format). -/
def decode0C (w : BitVec 48) : Except DecodeError Instr :=
  let f := FldB.ofWord w
  match f.FN.toNat with
  | 0 => rsv (true) (.beq f.c f.A f.B f.OFF)
  | 1 => rsv (true) (.bne f.c f.A f.B f.OFF)
  | 2 => rsv (true) (.blt f.c f.A f.B f.OFF)
  | 3 => rsv (true) (.bge f.c f.A f.B f.OFF)
  | 4 => rsv (true) (.bltu f.c f.A f.B f.OFF)
  | 5 => rsv (true) (.bgeu f.c f.A f.B f.OFF)
  | 6 => rsv (f.A == 0 && f.B == 0) (.bra f.c f.OFF)
  | _ => .error .reservedMinor

/-- MAJ 0x0D (U format). -/
def decode0D (w : BitVec 48) : Except DecodeError Instr :=
  let f := FldU.ofWord w
  rsv (true) (.jal f.c f.D f.IMM)

/-- MAJ 0x0E (I format). -/
def decode0E (w : BitVec 48) : Except DecodeError Instr :=
  let f := FldI.ofWord w
  match f.FN.toNat with
  | 0 => rsv (true) (.jalr f.c f.D f.A f.IMM)
  | 1 => rsv (f.D == 0 && f.IMM == 0) (.ret f.c f.A)
  | _ => .error .reservedMinor

/-- MAJ 0x0F (R format). -/
def decode0F (w : BitVec 48) : Except DecodeError Instr :=
  let f := FldR.ofWord w
  match f.FN.toNat with
  | 0 => rsv (f.D == 0 && f.A == 0 && f.B == 0 && f.C == 0 && f.MOD == 0) (.nop f.c)
  | 1 => rsv (f.B == 0 && f.C == 0 && f.MOD == 0) (.loop f.c f.D f.A)
  | 2 => rsv (f.D == 0 && f.A == 0 && f.B == 0 && f.C == 0 && f.MOD == 0) (.endStrand f.c)
  | 3 => rsv (f.D == 0 && f.B == 0 && f.C == 0 && f.MOD == 0) (.halt f.c f.A)
  | _ => .error .reservedMinor

/-- MAJ 0x10 (R format). -/
def decode10 (w : BitVec 48) : Except DecodeError Instr :=
  let f := FldR.ofWord w
  match f.FN.toNat with
  | 0 => rsv (f.B == 0 && f.C == 0) (.hget f.c f.D f.A f.MOD)
  | 1 => rsv (f.B == 0 && f.C == 0) (.hset f.c f.D f.A f.MOD)
  | 2 => rsv (f.B == 0 && f.C == 0) (.hadd f.c f.D f.A f.MOD)
  | 3 => rsv (f.B == 0 && f.C == 0 && f.MOD == 0) (.hcpy f.c f.D f.A)
  | 4 => rsv (f.A == 0 && f.B == 0 && f.C == 0 && f.MOD == 0) (.hclr f.c f.D)
  | _ => .error .reservedMinor

/-- MAJ 0x11 (M format). -/
def decode11 (w : BitVec 48) : Except DecodeError Instr :=
  let f := FldM.ofWord w
  match f.FN.toNat with
  | 0 => rsv (f.SZ == 0) (.hld f.c f.D f.A f.ORD f.IMM)
  | 1 => rsv (f.SZ == 0) (.hst f.c f.D f.A f.ORD f.IMM)
  | _ => .error .reservedMinor

/-- MAJ 0x12 (T format). -/
def decode12 (w : BitVec 48) : Except DecodeError Instr :=
  let f := FldT.ofWord w
  match f.FN.toNat with
  | 0 => rsv (f.B == 0 && f.C == 0) (.pbind f.c f.D f.A)
  | 1 => rsv (f.B == 0 && f.C == 0) (.psave f.c f.D f.A)
  | 2 => rsv (f.B == 0 && f.C == 0) (.prest f.c f.D f.A)
  | 3 => rsv (f.A == 0 && f.B == 0 && f.C == 0) (.punbind f.c f.D)
  | _ => .error .reservedMinor

/-- MAJ 0x14 (T format). -/
def decode14 (w : BitVec 48) : Except DecodeError Instr :=
  let f := FldT.ofWord w
  match f.FN.toNat with
  | 0 => rsv (true) (.seminit f.c (f.D ++ f.A ++ f.B ++ f.C))
  | 1 => rsv (f.A == 0 && f.B == 0 && f.C == 0) (.semwait f.c f.D)
  | 2 => rsv (true) (.sempost f.c (f.D ++ f.A ++ f.B ++ f.C))
  | 3 => rsv (f.D == 0 && f.A == 0 && f.B.extractLsb' 1 3 == 0) (.semrot f.c ((f.B.extractLsb' 0 1) ++ f.C))
  | 4 => rsv (true) (.semtest f.c f.D (f.A ++ f.B ++ f.C))
  | _ => .error .reservedMinor

/-- MAJ 0x15 (I format). -/
def decode15 (w : BitVec 48) : Except DecodeError Instr :=
  let f := FldI.ofWord w
  match f.FN.toNat with
  | 0 => rsv (f.A == 0) (.fence f.c f.D (f.IMM.extractLsb' 0 10) (f.IMM.extractLsb' 10 10))
  | _ => .error .reservedMinor

/-- MAJ 0x16 (R format). -/
def decode16 (w : BitVec 48) : Except DecodeError Instr :=
  let f := FldR.ofWord w
  match f.FN.toNat with
  | 0 => rsv (f.MOD == 0) (.rdv f.c (f.D ++ f.A ++ f.B ++ f.C))
  | 1 => rsv (f.D == 0 && f.A == 0 && f.B == 0 && f.C == 0 && f.MOD == 0) (.ssend f.c)
  | 2 => rsv (f.MOD == 0) (.commit f.c (f.D ++ f.A ++ f.B ++ f.C))
  | _ => .error .reservedMinor

/-- MAJ 0x18 (M format). -/
def decode18 (w : BitVec 48) : Except DecodeError Instr :=
  let f := FldM.ofWord w
  match f.FN.toNat with
  | 0 => rsv (true) (.foldadd f.c f.D f.A f.SZ f.ORD f.IMM)
  | 1 => rsv (true) (.foldand f.c f.D f.A f.SZ f.ORD f.IMM)
  | 2 => rsv (true) (.foldor f.c f.D f.A f.SZ f.ORD f.IMM)
  | 3 => rsv (true) (.foldxor f.c f.D f.A f.SZ f.ORD f.IMM)
  | 4 => rsv (true) (.foldmin f.c f.D f.A f.SZ f.ORD f.IMM)
  | 5 => rsv (true) (.foldmax f.c f.D f.A f.SZ f.ORD f.IMM)
  | 6 => rsv (true) (.foldminu f.c f.D f.A f.SZ f.ORD f.IMM)
  | 7 => rsv (true) (.foldmaxu f.c f.D f.A f.SZ f.ORD f.IMM)
  | 8 => rsv (true) (.foldfadd f.c f.D f.A f.SZ f.ORD f.IMM)
  | 9 => rsv (true) (.foldfmin f.c f.D f.A f.SZ f.ORD f.IMM)
  | 10 => rsv (true) (.foldfmax f.c f.D f.A f.SZ f.ORD f.IMM)
  | _ => .error .reservedMinor

/-- MAJ 0x19 (M format). -/
def decode19 (w : BitVec 48) : Except DecodeError Instr :=
  let f := FldM.ofWord w
  match f.FN.toNat with
  | 0 => rsv (true) (.takeadd f.c f.D f.A f.SZ f.ORD f.IMM)
  | 1 => rsv (true) (.takeand f.c f.D f.A f.SZ f.ORD f.IMM)
  | 2 => rsv (true) (.takeor f.c f.D f.A f.SZ f.ORD f.IMM)
  | 3 => rsv (true) (.takexor f.c f.D f.A f.SZ f.ORD f.IMM)
  | 4 => rsv (true) (.takemin f.c f.D f.A f.SZ f.ORD f.IMM)
  | 5 => rsv (true) (.takemax f.c f.D f.A f.SZ f.ORD f.IMM)
  | 6 => rsv (true) (.takeminu f.c f.D f.A f.SZ f.ORD f.IMM)
  | 7 => rsv (true) (.takemaxu f.c f.D f.A f.SZ f.ORD f.IMM)
  | 8 => rsv (true) (.takefadd f.c f.D f.A f.SZ f.ORD f.IMM)
  | 9 => rsv (true) (.trade f.c f.D f.A f.SZ f.ORD f.IMM)
  | 10 => rsv (true) (.ctrade f.c f.D f.A f.SZ f.ORD f.IMM)
  | _ => .error .reservedMinor

/-- MAJ 0x1C (R format). -/
def decode1C (w : BitVec 48) : Except DecodeError Instr :=
  let f := FldR.ofWord w
  match f.FN.toNat with
  | 0 => rsv (f.D == 0 && f.A == 0 && f.MOD == 0) (.trap f.c (f.B ++ f.C))
  | 1 => rsv (f.D == 0 && f.A == 0 && f.B == 0 && f.C == 0 && f.MOD == 0) (.eret f.c)
  | _ => .error .reservedMinor

/-- MAJ 0x1D (M format). -/
def decode1D (w : BitVec 48) : Except DecodeError Instr :=
  let f := FldM.ofWord w
  match f.FN.toNat with
  | 0 => rsv (f.SZ == 3 && f.ORD == 0) (.zst f.c f.D f.A f.IMM)
  | _ => .error .reservedMinor

/-- MAJ 0x1E (R format). -/
def decode1E (w : BitVec 48) : Except DecodeError Instr :=
  let f := FldR.ofWord w
  match f.FN.toNat with
  | 0 => if f.MOD == 1 then rsv (f.D == 0 && f.A == 0 && f.B == 0 && f.C == 0) (.mrailUp f.c) else rsv (f.D == 0 && f.A == 0 && f.B == 0 && f.C == 0 && f.MOD == 0) (.mrailDn f.c)
  | 1 => rsv (f.D == 0 && f.A == 0 && f.B == 0 && f.C == 0 && f.MOD.extractLsb' 2 2 == 0) (.baskPref f.c (f.MOD.extractLsb' 0 2))
  | _ => .error .reservedMinor

/-- MAJ 0x20 (T format). -/
def decode20 (w : BitVec 48) : Except DecodeError Instr :=
  let f := FldT.ofWord w
  if f.FN.extractLsb' 2 4 == 0 then rsv (true) (.mma f.c (f.FN.extractLsb' 0 1) (f.FN.extractLsb' 1 1) f.D f.A f.B f.C) else .error .reservedMinor

/-- MAJ 0x21 (T format). -/
def decode21 (w : BitVec 48) : Except DecodeError Instr :=
  let f := FldT.ofWord w
  rsv (true) (.mmaw f.c (f.FN.extractLsb' 0 1) (f.FN.extractLsb' 1 1) (f.FN.extractLsb' 2 4) f.D f.A f.B f.C)

/-- MAJ 0x22 (T format). -/
def decode22 (w : BitVec 48) : Except DecodeError Instr :=
  let f := FldT.ofWord w
  if f.FN.extractLsb' 2 4 == 0 then rsv (f.A == 0 && f.B == 0 && f.C == 0) (.mdrain f.c (f.FN.extractLsb' 0 1) (f.FN.extractLsb' 1 1) f.D) else .error .reservedMinor

/-- MAJ 0x23 (T format). -/
def decode23 (w : BitVec 48) : Except DecodeError Instr :=
  let f := FldT.ofWord w
  match f.FN.toNat with
  | 0 | 1 => rsv (f.D == 0 && f.A == 0 && f.B == 0 && f.C == 0) (.mzero f.c (f.FN.extractLsb' 0 1))
  | 4 | 5 | 6 | 7 => rsv (f.B == 0) (.msum f.c (f.FN.extractLsb' 0 1) (f.FN.extractLsb' 1 1) f.D f.A f.C)
  | 8 => rsv (f.A == 0 && f.B == 0 && f.C == 0) (.mscale f.c f.D)
  | 9 => rsv (f.D == 0 && f.A == 0 && f.B == 0) (.mmode f.c f.C)
  | 10 => rsv (f.A == 0 && f.B == 0 && f.C == 0) (.mstat f.c f.D)
  | _ => .error .reservedMinor

/-- MAJ 0x28 (T format). -/
def decode28 (w : BitVec 48) : Except DecodeError Instr :=
  let f := FldT.ofWord w
  match f.FN.toNat with
  | 0 => rsv (f.C == 0) (.vadd f.c f.D f.A f.B)
  | 1 => rsv (f.C == 0) (.vsub f.c f.D f.A f.B)
  | 2 => rsv (f.C == 0) (.vmul f.c f.D f.A f.B)
  | 3 => rsv (f.C == 0) (.vmin f.c f.D f.A f.B)
  | 4 => rsv (f.C == 0) (.vmax f.c f.D f.A f.B)
  | 5 => rsv (f.C == 0) (.vqadd f.c f.D f.A f.B)
  | 6 => rsv (f.C == 0) (.vqsub f.c f.D f.A f.B)
  | 7 => rsv (f.C == 0) (.vqmul f.c f.D f.A f.B)
  | 8 => rsv (true) (.vfma f.c f.D f.A f.B f.C)
  | 9 => rsv (true) (.vfms f.c f.D f.A f.B f.C)
  | 10 => rsv (true) (.vfnma f.c f.D f.A f.B f.C)
  | 11 => rsv (f.B == 0 && f.C == 0) (.vabs f.c f.D f.A)
  | 12 => rsv (f.B == 0 && f.C == 0) (.vneg f.c f.D f.A)
  | 13 => rsv (f.B == 0 && f.C == 0) (.vmov f.c f.D f.A)
  | 14 => rsv (f.B == 0) (.vadds f.c f.D f.A f.C)
  | 15 => rsv (f.B == 0) (.vmuls f.c f.D f.A f.C)
  | 16 => rsv (true) (.vaxpb f.c f.D f.A f.B f.C)
  | 17 => rsv (f.C == 0) (.vand f.c f.D f.A f.B)
  | 18 => rsv (f.C == 0) (.vor f.c f.D f.A f.B)
  | 19 => rsv (f.C == 0) (.vxor f.c f.D f.A f.B)
  | 20 => rsv (f.C == 0) (.vandn f.c f.D f.A f.B)
  | 21 => rsv (f.B == 0) (.vshl f.c f.D f.A f.C)
  | 22 => rsv (f.B == 0) (.vshr f.c f.D f.A f.C)
  | 24 => rsv (f.C == 0) (.vcmpEq f.c f.D f.A f.B)
  | 25 => rsv (f.C == 0) (.vcmpNe f.c f.D f.A f.B)
  | 26 => rsv (f.C == 0) (.vcmpLt f.c f.D f.A f.B)
  | 27 => rsv (f.C == 0) (.vcmpLe f.c f.D f.A f.B)
  | 28 => rsv (f.C == 0) (.vcmpGt f.c f.D f.A f.B)
  | 29 => rsv (f.C == 0) (.vcmpGe f.c f.D f.A f.B)
  | 30 => rsv (true) (.vsel f.c f.D f.A f.B f.C)
  | _ => .error .reservedMinor

/-- MAJ 0x29 (T format). -/
def decode29 (w : BitVec 48) : Except DecodeError Instr :=
  let f := FldT.ofWord w
  match f.FN.toNat with
  | 0 => rsv (f.B == 0 && f.C.extractLsb' 3 1 == 0) (.vcvt f.c f.D f.A (f.C.extractLsb' 2 1) (f.C.extractLsb' 0 2))
  | 1 => rsv (f.B == 0) (.vquant f.c f.D f.A f.C)
  | 2 => rsv (f.B == 0 && f.C == 0) (.vdequant f.c f.D f.A)
  | _ => .error .reservedMinor

/-- MAJ 0x2A (T format). -/
def decode2A (w : BitVec 48) : Except DecodeError Instr :=
  let f := FldT.ofWord w
  match f.FN.toNat with
  | 0 => rsv (f.B == 0 && f.C == 0) (.vredAdd f.c f.D f.A)
  | 1 => rsv (f.B == 0 && f.C == 0) (.vredMax f.c f.D f.A)
  | 2 => rsv (f.B == 0 && f.C == 0) (.vredMin f.c f.D f.A)
  | 4 => rsv (f.B == 0 && f.C == 0) (.vredxAdd f.c f.D f.A)
  | 5 => rsv (f.B == 0 && f.C == 0) (.vredxMax f.c f.D f.A)
  | 6 => rsv (f.B == 0 && f.C == 0) (.vredxMin f.c f.D f.A)
  | 8 => rsv (f.B == 0 && f.C == 0) (.vscanAdd f.c f.D f.A)
  | 9 => rsv (f.B == 0 && f.C == 0) (.vscanMax f.c f.D f.A)
  | 10 => rsv (f.B == 0 && f.C == 0) (.vscanMin f.c f.D f.A)
  | 12 => rsv (true) (.vtopk f.c f.D f.B f.A f.C)
  | _ => .error .reservedMinor

/-- MAJ 0x2B (T format). -/
def decode2B (w : BitVec 48) : Except DecodeError Instr :=
  let f := FldT.ofWord w
  match f.FN.toNat with
  | 0 => rsv (f.B == 0 && f.C == 0) (.vexp2 f.c f.D f.A)
  | 1 => rsv (f.B == 0 && f.C == 0) (.vlog2 f.c f.D f.A)
  | 2 => rsv (f.B == 0 && f.C == 0) (.vrcp f.c f.D f.A)
  | 3 => rsv (f.B == 0 && f.C == 0) (.vrsqrt f.c f.D f.A)
  | 4 => rsv (f.B == 0 && f.C == 0) (.vtanh f.c f.D f.A)
  | _ => .error .reservedMinor

/-- MAJ 0x2C (T format). -/
def decode2C (w : BitVec 48) : Except DecodeError Instr :=
  let f := FldT.ofWord w
  match f.FN.toNat with
  | 0 => rsv (f.C == 0) (.vperm f.c f.D f.A f.B)
  | 1 => rsv (f.A == 0 && f.B == 0) (.vsplat f.c f.D f.C)
  | 2 => rsv (f.A == 0 && f.B == 0) (.viota f.c f.D f.C)
  | 3 => rsv (f.B == 0) (.vextr f.c f.D f.A f.C)
  | 4 => rsv (f.A == 0) (.vrandU f.c f.D f.B f.C)
  | 5 => rsv (f.A == 0) (.vrandB f.c f.D f.B f.C)
  | _ => .error .reservedMinor

/-- MAJ 0x30 (T format). -/
def decode30 (w : BitVec 48) : Except DecodeError Instr :=
  let f := FldT.ofWord w
  match f.FN.toNat with
  | 0 => rsv (f.B == 0) (.cpy f.c f.D f.A f.C)
  | 1 => rsv (f.B == 0) (.cpym f.c f.D f.A f.C)
  | 2 => rsv (f.D == 0 && f.A == 0 && f.B == 0 && f.C == 0) (.close f.c)
  | 3 => rsv (f.A == 0 && f.B == 0 && f.C == 0) (.cwait f.c f.D)
  | _ => .error .reservedMinor

/-- MAJ 0x31 (T format). -/
def decode31 (w : BitVec 48) : Except DecodeError Instr :=
  let f := FldT.ofWord w
  match f.FN.toNat with
  | 0 => rsv (true) (.lctxR f.c (f.D ++ f.A) f.B f.C)
  | 1 => rsv (f.B == 0) (.lctxS f.c (f.D ++ f.A) f.C)
  | 2 => rsv (true) (.lopen f.c (f.D ++ f.A) f.B f.C)
  | 3 => rsv (f.C == 0) (.lpush f.c (f.D ++ f.A) f.B)
  | 4 => rsv (f.B == 0 && f.C == 0) (.lclose f.c (f.D ++ f.A))
  | 5 => rsv (f.C == 0) (.lstat f.c (f.D ++ f.A) f.B)
  | _ => .error .reservedMinor

/-- MAJ 0x32 (T format). -/
def decode32 (w : BitVec 48) : Except DecodeError Instr :=
  let f := FldT.ofWord w
  match f.FN.toNat with
  | 0 => rsv (true) (.gath f.c f.D f.A f.B f.C)
  | 1 => rsv (true) (.scat f.c f.D f.A f.B f.C)
  | 2 => rsv (true) (.scatadd f.c f.D f.A f.B f.C)
  | _ => .error .reservedMinor

/-- MAJ 0x34 (T format). -/
def decode34 (w : BitVec 48) : Except DecodeError Instr :=
  let f := FldT.ofWord w
  match f.FN.toNat with
  | 0 => rsv (f.D == 0 && f.B == 0) (.frenew f.c f.A f.C)
  | 1 => rsv (f.B == 0 && f.C == 0) (.flife f.c f.D f.A)
  | 2 => rsv (f.B == 0 && f.C == 0) (.fchk f.c f.D f.A)
  | 3 => rsv (f.B == 0 && f.C == 0) (.fbirth f.c f.D f.A)
  | _ => .error .reservedMinor

/-- MAJ 0x38 (S format). -/
def decode38 (w : BitVec 48) : Except DecodeError Instr :=
  let f := FldS.ofWord w
  match f.FN.toNat with
  | 0 => rsv (true) (.spup f.c f.SHAPE f.LIST f.DEST)
  | 1 => rsv (true) (.spdn f.c f.SHAPE f.LIST f.DEST)
  | _ => .error .reservedMinor

/-- MAJ 0x39 (S format). -/
def decode39 (w : BitVec 48) : Except DecodeError Instr :=
  let f := FldS.ofWord w
  match f.FN.toNat with
  | 0 => rsv (f.SHAPE.extractLsb' 2 6 == 0 && f.LIST == 0) (.spmode f.c (f.SHAPE.extractLsb' 0 1) (f.SHAPE.extractLsb' 1 1) f.DEST)
  | 1 => rsv (f.LIST == 0 && f.DEST.extractLsb' 4 6 == 0) (.spshape f.c f.SHAPE (f.DEST.extractLsb' 0 4))
  | 2 => rsv (f.SHAPE == 0 && f.DEST.extractLsb' 4 6 == 0) (.splist f.c f.LIST (f.DEST.extractLsb' 0 4))
  | 3 => rsv (f.SHAPE.extractLsb' 4 4 == 0 && f.LIST == 0) (.spld f.c (f.SHAPE.extractLsb' 0 4) f.DEST)
  | 4 => rsv (f.SHAPE.extractLsb' 4 4 == 0 && f.LIST == 0) (.spldCvt f.c (f.SHAPE.extractLsb' 0 4) f.DEST)
  | 5 => rsv (f.SHAPE.extractLsb' 4 4 == 0 && f.LIST == 0) (.spst f.c (f.SHAPE.extractLsb' 0 4) f.DEST)
  | 6 => rsv (f.SHAPE.extractLsb' 4 4 == 0 && f.LIST == 0) (.spstCvt f.c (f.SHAPE.extractLsb' 0 4) f.DEST)
  | 7 => rsv (true) (.spnorm f.c f.SHAPE f.LIST f.DEST)
  | 8 => rsv (f.SHAPE.extractLsb' 6 2 == 0 && f.LIST == 0 && f.DEST.extractLsb' 6 4 == 0) (.spsync f.c (f.SHAPE.extractLsb' 0 6) (f.DEST.extractLsb' 0 6))
  | 9 => rsv (f.SHAPE == 0) (.spclr f.c f.LIST f.DEST)
  | _ => .error .reservedMinor

/-- The prefixes under MAJ 0x3F: FN6 0x00 is AT in the U format, FN6 0x01 is RPT in the R format (R46, R54 to R56). -/
def decode3F (w : BitVec 48) : Except DecodeError Instr :=
  let f := FldR.ofWord w
  match f.FN.toNat with
  | 0 => rsv (f.c.pg == 0 && f.c.hold == 0) (.atTick (w.extractLsb' 4 28))
  | 1 => rsv (f.c.pg == 0 && f.c.hold == 0 && f.MOD == 0 && f.A.extractLsb' 3 3 == 0 && f.B.extractLsb' 3 3 == 0
           && f.C.extractLsb' 3 3 == 0)
           (.rpt f.D (f.A.extractLsb' 0 3) (f.B.extractLsb' 0 3) (f.C.extractLsb' 0 3))
  | _ => .error .reservedMinor

/-- Read the fields of a word by its MAJ (Table 3-3). -/
def decodeFields (w : BitVec 48) : Except DecodeError Instr :=
  match (w.extractLsb' 42 6).toNat with
  | 1 => decode01 w
  | 2 => decode02 w
  | 3 => decode03 w
  | 4 => decode04 w
  | 5 => decode05 w
  | 6 => decode06 w
  | 7 => decode07 w
  | 8 => decode08 w
  | 9 => decode09 w
  | 10 => decode0A w
  | 11 => decode0B w
  | 12 => decode0C w
  | 13 => decode0D w
  | 14 => decode0E w
  | 15 => decode0F w
  | 16 => decode10 w
  | 17 => decode11 w
  | 18 => decode12 w
  | 20 => decode14 w
  | 21 => decode15 w
  | 22 => decode16 w
  | 24 => decode18 w
  | 25 => decode19 w
  | 28 => decode1C w
  | 29 => decode1D w
  | 30 => decode1E w
  | 32 => decode20 w
  | 33 => decode21 w
  | 34 => decode22 w
  | 35 => decode23 w
  | 40 => decode28 w
  | 41 => decode29 w
  | 42 => decode2A w
  | 43 => decode2B w
  | 44 => decode2C w
  | 48 => decode30 w
  | 49 => decode31 w
  | 50 => decode32 w
  | 52 => decode34 w
  | 56 => decode38 w
  | 57 => decode39 w
  | 63 => decode3F w
  | _ => .error .reservedMajor

/-- Decode one word: total, and every failure named (R50 to R52). -/
def decode (w : BitVec 48) : Except DecodeError Instr :=
  match decodeFields w with
  | .error e => .error e
  | .ok i => if i.wf then .ok i else .error (.badOperand i)

/-- The word of an instruction, from the encoding line of its entry. An event has no word. -/
def encode : Instr → BitVec 48
  | .atTick imm => 63#6 ++ 0#4 ++ 0#6 ++ imm ++ 0#4
  | .rpt count sd sa sb => encR 63#6 ⟨0, 0⟩ 1#6 count (0#3 ++ sd) (0#3 ++ sa) (0#3 ++ sb) 0#4
  | .add g d a b => encR 1#6 g 0#6 d a b 0#6 0#4
  | .sub g d a b => encR 1#6 g 1#6 d a b 0#6 0#4
  | .and g d a b => encR 1#6 g 2#6 d a b 0#6 0#4
  | .or g d a b => encR 1#6 g 3#6 d a b 0#6 0#4
  | .xor g d a b => encR 1#6 g 4#6 d a b 0#6 0#4
  | .andn g d a b => encR 1#6 g 5#6 d a b 0#6 0#4
  | .sll g d a b => encR 1#6 g 6#6 d a b 0#6 0#4
  | .srl g d a b => encR 1#6 g 7#6 d a b 0#6 0#4
  | .sra g d a b => encR 1#6 g 8#6 d a b 0#6 0#4
  | .slt g d a b => encR 1#6 g 9#6 d a b 0#6 0#4
  | .sltu g d a b => encR 1#6 g 10#6 d a b 0#6 0#4
  | .min g d a b => encR 1#6 g 11#6 d a b 0#6 0#4
  | .max g d a b => encR 1#6 g 12#6 d a b 0#6 0#4
  | .minu g d a b => encR 1#6 g 13#6 d a b 0#6 0#4
  | .maxu g d a b => encR 1#6 g 14#6 d a b 0#6 0#4
  | .clz g d a => encR 1#6 g 15#6 d a 0#6 0#6 0#4
  | .ctz g d a => encR 1#6 g 16#6 d a 0#6 0#6 0#4
  | .popc g d a => encR 1#6 g 17#6 d a 0#6 0#6 0#4
  | .sel g d a b c => encR 1#6 g 18#6 d a b c 0#4
  | .addi g d a imm => encI 2#6 g 0#2 d a imm
  | .andi g d a imm => encI 2#6 g 1#2 d a imm
  | .ori g d a imm => encI 2#6 g 2#2 d a imm
  | .xori g d a imm => encI 2#6 g 3#2 d a imm
  | .slli g d a imm => encI 3#6 g 0#2 d a imm
  | .srli g d a imm => encI 3#6 g 1#2 d a imm
  | .srai g d a imm => encI 3#6 g 2#2 d a imm
  | .slti g d a imm => encI 3#6 g 3#2 d a imm
  | .addhi g d a imm => encI 4#6 g 0#2 d a imm
  | .addpch g d imm => encI 4#6 g 1#2 d 0#6 imm
  | .movhi g d a imm => encI 4#6 g 2#2 d a imm
  | .cmpEq g d a b => encR 5#6 g 0#6 d a b 0#6 0#4
  | .cmpNe g d a b => encR 5#6 g 1#6 d a b 0#6 0#4
  | .cmpLt g d a b => encR 5#6 g 2#6 d a b 0#6 0#4
  | .cmpGe g d a b => encR 5#6 g 3#6 d a b 0#6 0#4
  | .cmpLtu g d a b => encR 5#6 g 4#6 d a b 0#6 0#4
  | .cmpGeu g d a b => encR 5#6 g 5#6 d a b 0#6 0#4
  | .cmpTst g d a b => encR 5#6 g 6#6 d a b 0#6 0#4
  | .cmpNtst g d a b => encR 5#6 g 7#6 d a b 0#6 0#4
  | .pand g d a b => encR 6#6 g 0#6 d a b 0#6 0#4
  | .por g d a b => encR 6#6 g 1#6 d a b 0#6 0#4
  | .pxor g d a b => encR 6#6 g 2#6 d a b 0#6 0#4
  | .pandn g d a b => encR 6#6 g 3#6 d a b 0#6 0#4
  | .pnot g d a => encR 6#6 g 4#6 d a 0#6 0#6 0#4
  | .prd g d => encR 6#6 g 5#6 d 0#6 0#6 0#6 0#4
  | .pwr g a => encR 6#6 g 6#6 0#6 a 0#6 0#6 0#4
  | .mul g d a b => encR 7#6 g 0#6 d a b 0#6 0#4
  | .mulw g d a b => encR 7#6 g 1#6 d a b 0#6 0#4
  | .mulwu g d a b => encR 7#6 g 2#6 d a b 0#6 0#4
  | .mulwsu g d a b => encR 7#6 g 3#6 d a b 0#6 0#4
  | .div g d a b => encR 7#6 g 4#6 d a b 0#6 0#4
  | .divu g d a b => encR 7#6 g 5#6 d a b 0#6 0#4
  | .divrem g d a b => encR 7#6 g 6#6 d a b 0#6 0#4
  | .divremu g d a b => encR 7#6 g 7#6 d a b 0#6 0#4
  | .ld g d a sz ord imm => encM 8#6 g 0#4 d a sz ord imm
  | .ldu g d a sz ord imm => encM 8#6 g 1#4 d a sz ord imm
  | .st g d a sz ord imm => encM 9#6 g 0#4 d a sz ord imm
  | .ldx g d a b sz => encR 10#6 g 0#6 d a b 0#6 (0b00#2 ++ sz)
  | .ldxu g d a b sz => encR 10#6 g 1#6 d a b 0#6 (0b00#2 ++ sz)
  | .stx g a b c sz => encR 10#6 g 2#6 0#6 a b c (0b00#2 ++ sz)
  | .csrr g d csr => encI 11#6 g 0#2 d 0#6 (0#8 ++ csr)
  | .csrw g d a csr => encI 11#6 g 1#2 d a (0#8 ++ csr)
  | .csrs g d a csr => encI 11#6 g 2#2 d a (0#8 ++ csr)
  | .csrc g d a csr => encI 11#6 g 3#2 d a (0#8 ++ csr)
  | .beq g a b off => encB 12#6 g 0#4 a b off
  | .bne g a b off => encB 12#6 g 1#4 a b off
  | .blt g a b off => encB 12#6 g 2#4 a b off
  | .bge g a b off => encB 12#6 g 3#4 a b off
  | .bltu g a b off => encB 12#6 g 4#4 a b off
  | .bgeu g a b off => encB 12#6 g 5#4 a b off
  | .bra g off => encB 12#6 g 6#4 0#6 0#6 off
  | .jal g d imm => encU 13#6 g d imm
  | .jalr g d a imm => encI 14#6 g 0#2 d a imm
  | .ret g a => encI 14#6 g 1#2 0#6 a 0#20
  | .nop g => encR 15#6 g 0#6 0#6 0#6 0#6 0#6 0#4
  | .loop g n a => encR 15#6 g 1#6 n a 0#6 0#6 0#4
  | .endStrand g => encR 15#6 g 2#6 0#6 0#6 0#6 0#6 0#4
  | .halt g a => encR 15#6 g 3#6 0#6 a 0#6 0#6 0#4
  | .trap g code => encR 28#6 g 0#6 0#6 0#6 (code.extractLsb' 6 6) (code.extractLsb' 0 6) 0#4
  | .eret g => encR 28#6 g 1#6 0#6 0#6 0#6 0#6 0#4
  | .hget g d a fld => encR 16#6 g 0#6 d a 0#6 0#6 fld
  | .hset g d a fld => encR 16#6 g 1#6 d a 0#6 0#6 fld
  | .hadd g d a fld => encR 16#6 g 2#6 d a 0#6 0#6 fld
  | .hcpy g d a => encR 16#6 g 3#6 d a 0#6 0#6 0#4
  | .hclr g d => encR 16#6 g 4#6 d 0#6 0#6 0#6 0#4
  | .hld g d a ord imm => encM 17#6 g 0#4 d a 0#2 ord imm
  | .hst g d a ord imm => encM 17#6 g 1#4 d a 0#2 ord imm
  | .pbind t d a => encT 18#6 t 0#6 d a 0#4 0#4
  | .psave t d a => encT 18#6 t 1#6 d a 0#4 0#4
  | .prest t d a => encT 18#6 t 2#6 d a 0#4 0#4
  | .punbind t d => encT 18#6 t 3#6 d 0#4 0#4 0#4
  | .seminit t n => encT 20#6 t 0#6 (n.extractLsb' 12 4) (n.extractLsb' 8 4) (n.extractLsb' 4 4) (n.extractLsb' 0 4)
  | .semwait t d => encT 20#6 t 1#6 d 0#4 0#4 0#4
  | .sempost t n => encT 20#6 t 2#6 (n.extractLsb' 12 4) (n.extractLsb' 8 4) (n.extractLsb' 4 4) (n.extractLsb' 0 4)
  | .semrot t k => encT 20#6 t 3#6 0#4 0#4 (0#3 ++ k.extractLsb' 4 1) (k.extractLsb' 0 4)
  | .semtest t d n => encT 20#6 t 4#6 d (n.extractLsb' 8 4) (n.extractLsb' 4 4) (n.extractLsb' 0 4)
  | .zst g d a imm => encM 29#6 g 0#4 d a 0b11#2 0#4 imm
  | .cpy t d a c => encT 48#6 t 0#6 d a 0#4 c
  | .cpym t d a c => encT 48#6 t 1#6 d a 0#4 c
  | .close t => encT 48#6 t 2#6 0#4 0#4 0#4 0#4
  | .cwait t n => encT 48#6 t 3#6 n 0#4 0#4 0#4
  | .lctxR t ctx b c => encT 49#6 t 0#6 (ctx.extractLsb' 4 4) (ctx.extractLsb' 0 4) b c
  | .lctxS t ctx c => encT 49#6 t 1#6 (ctx.extractLsb' 4 4) (ctx.extractLsb' 0 4) 0#4 c
  | .lopen t ctx b c => encT 49#6 t 2#6 (ctx.extractLsb' 4 4) (ctx.extractLsb' 0 4) b c
  | .lpush t ctx b => encT 49#6 t 3#6 (ctx.extractLsb' 4 4) (ctx.extractLsb' 0 4) b 0#4
  | .lclose t ctx => encT 49#6 t 4#6 (ctx.extractLsb' 4 4) (ctx.extractLsb' 0 4) 0#4 0#4
  | .lstat t ctx b => encT 49#6 t 5#6 (ctx.extractLsb' 4 4) (ctx.extractLsb' 0 4) b 0#4
  | .gath t d a b c => encT 50#6 t 0#6 d a b c
  | .scat t d a b c => encT 50#6 t 1#6 d a b c
  | .scatadd t d a b c => encT 50#6 t 2#6 d a b c
  | .frenew t a c => encT 52#6 t 0#6 0#4 a 0#4 c
  | .flife t d a => encT 52#6 t 1#6 d a 0#4 0#4
  | .fchk t d a => encT 52#6 t 2#6 d a 0#4 0#4
  | .fbirth t d a => encT 52#6 t 3#6 d a 0#4 0#4
  | .mma t bank init fa ga fb gb => encT 32#6 t (0b0000#4 ++ init ++ bank) fa ga fb gb
  | .mmaw t bank init w fa ga fb gb => encT 33#6 t (w ++ init ++ bank) fa ga fb gb
  | .mdrain t bank zero d => encT 34#6 t (0b0000#4 ++ zero ++ bank) d 0#4 0#4 0#4
  | .mzero t bank => encT 35#6 t (0b00000#5 ++ bank) 0#4 0#4 0#4 0#4
  | .msum t bank side f gm c => encT 35#6 t (0b0001#4 ++ side ++ bank) f gm 0#4 c
  | .mscale t d => encT 35#6 t 8#6 d 0#4 0#4 0#4
  | .mmode t c => encT 35#6 t 9#6 0#4 0#4 0#4 c
  | .mstat t d => encT 35#6 t 10#6 d 0#4 0#4 0#4
  | .mrailUp g => encR 30#6 g 0#6 0#6 0#6 0#6 0#6 0b0001#4
  | .mrailDn g => encR 30#6 g 0#6 0#6 0#6 0#6 0#6 0b0000#4
  | .vadd t d a b => encT 40#6 t 0#6 d a b 0#4
  | .vsub t d a b => encT 40#6 t 1#6 d a b 0#4
  | .vmul t d a b => encT 40#6 t 2#6 d a b 0#4
  | .vmin t d a b => encT 40#6 t 3#6 d a b 0#4
  | .vmax t d a b => encT 40#6 t 4#6 d a b 0#4
  | .vqadd t d a b => encT 40#6 t 5#6 d a b 0#4
  | .vqsub t d a b => encT 40#6 t 6#6 d a b 0#4
  | .vqmul t d a b => encT 40#6 t 7#6 d a b 0#4
  | .vfma t d a b c => encT 40#6 t 8#6 d a b c
  | .vfms t d a b c => encT 40#6 t 9#6 d a b c
  | .vfnma t d a b c => encT 40#6 t 10#6 d a b c
  | .vabs t d a => encT 40#6 t 11#6 d a 0#4 0#4
  | .vneg t d a => encT 40#6 t 12#6 d a 0#4 0#4
  | .vmov t d a => encT 40#6 t 13#6 d a 0#4 0#4
  | .vadds t d a c => encT 40#6 t 14#6 d a 0#4 c
  | .vmuls t d a c => encT 40#6 t 15#6 d a 0#4 c
  | .vaxpb t d a b c => encT 40#6 t 16#6 d a b c
  | .vand t d a b => encT 40#6 t 17#6 d a b 0#4
  | .vor t d a b => encT 40#6 t 18#6 d a b 0#4
  | .vxor t d a b => encT 40#6 t 19#6 d a b 0#4
  | .vandn t d a b => encT 40#6 t 20#6 d a b 0#4
  | .vshl t d a c => encT 40#6 t 21#6 d a 0#4 c
  | .vshr t d a c => encT 40#6 t 22#6 d a 0#4 c
  | .vcmpEq t d a b => encT 40#6 t 24#6 d a b 0#4
  | .vcmpNe t d a b => encT 40#6 t 25#6 d a b 0#4
  | .vcmpLt t d a b => encT 40#6 t 26#6 d a b 0#4
  | .vcmpLe t d a b => encT 40#6 t 27#6 d a b 0#4
  | .vcmpGt t d a b => encT 40#6 t 28#6 d a b 0#4
  | .vcmpGe t d a b => encT 40#6 t 29#6 d a b 0#4
  | .vsel t d a b c => encT 40#6 t 30#6 d a b c
  | .vcvt t d a sat rm => encT 41#6 t 0#6 d a 0#4 (0b0#1 ++ sat ++ rm)
  | .vquant t d a c => encT 41#6 t 1#6 d a 0#4 c
  | .vdequant t d a => encT 41#6 t 2#6 d a 0#4 0#4
  | .vredAdd t d a => encT 42#6 t 0#6 d a 0#4 0#4
  | .vredMax t d a => encT 42#6 t 1#6 d a 0#4 0#4
  | .vredMin t d a => encT 42#6 t 2#6 d a 0#4 0#4
  | .vredxAdd t d a => encT 42#6 t 4#6 d a 0#4 0#4
  | .vredxMax t d a => encT 42#6 t 5#6 d a 0#4 0#4
  | .vredxMin t d a => encT 42#6 t 6#6 d a 0#4 0#4
  | .vscanAdd t d a => encT 42#6 t 8#6 d a 0#4 0#4
  | .vscanMax t d a => encT 42#6 t 9#6 d a 0#4 0#4
  | .vscanMin t d a => encT 42#6 t 10#6 d a 0#4 0#4
  | .vtopk t d b a c => encT 42#6 t 12#6 d a b c
  | .vexp2 t d a => encT 43#6 t 0#6 d a 0#4 0#4
  | .vlog2 t d a => encT 43#6 t 1#6 d a 0#4 0#4
  | .vrcp t d a => encT 43#6 t 2#6 d a 0#4 0#4
  | .vrsqrt t d a => encT 43#6 t 3#6 d a 0#4 0#4
  | .vtanh t d a => encT 43#6 t 4#6 d a 0#4 0#4
  | .vperm t d a b => encT 44#6 t 0#6 d a b 0#4
  | .vsplat t d c => encT 44#6 t 1#6 d 0#4 0#4 c
  | .viota t d c => encT 44#6 t 2#6 d 0#4 0#4 c
  | .vextr t d a c => encT 44#6 t 3#6 d a 0#4 c
  | .vrandU t d b c => encT 44#6 t 4#6 d 0#4 b c
  | .vrandB t d b c => encT 44#6 t 5#6 d 0#4 b c
  | .spup g shape list dest => encS 56#6 g 0#6 shape list dest
  | .spdn g shape list dest => encS 56#6 g 1#6 shape list dest
  | .spmode g fp mx goff => encS 57#6 g 0#6 (0#6 ++ mx ++ fp) 0#10 goff
  | .spshape g shape h => encS 57#6 g 1#6 shape 0#10 (0#6 ++ h)
  | .splist g list h => encS 57#6 g 2#6 0#8 list (0#6 ++ h)
  | .spld g h dest => encS 57#6 g 3#6 (0#4 ++ h) 0#10 dest
  | .spldCvt g h dest => encS 57#6 g 4#6 (0#4 ++ h) 0#10 dest
  | .spst g h dest => encS 57#6 g 5#6 (0#4 ++ h) 0#10 dest
  | .spstCvt g h dest => encS 57#6 g 6#6 (0#4 ++ h) 0#10 dest
  | .spnorm g shape list dest => encS 57#6 g 7#6 shape list dest
  | .spsync g sw sr => encS 57#6 g 8#6 (0#2 ++ sw) 0#10 (0#4 ++ sr)
  | .spclr g n dest => encS 57#6 g 9#6 0#8 n dest
  | .fence g scope pre suc => encI 21#6 g 0#2 scope 0#6 (suc ++ pre)
  | .rdv g tick => encR 22#6 g 0#6 (tick.extractLsb' 18 6) (tick.extractLsb' 12 6) (tick.extractLsb' 6 6) (tick.extractLsb' 0 6) 0#4
  | .ssend g => encR 22#6 g 1#6 0#6 0#6 0#6 0#6 0#4
  | .commit g tick => encR 22#6 g 2#6 (tick.extractLsb' 18 6) (tick.extractLsb' 12 6) (tick.extractLsb' 6 6) (tick.extractLsb' 0 6) 0#4
  | .foldadd g d a sz ord imm => encM 24#6 g 0#4 d a sz ord imm
  | .foldand g d a sz ord imm => encM 24#6 g 1#4 d a sz ord imm
  | .foldor g d a sz ord imm => encM 24#6 g 2#4 d a sz ord imm
  | .foldxor g d a sz ord imm => encM 24#6 g 3#4 d a sz ord imm
  | .foldmin g d a sz ord imm => encM 24#6 g 4#4 d a sz ord imm
  | .foldmax g d a sz ord imm => encM 24#6 g 5#4 d a sz ord imm
  | .foldminu g d a sz ord imm => encM 24#6 g 6#4 d a sz ord imm
  | .foldmaxu g d a sz ord imm => encM 24#6 g 7#4 d a sz ord imm
  | .foldfadd g d a sz ord imm => encM 24#6 g 8#4 d a sz ord imm
  | .foldfmin g d a sz ord imm => encM 24#6 g 9#4 d a sz ord imm
  | .foldfmax g d a sz ord imm => encM 24#6 g 10#4 d a sz ord imm
  | .takeadd g d a sz ord imm => encM 25#6 g 0#4 d a sz ord imm
  | .takeand g d a sz ord imm => encM 25#6 g 1#4 d a sz ord imm
  | .takeor g d a sz ord imm => encM 25#6 g 2#4 d a sz ord imm
  | .takexor g d a sz ord imm => encM 25#6 g 3#4 d a sz ord imm
  | .takemin g d a sz ord imm => encM 25#6 g 4#4 d a sz ord imm
  | .takemax g d a sz ord imm => encM 25#6 g 5#4 d a sz ord imm
  | .takeminu g d a sz ord imm => encM 25#6 g 6#4 d a sz ord imm
  | .takemaxu g d a sz ord imm => encM 25#6 g 7#4 d a sz ord imm
  | .takefadd g d a sz ord imm => encM 25#6 g 8#4 d a sz ord imm
  | .trade g d a sz ord imm => encM 25#6 g 9#4 d a sz ord imm
  | .ctrade g d a sz ord imm => encM 25#6 g 10#4 d a sz ord imm
  | .baskPref g mask => encR 30#6 g 1#6 0#6 0#6 0#6 0#6 (0b00#2 ++ mask)
  | _ => 0

/-- Whether MAJ is one of the reserved values of R50. -/
def majReserved (maj : Nat) : Bool :=
  maj == 0 || [0x13, 0x17, 0x1A, 0x1B, 0x1F, 0x24, 0x25, 0x26, 0x27, 0x2D, 0x2E, 0x2F, 0x33, 0x35, 0x36, 0x37, 0x3A,
    0x3B, 0x3C, 0x3D, 0x3E].contains maj

/-- The bytes of a word, little-endian (R44). -/
def wordBytes (w : BitVec 48) : List Byte :=
  [w.extractLsb' 0 8, w.extractLsb' 8 8, w.extractLsb' 16 8, w.extractLsb' 24 8, w.extractLsb' 32 8, w.extractLsb' 40 8]

/-- A word from its six bytes, little-endian (R44). -/
def wordOfBytes (b : List Byte) : BitVec 48 :=
  b.getD 5 0 ++ b.getD 4 0 ++ b.getD 3 0 ++ b.getD 2 0 ++ b.getD 1 0 ++ b.getD 0 0

/-- The instruction that the decoder reads from an instruction whose bits are `w`, bit 0 the least significant bit of
the word (every word is 48 bits, R44). DESIGN CHOICE (notes/assumptions/20.md). -/
def decodeTableWord (nbits w : Nat) : Option Instr :=
  match decode (wordOfBytes (wordBytes (BitVec.ofNat 48 (w % 2 ^ nbits)))) with
  | .ok i => some i
  | .error _ => none

end Sys2Proof
end

