-- ==== Sys2Proof/Config.lean ====
section
/-! DEFINITION. The values that the manual leaves open, as constants without a body, and fixed figures.
Nothing in Lean can evaluate an opaque constant here, so no claim rests on its value (notes/assumptions/2.md, 3.md). -/

namespace Sys2Proof.Config

/-- What a register reads before its producer's latency bound has passed (R5, R95, R343): a free value for each
issued word and each register. DESIGN CHOICE (notes/assumptions/2.md). DEDUCED (notes/assumptions/32.md). -/
opaque undefReg : Nat → Nat → Word

/-- What z2 reads: the hottest junction temperature of a cluster, by slot, cell and sample (Table 7-10).
DESIGN CHOICE (notes/assumptions/2.md, 33.md). -/
opaque junctionTemp : Nat → Nat → Nat → Word

/-- The fixed SRAM rail less 250 mV, in units of 0.25 mV: the lowest level of a logic rail (R331).
DESIGN CHOICE (notes/assumptions/2.md, 40.md). -/
opaque railFloor : Nat

/-- The base level that the power controller chooses for a cluster where no throttle asks for one, by the control interval and
slot * 4 + cluster, in units of 0.25 mV above `railFloor` (R331). The model takes it modulo 1351.
DESIGN CHOICE (notes/assumptions/2.md, 40.md). -/
opaque baseRail : Nat → Nat → Nat

/-- The draw of the package over a control interval that its work would make at a period code, in mW (R334): by the interval and
the code. DESIGN CHOICE (notes/assumptions/2.md, 40.md). -/
opaque workDraw : Nat → Nat → Nat

/-- How many idle engines bask at a tick of an interval in which basking runs: by the interval and the tick (R334, R335).
DESIGN CHOICE (notes/assumptions/2.md, 40.md). -/
opaque baskEngines : Nat → Nat → Nat

/-- The base level that the current-limit demand of the ramp rule asks for, by the interval (R333, R334).
DESIGN CHOICE (notes/assumptions/2.md, 40.md). -/
opaque rampRail : Nat → Nat

/-- What z5 reads: the sequencer's own oscillator, by slot, cell and sample (Table 7-10).
DESIGN CHOICE (notes/assumptions/2.md, 33.md). -/
opaque oscillator : Nat → Nat → Nat → Word

/-- The errors corrected since the last sample of z6, as the counts of Table 7-11, by slot, cell and sample.
DESIGN CHOICE (notes/assumptions/2.md). -/
opaque correctedErrors : Nat → Nat → Nat → BitVec 48

/-- What z7 reads: the hardware entropy source, a fresh value for each sample (Table 7-10).
DESIGN CHOICE (notes/assumptions/2.md). -/
opaque entropy : Nat → Word

/-- The K-step sum of an integer block pair whose exact sum is not an integer (R39, R195): a free value for each dispatched
word and each element and K-step of it. DESIGN CHOICE (notes/assumptions/2.md). DEDUCED (notes/assumptions/14.md). -/
opaque openSum : Nat → Nat → Int

/-- The native text that the translator makes of one FSF strand record (R87 to R89): from the digest of the object, the
class, the stepping and EMASK, which are the key of the translation cache, and where the record lies: its section and its
offset. None when the record's operands break their native entries' rules for every split. Strip lengths, ports, semaphores
and ticks are the translator's choice. DESIGN CHOICE (notes/assumptions/2.md, 22.md). -/
opaque fsfText : BitVec 256 → Nat → Nat → Word → Nat → Nat → Option (List Byte)

/-- Where the loader's page table puts what the relocation strand reads and writes, by the load and which of it: the records, the
symbols, the work area, the section list (R138). DESIGN CHOICE (notes/assumptions/2.md, 21.md). -/
opaque loaderAddr : Nat → Nat → Word

/-- The VDIE that the report of an abort shows for an error of a BD to which no virtual die is bound, by its tick (R310, Table 22-6).
DESIGN CHOICE (notes/assumptions/2.md, 34.md). -/
opaque unboundVdie : Nat → BitVec 5

/-- What DETAIL records of a STAGGER message that came too late (R337), by its tick.
DESIGN CHOICE (notes/assumptions/2.md, 34.md). -/
opaque lateStagger : Nat → Word

/-- The ticks that a fetch of a non-resident block takes, by the tick at which it starts, the cell and the block: at most
240, and not fixed (R92). DESIGN CHOICE (notes/assumptions/2.md, 3.md). -/
opaque fetchTicks : Nat → Nat → Word → Fin 241

/-- The ticks after their landing at which the segments that a receive setup accepts are performed: at most 16 (R189).
DESIGN CHOICE (notes/assumptions/2.md, 3.md). -/
opaque landTicks : Nat → Fin 17

/-- How many ticks before its bound a store may be performed: by slot, cell, place in the strand's order and bound (R118).
A store is never performed before it issues. DESIGN CHOICE (notes/assumptions/2.md, 3.md). -/
opaque storeLead : Nat → Nat → Nat → Nat → Nat

/-- The ticks after a_k at which a copy reads segment k of a source that is not the cell's own: for a drawn number and the
segment (R181). The model takes it modulo ρ + 1. DESIGN CHOICE (notes/assumptions/3.md).
DESIGN CHOICE (notes/assumptions/2.md). -/
opaque readLag : Nat → Nat → Nat

/-- The ticks by which a copy writes segment k before the latest tick of R181, unless both sides are the cell's own.
DESIGN CHOICE (notes/assumptions/3.md). DESIGN CHOICE (notes/assumptions/2.md). -/
opaque writeLead : Nat → Nat → Nat

/-- One less than the ticks after a request at which a cluster's step stands: by slot, cluster and the request's tick; at most 2048 (R207, R218).
DESIGN CHOICE (notes/assumptions/2.md, 3.md). -/
opaque railTicks : Nat → Nat → Nat → Fin 2048

/-- The commit lead Λ (R295). -/
def commitLead : Nat := 96

/-- Architectural retention of a fleeting tile, in ticks (Table 10-1). -/
def retention : Int := 1048576

end Sys2Proof.Config
end

