-- ==== Sys2Proof/Machine/Work.lean ====
section
/-! DEFINITION. What a dispatched engine word holds while it runs, as plain data: the reads of the step it is in, the writes
that wait for their ticks, and the counters by which its family finds its next step. -/

namespace Sys2Proof.Machine

/-- Sparse data by number, in rising order of number, listing no entry equal to the default (Sparse.lean). -/
abbrev SMap (α : Type) := List (Nat × α)

/-- The value of an element: (-1)^neg × m × 2^e, an infinity, or a NaN. -/
inductive Num where
  | nan
  | inf (neg : Bool)
  | fin (neg : Bool) (m : Nat) (e : Int)
  deriving DecidableEq, Repr

/-- What a reduction has seen: the exact value so far (none before the first lane of a maximum or minimum), whether it saw
a NaN, and infinities of either sign. -/
structure RedAcc where
  val : Option Num := none
  nan : Bool := false
  pinf : Bool := false
  ninf : Bool := false
  deriving DecidableEq, Repr

/-- One lane: the bits of the element and its block scale. -/
abbrev Lane := Nat × Int

/-- What one pop of a chunk delivered: the chunk, the port, the row's index in the port, the lanes. -/
structure RowPop where
  chunk : Nat
  port : Nat
  row : Nat
  lanes : List (Option Lane)
  deriving DecidableEq, Repr

/-- A read that a step makes: the port it goes through (12 for none), and the bytes in a record's space. -/
structure Req where
  port : Nat := 12
  space : Nat
  addr : Int
  n : Nat
  deriving DecidableEq, Repr

/-- A part of a read that lies in one granule: which read it belongs to, its scratchpad granule by its number over the package,
the tick at which a bank serves that (R142), and what it delivered. -/
structure Piece where
  req : Nat
  port : Nat
  space : Nat
  addr : Int
  n : Nat
  gran : Option Nat := none
  svc : Option Nat := none
  got : Option (List Byte) := none
  deriving DecidableEq, Repr

/-- A planned write that lies in one granule: the word time at which it is written, and the bytes, each with the nibbles
of it that are written (1 low, 2 high; R145). -/
structure Out where
  at_ : Nat
  port : Nat := 12
  space : Nat
  addr : Int
  data : List (Byte × Nat)
  svc : Option Nat := none
  deriving DecidableEq, Repr

/-- The figures of a side's or a copy's path (Table 11-4, R181). -/
structure Figures where
  setup : Nat := 0
  rate : Nat := 512
  rd : Nat := 0
  wr : Nat := 0
  /-- The copy overlaps, and runs one segment at a time (R181). -/
  serial : Bool := false
  /-- The side, or both sides, are the cell's own or its die's fleeting memory, so that accesses have fixed ticks (R181); and
  the source is. -/
  own : Bool := false
  ownSrc : Bool := false
  deriving DecidableEq, Repr

/-- The counters of a word's steps. Each family uses those it needs; times are word times without the ticks that a
pre-emption held the word. -/
structure Steps where
  /-- The time of the first read of the step, or run, in progress. -/
  t : Nat := 0
  /-- Reads made of it. -/
  i : Nat := 0
  /-- Steps, runs, segments or rows done. -/
  k : Nat := 0
  /-- The next vector of each port that the word names. -/
  idx : SMap Nat := []
  /-- Lanes that the step has popped, by port. -/
  buf : List (Nat × List (Option Lane)) := []
  /-- A reduction in progress. -/
  acc : RedAcc := {}
  /-- Codes, nibbles or register values gathered so far. -/
  res : List Nat := []
  /-- Row sums of MSUM. -/
  sums : List Int := []
  /-- Pops of the chunks that are not yet used up (R198). -/
  rows : List RowPop := []
  /-- The first pop and the first K-step of each chunk not yet used up: (chunk, pop, K-step) (R198). -/
  plan : List (Nat × Nat × Nat) := []
  /-- The time of the last push planned, and by how much pushes have moved so as not to share a tick. -/
  prev : Option Nat := none
  shift : Nat := 0
  /-- A destination vector of VQUANT or VDEQUANT has just been pushed: the word stands between two of its steps (R230). -/
  edge : Bool := false
  deriving DecidableEq, Repr

/-- A writer of fleeting memory (R165): an engine word of a strand, or a receive context of a die's endpoint. -/
structure Writer where
  link : Bool
  prio : Bool
  vdie : Nat
  /-- The cell; 0 for a receive context. -/
  cell : Nat
  /-- The word's place in its strand's order, or the context's number. -/
  no : Nat
  deriving DecidableEq, Repr

end Sys2Proof.Machine
end

