-- ==== Sys2Proof/Machine/State.lean ====
section
/-! DEFINITION. The state of the package as plain data, and the state after a package reset. INVENTORY.md, under
"State", names the rule of spec/ behind each field. Ticks are counts of z0 (R18) unless a field says LTICK. -/

namespace Sys2Proof.Machine

/-- Physical memory: the 48-bit on-package space of R155, in canonical form. An unlisted byte reads 0
(notes/assumptions/1.md). -/
abbrev Memory := List Host.Cell

/-- The die classes (Table 1-1). -/
inductive Cls where
  | md | vd | bd | gd | sd
  deriving DecidableEq, Repr

/-- A port: the captured record, the next vector of the sweep, and whether it is bound (R147). -/
structure Port where
  hrec : HRec := 0
  vidx : Nat := 0
  bound : Bool := false
  deriving DecidableEq, Repr

/-- One entry of the loop stack (R127). -/
structure LoopEnt where
  first : Word
  last : Word
  remaining : Nat
  deriving DecidableEq, Repr

/-- The RPT prefix of the unit being issued (R56): count less one and three signed steps. -/
structure RptPfx where
  count : BitVec 6
  stepD : BitVec 3
  stepA : BitVec 3
  stepB : BitVec 3
  deriving DecidableEq, Repr

/-- The prefixes of the unit being issued (R54): the address and the bits of its first word, the AT target field, the RPT, and
whether they make the unit illegal. -/
structure Pfx where
  first : Word
  word : BitVec 48
  atTick : Option (BitVec 28) := none
  rpt : Option RptPfx := none
  bad : Bool := false
  deriving DecidableEq, Repr

/-- What a strand is doing. -/
inductive Status where
  /-- No strand: the cell is idle. -/
  | idle
  /-- Issuing units. -/
  | running
  /-- A trap is taken and outstanding operations drain (R306, step 2). -/
  | trapping
  /-- RDV or COMMIT has issued (R297). -/
  | waiting
  /-- PREST reads its image; no further unit issues until it is checked (R178). -/
  | restoring
  /-- END has issued (R128). -/
  | ended
  /-- HALT or an unhandled trap has stopped the strand (R129, R308). -/
  | stopped
  deriving DecidableEq, Repr

/-- A trap to be taken (Table 22-5). `tpc` is none for a cause reported at the next unit (ASYNC = 1). -/
structure TrapRec where
  code : Nat
  tval : Word
  tpc : Option Word
  rep : Nat := 0
  deriving DecidableEq, Repr

/-- One side of an access after translation (R115, R150): the physical address, whether the page is SO, and whether
any die answers there (R155, R158). -/
structure Acc where
  phys : Nat
  so : Bool
  uo : Bool := false
  answers : Bool
  deriving DecidableEq, Repr

/-- Where a load's value goes (R117, R176, R178). -/
inductive LoadDst where
  | x (d : Nat) (bytes : Nat) (signed : Bool)
  | h (d : Nat)
  | port (q : Nat) (word : BitVec 48)
  deriving DecidableEq, Repr

/-- What an operation issued by the sequencer still has to do (R96, R306). -/
inductive PendAct where
  /-- Write scalar registers: the result of a multiply or divide (R114). -/
  | regs (l : List (Nat × Word))
  /-- Write a predicate: SEMTEST (R136). -/
  | pred (k : Nat) (v : Bool)
  /-- SEMTEST's sample of a semaphore, taken once the awaits of its issue tick are granted (R136). -/
  | test (k sem n : Nat)
  /-- Read memory, at the read tick of a tile (R162), when the bank of a scratchpad serves it (R142), and after what R119 puts
  before it; then complete at `done`. -/
  | sample (dst : LoadDst) (acc : Acc) (n : Nat) (done : Nat) (ea : Word)
  /-- Complete a load with the bytes read; a bus error follows when no die answered (R117). -/
  | loaded (dst : LoadDst) (bytes : List Byte) (bus : Bool) (ea : Word)
  /-- Perform a store (R118). -/
  | store (acc : Acc) (bytes : List Byte) (ea : Word)
  /-- A SEMPOST or a raise field takes effect (R133 step 3). -/
  | raise (sem n : Nat)
  /-- A SEMINIT takes effect once earlier SR and SW accesses are performed (R133 step 2, R279). -/
  | seminit (sem n : Nat)
  /-- An atomic that its sync engine has not applied yet (R290). -/
  | atomic
  /-- An atomic that has been applied: the register it returns, its flags and the word's address (R303, R304). -/
  | applied (regs : List (Nat × Word)) (flags : BitVec 8) (pc : Word)
  /-- A fence whose predecessors have not all been performed (R280, R294). -/
  | fence (pre : BitVec 10)
  /-- What remains is to complete: a port word releases its port (R177), a store has rewritten its tile (R118, R166). -/
  | port
  deriving DecidableEq, Repr

/-- An operation the sequencer has issued and that has not completed. -/
structure PendOp where
  seq : Nat
  due : Nat
  act : PendAct
  /-- The access is on path SR, on path SW (Table 20-1). -/
  sr : Bool := false
  sw : Bool := false
  so : Bool := false
  /-- The access goes through a UO page (R282). -/
  uo : Bool := false
  /-- A load with ACQ, which later SR and SW accesses wait for (R281). -/
  acq : Bool := false
  /-- A store with REL, which is performed after every earlier SR and SW access (R281). -/
  rel : Bool := false
  /-- The port that a port word holds as in use (R177). -/
  port : Option Nat := none
  /-- A semaphore raised at completion (R103). -/
  sem : Option Nat := none
  /-- The tick at which a scratchpad bank serves the access (R96, R142). -/
  svc : Option Nat := none
  deriving DecidableEq, Repr

/-- A register whose latest write is still outstanding: from which tick a SCHED read is defined (R96, R343), and from
which tick a LOCK reader may go on (R97). Registers are numbered x0-x63, 64 + p, 72 + h. -/
structure Busy where
  reg : Nat
  seq : Nat
  sched : Option Nat
  lock : Option Nat
  deriving DecidableEq, Repr

/-- A fence that has not completed (R280, R294), with the successor set and the scope of its word. -/
structure Fence where
  seq : Nat
  suc : BitVec 10
  scope : Nat := 0
  deriving DecidableEq, Repr

/-- An engine word in its queue (R99): everything captured at enqueue. -/
structure QWord where
  queue : Nat
  seq : Nat
  instr : Instr
  pc : Word
  enq : Nat
  sw : Option Nat := none
  sr : Option Nat := none
  /-- Captured handle records, by field: 0 D, 1 A, 2 B, 3 C. -/
  recs : List (Nat × HRec) := []
  /-- Captured scalar operands, by field. -/
  xs : List (Nat × Word) := []
  /-- Ports the word names, and the vectors it takes from or puts into each. -/
  ports : List (Nat × Nat) := []
  pins : Nat := 0
  so : Bool := false
  /-- The CPYM this word is chained to (R183). -/
  chain : Option Nat := none
  /-- The tick at which it began to wait for its semaphore (R102). -/
  since : Option Nat := none
  deriving DecidableEq, Repr

/-- A range of bytes an engine word uses: its extent (R227). -/
structure Range where
  lo : Nat
  hi : Nat
  write : Bool
  deriving DecidableEq, Repr

/-- A dispatched engine word (R100, R105). Its clock, the word time, counts the ticks since its dispatch at which nothing
held it: bank service, busy windows and other writers' sessions hold it (R142, R167), and so does the busy window of a partial
session of its own (R166). DESIGN CHOICE (notes/assumptions/5.md). DEDUCED (notes/assumptions/10.md). -/
structure Running where
  word : QWord
  disp : Nat
  /-- The word time now. -/
  wt : Nat := 0
  /-- Ticks that the busy window of a partial session of its own still holds it (R166). -/
  wait : Nat := 0
  /-- Ticks at which a pre-emption held back the next step while earlier pushes went on (R105, R315). -/
  gap : Nat := 0
  /-- The word time at which it completes; none while that is open: a copy's last write, a push that waits for admission
  (R190), CWAIT, SPSYNC. -/
  comp : Option Nat := none
  /-- The word time from which the engine can accept the next word of its queue (R200, R216, R227, R260): none while its last
  read is still to come. -/
  accept : Option Nat := some 0
  /-- The word time at which it completes when nothing holds it, and its bound without partial sessions. -/
  fin : Nat := 0
  bound : Nat := 0
  /-- Ticks, other than for partial sessions of its own, that it has been held. -/
  moved : Nat := 0
  /-- Partial sessions so far (R166). -/
  parts : Nat := 0
  /-- The word time of its next step. -/
  next : Option Nat := none
  /-- The step at `next` has stated its reads: they are `pieces`, in order. -/
  asked : Bool := false
  pieces : List Piece := []
  /-- Writes that wait for their ticks, by tick. -/
  outs : List Out := []
  /-- Where the word writes next beside those, for each destination that it still writes: the space and the address. -/
  ahead : List (Nat × Int) := []
  fig : Figures := {}
  st : Steps := {}
  flags : BitVec 8 := 0
  exp : Bool := false
  rnf : Bool := false
  /-- What a predicate select reports beside expired reads and failed renewals: an index out of range (R192). -/
  bad : Bool := false
  xres : Option (Nat × Word) := none
  pres : Option (Nat × Bool) := none
  /-- The predicate that receives the report at completion (R174). -/
  psel : Option Nat := none
  /-- A copy's writes so far of less than a granule each, and the granules of physical memory among them that another running copy has
  written since (R182). -/
  wrote : List Out := []
  torn : List Nat := []
  /-- The first access that no die answered, by its address in the record's space (R155), or a push's context without a
  sender (R188): the value of the bus error. DEDUCED (notes/assumptions/10.md). -/
  bus : Option Word := none
  extent : List Range := []
  /-- Sum-product registers written, and the write ports they take, by tick after dispatch and bank (R260, R262). -/
  wregs : List Nat := []
  wbanks : List (Nat × Nat) := []
  tree : Bool := false
  /-- Tables and registers written at completion: (which, number, value); 0 shape, 1 list, 2 register (R265, R266). -/
  tables : List (Nat × Nat × Nat) := []
  scale : Option (List (Nat × BitVec 128)) := none
  batch : Option Nat := none
  /-- The members of a joint dispatch, by cell and place in their strand's order, in the group's order (R200). -/
  mates : List (Nat × Nat) := []
  /-- The matrix mode state at dispatch (R208), and the free value of R39 that the word draws. -/
  mode : BitVec 6 := 0
  draw : Nat := 0
  deriving DecidableEq, Repr

/-- One strand with its cell's context: every register a word can name, the CSRs, the queues and the engine state that
R314 gives a context. DESIGN CHOICE, where no rule gives a value at strand start (notes/assumptions/4.md). -/
structure Strand where
  prio : Bool := false
  vdie : Nat := 0
  cell : Nat := 0
  status : Status := .idle
  /-- Swapped out into the shadow bank (R314, R315). -/
  out : Bool := false
  /-- Its inbox registers lie in the shadow bank, as x56 to x63 of `x`: another context uses those of the cell (R57, R314). -/
  inboxOut : Bool := false
  pc : Word := 0
  /-- The planned slot of the next unit (R95). -/
  slot : Nat := 0
  /-- The tick at which the unit began to wait for its await (R102). -/
  since : Option Nat := none
  x : SMap Word := []
  p : BitVec 8 := 0
  h : SMap HRec := []
  q : SMap Port := []
  tvec : Word := 0
  tpc : Word := 0
  tcause : BitVec 16 := 0
  tval : Word := 0
  arith : BitVec 16 := 0
  expf : BitVec 2 := 0
  /-- The flags set at the tick `setTick`, EXPFLAG above ARITHFLAG: a W1C write of that tick leaves them (R37, R164). -/
  setTick : Nat := 0
  setBits : BitVec 10 := 0
  sembase : BitVec 12 := 0
  semdepth : BitVec 6 := 0
  sovf : Bool := false
  semrot : BitVec 5 := 0
  loops : List LoopEnt := []
  savedLoops : List LoopEnt := []
  pfx : Option Pfx := none
  rep : Nat := 0
  /-- The blocks in the stream buffer, newest first (R92), and the fetches in progress: (block address, completion). -/
  stream : List Word := []
  fetching : List (Word × Nat) := []
  /-- SSEND's issue tick in this superstep (R300). -/
  ssend : Option Nat := none
  /-- The RDV or COMMIT issued in this superstep: the tick it names (LTICK), whether it is COMMIT, and its issue. -/
  rdv : Option (Nat × Bool × Nat) := none
  /-- A trap being taken (R306) and the asynchronous causes waiting for a word boundary (R37, R321). -/
  trap : Option TrapRec := none
  asyncs : List TrapRec := []
  seq : Nat := 0
  busy : List Busy := []
  pend : List PendOp := []
  fences : List Fence := []
  queue : List QWord := []
  running : List Running := []
  /-- Per queue: the last dispatch tick (R100 b), the tick from which the engine accepts a word again after one that has
  completed, and the half tick from which it tries again (queue 6: the sequencer). -/
  lastDisp : SMap Nat := []
  accept : SMap Nat := []
  polled : SMap Nat := []
  batch : Nat := 0
  batchOpen : Bool := false
  chain : Option Nat := none
  mmode : BitVec 6 := 0
  scale : SMap (BitVec 128) := []
  railReq : Bool := false
  /-- The MRAIL.DNs that wait for the words enqueued before them (R218). -/
  railDn : List Nat := []
  bask : Bool := true
  spmode : BitVec 12 := 0
  v : SMap (BitVec 32) := []
  shapes : SMap (BitVec 64) := []
  lists : SMap (BitVec 512) := []
  deriving DecidableEq, Repr

/-- A virtual die of a launch (R71, R79, R84). -/
structure VDie where
  cls : Cls
  cells : Nat
  /-- SLOT of the record: 0xFF for any. -/
  want : Nat
  slot : Nat
  bindGen : Nat := 0
  entry : Word := 0
  deriving DecidableEq, Repr

/-- A CTX entry of the launch record (R72). -/
structure Ctx where
  sprow0 : Nat := 0
  sprows : Nat := 0
  ftile0 : Nat := 0
  ftiles : Nat := 0
  sem0 : Nat := 0
  semn : Nat := 0
  spg0 : Nat := 0
  spgn : Nat := 0
  deriving DecidableEq, Repr

/-- A late event of a die (R312). -/
structure Late where
  vdie : Nat
  cause : Nat
  tick : Nat
  dieLevel : Bool
  lstrand : Nat
  cell : Nat
  detail : Word
  /-- The slot of a die that no virtual die is bound to, for which `vdie` is 31 (R310). -/
  slot : Option Nat := none
  deriving DecidableEq, Repr

/-- The host registers that describe one job (Tables 4-4, 21-1, 22-6, 24-1). -/
structure JobRegs where
  job : Nat := 0
  lerr : Nat := 0
  lerrIdx : Nat := 0xFFFF
  ssdone : Nat := 0
  cmark : Nat := 0
  cause : Nat := 0
  rvdie : Nat := 0
  rslot : Nat := 0
  rcell : Nat := 0
  ssidx : Nat := 0
  detail : Word := 0
  late : Nat := 0
  base : Nat := 0
  refused : Bool := false
  sow : Bool := false
  digest : BitVec 256 := 0
  deriving DecidableEq, Repr

/-- What a rendezvous has decided (R297, R298). -/
inductive RdvState where
  /-- Nothing decided. -/
  | none
  /-- Phase one has begun; the commit takes effect at this tick. -/
  | commit (at_ : Nat)
  /-- The superstep aborts at this tick. -/
  | abort (at_ : Nat)
  deriving DecidableEq, Repr

/-- An entry of the mapping list (R340). -/
structure MapEnt where
  va : Nat
  pa : Nat
  size : Nat
  attr : Nat
  deriving DecidableEq, Repr

/-- A launch (R71, R75): its record, its binding, and the progress of its supersteps. -/
structure Launch where
  lock : Bool := false
  det : Bool := false
  forced : Bool := false
  secure : Bool := false
  /-- The launch's start tick L0 (R18). -/
  l0 : Nat := 0
  /-- The current superstep's base, LTICK (R55). -/
  base : Nat := 0
  /-- The text origin O (R44). -/
  origin : Word := 0
  vdies : List VDie := []
  ctx0 : Ctx := {}
  ctx1 : Ctx := {}
  cb : List (Nat × Nat) := []
  pace : List Nat := []
  stagSlot : Nat := 0
  /-- Page table root (R153). -/
  root : Nat := 0
  /-- The mapping list's entries that follow the binding of a virtual die (WIN; R340). -/
  wins : List MapEnt := []
  /-- The entries of the translation cache that the launch uses: (digest, class, EMASK) (R90). -/
  cached : List (BitVec 256 × Cls × Word) := []
  /-- Loaded text: (class, first virtual address, size), and the physical pages the lock covers (R92). -/
  text : List (Cls × Word × Nat) := []
  locked : List (Nat × Nat) := []
  /-- Physical ranges of the secure world that the launch adds (R339). -/
  secureRanges : List (Nat × Nat) := []
  /-- Pages that carry DIGEST, as physical ranges (R327). -/
  digestRanges : List (Nat × Nat) := []
  rdv : RdvState := .none
  checked : Bool := false
  /-- The ticks at which STAGGER has come in this superstep, and the first that came late (R337). -/
  staggers : List Nat := []
  lateStagger : Option Nat := none
  lates : List Late := []
  /-- The tick of the superstep's first die-level error (R310, R324). -/
  errAt : Option Nat := none
  /-- Restart images of the superstep (R317). -/
  image : List Strand := []
  /-- Superstep 0 has started. -/
  started : Bool := false
  /-- A re-run is to start at this tick (R328). -/
  rerunAt : Option Nat := none
  /-- The launch's contexts are swapped out (R315). -/
  out : Bool := false
  /-- DMIX as the saved contexts of a launch that stands pre-empted within a superstep show it, where health has changed since (R13,
  R314). -/
  dmix : Option Word := none
  /-- A priority launch that is loaded and waits to swap in, or has retired and waits to swap back. -/
  swapAt : Option Nat := none
  /-- An SO page was written in this superstep (R282, R328). -/
  soWritten : Bool := false
  /-- Physical tiles written in this superstep (R173), by slot * 2^20 + tile. -/
  tilesWritten : List Nat := []
  /-- An abort has come before a swap that waits, which then waits for the superstep's commit (R318). -/
  swapHeld : Bool := false
  deriving DecidableEq, Repr

/-- A stream context at a die's endpoint (R186 to R191). -/
structure LinkCtx where
  prio : Bool
  vdie : Nat
  ctx : Nat
  rx : Bool
  tx : Bool
  cls : Nat
  peer : Nat
  hrec : HRec := 0
  /-- The cell that issued LCTX.r. -/
  cell : Nat := 0
  pos : Nat := 0
  /-- The open window as an LTICK range; in LOCK mode the range is not used (R187, R190). -/
  win : Option (Nat × Nat) := none
  landed : Nat := 0
  miss : Nat := 0
  /-- The tick at which the LCTX that set it up completed: pushes see it from the next tick on (R186). -/
  born : Nat := 0
  deriving DecidableEq, Repr

/-- An accepted segment whose bytes are still to be performed (R189): when, the tick at which it landed, where in the handle's sweep, and which setup of
its context counts it. -/
structure Landing where
  due : Nat
  tau : Nat
  hrec : HRec
  pos : Nat
  cell : Nat
  born : Nat
  /-- The scratchpad banks that its bytes reach have been reserved, and serve them by `due` (R142). -/
  served : Bool := false
  deriving DecidableEq, Repr

/-- A segment that a sending endpoint holds or that is in flight (R188 to R190). -/
structure Seg where
  id : Nat
  prio : Bool
  src : Nat
  srcCell : Nat
  /-- Sequence number of the LPUSH that sends it. -/
  seq : Nat
  dst : Nat
  ctx : Nat
  bytes : List Byte
  lat : Nat
  /-- The first tick at which it may be sent, and the tick at which it was sent, which comes with its landing tick: none
  while it waits for a send slot or for admission (R188, R190). -/
  sent : Nat
  land : Option Nat
  last : Bool
  /-- Set once it has landed and has been accepted (R189). -/
  acc : Option Landing := none
  deriving DecidableEq, Repr

/-- The busy window that follows a partial session on a tile, or a renewal of it: the tile's number over the package, and
the last tick of the session or the tick of the renewal; the window is the 8 ticks after that (R166, R169). -/
structure TileSess where
  key : Nat
  last : Nat
  deriving DecidableEq, Repr

/-- A write session on a tile that is still open (R165, R167): the tile's number over the package, the nibbles written, the
first and the last write, the writers that still write in it, and those of a joint session that have written their last. -/
structure OpenSess where
  key : Nat
  mask : BitVec 8192
  first : Nat
  last : Nat
  writers : List Writer
  left : List Writer := []
  deriving DecidableEq, Repr

/-- An access of a scratchpad granule through a port by a word that dispatches after the engine steps of its tick, and the tick at which
the bank serves it (R142). -/
structure Promise where
  /-- The word's strand: launch context, virtual die and cell. -/
  who : Bool × Nat × Nat
  seq : Nat
  port : Nat
  gran : Nat
  svc : Nat
  deriving DecidableEq, Repr

/-- An atomic on its way to, or held at, a sync engine (R290, R305). -/
structure Atom where
  slot : Nat
  phys : Nat
  arrive : Nat
  /-- Ticks from the sync engine back to the issuing cell: the latency of the route. -/
  back : Nat
  held : Bool
  prio : Bool
  vdie : Nat
  cell : Nat
  /-- FN4, and whether it is a value-returning form (Tables 21-4 and 21-5). -/
  op : Nat
  takes : Bool
  bytes : Nat
  /-- The operand, and the replacement of CTRADE. -/
  a : Word
  b : Word
  d : Nat
  seq : Nat
  bound : Nat
  /-- The word's address. -/
  pc : Word
  /-- It is performed after every earlier SR and SW access of its strand (R281, R301). -/
  rel : Bool
  /-- It goes through an SO page (R282). -/
  so : Bool := false
  deriving DecidableEq, Repr

/-- A write of inbox registers through a die window at this tick: the writer's slot and logical cell, and the bytes (R57, R157). -/
structure InboxWrite where
  slot : Nat
  cell : Nat
  addr : Nat
  bytes : List Byte
  deriving DecidableEq, Repr

/-- A raise or a SEMINIT that takes effect at the end of this tick (R133). -/
structure Raise where
  prio : Bool
  vdie : Nat
  cell : Nat
  slot : Nat
  sem : Nat
  n : Nat
  init : Bool
  deriving DecidableEq, Repr

/-- A throttle or boost demand that stands for the next control interval (R333). -/
structure Demand where
  /-- 0 current limit, 1 thermal, 2 boost. -/
  kind : Nat
  slot : Nat
  code : Nat
  /-- The base level that a throttle asks for, on the scale of `Power.bases`. -/
  rail : Nat
  deriving DecidableEq, Repr

/-- The power controller (R331 to R335, Table 25-2). DESIGN CHOICE (notes/assumptions/40.md). -/
structure Power where
  kcode : Nat := 64
  clt : Bool := false
  tht : Bool := false
  boost : Bool := false
  bask : Bool := false
  /-- The base level that a throttle chose for the interval, when one did (R333). -/
  rail : Option Nat := none
  /-- The base level of each cluster in the interval, by slot * 4 + cluster, in units of 0.25 mV above the SRAM rail - 250 mV (R331).
  Before the first interval boundary every level is that of the SRAM rail. DESIGN CHOICE (notes/assumptions/40.md). -/
  bases : List Nat := List.replicate 84 1000
  /-- The package draw of the interval, averaged over it, in mW; none in the first interval, before any boundary (R334). -/
  draw : Option Nat := none
  /-- Basking runs in the interval; `bask` tells of the interval before it (R334, R335). -/
  basking : Bool := false
  demands : List Demand := []
  /-- The last control interval whose period was fixed. -/
  interval : Nat := 0
  /-- Clusters whose step stands, and clusters whose step is due: slot * 4 + cluster (R218, R331). -/
  stands : List Nat := []
  due : SMap Nat := []
  deriving DecidableEq, Repr

/-- An entry of the translation cache (R90). -/
structure CacheEnt where
  key : BitVec 256
  cls : Cls
  step : BitVec 8
  emask : Word
  image : List Byte
  /-- A firmware update has invalidated the entry, and the launches that use it have not all retired. -/
  stale : Bool := false
  deriving DecidableEq, Repr

/-- The package (R9): the focused strand, every other strand, memory, the launches, the endpoints, the sync engines,
the power controller, the management core and the host's registers. -/
structure State where
  /-- z0, ticks since package reset (R18). -/
  z0 : Nat
  /-- The strand the next event or issue acts on, and the others. -/
  cur : Strand
  others : List Strand
  mem : Memory
  /-- Writes held for commit, by (VDIE + 1) * 2^48 + physical address (R285, R324). A priority launch's are at
  VDIE + 33. -/
  held : SMap (Option Byte)
  /-- Birth ticks of tiles on the z0 scale, by slot * 2^20 + tile; an unlisted tile is expired (R160, R170). -/
  births : SMap (Option Int)
  /-- Busy windows that have not passed, by their ends: of partial sessions and of renewals (R166, R167, R169). -/
  busyTiles : List TileSess
  sessions : List OpenSess
  /-- Sessions that have ended at this tick: a write of the same tick joins one that opened with it (R167). -/
  ended : List OpenSess
  /-- The first tick at which a scratchpad bank is free, by (slot × 16 + cell) × 96 + bank (R142). -/
  banks : SMap Nat
  /-- One more than the last tick whose engine steps have been taken. -/
  served : Nat
  /-- The scratchpad accesses of this tick that words make which dispatch after its engine steps: each keeps its port's place (R142). -/
  promised : List Promise
  main : Option Launch
  prioL : Option Launch
  links : List LinkCtx
  segs : List Seg
  atoms : List Atom
  /-- One more than the last tick at which each sync engine has taken atomics, by slot (R305). -/
  atomsAt : SMap Nat
  raises : List Raise
  /-- Writes of inbox registers through the die windows at this tick (R57, R157). -/
  inboxes : List InboxWrite
  regs : JobRegs
  /-- The pre-empted launch's registers, kept aside while PRI is 1 (R76). -/
  aside : Option JobRegs
  ready : Bool
  nracc : Bool
  ldrop : Bool
  pri : Bool
  pfail : Bool
  launchAddr : BitVec 48
  /-- The tick of the last LAUNCH write from slot 19's link, plus one (R75). -/
  launchAt : Nat
  /-- What the last host read or window read returned. -/
  readData : List Byte
  /-- MSI-X vectors 0 and 1: signals sent so far (R75, R76, R299). -/
  msi0 : Nat
  msi1 : Nat
  /-- Unsupported requests that AER has reported (R77, R92). -/
  aer : Nat
  /-- The composition and the stepping as the part is fused (Tables 1-3 and 4-4). -/
  comp : BitVec 4
  stepping : BitVec 8
  fw : Option FirmwareInfo
  dmix : Word
  /-- Health changes that wait for a moment R13 allows: slots to retire, cells that failed (R82, R83). -/
  retire : List Nat
  failedCells : List (Nat × Nat)
  /-- Stacked stores that failed, by slot (R13). -/
  failedStacks : List Nat
  /-- Corrected-error counts: a die's MEMCE and LINKCE by slot, a cell's SEQCE by 32 + slot × 16 + cell (Table 7-11). -/
  errs : SMap Nat
  /-- Cores in reset under a world violation record: violations the secure firmware has recorded (R308). -/
  worldViolations : List Word
  cache : List CacheEnt
  power : Power
  /-- Counters: free values drawn, which is the model's own (notes/assumptions/2.md), and segments sent. -/
  free : Nat
  segId : Nat
  /-- External inputs that have not arrived: (tick, event). -/
  inputs : List (Nat × Instr)
  /-- Accesses from outside a strand that have arrived, each with the tick at which every bank that it reaches has served it (R142). -/
  windows : List (Nat × Instr)
  /-- Host reads of BAR0 that have not arrived: (tick, offset) (R74, R78). -/
  reads : List (Nat × Nat)
  deriving DecidableEq, Repr

/-- Reasons the machine stops. -/
inductive Fault where
  /-- Raised by a word's meaning when the focused cell runs no strand (its sequencer issues nothing, R128, R158).
  Safe: the hardware executes nothing there either. -/
  | noStrand
  deriving DecidableEq, Repr

/-- Reasons the model declines. -/
inductive Refusal where
  /-- Raised by the dispatch of an instruction that has no meaning yet. Safe. -/
  | notModelled (mnemonic : String)
  deriving DecidableEq, Repr

/-- The package right after a package reset: no tick counted, no launch, no strand, READY 0, DMIX 0 and every host
register at its reset value (R8, R13, R18, R78, Tables 4-4, 21-1, 22-6, 24-1, 25-2). Values the manual does not give
are named in notes/assumptions/1.md and 4.md. DESIGN CHOICE (notes/assumptions/4.md). -/
def State.reset : State where
  z0 := 0
  cur := {}
  others := []
  mem := []
  held := []
  births := []
  busyTiles := []
  sessions := []
  ended := []
  banks := []
  served := 0
  promised := []
  main := none
  prioL := none
  links := []
  segs := []
  atoms := []
  atomsAt := []
  raises := []
  inboxes := []
  regs := {}
  aside := none
  ready := false
  nracc := false
  ldrop := false
  pri := false
  pfail := false
  launchAddr := 0
  launchAt := 0
  readData := []
  msi0 := 0
  msi1 := 0
  aer := 0
  comp := 1
  stepping := 0
  fw := none
  dmix := 0
  retire := []
  failedCells := []
  failedStacks := []
  errs := []
  worldViolations := []
  cache := []
  power := {}
  free := 0
  segId := 0
  inputs := []
  windows := []
  reads := []

end Sys2Proof.Machine
end

