-- ==== Sys2Proof/Machine/Sparse.lean ====
section
/-! DEFINITION. Reading and writing sparse data in canonical form: rising numbers, no entry equal to the default. -/

namespace Sys2Proof.Machine

/-- The value at `k`, or the default. -/
def sget {α : Type} (d : α) : SMap α → Nat → α
  | [], _ => d
  | (j, v) :: r, k => if j = k then v else if k < j then d else sget d r k

/-- Put `v` at `k`, keeping the canonical form: writing the default removes the entry. (In canonical data nothing after an
entry has a number as low; dropping what has makes reading after writing right in all data.) -/
def sset {α : Type} [DecidableEq α] (d : α) : SMap α → Nat → α → SMap α
  | [], k, v => if v = d then [] else [(k, v)]
  | (j, u) :: r, k, v =>
    if k < j then (if v = d then (j, u) :: r else (k, v) :: (j, u) :: r)
    else if k = j then (if v = d then r.dropWhile fun e => decide (e.1 ≤ k) else (k, v) :: r)
    else (j, u) :: sset d r k v

/-- The canonical form above a bound. -/
def swfFrom {α : Type} [DecidableEq α] (d : α) : Nat → SMap α → Bool
  | _, [] => true
  | b, (j, v) :: r => decide (b ≤ j) && decide (v ≠ d) && swfFrom d (j + 1) r

/-- The canonical form: rising numbers, no entry equal to the default. -/
def swf {α : Type} [DecidableEq α] (d : α) (m : SMap α) : Bool := swfFrom d 0 m

/-- The canonical form of memory. DESIGN CHOICE (notes/assumptions/1.md). -/
def Memory.wf (m : Memory) : Bool := swf (0 : Byte) m

/-- Read one byte of physical memory. DESIGN CHOICE (notes/assumptions/1.md). -/
def rdMem (m : Memory) (a : Nat) : Byte := sget 0 m a

/-- Write one byte of physical memory. DESIGN CHOICE (notes/assumptions/1.md). -/
def wrMem (m : Memory) (a : Nat) (v : Byte) : Memory := sset 0 m a v

/-- Read `n` consecutive bytes, lowest address first. -/
def rdMems (m : Memory) (a : Nat) : Nat → List Byte
  | 0 => []
  | n + 1 => rdMem m a :: rdMems m (a + 1) n

/-- Write consecutive bytes, lowest address first. -/
def wrMems (m : Memory) (a : Nat) : List Byte → Memory
  | [] => m
  | b :: r => wrMems (wrMem m a b) (a + 1) r

/-- A number from its bytes, little-endian (R2). -/
def leNat : List Byte → Nat
  | [] => 0
  | b :: r => b.toNat + 256 * leNat r

/-- The `n` low bytes of a number, little-endian (R2). -/
def leBytes : Nat → Nat → List Byte
  | 0, _ => []
  | n + 1, v => BitVec.ofNat 8 v :: leBytes n (v / 256)

/-- The numbers from `a` to `a + n - 1`. -/
def upFrom (a : Nat) : Nat → List Nat
  | 0 => []
  | n + 1 => a :: upFrom (a + 1) n

/-- The bits from `lo` up, `n` of them, of a number. -/
def bitsOf (v lo n : Nat) : Nat := (v / 2 ^ lo) % 2 ^ n

/-- Whether bit `i` is set. -/
def bitOf (v i : Nat) : Bool := (v / 2 ^ i) % 2 == 1

/-- Round a quotient up. -/
def ceilDiv (a b : Nat) : Nat := (a + b - 1) / b

/-- A number of `w` bits as a two's-complement integer. -/
def toSInt (w v : Nat) : Int := if v < 2 ^ (w - 1) then (v : Int) else (v : Int) - 2 ^ w

end Sys2Proof.Machine
end

