-- ==== Sys2Proof/Machine/Ops.lean ====
section
/-! DEFINITION. The named operations over the package: where a strand runs, its registers, lateness, and taking a trap
and returning from one. -/

namespace Sys2Proof.Machine

/-! ### The launch and the place of a strand -/

/-- Change the focused strand. -/
def State.modCur (s : State) (f : Strand → Strand) : State := { s with cur := f s.cur }

/-- The launch of a context, if one is present. -/
def State.launchOf (s : State) (prio : Bool) : Option Launch := if prio then s.prioL else s.main

/-- The launch of a context; an empty launch stands for none. -/
def State.launchD (s : State) (prio : Bool) : Launch := (s.launchOf prio).getD {}

/-- The focused strand's launch. -/
def State.launch (s : State) : Launch := s.launchD s.cur.prio

/-- A launch runs: its contexts are in and its strands have started. -/
def Launch.runs (l : Launch) : Bool := l.started && !l.out

/-- Change a launch that is present. -/
def State.modLaunch (s : State) (prio : Bool) (f : Launch → Launch) : State :=
  if prio then { s with prioL := s.prioL.map f } else { s with main := s.main.map f }

/-- The host registers that describe a launch: while PRI is 1 those of the pre-empted launch are kept aside (R76). -/
def State.jobRegs (s : State) (prio : Bool) : JobRegs := if !prio && s.pri then s.aside.getD {} else s.regs

/-- Change the host registers that describe a launch (R76). -/
def State.modJob (s : State) (prio : Bool) (f : JobRegs → JobRegs) : State :=
  if !prio && s.pri then { s with aside := some (f (s.aside.getD {})) } else { s with regs := f s.regs }

/-- Change JOB; vector 0 signals a change that STATUS shows (R75, R76). -/
def State.setJob (s : State) (prio : Bool) (job : Nat) : State :=
  let t := s.modJob prio fun r => { r with job := job }
  if s.regs.job = t.regs.job then t else { t with msi0 := t.msi0 + 1 }

/-- Count the signals of vector 0 for the changes of JOB and of PRI that STATUS shows between two states (R76). -/
def State.signal (old s : State) : State :=
  { s with msi0 := old.msi0 + (old.regs.job != s.regs.job).toNat + (old.pri != s.pri).toNat }

/-- The class of the die in a slot (Table 1-1). -/
def slotCls (n : Nat) : Cls :=
  if n < 9 then .md else if n < 13 then .vd else if n < 17 then .bd else if n < 19 then .gd else .sd

/-- Architectural cells of a die class (Table 1-1). -/
def clsCells : Cls → Nat
  | .md => 16 | .vd => 16 | .bd => 4 | .gd => 8 | .sd => 2

/-- Tiles of fleeting memory of a die class (R159). -/
def clsTiles : Cls → Nat
  | .md => 24576 | .vd => 16384 | .bd => 0 | .gd => 8192 | .sd => 0

/-- CLASS as the VDIE CSR and the records encode it (Table 5-1, R65). -/
def clsCode : Cls → Nat
  | .md => 1 | .vd => 2 | .bd => 3 | .gd => 4 | .sd => 5

/-- A virtual die of a launch; an unlisted one reads as an MD in slot 0. -/
def Launch.vd (l : Launch) (v : Nat) : VDie := l.vdies.getD v { cls := .md, cells := 1, want := 0xFF, slot := 0 }

/-- The focused strand's virtual die. -/
def State.vd (s : State) : VDie := s.launch.vd s.cur.vdie

/-- The focused strand's physical slot. -/
def State.slotNo (s : State) : Nat := s.vd.slot

/-- The strand's context resources: a priority launch gives its own in CTX[0] (R72, R81). -/
def State.ctx (s : State) : Ctx := s.launch.ctx0

/-- The strand's number over the launch (Table 5-3). -/
def lstrandOf (l : Launch) (v c : Nat) : Nat := ((l.vdies.take v).map VDie.cells).sum + c

/-- LTICK of the focused strand (R18). -/
def State.ltick (s : State) : Nat := s.z0 - s.launch.l0

/-- SCHED mode: the strand issues on planned ticks (R94, R95). -/
def State.sched (s : State) : Bool := !s.launch.lock

/-- In SCHED mode the compute phase runs until the tick after SSEND issues (R284, R300). -/
def State.compute (s : State) : Bool :=
  s.sched && (match s.cur.ssend with | none => true | some t => decide (s.z0 ≤ t))

/-- DMIX.FIT and GOOD both 1: the die is not fenced off or absent (R12, R158). -/
def State.good (s : State) (slot : Nat) : Bool :=
  decide (slot < 21) && s.dmix.getLsbD slot && s.dmix.getLsbD (21 + slot)

/-- The bit of SSGOOD that reports a slot's stacked store (Table 1-3). -/
def ssBit (slot : Nat) : Nat := if slot < 13 then 42 + slot else if slot = 17 then 55 else 56

/-- Scratchpad bytes of each cell of a die under a health (R10). -/
def capssOf (dmix : Word) (slot : Nat) : Nat :=
  match slotCls slot with
  | .bd | .sd => 0
  | _ => if dmix.getLsbD (ssBit slot) then 0x300000 else 0x180000

/-- Scratchpad bytes of each cell of a die (R10). -/
def State.capss (s : State) (slot : Nat) : Nat := capssOf s.dmix slot

/-- DMIX as the focused strand sees it, which does not change within a superstep (R13).
DESIGN CHOICE (notes/assumptions/41.md). -/
def State.seenDmix (s : State) : Word := s.launch.dmix.getD s.dmix

/-- The number of fitted BDs by composition (R16). A COMP value that Table 1-3 reserves counts as the A20's.
DESIGN CHOICE (notes/assumptions/22.md). -/
def State.nBD (s : State) : Nat := if s.comp = 2 then 2 else if s.comp = 3 then 1 else 4

/-- The slots that a composition fits (Table 1-4). A COMP value that Table 1-3 reserves counts as the A20's.
DESIGN CHOICE (notes/assumptions/22.md). -/
def State.fitted (s : State) : Word :=
  if s.comp = 2 then 0x1A670F#64 else if s.comp = 3 then 0x0A2203#64 else 0x1FFFFF#64

/-- Bytes of HBM (R16). -/
def State.hbmTop (s : State) : Nat := s.nBD * 96 * 2 ^ 30

/-- The first address of a die's window (R155). -/
def winBase (slot : Nat) : Nat := 0x00F000000000 + slot * 2 ^ 32

/-- Where the focused cell's scratchpad begins in the physical map (Table 9-5). -/
def State.spBase (s : State) : Nat := winBase s.slotNo + s.cur.cell * 0x400000

/-- Where a bank of the focused cell's accumulators begins in the physical map (Table 9-5). -/
def State.accBase (s : State) (bank : Nat) : Nat := winBase s.slotNo + 0x04000000 + s.cur.cell * 0x10000 + bank * 0x8000

/-- Where a die's fleeting memory begins in the physical map (Table 9-5). -/
def tileBase (slot : Nat) : Nat := winBase slot + 0x10000000

/-- Where a cell's inbox registers begin in the physical map (Table 9-5). -/
def inboxBase (slot cell : Nat) : Nat := winBase slot + 0x04100000 + cell * 0x40

/-- The physical cell of a logical cell: an MD skips its one failed cell (R82). -/
def State.physCell (s : State) (slot cell : Nat) : Nat :=
  match (s.fw.map FirmwareInfo.badCells).getD [] |>.find? (fun c => c.1 = slot) with
  | some (_, f) => if decide (slot < 9) && decide (f ≤ cell) then cell + 1 else cell
  | none => cell

/-- The cluster of a cell (R207, R331). -/
def State.cluster (s : State) (slot cell : Nat) : Nat := min (s.physCell slot cell / 4) 3

/-! ### Registers -/

/-- A register of x0 to x63: x0 reads zero, and the inbox registers x56 to x63 lie in the cell's window, but while the context is
swapped out beside another (R57, R287, R314). -/
def State.getX (s : State) (k : Nat) : Word :=
  if k = 0 then 0
  else if k < 56 ∨ s.cur.inboxOut then sget 0 s.cur.x k
  else BitVec.ofNat 64 (leNat (rdMems s.mem (inboxBase s.slotNo s.cur.cell + 8 * (k - 56)) 8))

/-- Write a register of x0 to x63: a write to x0 is discarded (R57). -/
def State.setX (s : State) (k : Nat) (v : Word) : State :=
  if k = 0 then s
  else if k < 56 ∨ s.cur.inboxOut then s.modCur fun c => { c with x := sset 0 c.x k v }
  else { s with mem := wrMems s.mem (inboxBase s.slotNo s.cur.cell + 8 * (k - 56)) (leBytes 8 v.toNat) }

/-- A predicate: p0 reads true (R57). -/
def State.getP (s : State) (k : Nat) : Bool := if k = 0 then true else s.cur.p.getLsbD k

/-- Write a predicate: a write to p0 is discarded (R57). -/
def State.setP (s : State) (k : Nat) (v : Bool) : State :=
  if k = 0 then s
  else s.modCur fun c => { c with p := if v then c.p ||| (1#8 <<< k) else c.p &&& ~~~(1#8 <<< k) }

/-- A handle register (R57, R143). -/
def State.getH (s : State) (k : Nat) : HRec := sget 0 s.cur.h k

/-- Write a handle register. -/
def State.setH (s : State) (k : Nat) (v : HRec) : State := s.modCur fun c => { c with h := sset 0 c.h k v }

/-- A port (R147). -/
def State.getQ (s : State) (k : Nat) : Port := sget {} s.cur.q k

/-- Write a port. -/
def State.setQ (s : State) (k : Nat) (v : Port) : State := s.modCur fun c => { c with q := sset {} c.q k v }

/-- Remember which flags were set at a tick (R37, R164). -/
def Strand.noteFlags (c : Strand) (tick : Nat) (b : BitVec 10) : Strand :=
  { c with setTick := tick, setBits := if c.setTick = tick then c.setBits ||| b else b }

/-- Set bits of ARITHFLAG (R36, R37). -/
def State.orArith (s : State) (f : BitVec 8) : State :=
  s.modCur fun c => { c with arith := c.arith ||| (0#8 ++ f) }.noteFlags s.z0 (0#2 ++ f)

/-- Set bits of EXPFLAG (R164). -/
def State.orExp (s : State) (f : BitVec 2) : State :=
  s.modCur fun c => { c with expf := c.expf ||| f }.noteFlags s.z0 (f ++ 0#8)

/-! ### Word alignment and lateness -/

/-- Word-aligned: at a multiple of 6 from the text origin (R44). -/
def State.aligned (s : State) (pc : Word) : Bool := ((pc.toNat : Int) - s.launch.origin.toNat) % 6 == 0

/-- Whether one late event ranks before another of the same tick: a die-level error first, then the lower LSTRAND
(R312). -/
def Late.before (a b : Late) : Bool :=
  decide (a.tick < b.tick) || (a.tick == b.tick &&
    ((a.dieLevel && !b.dieLevel) || (a.dieLevel == b.dieLevel && decide (a.lstrand < b.lstrand))))

/-- The least of some numbers. -/
def leastNat : List Nat → Option Nat
  | [] => none
  | a :: r => some (r.foldl min a)

/-- Keep the first late event of each die (R312). -/
def addLate (l : List Late) (e : Late) : List Late :=
  match l.find? (fun o => o.vdie = e.vdie) with
  | none => l ++ [e]
  | some o => if e.before o then l.map (fun q => if q.vdie = e.vdie then e else q) else l

/-- Mark a die late with an event (R95, R309, R310); the launch remembers the tick of its first die-level one. -/
def State.markDie (s : State) (prio : Bool) (e : Late) : State :=
  s.modLaunch prio fun l =>
    { l with lates := addLate l.lates e, errAt := if e.dieLevel then some (l.errAt.getD e.tick) else l.errAt }

/-- Mark the focused strand's die with a cause and a value: late in SCHED mode, and in LOCK mode a fault that its next
rendezvous counts (R129, R308). -/
def State.fault (s : State) (cause : Nat) (detail : Word) : State :=
  s.markDie s.cur.prio
    { vdie := s.cur.vdie, cause := cause, tick := s.z0, dieLevel := false,
      lstrand := lstrandOf s.launch s.cur.vdie s.cur.cell, cell := s.cur.cell, detail := detail }

/-- In SCHED mode, mark the focused strand's die late with a cause and a value; LOCK makes nothing late (R95, R97). -/
def State.late (s : State) (cause : Nat) (detail : Word) : State := if s.sched then s.fault cause detail else s

/-- Mark the die late in SCHED mode for a hazard of an engine word at a tick, which may be still to come (R95, R142, R166). -/
def State.lateAt (s : State) (tick : Nat) : State :=
  if s.sched then
    s.markDie s.cur.prio
      { vdie := s.cur.vdie, cause := 0x11, tick := tick, dieLevel := false,
        lstrand := lstrandOf s.launch s.cur.vdie s.cur.cell, cell := s.cur.cell, detail := BitVec.ofNat 64 (tick - s.launch.l0) }
  else s

/-- Mark the die late for a hazard or an unplanned wait (R95; cause 0x11 of Table 22-7, DETAIL the LTICK).
DESIGN CHOICE (notes/assumptions/7.md). -/
def State.lateIssue (s : State) : State := s.late 0x11 (BitVec.ofNat 64 s.ltick)

/-! ### Traps -/

/-- HND: a handler runs (Table 22-3). -/
def Strand.hnd (c : Strand) : Bool := c.tcause.getLsbD 15

/-- The handler's address, TVEC.ADDR (Table 22-1). -/
def Strand.handler (c : Strand) : Word := 0#10 ++ c.tvec.extractLsb' 0 54

/-- The causes of Table 22-5 by name. -/
def Cause.illegal : Nat := 0x01
def Cause.absent : Nat := 0x02
def Cause.translation : Nat := 0x03
def Cause.pinLimit : Nat := 0x04
def Cause.misaligned : Nat := 0x05
def Cause.nonLocal : Nat := 0x06
def Cause.privilege : Nat := 0x07
def Cause.world : Nat := 0x08
def Cause.detAtomic : Nat := 0x09
def Cause.quarantine : Nat := 0x0A
def Cause.syncStore : Nat := 0x0B
def Cause.arith : Nat := 0x0C
def Cause.bus : Nat := 0x0D
def Cause.soft : Nat := 0x0E
def Cause.mistimed : Nat := 0x10

/-- The cases in which a trap enters no handler (R308). -/
def State.unhandled (s : State) (t : TrapRec) : Bool :=
  !s.cur.tvec.getLsbD 63 || s.cur.hnd || !s.aligned s.cur.handler || s.cur.status == .ended || s.cur.status == .stopped
    || (t.code == Cause.world && !s.launch.secure)

/-- The value that the abort report gives for a trap: 0 for a world violation of a non-secure strand (R308, R312). -/
def State.trapDetail (s : State) (t : TrapRec) : Word :=
  if t.code == Cause.world && !s.launch.secure then 0 else t.tval

/-- The saved cause: CODE, REP, ASYNC and HND (Table 22-3). -/
def causeBits (t : TrapRec) (rep : Nat) : BitVec 16 :=
  1#1 ++ (if t.tpc.isNone then 1#1 else 0#1) ++ BitVec.ofNat 6 rep ++ BitVec.ofNat 8 t.code

/-- The address of the unit that has not issued yet: its first word, whether a prefix has been read or not (R54). -/
def Strand.unitPc (c : Strand) : Word := match c.pfx with | some p => p.first | none => c.pc

/-- Step 3 of R306: write TPC, TCAUSE and TVAL, and save the loop stack. -/
def Strand.saveTrap (t : TrapRec) (c : Strand) : Strand :=
  { c with
    tpc := t.tpc.getD c.unitPc
    tcause := causeBits t (if t.tpc.isNone then c.rep else t.rep)
    tval := t.tval
    savedLoops := c.loops, loops := [] }

/-- Trap entry, step 3 and 4 of R306: save, and go to the handler, whose first unit has its planned slot four ticks on. A fetch of
the handler's block, where it is not resident, starts at that slot (R92). DEDUCED (notes/assumptions/11.md). -/
def enterTrap (t : TrapRec) (s : State) : State :=
  s.modCur fun c =>
    { c.saveTrap t with
      status := .running, trap := none
      pc := c.handler, pfx := none, rep := 0, slot := s.z0 + 4, since := none }

/-- The operations that step 2 of R306 waits for have all completed. -/
def Strand.drained (c : Strand) : Bool := c.pend.isEmpty

/-- A strand that stops at a trap that enters no handler, with what TVAL holds. -/
def Strand.stop (t : TrapRec) (v : Word) (c : Strand) : Strand :=
  { (if c.status == .ended || c.status == .stopped then c else c.saveTrap { t with tval := v }) with
    status := .stopped, trap := none, pfx := none, rep := 0, asyncs := [] }

/-- A trap that enters no handler stops the strand and fails the superstep (R308). One that is taken at a word boundary writes the
registers of step 3 of R306 (R321, Table 23-8); after END or HALT there is no such boundary. A world violation of a non-secure
strand is recorded by the secure firmware, and the strand sees no address. DEDUCED (notes/assumptions/10.md). -/
def stopStrand (t : TrapRec) (s : State) : State :=
  let v := s.trapDetail t
  let s := if t.code == Cause.world && !s.launch.secure then { s with worldViolations := s.worldViolations ++ [t.tval] }
           else s
  (s.fault t.code v).modCur (Strand.stop t v)

/-- Take a trap at a word boundary (R306, R308, R309): in SCHED mode the die is late; an unhandled trap stops the
strand; otherwise the strand drains, and enters its handler at once when nothing is outstanding.
DEDUCED (notes/assumptions/10.md). -/
def takeTrap (t : TrapRec) (s : State) : State :=
  let s := s.late t.code (s.trapDetail t)
  if s.unhandled t then stopStrand t s
  else if s.cur.drained then enterTrap t s
  else s.modCur fun c => { c with status := .trapping, trap := some t }

/-- Raise an asynchronous cause on the focused strand (R37, R321): the die is late at the tick it is raised; an ended
or stopped strand fails the superstep at once; otherwise it waits for a word boundary.
DEDUCED (notes/assumptions/10.md). -/
def raiseAsync (t : TrapRec) (s : State) : State :=
  let s := s.late t.code (s.trapDetail t)
  if s.cur.status == .stopped then s
  else if s.cur.status == .ended then stopStrand t s
  else s.modCur fun c => { c with asyncs := c.asyncs ++ [t] }

/-- Return from a trap (R131, R307): restore the loop stack, clear HND, resume at TPC and, for an RPT unit, at the
repetition that TCAUSE holds. The slot follows R125. The manual says nothing of a TCAUSE.REP that a handler has written at or above the
unit's count: the unit then issues that one repetition. DEDUCED (notes/assumptions/9.md). -/
def returnFromTrap (hold : Nat) (s : State) : State :=
  s.modCur fun c =>
    { c with
      loops := c.savedLoops, pc := c.tpc, pfx := none, rep := (c.tcause.extractLsb' 8 6).toNat
      tcause := c.tcause &&& 0x7FFF#16, slot := s.z0 + 1 + hold, since := none }

/-! ### Strands -/

/-- Every strand of the package. -/
def State.allStrands (s : State) : List Strand := s.cur :: s.others

/-- Change every strand of the package. -/
def State.mapStrands (s : State) (f : Strand → Strand) : State := { s with cur := f s.cur, others := s.others.map f }

/-- A strand by launch context, virtual die and logical cell. -/
def Strand.is (c : Strand) (prio : Bool) (vdie cell : Nat) : Bool :=
  c.prio == prio && c.vdie == vdie && c.cell == cell && c.status != .idle

/-- Take the first strand for which a test holds out of a list. -/
def pickStrand (f : Strand → Bool) : List Strand → Option (Strand × List Strand)
  | [] => none
  | c :: r => if f c then some (c, r) else (pickStrand f r).map fun x => (x.1, c :: x.2)

/-- Focus the first strand for which a test holds; nothing changes when none does. -/
def State.focus (s : State) (f : Strand → Bool) : State :=
  if f s.cur then s
  else match pickStrand f s.others with
    | some (c, r) => { s with cur := c, others := s.cur :: r }
    | none => s

/-- Act as a strand, when it is there. -/
def State.asStrand (s : State) (f : Strand → Bool) (g : State → State) : State :=
  let t := s.focus f
  if f t.cur then g t else s

end Sys2Proof.Machine
end

