-- ==== Sys2Proof/Machine/Mem.lean ====
section
/-! DEFINITION. The physical map (R155 to R158), fleeting tiles (R159 to R168), held writes (R285, R324), the page
tables (R153, R154) and the checks of an access (R115). -/

namespace Sys2Proof.Machine

/-! ### Places -/

/-- What a physical address reaches (R155, Table 9-5). -/
inductive Place where
  | hbm (bd : Nat)
  | host (sd : Nat)
  | scratch (slot cell off : Nat)
  | acc (slot cell off : Nat)
  | inbox (slot cell off : Nat)
  | sync (slot off : Nat)
  | tile (slot tile off : Nat)
  | unmapped
  deriving DecidableEq, Repr

/-- The place of an offset within a die's window (Table 9-5); the window of a slot that is not fitted is unmapped (R16). -/
def windowPlace (s : State) (n o : Nat) : Place :=
  let cells := clsCells (slotCls n)
  if !s.dmix.getLsbD n then .unmapped
  else if o < 0x04000000 then
    if o / 0x400000 < cells ∧ o % 0x400000 < s.capss n then .scratch n (o / 0x400000) (o % 0x400000) else .unmapped
  else if o < 0x04100000 then
    if slotCls n = .md then .acc n ((o - 0x04000000) / 0x10000) ((o - 0x04000000) % 0x10000) else .unmapped
  else if o < 0x04100000 + cells * 0x40 then .inbox n ((o - 0x04100000) / 0x40) ((o - 0x04100000) % 0x40)
  else if 0x08000000 ≤ o ∧ o < 0x08040000 then .sync n (o - 0x08000000)
  else if 0x10000000 ≤ o ∧ o < 0x10000000 + clsTiles (slotCls n) * 4096 then
    .tile n ((o - 0x10000000) / 4096) ((o - 0x10000000) % 4096)
  else .unmapped

/-- The place of a physical address (R155, R16). -/
def State.placeOf (s : State) (a : Nat) : Place :=
  if 2 ^ 48 ≤ a then .unmapped
  else if a < s.hbmTop then .hbm (13 + (a / 4096) % (2 * s.nBD) / 2)
  else if 0x800000000000 ≤ a then .host (if bitOf a 46 && s.dmix.getLsbD 20 then 20 else 19)
  else if 0x00F000000000 ≤ a ∧ a < 0x00F000000000 + 21 * 2 ^ 32 then
    windowPlace s ((a - 0x00F000000000) / 2 ^ 32) ((a - 0x00F000000000) % 2 ^ 32)
  else .unmapped

/-- The slot of the die that serves a place. -/
def Place.server : Place → Option Nat
  | .hbm b => some b | .host d => some d | .scratch n _ _ => some n | .acc n _ _ => some n | .inbox n _ _ => some n
  | .sync n _ => some n | .tile n _ _ => some n | .unmapped => none

/-- An address makes an access when it is mapped and its die is fitted and healthy (R155, R158). -/
def State.answers (s : State) (a : Nat) : Bool :=
  match (s.placeOf a).server with | some n => s.good n | none => false

/-- The die that serves an address. -/
def State.serverOf (s : State) (a : Nat) : Nat := ((s.placeOf a).server).getD 0

/-- HBM and host memory: the places whose writes are held for commit (R285, R323). -/
def Place.heldKind : Place → Bool
  | .hbm _ => true | .host _ => true | _ => false

/-! ### Worlds -/

/-- Whether a physical byte lies in a list of (first, length) ranges. -/
def inRanges (l : List (Nat × Nat)) (a : Nat) : Bool := l.any fun r => decide (r.1 ≤ a) && decide (a < r.1 + r.2)

/-- Whether two byte ranges share a byte. -/
def rangesMeet (a n b m : Nat) : Bool := decide (0 < n) && decide (0 < m) && decide (a < b + m) && decide (b < a + n)

/-- Where the management core keeps what is always secure, from a 64 KiB boundary on: 1 GiB for the page tables of the main
launch, 1 GiB for a priority launch's, and 1 GiB for restart images and the translation cache (R90, R153, R317, R339).
DEDUCED (notes/assumptions/31.md). -/
def coreBase (f : FirmwareInfo) : Nat := f.tableArea / 65536 * 65536

/-- The physical ranges of the secure world (R339): what the management core keeps, what the firmware declares, and those of
present secure launches. -/
def State.secureList (s : State) : List (Nat × Nat) :=
  (match s.fw with | some f => (coreBase f, 3 * 2 ^ 30) :: f.secure | none => [])
    ++ (s.main.map Launch.secureRanges).getD [] ++ (s.prioL.map Launch.secureRanges).getD []

/-- A physical byte of the secure world (R339): no byte of a die window or of host memory is. -/
def State.secureByte (s : State) (a : Nat) : Bool := decide (a < s.hbmTop) && inRanges s.secureList a

/-- Every byte from one address up to another lies in some range of a list. -/
def coversGo (l : List (Nat × Nat)) : Nat → Nat → Nat → Bool
  | 0, a, hi => decide (hi ≤ a)
  | fuel + 1, a, hi =>
    decide (hi ≤ a) || (match l.find? fun r => decide (r.1 ≤ a) && decide (a < r.1 + r.2) with
      | some r => coversGo l fuel (r.1 + r.2) hi
      | none => false)

/-- Every byte of a physical range is secure, where `more` lists ranges that are about to be. -/
def State.allSecure (s : State) (more : List (Nat × Nat)) (a n : Nat) : Bool :=
  let l := s.secureList ++ more
  decide (a + n ≤ s.hbmTop) && coversGo l l.length a (a + n)

/-- No byte of a physical range is secure. -/
def State.noneSecure (s : State) (a n : Nat) : Bool :=
  decide (s.hbmTop ≤ a) || s.secureList.all fun r => !rangesMeet r.1 r.2 a (min n (s.hbmTop - a))

/-- A physical byte of text that is locked while its launch runs (R92). -/
def State.lockedByte (s : State) (a : Nat) : Bool :=
  inRanges ((s.main.map Launch.locked).getD []) a || inRanges ((s.prioL.map Launch.locked).getD []) a

/-! ### Fleeting tiles -/

/-- The number of a tile over the package. -/
def tileKey (slot tile : Nat) : Nat := slot * 2 ^ 20 + tile

/-- A tile is live at tick r when r < birth + 2^20 (R160). A tile that nothing has stamped was born at LTICK -2^20
and is expired (R170). -/
def State.liveAt (s : State) (key r : Nat) : Bool :=
  match sget none s.births key with | some b => decide ((r : Int) < b + Config.retention) | none => false

/-- Whether a session's nibble mask reaches every granule of its tile (R165). -/
def maskFull (mask : BitVec 8192) : Bool := (upFrom 0 64).all fun g => mask.extractLsb' (g * 128) 128 != 0

/-- The last tick of a busy window (R166, R169). -/
def TileSess.until_ (x : TileSess) : Nat := x.last + 8

/-- A tile is in a busy window at this tick (R162, R166, R169). DEDUCED (notes/assumptions/17.md). -/
def State.tileBusy (s : State) (key : Nat) : Bool :=
  s.busyTiles.any fun x => x.key == key && decide (x.last < s.z0) && decide (s.z0 ≤ x.until_)

/-- The session that is open on a tile (R165). -/
def State.sessOn (s : State) (key : Nat) : Option OpenSess := s.sessions.find? fun x => x.key == key

/-- A writer's own session is open on a tile. -/
def State.ownSess (s : State) (w : Writer) (key : Nat) : Bool := (s.sessOn key).any fun x => x.writers.contains w

/-- The session on a tile that has ended at this tick. -/
def State.endedOn (s : State) (key : Nat) : Option OpenSess := s.ended.find? fun x => x.key == key && x.last == s.z0

/-- A tile is free of other writers' sessions and of busy windows (R167, R169): a session that has opened at this tick keeps
no one out, since writes of one tick open one joint session. DEDUCED (notes/assumptions/17.md). -/
def State.tileOpen (s : State) (key : Nat) : Bool :=
  match s.sessOn key with
  | some x => x.first == s.z0
  | none => !s.tileBusy key && (s.endedOn key).all fun x => x.first == s.z0

/-- A writer may write a tile at this tick (R167). -/
def State.mayWrite (s : State) (w : Writer) (key : Nat) : Bool := s.ownSess w key || s.tileOpen key

/-- Keep a busy window by its end. -/
def keepSess (x : TileSess) : List TileSess → List TileSess
  | [] => [x]
  | y :: r => if x.until_ ≤ y.until_ then x :: y :: r else y :: keepSess x r

/-- Record a busy window that follows a tick. -/
def State.noteBusy (s : State) (key last : Nat) : State := { s with busyTiles := keepSess { key := key, last := last } s.busyTiles }

/-- Zero the nibbles of a tile that a session on an expired tile did not write (R166). -/
def clearUnwritten (m : Memory) (base : Nat) (mask : BitVec 8192) : Memory :=
  m.filterMap fun c =>
    if base ≤ c.1 ∧ c.1 < base + 4096 then
      let i := c.1 - base
      let v := (if mask.getLsbD (2 * i) then c.2 &&& 0x0F#8 else 0) ||| (if mask.getLsbD (2 * i + 1) then c.2 &&& 0xF0#8 else 0)
      if v = 0 then none else some (c.1, v)
    else some c

/-- A tile has received a write in the present superstep (R173): in that of the launch whose contexts are in. -/
def State.tagTile (s : State) (key : Nat) : State :=
  let tag := fun (l : Launch) => if !l.runs || l.tilesWritten.contains key then l else { l with tilesWritten := key :: l.tilesWritten }
  { s with main := s.main.map tag, prioL := s.prioL.map tag }

/-- A running word among some writers. -/
def wordIn (l : List Writer) (c : Strand) (x : Running) : Bool :=
  l.any fun w => !w.link && w.prio == c.prio && w.vdie == c.vdie && w.cell == c.cell && w.no == x.word.seq

/-- A SCHED read of a register that a word writes is defined a number of ticks later: its bound counts the busy windows of its
partial sessions and FRENEW's moves (R166, R169, R174, R181, R193). -/
def Strand.putOff (c : Strand) (seq : Nat) (f : Nat → Nat) : Strand :=
  { c with busy := c.busy.map fun b => if b.seq = seq then { b with sched := b.sched.map f } else b }

/-- The busy window of a partial session falls to each of its writers: every later step and the completion move by 8 ticks (R166).
DEDUCED (notes/assumptions/17.md). -/
def State.charge (s : State) (l : List Writer) : State :=
  if l.isEmpty then s
  else s.mapStrands fun c => (c.running.filter (wordIn l c)).foldl (fun c x => c.putOff x.word.seq (· + 8))
    { c with running := c.running.map fun x => if wordIn l c x then { x with wait := x.wait + 8, parts := x.parts + 1 } else x }

/-- Take a charge back: the session goes on as a joint one (R167). -/
def State.refund (s : State) (l : List Writer) : State :=
  if l.isEmpty then s
  else s.mapStrands fun c => (c.running.filter (wordIn l c)).foldl (fun c x => c.putOff x.word.seq (· - 8))
    { c with running := c.running.map fun x => if wordIn l c x then { x with wait := x.wait - 8, parts := x.parts - 1 } else x }

/-- A scalar store as a writer of fleeting memory (R165). -/
def Strand.storeWriter (c : Strand) (seq : Nat) : Writer := { link := false, prio := c.prio, vdie := c.vdie, cell := c.cell, no := seq }

/-- The scalar stores of a session complete with its end, or after the busy window of a partial one, whose 8 ticks fall to them (R118,
R166). DEDUCED (notes/assumptions/17.md). -/
def State.settleStores (s : State) (x : OpenSess) : State :=
  if x.left.isEmpty then s
  else s.mapStrands fun c => { c with pend := c.pend.map fun p =>
    if p.act = .port ∧ x.left.contains (c.storeWriter p.seq) then { p with due := x.last + (if maskFull x.mask then 0 else 8) } else p }

/-- End a write session on a tile at its end tick, its bytes already written (R166): judge the tile under the birth in force,
zero what an expired tile's session did not write, set the birth, and begin the busy window of a partial session.
DEDUCED (notes/assumptions/17.md). -/
def State.endSession (s : State) (x : OpenSess) : State :=
  let base := tileBase (x.key / 2 ^ 20) + x.key % 2 ^ 20 * 4096
  let s := (if s.liveAt x.key x.last then s else { s with mem := clearUnwritten s.mem base x.mask }).settleStores x
  let s := { s with births := sset none s.births x.key (some (x.last : Int)), ended := s.ended ++ [x] }
  if maskFull x.mask then s else s.noteBusy x.key x.last

/-- Go back on a session that opened and ended at this tick, which another writer's write of the tick joins (R167): the state, and the
session as it stood; one without writers when there is none. -/
def State.rejoin (s : State) (w : Option Writer) (key : Nat) : State × OpenSess :=
  match (s.endedOn key).filter fun x => x.first == s.z0 with
  | none => (s, { key := key, mask := 0, first := s.z0, last := s.z0, writers := [] })
  | some x =>
    let t := if maskFull x.mask then s else s.refund (x.left.filter fun v => some v != w)
    ({ t with ended := s.ended.filter fun y => !(y.key == key)
              busyTiles := s.busyTiles.filter fun y => !(y.key == key && y.last == s.z0) }, { x with left := x.left.filter fun v => some v != w })

/-- A writer has written nibbles of a tile at this tick (R165, R167): its session goes on; one that is open from this tick is
joined; else a session opens. A session of this tick alone that has ended is part of it.
DEDUCED (notes/assumptions/17.md). -/
def State.sessWrite (s : State) (w : Writer) (key : Nat) (mask : BitVec 8192) : State :=
  let s := s.tagTile key
  match s.sessOn key with
  | some _ =>
    let put := fun x : OpenSess =>
      { x with mask := x.mask ||| mask, last := s.z0, writers := if x.writers.contains w then x.writers else x.writers ++ [w] }
    { s with sessions := s.sessions.map fun x => if x.key = key then put x else x }
  | none =>
    let x := s.rejoin (some w) key
    { x.1 with sessions := x.1.sessions ++ [{ x.2 with mask := x.2.mask ||| mask, writers := [w] }] }

/-- A writer leaves its session on a tile, which ends with the last of its writers (R165, R167): the state, and whether a
partial session has ended, whose other writers are charged with it. DEDUCED (notes/assumptions/17.md). -/
def State.sessLeave (s : State) (w : Writer) (key : Nat) : State × Bool :=
  match s.sessOn key with
  | none => (s, false)
  | some x =>
    let more := x.writers.filter (· != w)
    if more.isEmpty then
      let t := ({ s with sessions := s.sessions.filter fun y => y.key != key }).endSession { x with writers := [], left := x.left ++ [w] }
      if maskFull x.mask then (t, false) else (t.charge (x.left.filter (· != w)), true)
    else
      let go := { x with writers := more, left := x.left.filter (· != w) ++ [w] }
      ({ s with sessions := s.sessions.map fun y => if y.key = key then go else y }, false)

/-- The nibble mask of `n` bytes from an offset in a tile. -/
def byteMask (off n : Nat) : BitVec 8192 := ((1#8192 <<< (2 * n)) - 1) <<< (2 * off)

/-! ### Reading and writing physical memory -/

/-- The key of a held byte (R285). -/
def heldKey (prio : Bool) (vdie a : Nat) : Nat := ((if prio then 33 else 1) + vdie) * 2 ^ 48 + a

/-- One byte as the focused strand's die sees it: its own held write first, then the committed contents (R285). -/
def State.rdByte (s : State) (a : Nat) : Byte :=
  if (s.placeOf a).heldKind then (sget none s.held (heldKey s.cur.prio s.cur.vdie a)).getD (rdMem s.mem a)
  else rdMem s.mem a

/-- Consecutive bytes as the focused strand's die sees them. -/
def State.rdBytes (s : State) (a : Nat) : Nat → List Byte
  | 0 => []
  | n + 1 => s.rdByte a :: s.rdBytes (a + 1) n

/-- Read `n` bytes at this tick, and whether an expired tile was read: an address that makes no access reads zero (R155); an
expired tile reads zero (R163, R164). The bytes lie in one granule or one tile. -/
def State.readAt (s : State) (a n : Nat) : List Byte × Bool :=
  if !s.answers a then (List.replicate n 0, false)
  else match s.placeOf a with
    | .tile slot tile _ => if s.liveAt (tileKey slot tile) s.z0 then (s.rdBytes a n, false) else (List.replicate n 0, true)
    | _ => (s.rdBytes a n, false)

/-- A read of these bytes meets a busy window at this tick, and moves on (R162). -/
def State.readBusy (s : State) (a : Nat) : Bool :=
  match s.placeOf a with | .tile slot tile _ => s.answers a && s.tileBusy (tileKey slot tile) | _ => false

/-- The granules that a BD's region holds (R324). -/
def State.heldGranules (s : State) (prio : Bool) (k : Nat) : List Nat :=
  let own := s.held.filterMap fun c =>
    let a := c.1 % 2 ^ 48
    let p := decide (33 ≤ c.1 / 2 ^ 48)
    let kk := match s.placeOf a with | .hbm b => b - 13 | _ => (a / 4096) % s.nBD
    if p = prio && kk = k then some (a / 64) else none
  own.dedup

/-- The BD region of a held write (R323). -/
def State.cbOf (s : State) (a : Nat) : Nat := match s.placeOf a with | .hbm b => b - 13 | _ => (a / 4096) % s.nBD

/-- Whether a held write finds an entry (R324): one exists for its granule, or fewer than CBCOUNT are taken. -/
def State.heldRoom (s : State) (a : Nat) : Bool :=
  let k := s.cbOf a
  let g := s.heldGranules s.cur.prio k
  g.contains (a / 64) || decide (g.length < (s.launch.cb.getD k (0, 0)).2)

/-- Hold consecutive bytes for commit (R285). -/
def State.holdBytes (s : State) (a : Nat) : List Byte → State
  | [] => s
  | b :: r => ({ s with held := sset none s.held (heldKey s.cur.prio s.cur.vdie a) (some b) }).holdBytes (a + 1) r

/-- Write inbox bytes in memory for a writer in a slot and cell, which stand over any local write of this tick (R57, R157). -/
def State.inboxWrite (s : State) (slot cell a : Nat) (bytes : List Byte) : State :=
  { s with mem := wrMems s.mem a bytes, inboxes := s.inboxes ++ [{ slot := slot, cell := cell, addr := a, bytes := bytes }] }

/-- Write inbox bytes: into the cell's registers, or into the shadow bank when those of the writer's own launch lie there (R57,
R314). The only context of a cell keeps its registers in place when it is swapped out, so that a write reaches them. -/
def State.wrInbox (s : State) (slot cell off : Nat) (bytes : List Byte) : State :=
  let hit := fun (c : Strand) => c.inboxOut && c.prio == s.cur.prio && c.status != .idle && c.cell == cell
    && ((s.launchD c.prio).vd c.vdie).slot == slot
  if s.others.any hit then
    let put := fun (c : Strand) =>
      let k := 56 + off / 8
      let old := leBytes 8 (sget 0 c.x k).toNat
      let new := old.take (off % 8) ++ bytes ++ old.drop (off % 8 + bytes.length)
      { c with x := sset 0 c.x k (BitVec.ofNat 64 (leNat new)) }
    { s with others := s.others.map fun c => if hit c then put c else c }
  else s.inboxWrite s.slotNo s.cur.cell (inboxBase slot cell + off) bytes

/-- An access of a byte that writes nothing and takes a bus error: no die answers (R155), or the byte is text that a present
launch has locked (R92). -/
def State.refuses (s : State) (acc : Acc) : Bool := !acc.answers || s.lockedByte acc.phys

/-- Write bytes that lie in one granule, outside any fleeting session (R274): discarded where the write is refused; held for
commit in HBM and host memory unless the page is SO (R282, R285, R324); the semaphore pages 62 and 63 are read-only (Table
9-5). -/
def State.writeRaw (s : State) (acc : Acc) (bytes : List Byte) : State :=
  if s.refuses acc then s
  else
    let s := if acc.so then s.modLaunch s.cur.prio fun l => { l with soWritten := true } else s
    match s.placeOf acc.phys with
    | .hbm _ | .host _ =>
      if acc.so then { s with mem := wrMems s.mem acc.phys bytes }
      else if s.heldRoom acc.phys then s.holdBytes acc.phys bytes
      else s.markDie s.cur.prio
        { vdie := s.cur.vdie, cause := 0x15, tick := s.z0, dieLevel := true, lstrand := 0, cell := 0,
          detail := BitVec.ofNat 64 acc.phys }
    | .inbox n c o => s.wrInbox n c o bytes
    | .sync _ o => if o < 62 * 4096 then { s with mem := wrMems s.mem acc.phys bytes } else s
    | .unmapped => s
    | _ => { s with mem := wrMems s.mem acc.phys bytes }

/-- A write that is a session of its own has written nibbles of a tile at this tick (R165, R166): it joins a session that this
tick has opened, else it opens and ends one. A scalar store that joins one has left it, and waits for its end.
DEDUCED (notes/assumptions/17.md). -/
def State.sessOwn (s : State) (key : Nat) (mask : BitVec 8192) (w : Option Writer := none) : State :=
  let s := s.tagTile key
  let add := fun x : OpenSess => { x with mask := x.mask ||| mask, left := x.left ++ w.toList }
  match s.sessOn key with
  | some _ => { s with sessions := s.sessions.map fun x => if x.key = key then add x else x }
  | none =>
    let x := s.rejoin none key
    let y := add x.2
    let t := x.1.endSession y
    if maskFull y.mask then t else t.charge y.left

/-- Perform a write that is a session of its own (R165, R166): a scalar store, HST, PSAVE, an atomic or a host write. -/
def State.writeOwn (s : State) (acc : Acc) (bytes : List Byte) (w : Option Writer := none) : State :=
  let t := s.writeRaw acc bytes
  match s.placeOf acc.phys with
  | .tile slot tile off => if s.refuses acc then t else t.sessOwn (tileKey slot tile) (byteMask off bytes.length) w
  | _ => t

/-! ### Page tables -/

/-- A leaf of the page tables (Table 9-4): the entry, the physical address it maps the byte to, and its size. -/
structure Leaf where
  pte : Word
  phys : Nat
  size : Nat
  deriving DecidableEq, Repr

/-- Read a page table entry; a die that does not answer reads zero (R158). -/
def State.pte (s : State) (table i : Nat) : Word :=
  if s.answers (table + 8 * i) then BitVec.ofNat 64 (leNat (rdMems s.mem (table + 8 * i) 8)) else 0

/-- The frame of an entry. -/
def pteFrame (e : Word) : Nat := bitsOf e.toNat 16 32 * 65536

/-- The reserved bits, ORDK 11, WR without RD, and PROFILE with DIGEST, that make an entry bad (R154). -/
def pteBad (e : Word) : Bool :=
  !e.getLsbD 0 || bitsOf e.toNat 12 4 != 0 || bitsOf e.toNat 48 16 != 0 || bitsOf e.toNat 7 2 == 3
    || (e.getLsbD 3 && !e.getLsbD 2) || (e.getLsbD 10 && e.getLsbD 11)

/-- A leaf maps only a range of its own world, the whole of it (R339). -/
def State.leafWorldOk (s : State) (l : Leaf) : Bool :=
  let a := l.phys / l.size * l.size
  if l.pte.getLsbD 6 then s.allSecure [] a l.size else s.noneSecure a l.size

/-- The walk of R153 with the faults of R154 and R339; none is a translation fault. -/
def State.walk (s : State) (root va : Nat) : Option Leaf :=
  if 2 ^ 54 ≤ va then none else
  let e1 := s.pte root (bitsOf va 42 12)
  if pteBad e1 || e1.getLsbD 1 then none else
  let e2 := s.pte (pteFrame e1) (bitsOf va 29 13)
  if pteBad e2 then none else
  if e2.getLsbD 1 then
    if bitsOf (pteFrame e2) 16 13 != 0 then none else
    let l : Leaf := { pte := e2, phys := pteFrame e2 + va % 2 ^ 29, size := 2 ^ 29 }
    if s.leafWorldOk l then some l else none
  else
  let e3 := s.pte (pteFrame e2) (bitsOf va 16 13)
  if pteBad e3 || !e3.getLsbD 1 then none else
  let l : Leaf := { pte := e3, phys := pteFrame e3 + va % 2 ^ 16, size := 2 ^ 16 }
  if s.leafWorldOk l then some l else none

/-- What an access needs of its page (R115, R150). -/
structure Need where
  rd : Bool := false
  wr : Bool := false
  ex : Bool := false
  /-- A ZST, which needs PROFILE (R137). -/
  zst : Bool := false
  /-- An atomic, whose target check replaces check 5 (R301). -/
  atomic : Bool := false
  /-- A block-form operand, which needs BLOCK (R150). -/
  block : Bool := false
  deriving DecidableEq, Repr

/-- The targets of a SCHED compute phase: the cell's own scratchpad and accumulators, its die's fleeting memory and its
die's sync pages (R115 check 6). -/
def State.isLocal (s : State) (a : Nat) : Bool :=
  match s.placeOf a with
  | .scratch n c _ => n == s.slotNo && c == s.cur.cell
  | .acc n c _ => n == s.slotNo && c == s.cur.cell
  | .tile n _ _ => n == s.slotNo
  | .sync n _ => n == s.slotNo
  | _ => false

/-- The target check of an atomic: sync-engine pages 0 to 61, within the context's allocation (R301, R72). -/
def State.atomicTarget (s : State) (a : Nat) : Option Nat :=
  match s.placeOf a with
  | .sync _ o =>
    if o < 62 * 4096 then
      if s.ctx.spg0 ≤ o / 4096 ∧ o / 4096 < s.ctx.spg0 + s.ctx.spgn then none else some Cause.privilege
    else some Cause.translation
  | _ => some Cause.translation

/-- Check 5 of R115 and its variants (R137, R150, R301). A plain store is one that is no atomic, as R290 has it, so that check 5 turns down
a store with REL to a sync page as well. DEDUCED (notes/assumptions/12.md). -/
def State.check5 (s : State) (n : Need) (l : Leaf) : Option Nat :=
  if n.atomic then s.atomicTarget l.phys
  else if n.zst then (if l.pte.getLsbD 10 then none else some Cause.quarantine)
  else if n.wr then (match s.placeOf l.phys with | .sync _ _ => some Cause.syncStore | _ => none)
  else none

/-- Checks 2 to 6 of R115 on one virtual address, in order: the cause of the first that fails, or the access. -/
def State.access (s : State) (n : Need) (ea : Word) : Except Nat Acc :=
  match s.walk s.launch.root ea.toNat with
  | none => .error Cause.translation
  | some l =>
    if (n.rd && !l.pte.getLsbD 2) || (n.wr && !l.pte.getLsbD 3) || (n.ex && !l.pte.getLsbD 4) || (n.block && !l.pte.getLsbD 9)
    then .error Cause.translation
    else if l.pte.getLsbD 6 && !s.launch.secure then .error Cause.world
    else if l.pte.getLsbD 5 then .error Cause.privilege
    else match s.check5 n l with
      | some c => .error c
      | none =>
        if s.compute && !s.isLocal l.phys then .error Cause.nonLocal
        else .ok { phys := l.phys, so := bitsOf l.pte.toNat 7 2 == 0, uo := bitsOf l.pte.toNat 7 2 == 2,
                   answers := s.answers l.phys }

/-! ### Routes and bounds -/

/-- The slots adjacent to a slot (Table 1-5). -/
def adjacent (a b : Nat) : Bool :=
  let one := fun x y : Nat =>
    (decide (x < 8) && ((decide (y < 8) && (x == y + 1 || y == x + 1)) || y == 9 + x / 2))
      || (x == 8 && (y == 7 || (decide (9 ≤ y) && decide (y ≤ 12))))
      || (decide (9 ≤ x) && decide (x ≤ 12) && (y == 2 * (x - 9) || y == 2 * (x - 9) + 1 || y == 8 || y == 17 + (x - 9) / 2))
      || (decide (17 ≤ x) && decide (x ≤ 18) && (y == 9 + 2 * (x - 17) || y == 10 + 2 * (x - 17)))
      || (decide (19 ≤ x) && (slotCls y == .md || slotCls y == .vd || slotCls y == .gd))
  one a b || one b a

/-- The latency of a route without a context: the least class its two slots allow (R344). -/
def routeLat (a b : Nat) : Nat :=
  if slotCls a = .bd ∨ slotCls b = .bd then 44 else if adjacent a b then 20 else 36

/-- The bound of a scalar access (Table 7-6). The table has no row for an access through a page that maps the own cell's
inbox registers: that it takes the 12 of another cell of the die is a DESIGN CHOICE (notes/assumptions/6.md). -/
def State.scalarBound (s : State) (a : Nat) : Nat :=
  if !s.answers a then 12
  else match s.placeOf a with
    | .hbm _ => 268
    | .host _ => 6000
    | .scratch n c _ => if n = s.slotNo then (if c = s.cur.cell then 6 else 12) else 2 * routeLat s.slotNo n + 12
    | .acc n c _ => if n = s.slotNo then (if c = s.cur.cell then 6 else 12) else 2 * routeLat s.slotNo n + 12
    | .tile n _ _ => if n = s.slotNo then 10 else 2 * routeLat s.slotNo n + 12
    | .sync n _ => if n = s.slotNo then 12 else 2 * routeLat s.slotNo n + 12
    | .inbox n _ _ => if n = s.slotNo then 12 else 2 * routeLat s.slotNo n + 12
    | .unmapped => 12

end Sys2Proof.Machine
end

