-- ==== Sys2Proof/Machine/Operands.lean ====
section
/-! DEFINITION. The operand forms: what a register read returns before its bound, semaphore fields, stepped fields of an
RPT unit, and the fields of a handle record. -/

namespace Sys2Proof.Machine

/-! ### Register reads -/

/-- The number of a predicate or a handle among the registers that hazards track. -/
def regP (k : Nat) : Nat := 64 + k
def regH (k : Nat) : Nat := 72 + k

/-- A SCHED read of a register is defined once every producer's bound has passed (R96, R343). -/
def State.defined (s : State) (r : Nat) : Bool :=
  s.cur.busy.all fun b => b.reg != r || (match b.sched with | some t => decide (t ≤ s.z0) | none => false)

/-- A LOCK read or write of a register waits for every earlier producer (R97, conditions 1 and 2). -/
def State.lockBusy (s : State) (r : Nat) : Bool :=
  s.cur.busy.any fun b => b.reg == r && (match b.lock with | some t => decide (s.z0 < t) | none => true)

/-- Read a scalar register as an operand: undefined before its producer's bound in SCHED mode (R5, R95).
DEDUCED (notes/assumptions/32.md). -/
def State.rx (s : State) (k : Nat) : Word :=
  if k ≠ 0 ∧ s.sched ∧ ¬ s.defined k then Config.undefReg s.free k else s.getX k

/-- Read a predicate as an operand (R5, R53). DEDUCED (notes/assumptions/32.md). -/
def State.rp (s : State) (k : Nat) : Bool :=
  if k ≠ 0 ∧ s.sched ∧ ¬ s.defined (regP k) then (Config.undefReg s.free (regP k)).getLsbD 0 else s.getP k

/-- Read a handle register as an operand (R5): the four quarters are undefined together.
DEDUCED (notes/assumptions/32.md). -/
def State.rh (s : State) (k : Nat) : HRec :=
  if s.sched ∧ ¬ s.defined (regH k) then
    Config.undefReg s.free (1000 + 4 * k) ++ Config.undefReg s.free (1001 + 4 * k) ++ Config.undefReg s.free (1002 + 4 * k)
      ++ Config.undefReg s.free (1003 + 4 * k)
  else s.getH k

/-- The guard of a word (R45): the predicate of PG [2:0], in the sense of PG [3]. -/
def State.guard (s : State) (pg : BitVec 4) : Bool := s.rp (pg.extractLsb' 0 3).toNat != pg.getLsbD 3

/-! ### Semaphore fields -/

/-- A semaphore field resolved (R48): no semaphore, a number, or an illegal word. -/
inductive SemRef where
  | absent
  | sem (n : Nat)
  | illegal
  deriving DecidableEq, Repr

/-- Resolve a semaphore field with the CSRs of the moment (R48). -/
def State.resolveSem (s : State) (k : BitVec 6) : SemRef :=
  if k = 0 then .absent
  else if k.toNat < 32 then .sem (s.cur.sembase.toNat + k.toNat - 1)
  else if s.cur.semdepth.toNat = 0 ∨ 32 < s.cur.semdepth.toNat then .illegal
  else .sem (s.cur.sembase.toNat + 31 + (k.toNat - 32 + s.cur.semrot.toNat) % s.cur.semdepth.toNat)

/-- The strand's semaphore allocation: the whole range its context owns on its die (R48, R132). -/
def State.semOwned (s : State) (n : Nat) : Bool :=
  decide (s.ctx.sem0 ≤ n ∧ n < s.ctx.sem0 + s.vd.cells * s.ctx.semn)

/-- Where a semaphore's count lies: sync-engine pages 62 and 63 (Table 9-5). -/
def semAddr (slot n : Nat) : Nat := winBase slot + 0x08000000 + 62 * 4096 + 2 * n

/-- The count of a semaphore (R102). -/
def State.semCount (s : State) (slot n : Nat) : Nat := leNat (rdMems s.mem (semAddr slot n) 2)

/-- Set the count of a semaphore. -/
def State.setSem (s : State) (slot n v : Nat) : State := { s with mem := wrMems s.mem (semAddr slot n) (leBytes 2 v) }

/-- Grant an await when the count allows it: the count falls by one (R102). -/
def State.takeSem (s : State) (slot n : Nat) : Option State :=
  if 1 ≤ s.semCount slot n then some (s.setSem slot n (s.semCount slot n - 1)) else none

/-! ### RPT steps -/

/-- A signed 3-bit step (R56). -/
def rptStep (b : BitVec 3) : Int := b.toInt

/-- Step one field of a word `i` times: none when the value leaves the field (R56). -/
def stepField (w : BitVec 48) (lo n i : Nat) (d : BitVec 3) : Option (BitVec 48) :=
  let v : Int := ((w.extractLsb' lo n).toNat : Int) + i * rptStep d
  if v < 0 ∨ 2 ^ n ≤ v then none
  else some ((w &&& ~~~(BitVec.ofNat 48 ((2 ^ n - 1) * 2 ^ lo))) ||| BitVec.ofNat 48 (v.toNat * 2 ^ lo))

/-- The stepped fields of a MAJ: (D, A, B) positions and widths, none for a MAJ that RPT may not govern (R56). -/
def rptLayout (maj : Nat) : Option (Nat × Nat × Nat × Nat × Bool) :=
  if [0x01, 0x05, 0x06, 0x07, 0x0A, 0x10].contains maj then some (26, 20, 14, 6, true)
  else if [0x02, 0x03, 0x04].contains maj then some (30, 24, 0, 6, false)
  else if [0x08, 0x09, 0x11].contains maj then some (28, 22, 0, 6, false)
  else if (0x20 ≤ maj ∧ maj ≤ 0x23) ∨ (0x28 ≤ maj ∧ maj ≤ 0x2C) ∨ maj = 0x30 ∨ maj = 0x32 ∨ maj = 0x34 then
    some (28, 24, 20, 4, true)
  else none

/-- Repetition `i` of a governed word (R56). -/
def rptWord (w : BitVec 48) (r : RptPfx) (i : Nat) : Option (BitVec 48) :=
  match rptLayout (w.extractLsb' 42 6).toNat with
  | none => none
  | some (pd, pa, pb, n, hasB) =>
    if !hasB && r.stepB != 0 then none
    else match stepField w pd n i r.stepD with
      | none => none
      | some w1 => match stepField w1 pa n i r.stepA with
        | none => none
        | some w2 => if hasB then stepField w2 pb n i r.stepB else some w2

/-- Every repetition must decode, or the unit is an illegal word (R56). -/
def rptOk (w : BitVec 48) (r : RptPfx) : Bool :=
  (upFrom 0 (r.count.toNat + 1)).all fun i =>
    match rptWord w r i with
    | none => false
    | some v => match decode v with | .ok _ => true | .error _ => false

/-! ### Handle records -/

/-- The low bit and the width of a field of the record (Tables 9-1 and 11-2). -/
def hField (fld : Nat) : Nat × Nat :=
  match fld with
  | 0 => (0, 54) | 1 => (54, 2) | 2 => (56, 8) | 3 => (64, 16) | 4 => (80, 16) | 5 => (96, 16) | 6 => (112, 16)
  | 7 => (128, 32) | 8 => (160, 32) | 9 => (192, 32) | 10 => (224, 4) | _ => (228, 2)

/-- A field of a record, as a number. -/
def hGet (h : HRec) (fld : Nat) : Nat := bitsOf h.toNat (hField fld).1 (hField fld).2

/-- A record with one field replaced by the low bits of a value. -/
def hSet (h : HRec) (fld v : Nat) : HRec :=
  let (lo, n) := hField fld
  (h &&& ~~~(BitVec.ofNat 256 ((2 ^ n - 1) * 2 ^ lo))) ||| BitVec.ofNat 256 ((v % 2 ^ n) * 2 ^ lo)

def hBase (h : HRec) : Nat := hGet h 0
def hSpace (h : HRec) : Nat := hGet h 1
def hFmt (h : HRec) : Nat := hGet h 2
def hExt (h : HRec) (k : Nat) : Nat := hGet h (3 + k)
def hBcast (h : HRec) (k : Nat) : Bool := bitOf (hGet h 10) k
def hEdge (h : HRec) : Nat := hGet h 11

/-- The byte stride of dimension k, from 1 to 3: zero when BCAST bit k is set (R144). -/
def hStride (h : HRec) (k : Nat) : Int := if hBcast h k then 0 else toSInt 32 (hGet h (6 + k))

/-- A reserved format code (R21). -/
def fmtReserved (f : Nat) : Bool :=
  if f < 128 then f == 9 || decide (0x10 ≤ f)
  else !([0x86, 0x87, 0x88, 0x8A, 0x8B, 0x8C, 0x8D].contains f)

/-- A block form (R21). -/
def fmtBlock (f : Nat) : Bool := decide (128 ≤ f)

/-- Element bits of a format (Table 2-1). -/
def fmtBits (f : Nat) : Nat :=
  match f % 128 with
  | 0x01 | 0x04 | 0x0E => 32
  | 0x02 | 0x03 | 0x05 => 16
  | 0x08 | 0x0C => 4
  | 0x0D => 6
  | 0x0F => 64
  | _ => 8

/-- Bits that an element occupies outside blocks: an LNS6 element takes a byte (R25). -/
def fmtStore (f : Nat) : Nat := if f % 128 = 0x0D then 8 else fmtBits f

/-- Lanes of one vector (R144, Table 15-1). -/
def fmtLanes (f : Nat) : Nat := if fmtBlock f then 384 else 4096 / fmtStore f

/-- The multiple that BASE and the strides must be (R144). -/
def fmtAlign (f : Nat) : Nat := if fmtBlock f then 64 else if fmtStore f < 8 then 1 else fmtStore f / 8

/-- The checks of R143 on a record. -/
def hBad (h : HRec) : Bool :=
  bitsOf h.toNat 230 26 != 0 || fmtReserved (hFmt h) || hEdge h == 3
    || (fmtBlock (hFmt h) && hExt h 0 % 48 != 0)

/-- Vectors of one run of dimension 0 (R144). -/
def hRunVecs (h : HRec) : Nat := ceilDiv (hExt h 0) (fmtLanes (hFmt h))

/-- Runs of the sweep: EXT1 × EXT2 × EXT3. -/
def hRuns (h : HRec) : Nat := hExt h 1 * hExt h 2 * hExt h 3

/-- NV, the vectors of the sweep (R144). -/
def hNV (h : HRec) : Nat := hRunVecs h * hRuns h

/-- Elements of the sweep. -/
def hElems (h : HRec) : Nat := hExt h 0 * hRuns h

/-- The alignment rule of R144: BASE, and every stride whose BCAST bit is 0. -/
def hMisaligned (h : HRec) : Bool :=
  let al := fmtAlign (hFmt h)
  hBase h % al != 0 || [1, 2, 3].any fun k => !hBcast h k && (hStride h k) % (al : Int) != 0

end Sys2Proof.Machine
end

