-- ==== Sys2Proof/Machine/Issue.lean ====
section
/-! DEFINITION. Issuing one word (R52 to R56, R95, R97): the checks in their order, the guard, the hazards that hold a
unit, and where the next unit lies (R54, R56, R127). -/

namespace Sys2Proof.Machine

/-- What a word's own entry does once it may issue. -/
inductive Eff where
  /-- The effect took place; go on to the next unit. -/
  | done (s : State)
  /-- The effect took place and control transfers. -/
  | jump (s : State) (target : Word)
  /-- A check of the entry failed: a precise trap, and nothing of the word took effect. -/
  | trap (code : Nat) (tval : Word)
  /-- The unit cannot issue at this tick. -/
  | hold (s : State)
  /-- The effect also decides what the strand does next. -/
  | raw (s : State)

/-- What a word reads, writes and needs, as far as hazards go. -/
structure Use where
  /-- Registers read and written: x0-x63, 64 + p, 72 + h. -/
  reads : List Nat := []
  writes : List Nat := []
  /-- The engine queue that takes the word (R98). -/
  queue : Option Nat := none
  /-- A scalar access on path SR or SW, which fences and acquires may hold (R280, R281). -/
  sr : Bool := false
  sw : Bool := false
  /-- The CSR that the word reads (R97). -/
  csr : Option Nat := none
  deriving DecidableEq, Repr

/-! ### The next unit -/

/-- The block of eight words that holds an address: its first byte (R44). -/
def State.blockOf (s : State) (pc : Word) : Word :=
  BitVec.ofInt 64 (s.launch.origin.toNat + ((pc.toNat : Int) - s.launch.origin.toNat) / 48 * 48)

/-- A block of the code store or the stream buffer (R92): the first 1024 blocks of the strand's text section, or one of
the eight blocks fetched last. -/
def State.resident (s : State) (blk : Word) : Bool :=
  (s.launch.text.any fun t =>
    t.1 == s.vd.cls && decide (t.2.1.toNat ≤ s.vd.entry.toNat ∧ s.vd.entry.toNat < t.2.1.toNat + t.2.2)
      && decide (t.2.1.toNat ≤ blk.toNat ∧ blk.toNat < t.2.1.toNat + min t.2.2 49152))
    || s.cur.stream.contains blk

/-- Start the fetch of the block of the word at an address when it is not resident (R92). A fetch that has started goes on wherever
control goes. DESIGN CHOICE (notes/assumptions/3.md). DEDUCED (notes/assumptions/11.md). -/
def State.fetchAt (s : State) (pc : Word) : State :=
  let blk := s.blockOf pc
  if s.resident blk || s.cur.fetching.any fun f => f.1 == blk then s
  else s.modCur fun c =>
    { c with fetching := c.fetching ++ [(blk, s.z0 + Config.fetchTicks s.z0 (s.slotNo * 16 + s.cur.cell) blk)] }

/-- Start the fetch of the next word's block (R92). DEDUCED (notes/assumptions/11.md). -/
def State.startFetch (s : State) : State := s.fetchAt s.cur.pc

/-- The six bytes of text at an address, through translation with execute right; none where a byte cannot be fetched
(R93). -/
def State.fetchBytes (s : State) (pc : Word) : Option (List Byte) :=
  (upFrom 0 6).mapM fun i =>
    match s.walk s.launch.root (pc + BitVec.ofNat 64 i).toNat with
    | some l => if l.pte.getLsbD 4 && !l.pte.getLsbD 5 && (!l.pte.getLsbD 6 || s.launch.secure) then some (if s.answers l.phys then rdMem s.mem l.phys else 0)
                else none
    | none => none

/-- The word at an address (R44). -/
def State.fetchWord (s : State) (pc : Word) : Option (BitVec 48) := (s.fetchBytes pc).map wordOfBytes

/-- Why a byte of text cannot be fetched (R77, R93), if it cannot. -/
def State.fetchFault (s : State) (a : Word) : Option Nat :=
  match s.walk s.launch.root a.toNat with
  | none => some Cause.translation
  | some l =>
    if !l.pte.getLsbD 4 then some Cause.translation
    else if l.pte.getLsbD 6 && !s.launch.secure then some Cause.world
    else if l.pte.getLsbD 5 then some Cause.privilege
    else none

/-- The first of `n` bytes from an address on that cannot be fetched, and why: the bytes of one 64 KiB page go together (R93, R153). -/
def State.failsFrom (s : State) (a : Word) (n : Nat) : Option (Nat × Word) :=
  let next := BitVec.ofNat 64 ((a.toNat / 65536 + 1) * 65536)
  [a, next].findSome? fun b =>
    if b = a ∨ (a.toNat % 65536 + n > 65536) then (s.fetchFault b).map fun c => (c, b) else none

/-- The first byte that keeps the word at an address from being fetched, and why (R93): of the word itself, then of its block.
DEDUCED (notes/assumptions/11.md). -/
def State.fetchFails (s : State) (pc : Word) : Option (Nat × Word) :=
  (s.failsFrom pc 6).or (s.failsFrom (s.blockOf pc) 48)

/-- The loop-back rule (R127) at the word that lies at `pc`: the next address and the loop stack. -/
def loopBack (pc : Word) : List LoopEnt → Word × List LoopEnt
  | [] => (pc + 6, [])
  | e :: r =>
    if e.last = pc then
      if 1 < e.remaining then (e.first, { e with remaining := e.remaining - 1 } :: r) else loopBack pc r
    else (pc + 6, e :: r)

/-- Where the unit after the present word lies, when nothing transfers (R56, R127). -/
def Strand.nextPc (c : Strand) : Word :=
  if (c.pfx.bind Pfx.rpt).any fun r => decide (c.rep < r.count.toNat) then c.pc else (loopBack c.pc c.loops).1

/-- A taken transfer pops every entry whose body does not hold the target (R127). -/
def popLoops (target : Word) : List LoopEnt → List LoopEnt
  | [] => []
  | e :: r =>
    if decide (e.first.toNat ≤ target.toNat) && decide (target.toNat ≤ e.last.toNat) then e :: r else popLoops target r

/-- The next planned slot: HOLD spaces units in SCHED mode and is ignored in LOCK (R54, R97). -/
def State.nextSlot (s : State) (hold : Nat) : Nat := s.z0 + 1 + (if s.sched then hold else 0)

/-- Go to an address with the next planned slot (R125). -/
def State.goTo (s : State) (hold : Nat) (pc : Word) (loops : List LoopEnt) : State :=
  (s.modCur fun c => { c with pc := pc, loops := loops, pfx := none, rep := 0, since := none, slot := s.nextSlot hold }).startFetch

/-- After a unit that made no taken transfer: the next repetition of an RPT unit (R56), or the next unit (R127). A repetition at or above
the unit's count, which only ERET can resume at (R131) and of which the manual says nothing, is the unit's last.
DEDUCED (notes/assumptions/9.md). -/
def State.advance (s : State) (hold : Nat) : State :=
  match s.cur.pfx.bind Pfx.rpt with
  | some r =>
    if s.cur.rep < r.count.toNat then
      s.modCur fun c => { c with pfx := c.pfx.map fun p => { p with atTick := none }, rep := c.rep + 1, since := none,
                                 slot := s.nextSlot hold }
    else let n := loopBack s.cur.pc s.cur.loops; s.goTo hold n.1 n.2
  | none => let n := loopBack s.cur.pc s.cur.loops; s.goTo hold n.1 n.2

/-- After a taken transfer (R125, R127). -/
def State.transfer (s : State) (hold : Nat) (target : Word) : State := s.goTo hold target (popLoops target s.cur.loops)

/-! ### Holding a unit -/

/-- The engine steps of this tick have been taken. -/
def State.stepped (s : State) : Bool := decide (s.z0 < s.served)

/-- A queue, or the sequencer as number 6, has tried at this tick: it tries again after the engine steps of the tick, which may end
what it waits for, and then at the next tick. `polled` counts half ticks. DESIGN CHOICE (notes/assumptions/8.md). -/
def State.poll (s : State) (q : Nat) : State :=
  s.modCur fun c => { c with polled := sset 0 c.polled q (2 * s.z0 + 1 + s.stepped.toNat) }

/-- The queue or sequencer may try now. -/
def State.polls (s : State) (c : Strand) (q : Nat) : Bool := decide (sget 0 c.polled q ≤ 2 * s.z0 + s.stepped.toNat)

/-- The unit is held for the whole of this tick, unplanned: in SCHED mode the die is late (R95).
DESIGN CHOICE (notes/assumptions/7.md). -/
def State.holdTick (s : State) : State := s.lateIssue.modCur fun c => { c with slot := s.z0 + 1 }

/-- A hazard holds the unit: it tries again after the engine steps of this tick, and then at the next (R95, R97). -/
def State.stall (s : State) : State := if s.stepped then s.holdTick else s.poll 6

/-- A wait at dispatch that the schedule did not plan: late unless the engine steps of this tick end it (R100).
DESIGN CHOICE (notes/assumptions/7.md). -/
def State.lateWait (s : State) : State := if s.stepped then s.lateIssue else s

/-- A successor of a fence that has not completed (R280): by class bits. -/
def State.fenced (s : State) (classes : BitVec 10) : Bool := s.cur.fences.any fun f => f.suc &&& classes != 0

/-- The class bits of paths SR and SW (Table 20-1). -/
def scalarClasses (sr sw : Bool) : BitVec 10 := (if sr then 1#10 else 0) ||| (if sw then 2#10 else 0)

/-- Words in one queue (R99). -/
def Strand.queueLen (c : Strand) (q : Nat) : Nat := (c.queue.filter fun w => w.queue == q).length

/-- A floating-point form: FOLDFADD, FOLDFMIN, FOLDFMAX and TAKEFADD. -/
def atomFp (op : Nat) (takes : Bool) : Bool := if takes then op == 8 else decide (8 ≤ op)

/-- An earlier operation of the strand may still write a CSR (R97, condition 1): a floating-point atomic ARITHFLAG, a load of
fleeting memory EXPFLAG, a raise SOVF of SEMDEPTH. Engine words set flags when they complete (R37).
DEDUCED (notes/assumptions/32.md). -/
def State.csrBusy (s : State) (n : Nat) : Bool :=
  if n = 0x018 then
    s.atoms.any (fun a => a.prio == s.cur.prio && a.vdie == s.cur.vdie && a.cell == s.cur.cell && atomFp a.op a.takes)
      || s.cur.pend.any fun p => match p.act with | .applied _ f _ => f != 0 | _ => false
  else if n = 0x019 then
    s.cur.pend.any fun p => match p.act with
      | .sample _ acc _ _ _ => (match s.placeOf acc.phys with | .tile _ _ _ => true | _ => false)
      | _ => false
  else if n = 0x021 then
    s.cur.pend.any (fun p => p.sem.isSome || (match p.act with | .raise _ _ => true | _ => false))
      || s.raises.any fun r => !r.init && r.prio == s.cur.prio && r.vdie == s.cur.vdie && r.cell == s.cur.cell
  else false

/-- The word makes a scalar access on path SR: a load, or a read of an inbox register (Table 20-1).
DEDUCED (notes/assumptions/32.md). -/
def Use.onSr (u : Use) : Bool := u.sr || u.reads.any fun r => decide (56 ≤ r) && decide (r < 64)

/-- An inbox register that is read has an unperformed store of the strand's own through a page that maps it, which program order puts
first (R119, R287). DEDUCED (notes/assumptions/32.md). -/
def State.inboxOwed (s : State) (k : Nat) : Bool :=
  s.cur.pend.any fun p => match p.act with
    | .store acc bytes _ => acc.answers && rangesMeet acc.phys bytes.length (inboxBase s.slotNo s.cur.cell + 8 * (k - 56)) 8
    | _ => false

/-- The hazards of R95 and the interlocks of R97 that the operands decide. DEDUCED (notes/assumptions/32.md). -/
def State.hazard (s : State) (u : Use) : Bool :=
  (!s.sched && ((u.reads ++ u.writes).any (fun r => r != 0 && s.lockBusy r) || u.csr.any s.csrBusy))
    || (match u.queue with | some q => decide (16 ≤ s.cur.queueLen q) | none => false)
    || ((u.onSr || u.sw) && (s.fenced (scalarClasses u.onSr u.sw) || s.cur.pend.any fun p => p.acq))
    || u.reads.any fun r => decide (56 ≤ r) && decide (r < 64) && s.inboxOwed r

/-! ### The checks of R52 -/

/-- MAJ of an instruction's word. -/
def majOf (i : Instr) : Nat := ((encode i).extractLsb' 42 6).toNat

/-- The classes whose cells implement a word's unit (Table 3-3; MAJ 0x1E by its FN6). -/
def unitPresent (c : Cls) (w : BitVec 48) : Bool :=
  let maj := (w.extractLsb' 42 6).toNat
  if 0x20 ≤ maj ∧ maj ≤ 0x23 then c == .md
  else if 0x28 ≤ maj ∧ maj ≤ 0x2C then c == .vd
  else if maj = 0x32 ∨ maj = 0x38 ∨ maj = 0x39 then c == .gd
  else if maj = 0x34 then c == .md || c == .vd || c == .gd
  else if maj = 0x1E then
    if (w.extractLsb' 32 6).toNat = 0 then c == .md
    else if (w.extractLsb' 32 6).toNat = 1 then c == .md || c == .vd
    else true
  else true

/-- The port fields of a vector word, by their low bits, in field order D, A, B, C (R223, Tables 15-4, 15-6, 15-8). -/
def vecPortFields (maj fn : Nat) : List Nat :=
  if maj = 0x28 then
    if fn < 8 ∨ (0x11 ≤ fn ∧ fn ≤ 0x14) ∨ (0x18 ≤ fn ∧ fn ≤ 0x1D) then [28, 24, 20]
    else if (8 ≤ fn ∧ fn ≤ 0xA) ∨ fn = 0x1E then [28, 24, 20, 16]
    else [28, 24]
  else if maj = 0x2A then (if 4 ≤ fn ∧ fn ≤ 6 then [24] else if fn = 0xC then [28, 24, 20] else [28, 24])
  else if maj = 0x2C then (if fn = 0 then [28, 24, 20] else if fn = 3 then [24] else [28])
  else if maj = 0x29 ∨ maj = 0x2B then [28, 24]
  else []

/-- An SPSHAPE or SPLIST whose only fault is a DEST10 [9:4] that is not zero (R265).
DEDUCED (notes/assumptions/19.md). -/
def badTableDest (w : BitVec 48) : Bool :=
  let fn := w.extractLsb' 32 6
  w.extractLsb' 42 6 == 0x39 && (fn == 1 || fn == 2) && w.extractLsb' 8 6 != 0
    && (match decode (w &&& ~~~0x3F00#48) with | .ok _ => true | .error _ => false)

/-- The value that a word which is illegal as it stands reports: the first port above q11 of a vector word that some entry defines
(R223, R247), the handle of a table load (R265); otherwise the word's 48 bits. -/
def illegalTval (w : BitVec 48) : Word :=
  match decode w with
  | .error .reservedMinor => 0#16 ++ w
  | _ =>
    match (vecPortFields (w.extractLsb' 42 6).toNat (w.extractLsb' 32 6).toNat).find? fun lo => 12 ≤ (w.extractLsb' lo 4).toNat with
    | some lo => 0#60 ++ w.extractLsb' lo 4
    | none => if badTableDest w then 0#60 ++ w.extractLsb' 4 4 else 0#16 ++ w


/-- A precise trap of the unit being issued: TPC is its first word, and an RPT unit records its repetition (R52, R56). -/
def State.precise (s : State) (code : Nat) (tval : Word) : State :=
  let rep := if (s.cur.pfx.bind Pfx.rpt).isSome then s.cur.rep else 0
  takeTrap { code := code, tval := tval, tpc := some s.cur.unitPc, rep := rep } s

/-- RPT may govern the word, whose fields are those of repetition 0, at every repetition (R56).
DEDUCED (notes/assumptions/9.md). -/
def Strand.rptFits (c : Strand) (w : BitVec 48) : Bool := (c.pfx.bind Pfx.rpt).all (rptOk w)

/-- The prefix rules on the word that is to issue (R54, R56): the prefixes are well formed, and RPT must be able to govern the word, at
every repetition. A repetition other than 0 issues only after that test of the whole unit (`State.issueNext`).
DEDUCED (notes/assumptions/9.md). -/
def Strand.pfxOk (c : Strand) (w : BitVec 48) : Bool := c.pfx.all (!Pfx.bad ·) && (c.rep != 0 || c.rptFits w)

/-- The value of an illegal word: the unit's first word where its prefixes are at fault, else the word's own (R52, R54).
DEDUCED (notes/assumptions/9.md). -/
def Strand.illegalValue (c : Strand) (w : BitVec 48) : Word :=
  if c.pfxOk w && c.rptFits w then illegalTval w else 0#16 ++ (c.pfx.map Pfx.word).getD w

/-- The operand bits that the die's class asks to be 0 are 0: the preference bit of the engine class that it lacks (R336). -/
def fitsClass (cls : Cls) : Instr → Bool
  | .baskPref _ m => !(m.getLsbD (if cls = .md then 1 else 0))
  | _ => true

/-- Check 3 of R52 passes: the word is well formed, on the strand's die, and its prefixes may govern it. -/
def State.legal (s : State) (i : Instr) : Bool := i.wf && fitsClass s.vd.cls i && s.cur.pfxOk (encode i)

/-- What checks 1 to 3 of R52 find at the word that a unit's prefixes govern: a reserved MAJ, an absent unit, an illegal word. -/
def State.unitFault (s : State) (w : BitVec 48) : Option (Nat × Word) :=
  let illegal := some (Cause.illegal, s.cur.illegalValue w)
  match decode w with
  | .error .reservedMajor => some (Cause.illegal, 0#16 ++ w)
  | .error _ => if unitPresent s.vd.cls w then illegal else some (Cause.absent, 0#16 ++ w)
  | .ok i =>
    if !unitPresent s.vd.cls w then some (Cause.absent, 0#16 ++ w)
    else if s.legal i then none else illegal

/-- The tick, on the z0 scale, before which an AT prefix holds the unit (R55). -/
def State.atTarget (s : State) : Option Nat :=
  (s.cur.pfx.bind Pfx.atTick).map fun t => s.launch.l0 + s.launch.base + t.toNat

/-- The planned slot of the next unit: that of R54, or its AT target (R95). -/
def State.planned (s : State) : Nat :=
  match s.cur.pfx with
  | some _ => max s.cur.slot (s.atTarget.getD 0)
  | none =>
    match (s.fetchWord s.cur.pc).map decode with
    | some (.ok (.atTick t)) => max s.cur.slot (s.launch.l0 + s.launch.base + t.toNat)
    | _ => s.cur.slot

/-- A block that has not been fetched holds the unit to the next tick: a hazard from the unit's planned slot on (R92, R95).
DEDUCED (notes/assumptions/11.md). -/
def State.awaitBlock (s : State) : State :=
  if s.z0 < s.planned then s.modCur fun c => { c with slot := s.z0 + 1 } else s.holdTick

/-- The guard predicate's register number, when it names one other than p0. -/
def guardReg (pg : BitVec 4) : List Nat := if pg.extractLsb' 0 3 = 0 then [] else [regP (pg.extractLsb' 0 3).toNat]

/-- A squashed matrix-queue word still clears the chain latch (R183). -/
def State.squash (s : State) (i : Instr) : State :=
  if 0x20 ≤ majOf i ∧ majOf i ≤ 0x23 then s.modCur fun c => { c with chain := none } else s

/-- The HOLD and guard fields of a word; an event has none. -/
def wordCtl (i : Instr) : Ctl := { pg := (encode i).extractLsb' 38 4, hold := (encode i).extractLsb' 0 4 }

/-- Finish a word: apply what its entry did. -/
def finish (i : Instr) (s0 : State) : Eff → State
  | .done s => s.advance (wordCtl i).hold.toNat
  | .jump s t => s.transfer (wordCtl i).hold.toNat t
  | .trap code tval => s0.precise code tval
  | .hold s => s.stall
  | .raw s => s

/-- The count of free values moves on with each word that issues, so that two reads of undefined registers share none.
DESIGN CHOICE (notes/assumptions/2.md). -/
def State.begun (s : State) : State := { s with free := s.free + 1 }

/-- Issue a word whose checks 1 to 3 pass: the AT target (R55), the guard (R53), the hazards (R95, R97), and then the
entry itself. -/
def issueChecked (i : Instr) (u : Use) (s : State) (eff : State → Eff) : State :=
  let c := wordCtl i
  match s.atTarget with
  | some t =>
    if s.z0 < t then s.modCur fun r => { r with slot := t }
    else go c (if t < s.z0 then s.lateIssue else s)
  | none => go c s
where
  /-- From the guard on. -/
  go (c : Ctl) (s : State) : State :=
    if !s.sched && (guardReg c.pg).any s.lockBusy then s.stall
    else if !s.guard c.pg then (s.squash i).advance c.hold.toNat
    else if s.hazard u then s.stall
    else finish i s (eff s)

/-- Issue a word (R52): an absent unit first, then an illegal word, then a prefix that may not govern it, reported at the
unit's first word (R54, R56), then the rest. A unit whose AT target lies ahead takes those traps at its earliest slot, before it
waits for the target (R55). With no strand running on the focused cell there is nothing to issue.
DEDUCED (notes/assumptions/9.md). -/
def issue (i : Instr) (u : Use) (s : State) (eff : State → Eff) : Host.Outcome State Fault Refusal :=
  if s.cur.status = .running then
    let s := s.begun
    .next (
      if !unitPresent s.vd.cls (encode i) then s.precise Cause.absent (0#16 ++ encode i)
      else if !s.legal i then s.precise Cause.illegal (s.cur.illegalValue (encode i))
      else issueChecked i u s eff)
  else .fault .noStrand

end Sys2Proof.Machine
end

