-- ==== Sys2Proof/Machine/Scalar.lean ====
section
/-! DEFINITION. The scalar words: register and immediate ALU, comparisons, predicate logic, multiply and divide
(R108 to R114). -/

namespace Sys2Proof.Machine

/-- 1 or 0. -/
def boolWord (b : Bool) : Word := if b then 1 else 0

/-- sext(IMM20, 64). -/
def sext20 (imm : BitVec 20) : Word := imm.signExtend 64

/-- Leading zero bits of a word, 0 to 64. -/
def clz64 (x : Word) : Word := BitVec.ofNat 64 (if x.toNat = 0 then 64 else 63 - x.toNat.log2)

/-- Trailing zero bits of a word, 0 to 64. -/
def ctz64 (x : Word) : Word := BitVec.ofNat 64 (((upFrom 0 64).find? fun i => x.getLsbD i).getD 64)

/-- Set bits of a word. -/
def popc64 (x : Word) : Word := BitVec.ofNat 64 ((upFrom 0 64).filter fun i => x.getLsbD i).length

/-- x[D] from x[A] and x[B], bound 1 (R109). -/
def alu3 (i : Instr) (d a b : BitVec 6) (f : Word → Word → Word) (s : State) : Host.Outcome State Fault Refusal :=
  issue i { reads := [a.toNat, b.toNat], writes := [d.toNat] } s fun s =>
    .done (s.setX d.toNat (f (s.rx a.toNat) (s.rx b.toNat)))

/-- x[D] from x[A], bound 1 (R109 to R111). -/
def alu2 (i : Instr) (d a : BitVec 6) (f : Word → Word) (s : State) : Host.Outcome State Fault Refusal :=
  issue i { reads := [a.toNat], writes := [d.toNat] } s fun s => .done (s.setX d.toNat (f (s.rx a.toNat)))

/-- p[D] from x[A] and x[B], bound 1 (R112). -/
def cmpTo (i : Instr) (d a b : BitVec 6) (f : Word → Word → Bool) (s : State) : Host.Outcome State Fault Refusal :=
  issue i { reads := [a.toNat, b.toNat], writes := [regP d.toNat] } s fun s =>
    .done (s.setP d.toNat (f (s.rx a.toNat) (s.rx b.toNat)))

/-- p[D] from p[A] and p[B], bound 1 (R113). -/
def predTo (i : Instr) (d a b : BitVec 6) (f : Bool → Bool → Bool) (s : State) : Host.Outcome State Fault Refusal :=
  issue i { reads := [regP a.toNat, regP b.toNat], writes := [regP d.toNat] } s fun s =>
    .done (s.setP d.toNat (f (s.rp a.toNat) (s.rp b.toNat)))

/-- Give an operation the next sequence number and put it among the strand's outstanding operations (R96, R306). -/
def State.pendOp (s : State) (due : Nat) (act : PendAct) (sr sw so acq : Bool := false) (port sem : Option Nat := none)
    (rel uo : Bool := false) : State :=
  s.modCur fun c => { c with
    seq := c.seq + 1
    pend := c.pend ++ [{ seq := c.seq, due := due, act := act, sr := sr, sw := sw, so := so, uo := uo, acq := acq, port := port,
                         sem := sem, rel := rel }] }

/-- A register whose next write completes at a known tick, or at one not known yet (R96, R97). -/
def State.setBusy (s : State) (reg : Nat) (sched lock : Option Nat) : State :=
  s.modCur fun c => { c with
    busy := (c.busy.filter fun b => !(b.sched.any (· ≤ s.z0) && b.lock.any (· ≤ s.z0)))
      ++ [{ reg := reg, seq := c.seq, sched := sched, lock := lock }] }

/-- Write scalar registers one after the other. -/
def State.setXs (s : State) (l : List (Nat × Word)) : State := l.foldl (fun t r => t.setX r.1 r.2) s

/-- Multiply and divide: the results are written when the bound has passed (R114, R96). -/
def mulDiv (i : Instr) (lat : Nat) (a b : BitVec 6) (f : Word → Word → List (Nat × Word)) (s : State) :
    Host.Outcome State Fault Refusal :=
  issue i { reads := [a.toNat, b.toNat], writes := (f 0 0).map Prod.fst } s fun s =>
    let res := f (s.rx a.toNat) (s.rx b.toNat)
    .done ((res.foldl (fun t r => t.setBusy r.1 (some (s.z0 + lat)) (some (s.z0 + lat))) s).pendOp (s.z0 + lat) (.regs res))

/-- The two halves of a 128-bit product in a register pair (R114). -/
def pairOf (d : Nat) (p : BitVec 128) : List (Nat × Word) := [(d, p.extractLsb' 0 64), (d + 1, p.extractLsb' 64 64)]

/-- Signed quotient and remainder, truncating towards zero; a divisor of 0 gives 0 and the dividend; -2^63 by -1 gives
-2^63 and 0 (R114). -/
def sdivrem (x y : Word) : Word × Word :=
  if y = 0 then (0, x) else (BitVec.ofInt 64 (x.toInt.tdiv y.toInt), BitVec.ofInt 64 (x.toInt.tmod y.toInt))

/-- Unsigned quotient and remainder; a divisor of 0 gives 0 and the dividend (R114). -/
def udivrem (x y : Word) : Word × Word :=
  if y = 0 then (0, x) else (BitVec.ofNat 64 (x.toNat / y.toNat), BitVec.ofNat 64 (x.toNat % y.toNat))

/-- ADD (R109, Table 7-1). -/
def execAdd (g : Ctl) (d a b : BitVec 6) (s : State) : Host.Outcome State Fault Refusal :=
  alu3 (.add g d a b) d a b (fun x y => x + y) s

/-- SUB (R109, Table 7-1). -/
def execSub (g : Ctl) (d a b : BitVec 6) (s : State) : Host.Outcome State Fault Refusal :=
  alu3 (.sub g d a b) d a b (fun x y => x - y) s

/-- AND (R109, Table 7-1). -/
def execAnd (g : Ctl) (d a b : BitVec 6) (s : State) : Host.Outcome State Fault Refusal :=
  alu3 (.and g d a b) d a b (fun x y => x &&& y) s

/-- OR (R109, Table 7-1). -/
def execOr (g : Ctl) (d a b : BitVec 6) (s : State) : Host.Outcome State Fault Refusal :=
  alu3 (.or g d a b) d a b (fun x y => x ||| y) s

/-- XOR (R109, Table 7-1). -/
def execXor (g : Ctl) (d a b : BitVec 6) (s : State) : Host.Outcome State Fault Refusal :=
  alu3 (.xor g d a b) d a b (fun x y => x ^^^ y) s

/-- ANDN (R109, Table 7-1). -/
def execAndn (g : Ctl) (d a b : BitVec 6) (s : State) : Host.Outcome State Fault Refusal :=
  alu3 (.andn g d a b) d a b (fun x y => x &&& ~~~y) s

/-- SLL (R109, Table 7-1). -/
def execSll (g : Ctl) (d a b : BitVec 6) (s : State) : Host.Outcome State Fault Refusal :=
  alu3 (.sll g d a b) d a b (fun x y => x <<< (y.toNat % 64)) s

/-- SRL (R109, Table 7-1). -/
def execSrl (g : Ctl) (d a b : BitVec 6) (s : State) : Host.Outcome State Fault Refusal :=
  alu3 (.srl g d a b) d a b (fun x y => x >>> (y.toNat % 64)) s

/-- SRA (R109, Table 7-1). -/
def execSra (g : Ctl) (d a b : BitVec 6) (s : State) : Host.Outcome State Fault Refusal :=
  alu3 (.sra g d a b) d a b (fun x y => x.sshiftRight (y.toNat % 64)) s

/-- SLT (R109, Table 7-1). -/
def execSlt (g : Ctl) (d a b : BitVec 6) (s : State) : Host.Outcome State Fault Refusal :=
  alu3 (.slt g d a b) d a b (fun x y => boolWord (x.slt y)) s

/-- SLTU (R109, Table 7-1). -/
def execSltu (g : Ctl) (d a b : BitVec 6) (s : State) : Host.Outcome State Fault Refusal :=
  alu3 (.sltu g d a b) d a b (fun x y => boolWord (x.ult y)) s

/-- MIN (R109, Table 7-1). -/
def execMin (g : Ctl) (d a b : BitVec 6) (s : State) : Host.Outcome State Fault Refusal :=
  alu3 (.min g d a b) d a b (fun x y => if x.slt y then x else y) s

/-- MAX (R109, Table 7-1). -/
def execMax (g : Ctl) (d a b : BitVec 6) (s : State) : Host.Outcome State Fault Refusal :=
  alu3 (.max g d a b) d a b (fun x y => if x.slt y then y else x) s

/-- MINU (R109, Table 7-1). -/
def execMinu (g : Ctl) (d a b : BitVec 6) (s : State) : Host.Outcome State Fault Refusal :=
  alu3 (.minu g d a b) d a b (fun x y => if x.ult y then x else y) s

/-- MAXU (R109, Table 7-1). -/
def execMaxu (g : Ctl) (d a b : BitVec 6) (s : State) : Host.Outcome State Fault Refusal :=
  alu3 (.maxu g d a b) d a b (fun x y => if x.ult y then y else x) s

/-- CLZ (R109, Table 7-1). -/
def execClz (g : Ctl) (d a : BitVec 6) (s : State) : Host.Outcome State Fault Refusal :=
  alu2 (.clz g d a) d a (fun x => clz64 x) s

/-- CTZ (R109, Table 7-1). -/
def execCtz (g : Ctl) (d a : BitVec 6) (s : State) : Host.Outcome State Fault Refusal :=
  alu2 (.ctz g d a) d a (fun x => ctz64 x) s

/-- POPC (R109, Table 7-1). -/
def execPopc (g : Ctl) (d a : BitVec 6) (s : State) : Host.Outcome State Fault Refusal :=
  alu2 (.popc g d a) d a (fun x => popc64 x) s

/-- SEL (R109): x[A] if p[C], else x[B]. -/
def execSel (g : Ctl) (d a b c : BitVec 6) (s : State) : Host.Outcome State Fault Refusal :=
  issue (.sel g d a b c) { reads := [a.toNat, b.toNat, regP c.toNat], writes := [d.toNat] } s fun s =>
    .done (s.setX d.toNat (if s.rp c.toNat then s.rx a.toNat else s.rx b.toNat))

/-- ADDI (R110, Table 7-2). -/
def execAddi (g : Ctl) (d a : BitVec 6) (imm : BitVec 20) (s : State) : Host.Outcome State Fault Refusal :=
  alu2 (.addi g d a imm) d a (fun x => let y := sext20 imm; x + y) s

/-- ANDI (R110, Table 7-2). -/
def execAndi (g : Ctl) (d a : BitVec 6) (imm : BitVec 20) (s : State) : Host.Outcome State Fault Refusal :=
  alu2 (.andi g d a imm) d a (fun x => let y := sext20 imm; x &&& y) s

/-- ORI (R110, Table 7-2). -/
def execOri (g : Ctl) (d a : BitVec 6) (imm : BitVec 20) (s : State) : Host.Outcome State Fault Refusal :=
  alu2 (.ori g d a imm) d a (fun x => let y := sext20 imm; x ||| y) s

/-- XORI (R110, Table 7-2). -/
def execXori (g : Ctl) (d a : BitVec 6) (imm : BitVec 20) (s : State) : Host.Outcome State Fault Refusal :=
  alu2 (.xori g d a imm) d a (fun x => let y := sext20 imm; x ^^^ y) s

/-- SLTI (R110, Table 7-2). -/
def execSlti (g : Ctl) (d a : BitVec 6) (imm : BitVec 20) (s : State) : Host.Outcome State Fault Refusal :=
  alu2 (.slti g d a imm) d a (fun x => let y := sext20 imm; boolWord (x.slt y)) s

/-- SLLI (R110, Table 7-2): the count is IMM20 [5:0]. -/
def execSlli (g : Ctl) (d a : BitVec 6) (imm : BitVec 20) (s : State) : Host.Outcome State Fault Refusal :=
  alu2 (.slli g d a imm) d a (fun x => x <<< imm.toNat) s

/-- SRLI (R110, Table 7-2): the count is IMM20 [5:0]. -/
def execSrli (g : Ctl) (d a : BitVec 6) (imm : BitVec 20) (s : State) : Host.Outcome State Fault Refusal :=
  alu2 (.srli g d a imm) d a (fun x => x >>> imm.toNat) s

/-- SRAI (R110, Table 7-2): the count is IMM20 [5:0]. -/
def execSrai (g : Ctl) (d a : BitVec 6) (imm : BitVec 20) (s : State) : Host.Outcome State Fault Refusal :=
  alu2 (.srai g d a imm) d a (fun x => x.sshiftRight imm.toNat) s

/-- ADDHI (R111). -/
def execAddhi (g : Ctl) (d a : BitVec 6) (imm : BitVec 20) (s : State) : Host.Outcome State Fault Refusal :=
  alu2 (.addhi g d a imm) d a (fun x => x + sext20 imm <<< 12) s

/-- ADDPCH (R111): PC is the address of the word itself. -/
def execAddpch (g : Ctl) (d : BitVec 6) (imm : BitVec 20) (s : State) : Host.Outcome State Fault Refusal :=
  issue (.addpch g d imm) { writes := [d.toNat] } s fun s => .done (s.setX d.toNat (s.cur.pc + sext20 imm <<< 12))

/-- MOVHI (R111). -/
def execMovhi (g : Ctl) (d a : BitVec 6) (imm : BitVec 20) (s : State) : Host.Outcome State Fault Refusal :=
  alu2 (.movhi g d a imm) d a (fun x => x + sext20 imm <<< 32) s

/-- CMP.EQ (R112, Table 7-3). -/
def execCmpEq (g : Ctl) (d a b : BitVec 6) (s : State) : Host.Outcome State Fault Refusal :=
  cmpTo (.cmpEq g d a b) d a b (fun x y => x == y) s

/-- CMP.NE (R112, Table 7-3). -/
def execCmpNe (g : Ctl) (d a b : BitVec 6) (s : State) : Host.Outcome State Fault Refusal :=
  cmpTo (.cmpNe g d a b) d a b (fun x y => x != y) s

/-- CMP.LT (R112, Table 7-3). -/
def execCmpLt (g : Ctl) (d a b : BitVec 6) (s : State) : Host.Outcome State Fault Refusal :=
  cmpTo (.cmpLt g d a b) d a b (fun x y => x.slt y) s

/-- CMP.GE (R112, Table 7-3). -/
def execCmpGe (g : Ctl) (d a b : BitVec 6) (s : State) : Host.Outcome State Fault Refusal :=
  cmpTo (.cmpGe g d a b) d a b (fun x y => !x.slt y) s

/-- CMP.LTU (R112, Table 7-3). -/
def execCmpLtu (g : Ctl) (d a b : BitVec 6) (s : State) : Host.Outcome State Fault Refusal :=
  cmpTo (.cmpLtu g d a b) d a b (fun x y => x.ult y) s

/-- CMP.GEU (R112, Table 7-3). -/
def execCmpGeu (g : Ctl) (d a b : BitVec 6) (s : State) : Host.Outcome State Fault Refusal :=
  cmpTo (.cmpGeu g d a b) d a b (fun x y => !x.ult y) s

/-- CMP.TST (R112, Table 7-3). -/
def execCmpTst (g : Ctl) (d a b : BitVec 6) (s : State) : Host.Outcome State Fault Refusal :=
  cmpTo (.cmpTst g d a b) d a b (fun x y => x &&& y != 0) s

/-- CMP.NTST (R112, Table 7-3). -/
def execCmpNtst (g : Ctl) (d a b : BitVec 6) (s : State) : Host.Outcome State Fault Refusal :=
  cmpTo (.cmpNtst g d a b) d a b (fun x y => x &&& y == 0) s

/-- PAND (R113, Table 7-4). -/
def execPand (g : Ctl) (d a b : BitVec 6) (s : State) : Host.Outcome State Fault Refusal :=
  predTo (.pand g d a b) d a b (fun x y => x && y) s

/-- POR (R113, Table 7-4). -/
def execPor (g : Ctl) (d a b : BitVec 6) (s : State) : Host.Outcome State Fault Refusal :=
  predTo (.por g d a b) d a b (fun x y => x || y) s

/-- PXOR (R113, Table 7-4). -/
def execPxor (g : Ctl) (d a b : BitVec 6) (s : State) : Host.Outcome State Fault Refusal :=
  predTo (.pxor g d a b) d a b (fun x y => x != y) s

/-- PANDN (R113, Table 7-4). -/
def execPandn (g : Ctl) (d a b : BitVec 6) (s : State) : Host.Outcome State Fault Refusal :=
  predTo (.pandn g d a b) d a b (fun x y => x && !y) s

/-- PNOT (R113). -/
def execPnot (g : Ctl) (d a : BitVec 6) (s : State) : Host.Outcome State Fault Refusal :=
  issue (.pnot g d a) { reads := [regP a.toNat], writes := [regP d.toNat] } s fun s =>
    .done (s.setP d.toNat (!s.rp a.toNat))

/-- PRD (R113): bit k of x[D] is p[k]; bit 0 is set. -/
def execPrd (g : Ctl) (d : BitVec 6) (s : State) : Host.Outcome State Fault Refusal :=
  issue (.prd g d) { reads := (upFrom 1 7).map regP, writes := [d.toNat] } s fun s =>
    .done (s.setX d.toNat (BitVec.ofNat 64 ((upFrom 0 8).map fun k => if s.rp k then 2 ^ k else 0).sum))

/-- PWR (R113): p[k] := x[A][k] for k from 1 to 7. -/
def execPwr (g : Ctl) (a : BitVec 6) (s : State) : Host.Outcome State Fault Refusal :=
  issue (.pwr g a) { reads := [a.toNat], writes := (upFrom 1 7).map regP } s fun s =>
    .done ((upFrom 1 7).foldl (fun t k => t.setP k ((s.rx a.toNat).getLsbD k)) s)

/-- MUL (R114, Table 7-5): the low 64 bits of the product. -/
def execMul (g : Ctl) (d a b : BitVec 6) (s : State) : Host.Outcome State Fault Refusal :=
  mulDiv (.mul g d a b) 3 a b (fun x y => [(d.toNat, x * y)]) s

/-- MULW (R114, Table 7-5): the signed 128-bit product. -/
def execMulw (g : Ctl) (d a b : BitVec 6) (s : State) : Host.Outcome State Fault Refusal :=
  mulDiv (.mulw g d a b) 3 a b (fun x y => pairOf d.toNat (BitVec.ofInt 128 (x.toInt * y.toInt))) s

/-- MULWU (R114, Table 7-5): the unsigned 128-bit product. -/
def execMulwu (g : Ctl) (d a b : BitVec 6) (s : State) : Host.Outcome State Fault Refusal :=
  mulDiv (.mulwu g d a b) 3 a b (fun x y => pairOf d.toNat (BitVec.ofNat 128 (x.toNat * y.toNat))) s

/-- MULWSU (R114, Table 7-5): the signed by unsigned product. -/
def execMulwsu (g : Ctl) (d a b : BitVec 6) (s : State) : Host.Outcome State Fault Refusal :=
  mulDiv (.mulwsu g d a b) 3 a b (fun x y => pairOf d.toNat (BitVec.ofInt 128 (x.toInt * y.toNat))) s

/-- DIV (R114, Table 7-5): the signed quotient. -/
def execDiv (g : Ctl) (d a b : BitVec 6) (s : State) : Host.Outcome State Fault Refusal :=
  mulDiv (.div g d a b) 18 a b (fun x y => [(d.toNat, (sdivrem x y).1)]) s

/-- DIVU (R114, Table 7-5): the unsigned quotient. -/
def execDivu (g : Ctl) (d a b : BitVec 6) (s : State) : Host.Outcome State Fault Refusal :=
  mulDiv (.divu g d a b) 18 a b (fun x y => [(d.toNat, (udivrem x y).1)]) s

/-- DIVREM (R114, Table 7-5): signed quotient and remainder. -/
def execDivrem (g : Ctl) (d a b : BitVec 6) (s : State) : Host.Outcome State Fault Refusal :=
  mulDiv (.divrem g d a b) 18 a b (fun x y => [(d.toNat, (sdivrem x y).1), (d.toNat + 1, (sdivrem x y).2)]) s

/-- DIVREMU (R114, Table 7-5): unsigned quotient and remainder. -/
def execDivremu (g : Ctl) (d a b : BitVec 6) (s : State) : Host.Outcome State Fault Refusal :=
  mulDiv (.divremu g d a b) 18 a b (fun x y => [(d.toNat, (udivrem x y).1), (d.toNat + 1, (udivrem x y).2)]) s

end Sys2Proof.Machine
end

