-- ==== Sys2Proof/Machine/Control.lean ====
section
/-! DEFINITION. Control words: branches and jumps, the hardware loop, the end of a strand, TRAP and ERET, and the
prefixes AT and RPT (R54 to R56, R122 to R131). -/

namespace Sys2Proof.Machine

/-- The target of a branch: PC + 6 × offset (R44). -/
def relTarget (pc off : Word) : Word := pc + 6 * off

/-- A conditional branch (R122): operands are read at issue. -/
def branch (i : Instr) (a b : BitVec 6) (off : BitVec 18) (f : Word → Word → Bool) (s : State) :
    Host.Outcome State Fault Refusal :=
  issue i { reads := [a.toNat, b.toNat] } s fun s =>
    if f (s.rx a.toNat) (s.rx b.toNat) then .jump s (relTarget s.cur.pc (off.signExtend 64)) else .done s

/-- BEQ (R122). -/
def execBeq (g : Ctl) (a b : BitVec 6) (off : BitVec 18) (s : State) : Host.Outcome State Fault Refusal :=
  branch (.beq g a b off) a b off (fun x y => x == y) s

/-- BNE (R122). -/
def execBne (g : Ctl) (a b : BitVec 6) (off : BitVec 18) (s : State) : Host.Outcome State Fault Refusal :=
  branch (.bne g a b off) a b off (fun x y => x != y) s

/-- BLT (R122). -/
def execBlt (g : Ctl) (a b : BitVec 6) (off : BitVec 18) (s : State) : Host.Outcome State Fault Refusal :=
  branch (.blt g a b off) a b off (fun x y => x.slt y) s

/-- BGE (R122). -/
def execBge (g : Ctl) (a b : BitVec 6) (off : BitVec 18) (s : State) : Host.Outcome State Fault Refusal :=
  branch (.bge g a b off) a b off (fun x y => !x.slt y) s

/-- BLTU (R122). -/
def execBltu (g : Ctl) (a b : BitVec 6) (off : BitVec 18) (s : State) : Host.Outcome State Fault Refusal :=
  branch (.bltu g a b off) a b off (fun x y => x.ult y) s

/-- BGEU (R122). -/
def execBgeu (g : Ctl) (a b : BitVec 6) (off : BitVec 18) (s : State) : Host.Outcome State Fault Refusal :=
  branch (.bgeu g a b off) a b off (fun x y => !x.ult y) s

/-- BRA (R122): always transfers. -/
def execBra (g : Ctl) (off : BitVec 18) (s : State) : Host.Outcome State Fault Refusal :=
  issue (.bra g off) {} s fun s => .jump s (relTarget s.cur.pc (off.signExtend 64))

/-- JAL (R123): x[D] := PC + 6, then transfer. -/
def execJal (g : Ctl) (d : BitVec 6) (imm : BitVec 28) (s : State) : Host.Outcome State Fault Refusal :=
  issue (.jal g d imm) { writes := [d.toNat] } s fun s =>
    .jump (s.setX d.toNat (s.cur.pc + 6)) (relTarget s.cur.pc (imm.signExtend 64))

/-- A jump through a register (R124): a target that is not word-aligned is a misalignment and changes no register. -/
def jumpReg (i : Instr) (d a : Nat) (imm : BitVec 20) (s : State) : Host.Outcome State Fault Refusal :=
  issue i { reads := [a], writes := [d] } s fun s =>
    let t := s.rx a + sext20 imm
    if s.aligned t then .jump (s.setX d (s.cur.pc + 6)) t else .trap Cause.misaligned t

/-- JALR (R124). -/
def execJalr (g : Ctl) (d a : BitVec 6) (imm : BitVec 20) (s : State) : Host.Outcome State Fault Refusal :=
  jumpReg (.jalr g d a imm) d.toNat a.toNat imm s

/-- RET (R124): the effect of jalr x0, xA, 0. -/
def execRet (g : Ctl) (a : BitVec 6) (s : State) : Host.Outcome State Fault Refusal :=
  jumpReg (.ret g a) 0 a.toNat 0 s

/-- NOP (R126): takes its slot and applies its HOLD. -/
def execNop (g : Ctl) (s : State) : Host.Outcome State Fault Refusal := issue (.nop g) {} s .done

/-- Whether a word is an AT or RPT prefix (R54). -/
def isPrefixWord (w : BitVec 48) : Bool :=
  (w.extractLsb' 42 6).toNat == 0x3F && decide ((w.extractLsb' 32 6).toNat < 2)

/-- A prefix joins the unit being issued (R54): it takes no slot, and the word it governs comes next. The prefix's bits are `w`;
where its own fields, or its place after the prefixes before it, are illegal, the unit is, which the checks of R52 find at the
word that the prefixes govern. After ERET at a repetition other than 0, AT no longer times the unit (R56).
DEDUCED (notes/assumptions/9.md). -/
def State.joinPrefix (s : State) (w : BitVec 48) (ok : Bool) (atTick : Option (BitVec 28)) (rpt : Option RptPfx) : State :=
  s.modCur fun c =>
    let p : Pfx := match c.pfx with
      | none => { first := c.pc, word := w, atTick := atTick, rpt := rpt, bad := !ok }
      | some p => { p with
          atTick := if rpt.isSome && c.rep != 0 then none else p.atTick
          rpt := if p.rpt.isSome then p.rpt else rpt
          bad := p.bad || !ok || atTick.isSome || p.rpt.isSome }
    { c with pfx := some p, pc := c.pc + 6 }

/-- A prefix word by its bits, which may have reserved fields that are not zero (R54). -/
def State.joinWord (s : State) (w : BitVec 48) : State :=
  match decode w with
  | .ok (.atTick t) => s.joinPrefix w true (some t) none
  | .ok (.rpt n d a b) => s.joinPrefix w true none (some { count := n, stepD := d, stepA := a, stepB := b })
  | _ =>
    if (w.extractLsb' 32 6).toNat = 0 then s.joinPrefix w false (some (w.extractLsb' 4 28)) none
    else s.joinPrefix w false none (some { count := 0, stepD := 0, stepA := 0, stepB := 0 })

/-- Sequential flow from the pc over `n` words, each as if issued with its guard false, without a slot or a tick (R127): a prefix
joins its unit, a unit that checks 1 to 3 of R52 turn down traps there, a matrix-queue word clears the chain latch (R183), and the
loop-back rule applies at each; where that leads back into a body the pass ends. True says that a unit trapped: one that lies in a
block which cannot be fetched takes the fault of that (R93). DEDUCED (notes/assumptions/9.md). -/
def passOver : Nat → State → State × Bool
  | 0, s => (s, false)
  | n + 1, s =>
    match s.fetchFails s.cur.pc, s.fetchWord s.cur.pc with
    | some e, _ => (s.precise e.1 e.2, true)
    | none, some w =>
      if isPrefixWord w then passOver n (s.joinWord w)
      else match s.unitFault w with
        | some e => (s.precise e.1 e.2, true)
        | none =>
          let r := loopBack s.cur.pc s.cur.loops
          let t := (match decode w with | .ok i => s.squash i | .error _ => s).modCur fun c =>
            { c with pc := r.1, loops := r.2, pfx := none }
          if r.1 = s.cur.pc + 6 then passOver n t else (t, false)
    | none, none => (s.precise Cause.translation s.cur.pc, true)

/-- A LOOP whose count is 0 passes over its body of `n` words (R127). The next unit's slot follows the LOOP word. Where the LOOP
word itself ends the body of a loop that repeats, control goes back from there. DEDUCED (notes/assumptions/9.md). -/
def State.skipBody (s : State) (n hold : Nat) : State :=
  let slot := s.nextSlot hold
  let r := loopBack s.cur.pc s.cur.loops
  let t := s.modCur fun c => { c with pc := r.1, loops := r.2, pfx := none, rep := 0, since := none, slot := slot }
  let x := if r.1 = s.cur.pc + 6 then passOver n t else (t, false)
  if x.2 then x.1 else x.1.startFetch

/-- LOOP (R127): push the body, or pass over it when the count is 0. The sequencer holds two entries.
DEDUCED (notes/assumptions/9.md). -/
def execLoop (g : Ctl) (n a : BitVec 6) (s : State) : Host.Outcome State Fault Refusal :=
  issue (.loop g n a) { reads := [a.toNat] } s fun s =>
    let count := (s.rx a.toNat).toNat
    let first := s.cur.pc + 6
    let last := s.cur.pc + 6 * (BitVec.ofNat 64 (n.toNat + 1))
    if count = 0 then
      .raw (s.skipBody (n.toNat + 1) g.hold.toNat)
    else if 2 ≤ s.cur.loops.length then .trap Cause.illegal (0#16 ++ encode (.loop g n a))
    else if (s.fetchWord last).any isPrefixWord then .trap Cause.illegal (0#16 ++ encode (.loop g n a))
    else .raw (s.goTo g.hold.toNat first ({ first := first, last := last, remaining := count } :: s.cur.loops))

/-- The strand issues no further unit (R128). -/
def State.finishStrand (s : State) (st : Status) : State :=
  s.modCur fun c => { c with status := st, pc := c.pc + 6, pfx := none, rep := 0, since := none }

/-- END (R128). -/
def execEndStrand (g : Ctl) (s : State) : Host.Outcome State Fault Refusal :=
  issue (.endStrand g) {} s fun s => .raw (s.finishStrand .ended)

/-- HALT (R129): the strand stops and fails its superstep; x[A] is the halt code. -/
def execHalt (g : Ctl) (a : BitVec 6) (s : State) : Host.Outcome State Fault Refusal :=
  issue (.halt g a) { reads := [a.toNat] } s fun s =>
    let v := s.rx a.toNat
    .raw ((s.fault 0x12 v).finishStrand .stopped)

/-- TRAP (R130): the software trap, with TPC after the word. -/
def execTrap (g : Ctl) (code : BitVec 12) (s : State) : Host.Outcome State Fault Refusal :=
  issue (.trap g code) {} s fun s =>
    .raw (takeTrap { code := Cause.soft, tval := 0#52 ++ code, tpc := some (s.cur.pc + 6) } s)

/-- ERET (R131, R307): return from the trap, or a misalignment when TPC is not word-aligned. -/
def execEret (g : Ctl) (s : State) : Host.Outcome State Fault Refusal :=
  issue (.eret g) {} s fun s =>
    if s.aligned s.cur.tpc then .raw (returnFromTrap (if s.sched then g.hold.toNat else 0) s).startFetch
    else .trap Cause.misaligned s.cur.tpc

/-- A prefix is issued with the unit it joins (R54). Where the governed word lies in the next block, the fetch of that block starts
here. DEDUCED (notes/assumptions/9.md). DEDUCED (notes/assumptions/11.md). -/
def State.addPrefix (s : State) (w : BitVec 48) (ok : Bool) (atTick : Option (BitVec 28)) (rpt : Option RptPfx) : State :=
  (s.joinPrefix w ok atTick rpt).startFetch

/-- A prefix word: with no strand running there is nothing to issue. -/
def prefixWord (s : State) (f : State → State) : Host.Outcome State Fault Refusal :=
  if s.cur.status = .running then .next (f s) else .fault .noStrand

/-- AT (R55): a second AT, or an AT after RPT, makes the unit illegal (R54). DEDUCED (notes/assumptions/9.md). -/
def execAtTick (imm : BitVec 28) (s : State) : Host.Outcome State Fault Refusal :=
  prefixWord s fun s => s.addPrefix (encode (.atTick imm)) true (some imm) none

/-- RPT (R56): after an AT or alone; a second RPT makes the unit illegal (R54). DEDUCED (notes/assumptions/9.md). -/
def execRpt (count : BitVec 6) (stepD stepA stepB : BitVec 3) (s : State) : Host.Outcome State Fault Refusal :=
  prefixWord s fun s =>
    s.addPrefix (encode (.rpt count stepD stepA stepB)) true none
      (some { count := count, stepD := stepD, stepA := stepA, stepB := stepB })

end Sys2Proof.Machine
end

