-- ==== Sys2Proof/Machine/Csr.lean ====
section
/-! DEFINITION. The CSR words (R58, R121) over the registers of Table 3-4. -/

namespace Sys2Proof.Machine

/-- PINCNT (Table 9-3): pins held by the cell's enqueued and running words, and words that hold one. -/
def Strand.pincnt (c : Strand) : Word :=
  let ws := c.queue ++ (c.running.map Running.word)
  BitVec.ofNat 64 ((ws.map QWord.pins).sum % 2 ^ 14 + (ws.filter fun w => w.pins != 0).length * 2 ^ 16)

/-- FLRET (Table 10-1): zero on BD and SD cells. -/
def flret (c : Cls) : Word := if c = .bd ∨ c = .sd then 0 else 0x0000000C0800100000 |> BitVec.ofNat 64

/-- The value of a CSR (Table 3-4). -/
def State.csr (s : State) (n : Nat) : Word :=
  let c := s.cur
  let l := s.launch
  match n with
  | 0x000 => BitVec.ofNat 64 ((if l.lock then 1 else 0) + (if l.det then 2 else 0) + (if l.forced then 4 else 0))
  | 0x001 => if l.secure then 1 else 0
  | 0x002 => (s.fw.map FirmwareInfo.emask).getD 0
  | 0x008 => c.tvec
  | 0x009 => c.tpc
  | 0x00A => 0#48 ++ c.tcause
  | 0x00B => c.tval
  | 0x010 => BitVec.ofNat 64 s.ltick
  | 0x011 => BitVec.ofNat 64 (c.vdie + clsCode s.vd.cls * 256 + s.vd.bindGen * 65536)
  | 0x012 => BitVec.ofNat 64 c.cell
  | 0x013 => BitVec.ofNat 64 (lstrandOf l c.vdie c.cell)
  | 0x014 => s.seenDmix
  | 0x015 => BitVec.ofNat 64 (capssOf s.seenDmix s.slotNo + (if capssOf s.seenDmix s.slotNo = 0x300000 then 2 ^ 32 else 0))
  | 0x016 => flret s.vd.cls
  | 0x018 => 0#48 ++ c.arith
  | 0x019 => 0#62 ++ c.expf
  | 0x020 => 0#52 ++ c.sembase
  | 0x021 => BitVec.ofNat 64 (c.semdepth.toNat + (if c.sovf then 256 else 0))
  | 0x022 => 0#59 ++ c.semrot
  | 0x030 => c.pincnt
  | n => if 0x028 ≤ n ∧ n ≤ 0x02D then BitVec.ofNat 64 (l.pace.getD (n - 0x028) 0) else 0

/-- The read-write bits of a CSR; every other bit is RO, RZ or W1C (Tables 2-8, 6-4 to 6-6, 10-2, 22-1 to 22-4). -/
def csrRW (n : Nat) : Word :=
  match n with
  | 0x008 => 0x803FFFFFFFFFFFFF
  | 0x009 => 0xFFFFFFFFFFFFFFFF
  | 0x00A => 0xFFFF
  | 0x00B => 0xFFFFFFFFFFFFFFFF
  | 0x018 => 0xFF00
  | 0x020 => 0xFFF
  | 0x021 => 0x3F
  | 0x022 => 0x1F
  | _ => 0

/-- The bits that writing 1 clears. -/
def csrW1C (n : Nat) : Word :=
  match n with
  | 0x018 => 0xFF
  | 0x019 => 0x3
  | 0x021 => 0x100
  | _ => 0

/-- Put a whole new value into a CSR that software can write. -/
def State.putCsr (s : State) (n : Nat) (v : Word) : State :=
  s.modCur fun c =>
    match n with
    | 0x008 => { c with tvec := v }
    | 0x009 => { c with tpc := v }
    | 0x00A => { c with tcause := v.extractLsb' 0 16 }
    | 0x00B => { c with tval := v }
    | 0x018 => { c with arith := v.extractLsb' 0 16 }
    | 0x019 => { c with expf := v.extractLsb' 0 2 }
    | 0x020 => { c with sembase := v.extractLsb' 0 12 }
    | 0x021 => { c with semdepth := v.extractLsb' 0 6, sovf := v.getLsbD 8 }
    | 0x022 => { c with semrot := v.extractLsb' 0 5 }
    | _ => c

/-- Flag bits of a CSR that were set at this very tick, which a W1C write leaves at 1 (R37, R164). -/
def State.freshFlags (s : State) (n : Nat) : Word :=
  if s.cur.setTick ≠ s.z0 then 0
  else if n = 0x018 then 0#56 ++ s.cur.setBits.extractLsb' 0 8
  else if n = 0x019 then 0#62 ++ s.cur.setBits.extractLsb' 8 2 else 0

/-- The three ways of writing a CSR, field by field (R121). -/
inductive CsrOp where
  | write | set | clear
  deriving DecidableEq, Repr

/-- The new value of a CSR (R121): RW fields take the operation, W1C bits clear under CSRW and CSRC, and every other bit
keeps its value. -/
def csrNew (op : CsrOp) (n : Nat) (old v : Word) : Word :=
  let rw := csrRW n
  let w1 := csrW1C n
  let keep := old &&& ~~~(rw ||| w1)
  match op with
  | .write => keep ||| (v &&& rw) ||| (old &&& w1 &&& ~~~v)
  | .set => keep ||| ((old ||| v) &&& rw) ||| (old &&& w1)
  | .clear => keep ||| (old &&& ~~~v &&& rw) ||| (old &&& w1 &&& ~~~v)

/-- A CSR word that writes: the old value goes to x[D], then the CSR changes (R121). Both operands are read first. -/
def csrWord (i : Instr) (op : CsrOp) (d a : BitVec 6) (csr : BitVec 12) (s : State) : Host.Outcome State Fault Refusal :=
  issue i { reads := [a.toNat], writes := [d.toNat], csr := some csr.toNat } s fun s =>
    let old := s.csr csr.toNat
    let v := s.rx a.toNat
    .done ((s.putCsr csr.toNat (csrNew op csr.toNat old v ||| s.freshFlags csr.toNat)).setX d.toNat old)

/-- CSRR (R121). -/
def execCsrr (g : Ctl) (d : BitVec 6) (csr : BitVec 12) (s : State) : Host.Outcome State Fault Refusal :=
  issue (.csrr g d csr) { writes := [d.toNat], csr := some csr.toNat } s fun s => .done (s.setX d.toNat (s.csr csr.toNat))

/-- CSRW (R121). -/
def execCsrw (g : Ctl) (d a : BitVec 6) (csr : BitVec 12) (s : State) : Host.Outcome State Fault Refusal :=
  csrWord (.csrw g d a csr) .write d a csr s

/-- CSRS (R121). -/
def execCsrs (g : Ctl) (d a : BitVec 6) (csr : BitVec 12) (s : State) : Host.Outcome State Fault Refusal :=
  csrWord (.csrs g d a csr) .set d a csr s

/-- CSRC (R121). -/
def execCsrc (g : Ctl) (d a : BitVec 6) (csr : BitVec 12) (s : State) : Host.Outcome State Fault Refusal :=
  csrWord (.csrc g d a csr) .clear d a csr s

end Sys2Proof.Machine
end

