-- ==== Sys2Proof/Machine/Flags.lean ====
section
/-! DEFINITION. The flags of ARITHFLAG (R36) and what setting them does (R35, R37). -/

namespace Sys2Proof.Machine

/-- Invalid (Table 2-8). -/
def flagNV : BitVec 8 := 0x01
/-- Division by zero (Table 2-8). -/
def flagDZ : BitVec 8 := 0x02
/-- Overflow (Table 2-8). -/
def flagOF : BitVec 8 := 0x04
/-- Underflow (Table 2-8). -/
def flagUF : BitVec 8 := 0x08
/-- Inexact (Table 2-8). -/
def flagNX : BitVec 8 := 0x10
/-- Integer saturation (Table 2-8). -/
def flagSAT : BitVec 8 := 0x20
/-- A weight-only dequantisation was clamped (Table 2-8). -/
def flagCLAMP : BitVec 8 := 0x40
/-- A block header did not match (Table 2-8). -/
def flagHDR : BitVec 8 := 0x80

/-- TEN enables a trap for one of the flags (R37). -/
def Strand.enabled (c : Strand) (f : BitVec 8) : Bool := (c.arith.extractLsb' 8 8) &&& f != 0

/-- Set the flags of an operation that completes apart from the word boundary: an engine word or an atomic (R37, R304).
An enabled flag traps at the strand's next word boundary with the given address in TVAL. -/
def State.settleFlags (s : State) (f : BitVec 8) (addr : Word) : State :=
  let s' := s.orArith f
  if s.cur.enabled f then raiseAsync { code := Cause.arith, tval := addr, tpc := none } s' else s'

end Sys2Proof.Machine
end

