-- ==== Sys2Proof/Machine/Num.lean ====
section
/-! DEFINITION. Numbers: the value of an element in every format, exact arithmetic, and rounding to every format
(R20 to R34, R42). A value is computed exactly and rounded once. -/

namespace Sys2Proof.Machine

/-- Positive zero. -/
def Num.zero : Num := .fin false 0 0

/-- An integer as a value. -/
def Num.ofInt (x : Int) : Num := .fin (decide (x < 0)) x.natAbs 0

/-- The integer mantissa of a finite value, with its sign. -/
def signed (neg : Bool) (m : Nat) : Int := if neg then -(m : Int) else m

/-- m × 2^(e - f) for f ≤ e. -/
def alignTo (m : Int) (e f : Int) : Int := m * 2 ^ (e - f).toNat

/-- Compare two finite values: the sign of a - b. -/
def cmpFin (na : Bool) (ma : Nat) (ea : Int) (nb : Bool) (mb : Nat) (eb : Int) : Int :=
  let f := min ea eb
  alignTo (signed na ma) ea f - alignTo (signed nb mb) eb f

/-- a < b on values; false when either is a NaN. -/
def Num.lt : Num → Num → Bool
  | .nan, _ => false
  | _, .nan => false
  | .inf n, .inf m => n && !m
  | .inf n, _ => n
  | _, .inf m => !m
  | .fin na ma ea, .fin nb mb eb => decide (cmpFin na ma ea nb mb eb < 0)

/-- a = b on values: -0 equals +0; a NaN equals nothing. -/
def Num.eqv (a b : Num) : Bool :=
  match a, b with
  | .nan, _ => false
  | _, .nan => false
  | _, _ => !a.lt b && !b.lt a

/-- The exact sum and whether it is invalid (R229): ∞ - ∞ is invalid; an exact zero sum of unlike signs is +0.
DEDUCED (notes/assumptions/13.md). -/
def Num.add (a b : Num) : Num × Bool :=
  match a, b with
  | .nan, _ => (.nan, false)
  | _, .nan => (.nan, false)
  | .inf n, .inf m => if n == m then (.inf n, false) else (.nan, true)
  | .inf n, _ => (.inf n, false)
  | _, .inf m => (.inf m, false)
  | .fin na ma ea, .fin nb mb eb =>
    let f := min ea eb
    let s := alignTo (signed na ma) ea f + alignTo (signed nb mb) eb f
    if s = 0 then (.fin (na && nb) 0 0, false) else (.fin (decide (s < 0)) s.natAbs f, false)

/-- The exact product and whether it is invalid (R229): 0 × ∞ is invalid. DEDUCED (notes/assumptions/13.md). -/
def Num.mul (a b : Num) : Num × Bool :=
  match a, b with
  | .nan, _ => (.nan, false)
  | _, .nan => (.nan, false)
  | .inf n, .inf m => (.inf (n != m), false)
  | .inf n, .fin nb mb _ => if mb = 0 then (.nan, true) else (.inf (n != nb), false)
  | .fin na ma _, .inf m => if ma = 0 then (.nan, true) else (.inf (na != m), false)
  | .fin na ma ea, .fin nb mb eb => (.fin (na != nb) (ma * mb) (ea + eb), false)

/-- The negated value; a NaN stays a NaN. -/
def Num.neg : Num → Num
  | .nan => .nan
  | .inf n => .inf !n
  | .fin n m e => .fin (!n) m e

/-- A value times a power of two. -/
def Num.scale (v : Num) (k : Int) : Num := match v with | .fin n m e => .fin n m (e + k) | w => w

/-- The value is a NaN. -/
def Num.isNan : Num → Bool | .nan => true | _ => false

/-- The value is finite. -/
def Num.isFin : Num → Bool | .fin _ _ _ => true | _ => false

/-- The value is negative and not zero. -/
def Num.isNeg (v : Num) : Bool := v.lt .zero

/-! ### Rounding -/

/-- The rounding modes, by RM code (R33). -/
inductive Rnd where
  | rne | rtz | rup | rdn
  deriving DecidableEq, Repr

/-- The mode of an RM field (R33). -/
def Rnd.ofBits (b : BitVec 2) : Rnd := match b.toNat with | 0 => .rne | 1 => .rtz | 2 => .rup | _ => .rdn

/-- A magnitude m × 2^e in units of 2^l, rounded (R33), and whether it was inexact. -/
def roundMag (rm : Rnd) (neg : Bool) (m : Nat) (e l : Int) : Nat × Bool :=
  if l ≤ e then (m * 2 ^ (e - l).toNat, false)
  else
    let d := 2 ^ (l - e).toNat
    let q := m / d
    let r := m % d
    let up := match rm with
      | .rne => decide (d < 2 * r) || (2 * r == d && q % 2 == 1)
      | .rtz => false
      | .rup => !neg && r != 0
      | .rdn => neg && r != 0
    (if up then q + 1 else q, r != 0)

/-- How a floating format treats overflow and specials (Table 2-6). -/
inductive FKind where
  | ieee | e4m3 | e5m2 | e2m1
  deriving DecidableEq, Repr

/-- A floating format (Tables 2-2 and 2-3): total bits, significand bits with the hidden one, the exponent of the smallest
subnormal, the magnitude code of the largest finite value, and its kind. -/
structure FFmt where
  bits : Nat
  prec : Nat
  lmin : Int
  maxCode : Nat
  kind : FKind
  deriving DecidableEq, Repr

def fF32 : FFmt := { bits := 32, prec := 24, lmin := -149, maxCode := 0x7F7FFFFF, kind := .ieee }
def fF16 : FFmt := { bits := 16, prec := 11, lmin := -24, maxCode := 0x7BFF, kind := .ieee }
def fBF16 : FFmt := { bits := 16, prec := 8, lmin := -133, maxCode := 0x7F7F, kind := .ieee }
def fE4M3 : FFmt := { bits := 8, prec := 4, lmin := -9, maxCode := 0x7E, kind := .e4m3 }
def fE5M2 : FFmt := { bits := 8, prec := 3, lmin := -16, maxCode := 0x7B, kind := .e5m2 }
def fE2M1 : FFmt := { bits := 4, prec := 2, lmin := -1, maxCode := 0x7, kind := .e2m1 }

/-- The sign bit of a format. -/
def FFmt.signBit (f : FFmt) (neg : Bool) : Nat := if neg then 2 ^ (f.bits - 1) else 0

/-- The infinity magnitude code of a format that has one. -/
def FFmt.infCode (f : FFmt) : Nat := f.maxCode + 1

/-- The canonical NaN of a format with one: sign 0 (R22, Table 2-3). -/
def FFmt.nanCode (f : FFmt) : Nat :=
  match f.kind with
  | .ieee => f.infCode + 2 ^ (f.prec - 2)
  | .e4m3 => 0x7F
  | .e5m2 => 0x7E
  | .e2m1 => 0

/-- The value of a code (R22, R24). -/
def FFmt.decode (f : FFmt) (b : Nat) : Num :=
  let neg := bitOf b (f.bits - 1)
  let mag := b % 2 ^ (f.bits - 1)
  if f.maxCode < mag then
    (match f.kind with
      | .ieee | .e5m2 => if mag = f.infCode then .inf neg else .nan
      | _ => .nan)
  else
    let ef : Nat := mag / 2 ^ (f.prec - 1)
    let fr := mag % 2 ^ (f.prec - 1)
    if ef = 0 then .fin neg fr f.lmin else .fin neg (fr + 2 ^ (f.prec - 1)) (f.lmin + (ef : Int) - 1)

/-- The exponent of the most significant bit of m × 2^e, for m ≠ 0. -/
def msbExp (m : Nat) (e : Int) : Int := (m.log2 : Int) + e

/-- The overflow result (Table 2-6): mode, saturating form and sign. -/
def FFmt.overflow (f : FFmt) (rm : Rnd) (sat neg : Bool) : Nat :=
  let toZero := match rm with | .rtz => true | .rdn => !neg | .rup => neg | .rne => false
  f.signBit neg +
    (match f.kind with
      | .e2m1 => f.maxCode
      | .e4m3 => if sat || toZero then f.maxCode else 0x7F
      | _ => if sat || toZero then f.maxCode else f.infCode)

/-- The value of a code, or of the code one above the largest, as m × 2^e: the magnitude the rounded value is held
against. -/
def FFmt.maxMag (f : FFmt) : Nat × Int :=
  let ef : Nat := f.maxCode / 2 ^ (f.prec - 1)
  (f.maxCode % 2 ^ (f.prec - 1) + 2 ^ (f.prec - 1), f.lmin + (ef : Int) - 1)

/-- Convert a value to a floating format (R34, Table 2-6): the code and the flags. The table's infinity cell gives NaN
for infinity to E4M3 without saturation; that it does so under a mode that rounds towards zero for its sign too, and
not 448 as an overflow under that mode, is DEDUCED (notes/assumptions/35.md). -/
def FFmt.encode (f : FFmt) (rm : Rnd) (sat : Bool) (v : Num) : Nat × BitVec 8 :=
  match v with
  | .nan => (f.nanCode, match f.kind with | .ieee => 0 | _ => flagNV)
  | .inf neg =>
    (match f.kind with
      | .ieee | .e5m2 => if sat then (f.signBit neg + f.maxCode, flagOF ||| flagNX) else (f.signBit neg + f.infCode, 0)
      | .e4m3 => (f.signBit neg + (if sat then f.maxCode else 0x7F), flagOF ||| flagNX)
      | .e2m1 => (f.signBit neg + f.maxCode, flagOF ||| flagNX))
  | .fin neg 0 _ => (f.signBit neg, 0)
  | .fin neg m e =>
    let l := max (msbExp m e - (f.prec : Int) + 1) f.lmin
    let (q, nx) := roundMag rm neg m e l
    if decide (0 < cmpFin false q l false f.maxMag.1 f.maxMag.2) then (f.overflow rm sat neg, flagOF ||| flagNX)
    else
      let tiny := decide (msbExp m e < f.lmin + (f.prec : Int) - 1)
      let code := if q = 0 then 0 else (l - f.lmin).toNat * 2 ^ (f.prec - 1) + q
      (f.signBit neg + code, (if nx then flagNX else 0) ||| (if nx && tiny then flagUF else 0))

/-! ### Integer formats -/

/-- The range of an integer format: lowest and highest value (R25). -/
def intRange (f : Nat) : Int × Int :=
  match f with
  | 0x0F => (-(2 ^ 63), 2 ^ 63 - 1)
  | 0x04 => (-(2 ^ 31), 2 ^ 31 - 1)
  | 0x05 => (-(2 ^ 15), 2 ^ 15 - 1)
  | 0x06 => (-128, 127)
  | 0x07 => (0, 255)
  | _ => (-8, 7)

/-- Clamp to a range, and whether the value changed. -/
def clampInt (r : Int × Int) (x : Int) : Int × Bool :=
  if x < r.1 then (r.1, true) else if r.2 < x then (r.2, true) else (x, false)

/-- The bits of an integer in w bits. -/
def intBits (w : Nat) (x : Int) : Nat := (x % 2 ^ w).toNat

/-- Round a finite value to an integer, and whether it was inexact. -/
def roundInt (rm : Rnd) (neg : Bool) (m : Nat) (e : Int) : Int × Bool :=
  let r := roundMag rm neg m e 0
  (signed neg r.1, r.2)

/-- Convert a value to an integer format: always saturating (R34). The integer and the flags. -/
def toIntFmt (f : Nat) (rm : Rnd) (v : Num) : Int × BitVec 8 :=
  match v with
  | .nan => (0, flagNV)
  | .inf neg => ((if neg then (intRange f).1 else (intRange f).2), flagSAT ||| flagNX)
  | .fin neg m e =>
    let r := roundInt rm neg m e
    let c := clampInt (intRange f) r.1
    (c.1, if c.2 then flagSAT ||| flagNX else if r.2 then flagNX else 0)

/-! ### LNS6 and SP32 -/

/-- The four table constants (R26), 1.15 fixed point. -/
def lnsT (i : Nat) : Nat := match i % 4 with | 0 => 0x8000 | 1 => 0x9838 | 2 => 0xB505 | _ => 0xD745

/-- The table value of an LNS6 code with a block scale (R26). -/
def lnsVal (b : Nat) (scale : Int) : Num :=
  let c := b % 64
  if c = 0x20 then .zero
  else .fin (bitOf c 5) (lnsT (c % 32)) (((c % 32 / 4 : Nat) : Int) - 22 + scale)

/-- The table value of magnitude m in units of 2^-22 (R27). -/
def lnsMag (m : Nat) : Nat := lnsT m * 2 ^ (m / 4)

/-- The nearest of the magnitudes to y = p × 2^-22 / d, with ties to the even m (R27): `best` so far, then the rest. -/
def lnsNearest (p d : Nat) : Nat → List Nat → Nat
  | best, [] => best
  | best, m :: r =>
    let dist := fun k => ((lnsMag k * d : Nat) - (p : Int)).natAbs
    lnsNearest p d (if dist m < dist best ∨ (dist m = dist best ∧ m % 2 = 0) then m else best) r

/-- Convert a value to LNS6 with a block scale (R27): the code and the flags. -/
def toLns (scale : Int) (v : Num) : Nat × BitVec 8 :=
  match v with
  | .nan => (0x20, flagNV)
  | .inf neg => ((if neg then 0x20 else 0) + 31, flagOF ||| flagNX)
  | .fin neg m e =>
    if m = 0 then (0x20, 0)
    else
      let e' := e - scale + 22
      -- y = p / d in units of 2^-22
      let p := m * 2 ^ e'.toNat
      let d := 2 ^ (-e').toNat
      if p < 2 ^ 14 * d then (0x20, flagUF ||| flagNX)
      else if lnsMag 31 * d < p then ((if neg then 0x20 else 0) + 31, flagOF ||| flagNX)
      else if !neg then
        let k := lnsNearest p d 0 (upFrom 1 31)
        (k, if lnsMag k * d = p then 0 else flagNX)
      else if 2 * p ≤ lnsMag 1 * d then (0x20, flagUF ||| flagNX)
      else
        let k := lnsNearest p d 1 (upFrom 2 30)
        (0x20 + k, if lnsMag k * d = p then 0 else flagNX)

/-- The value of an SP32 code (R28). -/
def spVal (b : Nat) : Num :=
  let ef : Nat := b / 2 ^ 22 % 1024
  if ef = 0 then .zero else .fin false (2 ^ 22 + b % 2 ^ 22) ((ef : Int) - 982)

/-- An SP32 code as an engine writes it: a zero, whatever its fraction, is all zero bits (R28). -/
def spClean (b : Nat) : Nat := if b / 2 ^ 22 % 1024 = 0 then 0 else b

/-- Round an exact non-negative value to SP32 (R29): the code and the flags. A negative value or a NaN is invalid. -/
def toSp (v : Num) : Nat × BitVec 8 :=
  match v with
  | .nan => (0, flagNV)
  | .inf neg => if neg then (0, flagNV) else (0xFFFFFFFF, flagOF ||| flagNX)
  | .fin neg m e =>
    if m = 0 then (0, 0)
    else if neg then (0, flagNV)
    else
      let l := msbExp m e - 22
      let (q, nx) := roundMag .rne false m e l
      let top := msbExp q l
      if top < -959 then (0, flagUF ||| flagNX)
      else if 64 ≤ top then (0xFFFFFFFF, flagOF ||| flagNX)
      else
        let fr := if q = 2 ^ 23 then 0 else q - 2 ^ 22
        ((top + 960).toNat * 2 ^ 22 + fr, if nx then flagNX else 0)

/-! ### Elements of any format -/

/-- The floating format of a code, if it is one. -/
def ffmtOf (f : Nat) : Option FFmt :=
  match f with
  | 0x01 => some fF32 | 0x02 => some fBF16 | 0x03 => some fF16 | 0x0A => some fE4M3 | 0x0B => some fE5M2
  | 0x0C => some fE2M1 | _ => none

/-- An integer format. -/
def fmtInt (f : Nat) : Bool := f == 0x04 || f == 0x05 || f == 0x06 || f == 0x07 || f == 0x08 || f == 0x0F

/-- The float class of Table 15-2. -/
def fmtFloat (f : Nat) : Bool := f == 0x01 || f == 0x02 || f == 0x03

/-- The integer class of Table 15-2. -/
def fmtIntClass (f : Nat) : Bool := f == 0x0F || f == 0x04 || f == 0x05 || f == 0x06 || f == 0x07

/-- The plain class of Table 15-2. -/
def fmtPlain (f : Nat) : Bool := decide (f < 128) && f != 0

/-- The integer that a code of an integer format holds (R25). -/
def intVal (f b : Nat) : Int := if f = 0x07 then ((b % 256 : Nat) : Int) else toSInt (fmtBits f) (b % 2 ^ fmtBits f)

/-- The value of an element outside a block, or of an element in a block of scale `s` (R26, R30). -/
def elemVal (f b : Nat) (s : Int := 0) : Num :=
  let c := f % 128
  match ffmtOf c with
  | some g => (g.decode (b % 2 ^ g.bits)).scale s
  | none =>
    if fmtInt c then (Num.ofInt (intVal c b)).scale s
    else if c = 0x0D then lnsVal b s
    else if c = 0x0E then spVal b
    else Num.ofInt ((b % 256 : Nat) : Int)

/-- A value as a code of a plain format: the code and the flags (R34, R27, R29). DEDUCED (notes/assumptions/13.md). -/
def elemCode (f : Nat) (rm : Rnd) (sat : Bool) (v : Num) : Nat × BitVec 8 :=
  match ffmtOf f with
  | some g => g.encode rm sat v
  | none =>
    if fmtInt f then let r := toIntFmt f rm v; (intBits (fmtBits f) r.1, r.2)
    else if f = 0x0D then toLns 0 v
    else if f = 0x0E then toSp v
    else (0, 0)

/-! ### FP32 operations -/

/-- An FP32 result from an exact value: a NaN operand sets nothing, an invalid operation sets NV (R229). -/
def f32Round (r : Num × Bool) : Nat × BitVec 8 :=
  let c := fF32.encode .rne false r.1
  (c.1, c.2 ||| (if r.2 then flagNV else 0))

/-- FP32 addition on bits. -/
def f32Add (a b : Nat) : Nat × BitVec 8 := f32Round ((fF32.decode a).add (fF32.decode b))

/-- The smaller of two floats on bits (R231): a NaN gives the canonical NaN, -0 is below +0, equal values give `a`. -/
def fltMin (f : FFmt) (a b : Nat) : Nat :=
  let x := f.decode a
  let y := f.decode b
  if x.isNan || y.isNan then f.nanCode
  else if y.lt x then b
  else if x.lt y then a
  else if bitOf b (f.bits - 1) && !bitOf a (f.bits - 1) then b else a

/-- The larger of two floats on bits (R231). -/
def fltMax (f : FFmt) (a b : Nat) : Nat :=
  let x := f.decode a
  let y := f.decode b
  if x.isNan || y.isNan then f.nanCode
  else if x.lt y then b
  else if y.lt x then a
  else if bitOf a (f.bits - 1) && !bitOf b (f.bits - 1) then b else a

end Sys2Proof.Machine
end

