-- ==== Sys2Proof/Machine/MemWords.lean ====
section
/-! DEFINITION. The scalar memory words: LD, LDU, ST, the indexed forms, HLD, HST and ZST (R115 to R120, R137, R176). -/

namespace Sys2Proof.Machine

/-- An SO access waits for every earlier SO access of the agent (R282). -/
def State.soPending (s : State) : Bool :=
  s.cur.pend.any (fun p => p.so) || s.cur.queue.any (fun w => w.so) || s.cur.running.any fun r => r.word.so

/-- The checks of R115 on an access of `n` bytes at `ea`: alignment first, then the page (R115, checks 1 to 6). -/
def State.checkEA (s : State) (need : Need) (n : Nat) (ea : Word) : Except Nat Acc :=
  if ea.toNat % n ≠ 0 then .error Cause.misaligned else s.access need ea

/-- The first tick at which a load may be made: the read tick of a tile (R117, R162), and at issue elsewhere. -/
def State.readTick (s : State) (a : Nat) : Nat := match s.placeOf a with | .tile _ _ _ => s.z0 + 2 | _ => s.z0

/-- Issue a load of `n` bytes: they are read from the first tick at which nothing keeps the load waiting, and reach their
destination at the bound of Table 7-6, or when they have been read where that is later (R96, R117, R119). Where no die answers
the load delivers zero and a bus error at its bound (R155). DESIGN CHOICE (notes/assumptions/6.md). -/
def State.startLoad (s : State) (acc : Acc) (n : Nat) (dst : LoadDst) (acq : Bool) (ea : Word)
    (port sem : Option Nat := none) : State :=
  let due := s.z0 + s.scalarBound acc.phys
  if acc.answers then
    s.pendOp (s.readTick acc.phys) (.sample dst acc n due ea) (sr := true) (so := acc.so) (uo := acc.uo) (acq := acq) (port := port)
      (sem := sem)
  else
    s.pendOp due (.loaded dst (List.replicate n 0) true ea) (sr := true) (so := acc.so) (uo := acc.uo) (acq := acq) (port := port)
      (sem := sem)

/-- Issue a store: performed in its target within its bound of Table 7-6, or after it where a tile is busy, a bank serves others,
or a release waits (R118, R142, R167, R281). DESIGN CHOICE (notes/assumptions/6.md). -/
def State.startStore (s : State) (acc : Acc) (bytes : List Byte) (ea : Word) (port sem : Option Nat := none) (rel : Bool := false) :
    State :=
  s.pendOp (s.z0 + s.scalarBound acc.phys) (.store acc bytes ea) (sw := true) (so := acc.so) (uo := acc.uo) (port := port) (sem := sem)
    (rel := rel)

/-- A load word (R117): check EA, order SO accesses (R282), then start the access. -/
def loadWord (i : Instr) (reads : List Nat) (reg : Nat) (dst : LoadDst) (n : Nat) (acq : Bool) (ea : State → Word)
    (s : State) : Host.Outcome State Fault Refusal :=
  issue i { reads := reads, writes := [reg], sr := true } s fun s =>
    let a := ea s
    match s.checkEA { rd := true } n a with
    | .error c => .trap c a
    | .ok acc =>
      if acc.so && s.soPending then .hold s
      else
        let s := s.setBusy reg (some (s.z0 + s.scalarBound acc.phys)) none
        .done (s.startLoad acc n dst (acq && !acc.uo) a)

/-- A store word (R118): check EA, order SO accesses, then start the store. `sample` is what taking the value changes (R137). -/
def storeWord (i : Instr) (reads : List Nat) (need : Need) (n : Nat) (rel : Bool) (ea : State → Word)
    (bytes : State → List Byte) (s : State) (sample : State → State := id) : Host.Outcome State Fault Refusal :=
  issue i { reads := reads, sw := true } s fun s =>
    let a := ea s
    match s.checkEA need n a with
    | .error c => .trap c a
    | .ok acc =>
      if acc.so && s.soPending then .hold s
      else
        let s := sample s
        .done (s.startStore acc (bytes s) a (rel := rel && !acc.uo))

/-- The M-format effective address: x[A] + sext(IMM12) (R115). -/
def eaM (a : BitVec 6) (imm : BitVec 12) (s : State) : Word := s.rx a.toNat + imm.signExtend 64

/-- The indexed effective address: x[A] + (x[B] << SZ) (R120). -/
def eaX (a b : BitVec 6) (sz : BitVec 2) (s : State) : Word := s.rx a.toNat + s.rx b.toNat <<< sz.toNat

/-- Bytes of an access size (R46). -/
def szBytes (sz : BitVec 2) : Nat := 2 ^ sz.toNat

/-- LD (R117): sign-extended. -/
def execLd (g : Ctl) (d a : BitVec 6) (sz : BitVec 2) (ord : BitVec 4) (imm : BitVec 12) (s : State) :
    Host.Outcome State Fault Refusal :=
  loadWord (.ld g d a sz ord imm) [a.toNat] d.toNat (.x d.toNat (szBytes sz) true) (szBytes sz) (ord.getLsbD 0) (eaM a imm) s

/-- LDU (R117): zero-extended. -/
def execLdu (g : Ctl) (d a : BitVec 6) (sz : BitVec 2) (ord : BitVec 4) (imm : BitVec 12) (s : State) :
    Host.Outcome State Fault Refusal :=
  loadWord (.ldu g d a sz ord imm) [a.toNat] d.toNat (.x d.toNat (szBytes sz) false) (szBytes sz) (ord.getLsbD 0) (eaM a imm) s

/-- ST (R118): `d` names the source register. -/
def execSt (g : Ctl) (d a : BitVec 6) (sz : BitVec 2) (ord : BitVec 4) (imm : BitVec 12) (s : State) :
    Host.Outcome State Fault Refusal :=
  storeWord (.st g d a sz ord imm) [d.toNat, a.toNat] { wr := true } (szBytes sz) (ord.getLsbD 1) (eaM a imm)
    (fun s => leBytes (szBytes sz) (s.rx d.toNat).toNat) s

/-- LDX (R120). -/
def execLdx (g : Ctl) (d a b : BitVec 6) (sz : BitVec 2) (s : State) : Host.Outcome State Fault Refusal :=
  loadWord (.ldx g d a b sz) [a.toNat, b.toNat] d.toNat (.x d.toNat (szBytes sz) true) (szBytes sz) false (eaX a b sz) s

/-- LDXU (R120). -/
def execLdxu (g : Ctl) (d a b : BitVec 6) (sz : BitVec 2) (s : State) : Host.Outcome State Fault Refusal :=
  loadWord (.ldxu g d a b sz) [a.toNat, b.toNat] d.toNat (.x d.toNat (szBytes sz) false) (szBytes sz) false (eaX a b sz) s

/-- STX (R120): `c` names the source register. -/
def execStx (g : Ctl) (a b c : BitVec 6) (sz : BitVec 2) (s : State) : Host.Outcome State Fault Refusal :=
  storeWord (.stx g a b c sz) [a.toNat, b.toNat, c.toNat] { wr := true } (szBytes sz) false (eaX a b sz)
    (fun s => leBytes (szBytes sz) (s.rx c.toNat).toNat) s

/-- HLD (R176): a 32-byte record into h[D]. -/
def execHld (g : Ctl) (d a : BitVec 6) (ord : BitVec 4) (imm : BitVec 12) (s : State) : Host.Outcome State Fault Refusal :=
  loadWord (.hld g d a ord imm) [a.toNat] (regH d.toNat) (.h d.toNat) 32 (ord.getLsbD 0) (eaM a imm) s

/-- HST (R176): h[D] to memory. -/
def execHst (g : Ctl) (d a : BitVec 6) (ord : BitVec 4) (imm : BitVec 12) (s : State) : Host.Outcome State Fault Refusal :=
  storeWord (.hst g d a ord imm) [a.toNat, regH d.toNat] { wr := true } 32 (ord.getLsbD 1) (eaM a imm)
    (fun s => leBytes 32 (s.rh d.toNat).toNat) s

/-- Three 16-bit counts, each raised by that of another triple and saturating at 0xFFFF (Table 7-11). -/
def satCounts (a b : Nat) : Nat :=
  ((upFrom 0 3).map fun k => min 0xFFFF (bitsOf a (16 * k) 16 + bitsOf b (16 * k) 16) * 2 ^ (16 * k)).sum

/-- The corrected-error counts of the focused cell: MEMCE and LINKCE are its die's, SEQCE is the cell's own (Table 7-11). -/
def State.errCounts (s : State) : Nat :=
  sget 0 s.errs s.slotNo % 2 ^ 32 + sget 0 s.errs (32 + s.slotNo * 16 + s.cur.cell) % 2 ^ 16 * 2 ^ 32

/-- The errors corrected since the last sample enter the counts before a sample of z6: how many is a free value (Table 7-11).
DESIGN CHOICE (notes/assumptions/2.md). -/
def State.countErrs (s : State) : State :=
  let v := satCounts s.errCounts (Config.correctedErrors s.slotNo s.cur.cell s.free).toNat
  { s with errs := sset 0 (sset 0 s.errs s.slotNo (v % 2 ^ 32)) (32 + s.slotNo * 16 + s.cur.cell) (v / 2 ^ 32) }

/-- The level of a cluster's logic rail, in units of 0.25 mV (R331): its base level, and 12.5 mV more while its step stands. -/
def State.railLevel (s : State) (key : Nat) : Nat :=
  Config.railFloor + s.power.bases.getD key 1000 + (if s.power.stands.contains key then 50 else 0)

/-- A quarantined register, sampled (Table 7-10): what the manual does not compute is a free value. -/
def State.getZ (s : State) (k : Nat) : Word :=
  match k with
  | 0 => BitVec.ofNat 64 s.z0
  | 1 => BitVec.ofNat 64 s.slotNo
  | 2 => Config.junctionTemp s.slotNo s.cur.cell s.free
  | 3 => BitVec.ofNat 64 (s.railLevel (s.slotNo * 4 + s.cluster s.slotNo s.cur.cell))
  | 4 => BitVec.ofNat 64 (s.physCell s.slotNo s.cur.cell)
  | 5 => Config.oscillator s.slotNo s.cur.cell s.free
  | 6 => BitVec.ofNat 64 s.errCounts
  | _ => Config.entropy s.free

/-- ZST (R137): samples z[D] at issue and stores it to a PROFILE page. -/
def execZst (g : Ctl) (d a : BitVec 6) (imm : BitVec 12) (s : State) : Host.Outcome State Fault Refusal :=
  storeWord (.zst g d a imm) [a.toNat] { wr := true, zst := true } 8 false (eaM a imm)
    (fun s => leBytes 8 (s.getZ d.toNat).toNat) s (fun s => if d.toNat = 6 then s.countErrs else s)

/-- Put a loaded value where it goes (R117, R176). -/
def State.deliver (s : State) (dst : LoadDst) (bytes : List Byte) : State :=
  match dst with
  | .x d n signed =>
    s.setX d (if signed then BitVec.ofInt 64 (toSInt (8 * n) (leNat (bytes.take n))) else BitVec.ofNat 64 (leNat (bytes.take n)))
  | .h d => s.setH d (BitVec.ofNat 256 (leNat bytes))
  | .port _ _ => s

/-- The register a load delivers to. -/
def LoadDst.reg : LoadDst → Option Nat
  | .x d _ _ => some d | .h d => some (regH d) | .port _ _ => none

/-- An outstanding write has been made: LOCK readers may go on, and a SCHED read is defined no earlier than now
(R96, R97). -/
def State.settle (s : State) (seq : Nat) : State :=
  s.modCur fun c => { c with busy := c.busy.map fun b =>
    if b.seq = seq then { b with lock := some s.z0, sched := some (max s.z0 (b.sched.getD s.z0)) } else b }

end Sys2Proof.Machine
end

