-- ==== Sys2Proof/Machine/Sync.lean ====
section
/-! DEFINITION. Fences, SSEND, RDV and COMMIT (R272, R273, R280, R293 to R300). -/

namespace Sys2Proof.Machine

/-- The path classes of an engine word's accesses (Table 20-1), by MAJ and FN6. -/
def classesOf (i : Instr) : BitVec 10 :=
  let w := encode i
  let maj := (w.extractLsb' 42 6).toNat
  let fn := (w.extractLsb' 32 6).toNat
  if maj = 0x30 then (if fn < 2 then 0x00C else 0)
  else if maj = 0x31 then (if fn = 3 then 0x004 else 0)
  else if maj = 0x34 then (if fn = 0 then 0x008 else 0x004)
  else if maj = 0x20 ∨ maj = 0x21 ∨ maj = 0x22 then 0x030
  else if maj = 0x23 then
    (if fn < 2 then 0x020 else if 4 ≤ fn ∧ fn < 8 then 0x030 else if fn = 8 then 0x010 else 0)
  else if maj = 0x2A then (if 4 ≤ fn ∧ fn < 8 then 0x040 else 0x0C0)
  else if maj = 0x2C then (if fn = 0 then 0x0C0 else if fn = 3 then 0x040 else 0x080)
  else if 0x28 ≤ maj ∧ maj ≤ 0x2B then 0x0C0
  else if maj = 0x32 then 0x300
  else if maj = 0x39 then (if 1 ≤ fn ∧ fn ≤ 4 then 0x100 else if fn = 5 ∨ fn = 6 then 0x200 else 0)
  else 0

/-- An accepted link segment that the focused strand's agent writes, and that landed before a tick, is not performed yet: a CW
access (Table 20-1, R272). -/
def State.landsBefore (s : State) (tick : Nat) : Bool :=
  s.segs.any fun g => g.prio == s.cur.prio && g.dst == s.cur.vdie && g.acc.any fun a => a.cell == s.cur.cell && decide (a.tau < tick)

/-- A fence with this sequence number and predecessor set, which issued before a tick, still waits for an access (R280, R294). -/
def State.fencePreds (s : State) (seq tick : Nat) (pre : BitVec 10) : Bool :=
  let c := s.cur
  c.pend.any (fun p => decide (p.seq < seq) && scalarClasses p.sr p.sw &&& pre != 0)
    || c.queue.any (fun w => decide (w.seq < seq) && classesOf w.instr &&& pre != 0)
    || c.running.any (fun r => decide (r.word.seq < seq) && classesOf r.word.instr &&& pre != 0)
    || (pre.getLsbD 3 && s.landsBefore tick)

/-- FENCE (R280, R293, R294): it does not hold issue; its successors wait until it completes, one tick on at the
earliest. -/
def execFence (g : Ctl) (scope : BitVec 6) (pre suc : BitVec 10) (s : State) : Host.Outcome State Fault Refusal :=
  issue (.fence g scope pre suc) {} s fun s =>
    .done ((s.modCur fun c => { c with fences := c.fences ++ [{ seq := c.seq, suc := suc, scope := scope.toNat }] }).pendOp (s.z0 + 1) (.fence pre))

/-- End the compute phase, once in a superstep (R284, R300). -/
def State.endCompute (s : State) : State := s.modCur fun c => { c with ssend := some (c.ssend.getD s.z0) }

/-- SSEND (R300). -/
def execSsend (g : Ctl) (s : State) : Host.Outcome State Fault Refusal :=
  issue (.ssend g) {} s fun s => .done s.endCompute

/-- Meet at a tick (R295, R297): it implies SSEND, and the strand issues nothing until the rendezvous. -/
def meetAt (i : Instr) (tick : BitVec 24) (mark : Bool) (s : State) : Host.Outcome State Fault Refusal :=
  issue i {} s fun s =>
    .raw ((s.endCompute.advance 0).modCur fun c =>
      { c with status := .waiting, rdv := some (s.launch.base + tick.toNat, mark, s.z0) })

/-- RDV (R295 to R298). -/
def execRdv (g : Ctl) (tick : BitVec 24) (s : State) : Host.Outcome State Fault Refusal := meetAt (.rdv g tick) tick false s

/-- COMMIT (R299): RDV with a mark. -/
def execCommit (g : Ctl) (tick : BitVec 24) (s : State) : Host.Outcome State Fault Refusal :=
  meetAt (.commit g tick) tick true s

end Sys2Proof.Machine
end

