-- ==== Sys2Proof/Machine/Atomic.lean ====
section
/-! DEFINITION. The atomics (R290, R291, R301 to R305), BASK.PREF (R336) and MRAIL (R218). -/

namespace Sys2Proof.Machine

/-- The new value of a word m of `w` bits, with operand a and the replacement b of CTRADE, and the flags (Tables 21-4 and
21-5, R304). -/
def atomNew (op : Nat) (takes : Bool) (w : Nat) (m a b : Nat) : Nat × BitVec 8 :=
  let sm := toSInt w m
  let sa := toSInt w a
  match op with
  | 0x0 => ((m + a) % 2 ^ w, 0)
  | 0x1 => (m &&& a, 0)
  | 0x2 => (m ||| a, 0)
  | 0x3 => (m ^^^ a, 0)
  | 0x4 => (if sa < sm then a else m, 0)
  | 0x5 => (if sm < sa then a else m, 0)
  | 0x6 => (min m a, 0)
  | 0x7 => (max m a, 0)
  | 0x8 => f32Add m a
  | 0x9 => if takes then (a, 0) else (fltMin fF32 m a, 0)
  | _ => if takes then (if m = a then b else m, 0) else (fltMax fF32 m a, 0)

/-- What x[D] receives of the old word (R303): zero-extended for MINU, MAXU and FADD, sign-extended otherwise. -/
def atomOld (op w m : Nat) : Word :=
  if op = 0x6 ∨ op = 0x7 ∨ op = 0x8 then BitVec.ofNat 64 m else BitVec.ofInt 64 (toSInt w m)

/-- The operation of an atomic word: its FN4, whether it returns the old word (Tables 21-4 and 21-5), and its M-format
fields. -/
structure AtomForm where
  op : Nat
  takes : Bool
  d : BitVec 6
  a : BitVec 6
  sz : BitVec 2
  ord : BitVec 4
  imm : BitVec 12
  deriving DecidableEq, Repr

/-- CTRADE, which also reads x[D+1] (R303). -/
def AtomForm.pair (f : AtomForm) : Bool := f.takes && f.op == 0xA

/-- What an atomic word reads and writes. -/
def AtomForm.uses (f : AtomForm) : Use :=
  { reads := f.a.toNat :: f.d.toNat :: (if f.pair then [f.d.toNat + 1] else [])
    writes := if f.takes then [f.d.toNat] else [], sr := true, sw := true }

/-- The atomic that a word sends to the sync engine of its page's die (R290). -/
def State.atomOf (s : State) (f : AtomForm) (acc : Acc) : Atom :=
  let w := 8 * szBytes f.sz
  let slot := s.serverOf acc.phys
  let back := if slot = s.slotNo then 0 else routeLat s.slotNo slot
  { slot := slot, phys := acc.phys, arrive := s.z0 + 2 + back, back := back, held := false, prio := s.cur.prio
    vdie := s.cur.vdie, cell := s.cur.cell, op := f.op, takes := f.takes, bytes := szBytes f.sz
    a := BitVec.ofNat 64 ((s.rx f.d.toNat).toNat % 2 ^ w)
    b := BitVec.ofNat 64 (if f.pair then (s.rx (f.d.toNat + 1)).toNat % 2 ^ w else 0)
    d := f.d.toNat, seq := s.cur.seq, bound := s.z0 + s.scalarBound acc.phys, pc := s.cur.pc
    rel := f.ord.getLsbD 1 && !acc.uo, so := acc.so }

/-- Send an atomic (R290). Where no die answers, nothing is read or written and a bus error follows (R158). -/
def State.sendAtom (s : State) (f : AtomForm) (ea : Word) (acc : Acc) : State :=
  let due := s.z0 + s.scalarBound acc.phys
  let acq := f.ord.getLsbD 0 && !acc.uo
  let t := if f.takes then s.setBusy f.d.toNat (some due) none else s
  if !acc.answers then
    t.pendOp due (if f.takes then .loaded (.x f.d.toNat 8 false) (List.replicate 8 0) true ea else .store acc [] ea)
      (sr := true) (sw := true) (so := acc.so) (uo := acc.uo) (acq := acq)
  else
    { t with atoms := t.atoms ++ [s.atomOf f acc] }.pendOp due .atomic (sr := true) (sw := true) (so := acc.so) (uo := acc.uo) (acq := acq)

/-- What an atomic's page must allow (R301). -/
def atomNeed : Need := { rd := true, wr := true, atomic := true }

/-- An atomic word (R290, R301): the DET check, the checks of R115 with the target check, then the word goes to the sync
engine of the page's die. -/
def atomWord (i : Instr) (f : AtomForm) (s : State) : Host.Outcome State Fault Refusal :=
  issue i f.uses s fun s =>
    let ea := eaM f.a f.imm s
    if s.launch.det && (f.takes || atomFp f.op f.takes) then .trap Cause.detAtomic s.cur.pc
    else match s.checkEA atomNeed (szBytes f.sz) ea with
      | .error c => .trap c ea
      | .ok acc => if acc.so && s.soPending then .hold s else .done (s.sendAtom f ea acc)

/-- FOLDADD (R302, Table 21-4). -/
def execFoldadd (g : Ctl) (d a : BitVec 6) (sz : BitVec 2) (ord : BitVec 4) (imm : BitVec 12) (s : State) :
    Host.Outcome State Fault Refusal :=
  atomWord (.foldadd g d a sz ord imm) ⟨0x0, false, d, a, sz, ord, imm⟩ s

/-- FOLDAND (R302, Table 21-4). -/
def execFoldand (g : Ctl) (d a : BitVec 6) (sz : BitVec 2) (ord : BitVec 4) (imm : BitVec 12) (s : State) :
    Host.Outcome State Fault Refusal :=
  atomWord (.foldand g d a sz ord imm) ⟨0x1, false, d, a, sz, ord, imm⟩ s

/-- FOLDOR (R302, Table 21-4). -/
def execFoldor (g : Ctl) (d a : BitVec 6) (sz : BitVec 2) (ord : BitVec 4) (imm : BitVec 12) (s : State) :
    Host.Outcome State Fault Refusal :=
  atomWord (.foldor g d a sz ord imm) ⟨0x2, false, d, a, sz, ord, imm⟩ s

/-- FOLDXOR (R302, Table 21-4). -/
def execFoldxor (g : Ctl) (d a : BitVec 6) (sz : BitVec 2) (ord : BitVec 4) (imm : BitVec 12) (s : State) :
    Host.Outcome State Fault Refusal :=
  atomWord (.foldxor g d a sz ord imm) ⟨0x3, false, d, a, sz, ord, imm⟩ s

/-- FOLDMIN (R302, Table 21-4). -/
def execFoldmin (g : Ctl) (d a : BitVec 6) (sz : BitVec 2) (ord : BitVec 4) (imm : BitVec 12) (s : State) :
    Host.Outcome State Fault Refusal :=
  atomWord (.foldmin g d a sz ord imm) ⟨0x4, false, d, a, sz, ord, imm⟩ s

/-- FOLDMAX (R302, Table 21-4). -/
def execFoldmax (g : Ctl) (d a : BitVec 6) (sz : BitVec 2) (ord : BitVec 4) (imm : BitVec 12) (s : State) :
    Host.Outcome State Fault Refusal :=
  atomWord (.foldmax g d a sz ord imm) ⟨0x5, false, d, a, sz, ord, imm⟩ s

/-- FOLDMINU (R302, Table 21-4). -/
def execFoldminu (g : Ctl) (d a : BitVec 6) (sz : BitVec 2) (ord : BitVec 4) (imm : BitVec 12) (s : State) :
    Host.Outcome State Fault Refusal :=
  atomWord (.foldminu g d a sz ord imm) ⟨0x6, false, d, a, sz, ord, imm⟩ s

/-- FOLDMAXU (R302, Table 21-4). -/
def execFoldmaxu (g : Ctl) (d a : BitVec 6) (sz : BitVec 2) (ord : BitVec 4) (imm : BitVec 12) (s : State) :
    Host.Outcome State Fault Refusal :=
  atomWord (.foldmaxu g d a sz ord imm) ⟨0x7, false, d, a, sz, ord, imm⟩ s

/-- FOLDFADD (R302, Table 21-4). -/
def execFoldfadd (g : Ctl) (d a : BitVec 6) (sz : BitVec 2) (ord : BitVec 4) (imm : BitVec 12) (s : State) :
    Host.Outcome State Fault Refusal :=
  atomWord (.foldfadd g d a sz ord imm) ⟨0x8, false, d, a, sz, ord, imm⟩ s

/-- FOLDFMIN (R302, Table 21-4). -/
def execFoldfmin (g : Ctl) (d a : BitVec 6) (sz : BitVec 2) (ord : BitVec 4) (imm : BitVec 12) (s : State) :
    Host.Outcome State Fault Refusal :=
  atomWord (.foldfmin g d a sz ord imm) ⟨0x9, false, d, a, sz, ord, imm⟩ s

/-- FOLDFMAX (R302, Table 21-4). -/
def execFoldfmax (g : Ctl) (d a : BitVec 6) (sz : BitVec 2) (ord : BitVec 4) (imm : BitVec 12) (s : State) :
    Host.Outcome State Fault Refusal :=
  atomWord (.foldfmax g d a sz ord imm) ⟨0xa, false, d, a, sz, ord, imm⟩ s

/-- TAKEADD (R303, Table 21-5). -/
def execTakeadd (g : Ctl) (d a : BitVec 6) (sz : BitVec 2) (ord : BitVec 4) (imm : BitVec 12) (s : State) :
    Host.Outcome State Fault Refusal :=
  atomWord (.takeadd g d a sz ord imm) ⟨0x0, true, d, a, sz, ord, imm⟩ s

/-- TAKEAND (R303, Table 21-5). -/
def execTakeand (g : Ctl) (d a : BitVec 6) (sz : BitVec 2) (ord : BitVec 4) (imm : BitVec 12) (s : State) :
    Host.Outcome State Fault Refusal :=
  atomWord (.takeand g d a sz ord imm) ⟨0x1, true, d, a, sz, ord, imm⟩ s

/-- TAKEOR (R303, Table 21-5). -/
def execTakeor (g : Ctl) (d a : BitVec 6) (sz : BitVec 2) (ord : BitVec 4) (imm : BitVec 12) (s : State) :
    Host.Outcome State Fault Refusal :=
  atomWord (.takeor g d a sz ord imm) ⟨0x2, true, d, a, sz, ord, imm⟩ s

/-- TAKEXOR (R303, Table 21-5). -/
def execTakexor (g : Ctl) (d a : BitVec 6) (sz : BitVec 2) (ord : BitVec 4) (imm : BitVec 12) (s : State) :
    Host.Outcome State Fault Refusal :=
  atomWord (.takexor g d a sz ord imm) ⟨0x3, true, d, a, sz, ord, imm⟩ s

/-- TAKEMIN (R303, Table 21-5). -/
def execTakemin (g : Ctl) (d a : BitVec 6) (sz : BitVec 2) (ord : BitVec 4) (imm : BitVec 12) (s : State) :
    Host.Outcome State Fault Refusal :=
  atomWord (.takemin g d a sz ord imm) ⟨0x4, true, d, a, sz, ord, imm⟩ s

/-- TAKEMAX (R303, Table 21-5). -/
def execTakemax (g : Ctl) (d a : BitVec 6) (sz : BitVec 2) (ord : BitVec 4) (imm : BitVec 12) (s : State) :
    Host.Outcome State Fault Refusal :=
  atomWord (.takemax g d a sz ord imm) ⟨0x5, true, d, a, sz, ord, imm⟩ s

/-- TAKEMINU (R303, Table 21-5). -/
def execTakeminu (g : Ctl) (d a : BitVec 6) (sz : BitVec 2) (ord : BitVec 4) (imm : BitVec 12) (s : State) :
    Host.Outcome State Fault Refusal :=
  atomWord (.takeminu g d a sz ord imm) ⟨0x6, true, d, a, sz, ord, imm⟩ s

/-- TAKEMAXU (R303, Table 21-5). -/
def execTakemaxu (g : Ctl) (d a : BitVec 6) (sz : BitVec 2) (ord : BitVec 4) (imm : BitVec 12) (s : State) :
    Host.Outcome State Fault Refusal :=
  atomWord (.takemaxu g d a sz ord imm) ⟨0x7, true, d, a, sz, ord, imm⟩ s

/-- TAKEFADD (R303, Table 21-5). -/
def execTakefadd (g : Ctl) (d a : BitVec 6) (sz : BitVec 2) (ord : BitVec 4) (imm : BitVec 12) (s : State) :
    Host.Outcome State Fault Refusal :=
  atomWord (.takefadd g d a sz ord imm) ⟨0x8, true, d, a, sz, ord, imm⟩ s

/-- TRADE (R303, Table 21-5). -/
def execTrade (g : Ctl) (d a : BitVec 6) (sz : BitVec 2) (ord : BitVec 4) (imm : BitVec 12) (s : State) :
    Host.Outcome State Fault Refusal :=
  atomWord (.trade g d a sz ord imm) ⟨0x9, true, d, a, sz, ord, imm⟩ s

/-- CTRADE (R303, Table 21-5). -/
def execCtrade (g : Ctl) (d a : BitVec 6) (sz : BitVec 2) (ord : BitVec 4) (imm : BitVec 12) (s : State) :
    Host.Outcome State Fault Refusal :=
  atomWord (.ctrade g d a sz ord imm) ⟨0xa, true, d, a, sz, ord, imm⟩ s

/-- BASK.PREF (R336): the preference bit of the class that the die has. A set bit of the class that it lacks is an illegal word, found
as such (`fitsClass`). -/
def execBaskPref (g : Ctl) (mask : BitVec 2) (s : State) : Host.Outcome State Fault Refusal :=
  issue (.baskPref g mask) {} s fun s =>
    .done (s.modCur fun c => { c with bask := mask.getLsbD (if s.vd.cls = .md then 0 else 1) })

/-- A matrix word that performs K-steps: MMA and MMAW (R207). -/
def isKStep (i : Instr) : Bool := majOf i == 0x20 || majOf i == 0x21

/-- A K-step word enqueued before a sequence number has not completed (R218). -/
def Strand.kstepsBefore (c : Strand) (seq : Nat) : Bool :=
  c.queue.any (fun w => isKStep w.instr && decide (w.seq < seq)) || c.running.any fun r => isKStep r.word.instr && decide (r.word.seq < seq)

/-- A request of any context of a cluster stands, apart from the focused strand (R218): swapped-out contexts do not count. -/
def State.clusterRequested (s : State) (slot cl : Nat) : Bool :=
  (s.cur :: s.others).any fun c =>
    c.railReq && !c.out && c.status != .idle && ((s.launchD c.prio).vd c.vdie).slot == slot
      && s.cluster slot c.cell == cl

/-- The step of a cluster stands: it has risen, and some cell of the cluster holds a request (R207, R218). -/
def State.railStands (s : State) (slot cl : Nat) : Bool :=
  s.power.stands.contains (slot * 4 + cl) && s.clusterRequested slot cl

/-- After a request has changed: a requested cluster whose step has not risen is due a free number of ticks on, at most 2048;
one without a request is no longer due. A risen step falls only at a control-interval boundary (R218, R331).
DESIGN CHOICE (notes/assumptions/3.md). DEDUCED (notes/assumptions/27.md). -/
def State.railUpdate (s : State) (slot cl : Nat) : State :=
  let key := slot * 4 + cl
  let p := s.power
  if s.clusterRequested slot cl then
    if p.stands.contains key ∨ sget 0 p.due key ≠ 0 then s
    else { s with power := { p with due := sset 0 p.due key (s.z0 + Config.railTicks slot cl s.z0 + 1) } }
  else { s with power := { p with due := sset 0 p.due key 0 } }

/-- Clear the focused strand's rail request. -/
def State.railClear (s : State) : State :=
  let cl := s.cluster s.slotNo s.cur.cell
  (s.modCur fun c => { c with railReq := false }).railUpdate s.slotNo cl

/-- MRAIL.UP (R218): a request already up changes nothing; one that a DN is still to clear is up. -/
def execMrailUp (g : Ctl) (s : State) : Host.Outcome State Fault Refusal :=
  issue (.mrailUp g) {} s fun s =>
    if s.cur.railReq then .done s
    else .done ((s.modCur fun c => { c with railReq := true }).railUpdate s.slotNo (s.cluster s.slotNo s.cur.cell))

/-- MRAIL.DN (R218): the request falls once every K-step word enqueued before it has completed. -/
def execMrailDn (g : Ctl) (s : State) : Host.Outcome State Fault Refusal :=
  issue (.mrailDn g) {} s fun s =>
    if s.cur.kstepsBefore s.cur.seq then .done (s.modCur fun c => { c with railDn := c.railDn ++ [c.seq], seq := c.seq + 1 })
    else .done s.railClear

end Sys2Proof.Machine
end

