-- ==== Sys2Proof/Machine/Sem.lean ====
section
/-! DEFINITION. The semaphore words that the sequencer executes (R102, R103, R132 to R136). -/

namespace Sys2Proof.Machine

/-- The two semaphore fields of a T-format word, resolved at issue and checked (R48, R342): SW and SR, or the trap. -/
def State.semFields (s : State) (t : TCtl) (w : BitVec 48) : Except (Nat × Word) (Option Nat × Option Nat) :=
  match s.resolveSem t.sw, s.resolveSem t.sr with
  | .illegal, _ => .error (Cause.illegal, 0#16 ++ w)
  | _, .illegal => .error (Cause.illegal, 0#16 ++ w)
  | a, b =>
    let num := fun r => match r with | SemRef.sem n => some n | _ => none
    match (num a).filter (fun n => !s.semOwned n), (num b).filter (fun n => !s.semOwned n) with
    | some n, _ => .error (Cause.privilege, BitVec.ofNat 64 n)
    | none, some n => .error (Cause.privilege, BitVec.ofNat 64 n)
    | none, none => .ok (num a, num b)

/-- The await of a sequencer-executed word (R103, R278, R281): it waits for its count, which falls by one when granted; a
word that waits remembers since when (R102). An await acquires SR and SW, so it does not pass the strand's own
outstanding accesses of an acquire load. -/
def State.awaitSeq (s : State) (sw : Option Nat) : Option State :=
  match sw with
  | none => some s
  | some n => s.takeSem s.slotNo n

/-- Remember when the unit began to wait (R102). -/
def State.waitSince (s : State) : State := s.modCur fun c => { c with since := some (c.since.getD s.z0) }

/-- A sequencer-executed T-format word: resolve its semaphores, await SW, then act; SR is raised at `bound` (R103). -/
def semWord (i : Instr) (t : TCtl) (u : Use) (s : State) (act : State → Option Nat → State) :
    Host.Outcome State Fault Refusal :=
  issue i u s fun s =>
    match s.semFields t (encode i) with
    | .error (c, v) => .trap c v
    | .ok (sw, sr) =>
      match s.awaitSeq sw with
      | none => .hold s.waitSince
      | some s => .done (act s sr)

/-- The optional raise of a word, by 1, at a tick (R103). -/
def State.raiseAt (s : State) (sr : Option Nat) (due n : Nat) : State :=
  match sr with | none => s | some k => s.pendOp due (.raise k n)

/-- SEMINIT (R132, R133, R279): count := n no earlier than two ticks on. -/
def execSeminit (t : TCtl) (n : BitVec 16) (s : State) : Host.Outcome State Fault Refusal :=
  semWord (.seminit t n) t {} s fun s sr => s.pendOp (s.z0 + 2) (.seminit (sr.getD 0) n.toNat)

/-- SEMWAIT (R134): p[D] := 0 when granted; a release by SEMINIT writes 1 (R133). -/
def execSemwait (t : TCtl) (d : BitVec 4) (s : State) : Host.Outcome State Fault Refusal :=
  semWord (.semwait t d) t { writes := [regP d.toNat] } s fun s sr => (s.setP d.toNat false).raiseAt sr (s.z0 + 1) 1

/-- SEMPOST (R134): adds n to the count two ticks on. -/
def execSempost (t : TCtl) (n : BitVec 16) (s : State) : Host.Outcome State Fault Refusal :=
  semWord (.sempost t n) t {} s fun s sr => s.raiseAt sr (s.z0 + 2) n.toNat

/-- SEMROT (R135): ROT := (ROT + k) mod DEPTH when DEPTH is 1 to 32. -/
def execSemrot (t : TCtl) (k : BitVec 5) (s : State) : Host.Outcome State Fault Refusal :=
  issue (.semrot t k) {} s fun s =>
    let dep := s.cur.semdepth.toNat
    if 1 ≤ dep ∧ dep ≤ 32 then
      .done (s.modCur fun c => { c with semrot := BitVec.ofNat 5 ((c.semrot.toNat + k.toNat) % dep) })
    else .done s

/-- SEMTEST (R136): p[D] := count ≥ n, sampled at the issue tick after its awaits are granted, and written two ticks on; DET mode
traps (R291), once the semaphore lies in the allocation. DEDUCED (notes/assumptions/9.md). -/
def execSemtest (t : TCtl) (d : BitVec 4) (n : BitVec 12) (s : State) : Host.Outcome State Fault Refusal :=
  issue (.semtest t d n) { writes := [regP d.toNat] } s fun s =>
    match s.semFields t (encode (.semtest t d n)) with
    | .error (c, v) => .trap c v
    | .ok (_, sr) =>
      if s.launch.det then .trap Cause.detAtomic s.cur.pc
      else
        .done ((s.setBusy (regP d.toNat) (some (s.z0 + 2)) (some (s.z0 + 2))).pendOp (s.z0 + 2)
          (.test d.toNat (sr.getD 0) n.toNat))

end Sys2Proof.Machine
end

