-- ==== Sys2Proof/Machine/Handle.lean ====
section
/-! DEFINITION. Handle field words and port words (R143 to R149, R175 to R178). -/

namespace Sys2Proof.Machine

/-- HGET (R175): the strides are sign-extended, every other field zero-extended. -/
def execHget (g : Ctl) (d a : BitVec 6) (fld : BitVec 4) (s : State) : Host.Outcome State Fault Refusal :=
  issue (.hget g d a fld) { reads := [regH a.toNat], writes := [d.toNat] } s fun s =>
    let v := hGet (s.rh a.toNat) fld.toNat
    .done (s.setX d.toNat (if 7 ≤ fld.toNat ∧ fld.toNat ≤ 9 then BitVec.ofInt 64 (toSInt 32 v) else BitVec.ofNat 64 v))

/-- HSET (R175): the low bits of x[A] that fit the field. -/
def execHset (g : Ctl) (d a : BitVec 6) (fld : BitVec 4) (s : State) : Host.Outcome State Fault Refusal :=
  issue (.hset g d a fld) { reads := [a.toNat, regH d.toNat], writes := [regH d.toNat] } s fun s =>
    .done (s.setH d.toNat (hSet (s.rh d.toNat) fld.toNat (s.rx a.toNat).toNat))

/-- HADD (R175): adds x[A] modulo the field's width. -/
def execHadd (g : Ctl) (d a : BitVec 6) (fld : BitVec 4) (s : State) : Host.Outcome State Fault Refusal :=
  issue (.hadd g d a fld) { reads := [a.toNat, regH d.toNat], writes := [regH d.toNat] } s fun s =>
    let h := s.rh d.toNat
    .done (s.setH d.toNat (hSet h fld.toNat (hGet h fld.toNat + (s.rx a.toNat).toNat)))

/-- HCPY (R175): all 256 bits. -/
def execHcpy (g : Ctl) (d a : BitVec 6) (s : State) : Host.Outcome State Fault Refusal :=
  issue (.hcpy g d a) { reads := [regH a.toNat], writes := [regH d.toNat] } s fun s => .done (s.setH d.toNat (s.rh a.toNat))

/-- HCLR (R175). -/
def execHclr (g : Ctl) (d : BitVec 6) (s : State) : Host.Outcome State Fault Refusal :=
  issue (.hclr g d) { writes := [regH d.toNat] } s fun s => .done (s.setH d.toNat 0)

/-- A port in use: an enqueued or running word names it, or a port word holds it (R104, R177). -/
def State.portBusy (s : State) (q : Nat) : Bool :=
  s.cur.queue.any (fun w => w.ports.any fun p => p.1 == q) || s.cur.running.any (fun r => r.word.ports.any fun p => p.1 == q)
    || s.cur.pend.any fun p => p.port == some q

/-- The checks of R149 on `n` bytes at offset `o` of a local space: the range first, then the context's share (R72).
Scratchpad rows are 6144 bytes of each cell; tiles are 4096 bytes. -/
def State.localCheck (s : State) (space o n : Nat) : Option Nat :=
  if space = 1 then
    if s.capss s.slotNo < o + n then some Cause.translation
    else if s.ctx.sprow0 * 6144 ≤ o ∧ o + n ≤ (s.ctx.sprow0 + s.ctx.sprows) * 6144 then none else some Cause.privilege
  else
    if clsTiles s.vd.cls * 4096 < o + n then some Cause.translation
    else if s.ctx.ftile0 * 4096 ≤ o ∧ o + n ≤ (s.ctx.ftile0 + s.ctx.ftiles) * 4096 then none else some Cause.privilege

/-- The physical address of an offset in a local space: SPACE 01 or 10 (R149). -/
def State.localPhys (s : State) (space o : Nat) : Nat :=
  if space = 1 then s.spBase + o else tileBase s.slotNo + o

/-- The image address of a port word, checked as a scalar access (R177, R115, R149). -/
def State.imageAcc (s : State) (h : HRec) (need : Need) : Except (Nat × Word) Acc :=
  let a := BitVec.ofNat 64 (hBase h)
  if hBase h % 64 ≠ 0 then .error (Cause.misaligned, a)
  else if hSpace h = 0 then
    match s.access need a with | .ok acc => .ok acc | .error c => .error (c, a)
  else match s.localCheck (hSpace h) (hBase h) 64 with
    | some c => .error (c, a)
    | none => let p := s.localPhys (hSpace h) (hBase h); .ok { phys := p, so := false, answers := s.answers p }

/-- The port state image (Table 9-2); an unbound port gives zeros (R178). -/
def portImage (p : Port) : List Byte :=
  if p.bound then leBytes 32 p.hrec.toNat ++ leBytes 8 p.vidx ++ [1] ++ List.replicate 23 0 else List.replicate 64 0

/-- The port an image restores, or none when it fails R148 and R178. -/
def imagePort (b : List Byte) : Option Port :=
  let h : HRec := BitVec.ofNat 256 (leNat (b.take 32))
  let v := leNat ((b.drop 32).take 8)
  if b.all (· == 0) then some {}
  else if b.getD 40 0 ≠ 1 ∨ (b.drop 41).any (· != 0) ∨ hBad h ∨ hNV h ≤ v then none
  else some { hrec := h, vidx := v, bound := true }

/-- A port word (R177): its semaphores and its handle are checked, it waits for its port (R104), for earlier SO accesses where
`so` says that its image is one (R282), and for its await, and then acts. `handle` is the register it names. -/
def portWord (i : Instr) (t : TCtl) (d : BitVec 4) (handle : Option Nat) (sr sw : Bool) (so : State → Bool)
    (check : State → Option (Nat × Word)) (act : State → Option Nat → Eff) (s : State) : Host.Outcome State Fault Refusal :=
  issue i { reads := (handle.map regH).toList, sr := sr, sw := sw } s fun s =>
    let bad := match handle with
      | some a => if hBad (s.rh a) then some (Cause.illegal, BitVec.ofNat 64 a) else none
      | none => none
    match s.semFields t (encode i) with
    | .error (.succ 0, v) => .trap Cause.illegal v
    | f =>
      match bad with
      | some (c, v) => .trap c v
      | none =>
        match check s with
        | some (c, v) => if c = Cause.illegal then .trap c v else (match f with | .error (c2, v2) => .trap c2 v2 | _ => .trap c v)
        | none =>
          match f with
          | .error (c, v) => .trap c v
          | .ok (w, r) =>
            if s.portBusy d.toNat || (so s && s.soPending) then .hold s
            else match s.awaitSeq w with
              | none => .hold s.waitSince
              | some s => act s r

/-- PBIND (R177): the record must give NV ≥ 1. -/
def execPbind (t : TCtl) (d a : BitVec 4) (s : State) : Host.Outcome State Fault Refusal :=
  portWord (.pbind t d a) t d (some a.toNat) false false (fun _ => false)
    (fun s => if hNV (s.rh a.toNat) = 0 then some (Cause.illegal, BitVec.ofNat 64 a.toNat) else none)
    (fun s r => .done ((s.setQ d.toNat { hrec := s.rh a.toNat, vidx := 0, bound := true }).pendOp (s.z0 + 1) .port
      (port := some d.toNat) (sem := r))) s

/-- PUNBIND (R177). -/
def execPunbind (t : TCtl) (d : BitVec 4) (s : State) : Host.Outcome State Fault Refusal :=
  portWord (.punbind t d) t d none false false (fun _ => false) (fun _ => none)
    (fun s r => .done ((s.setQ d.toNat {}).pendOp (s.z0 + 1) .port (port := some d.toNat) (sem := r))) s

/-- The address checks of PSAVE and PREST: SPACE 11 is an illegal word (R177). -/
def imageCheck (a : BitVec 4) (need : Need) (i : Instr) (s : State) : Option (Nat × Word) :=
  let h := s.rh a.toNat
  if hSpace h = 3 then some (Cause.illegal, 0#16 ++ encode i)
  else match s.imageAcc h need with | .error e => some e | .ok _ => none

/-- The image of a PSAVE or PREST lies in an SO page (R282). -/
def imageSo (a : BitVec 4) (need : Need) (s : State) : Bool :=
  match s.imageAcc (s.rh a.toNat) need with | .ok acc => acc.so | .error _ => false

/-- PSAVE (R177, R178): the port is unchanged. -/
def execPsave (t : TCtl) (d a : BitVec 4) (s : State) : Host.Outcome State Fault Refusal :=
  portWord (.psave t d a) t d (some a.toNat) false true (imageSo a { wr := true }) (imageCheck a { wr := true } (.psave t d a))
    (fun s r => match s.imageAcc (s.rh a.toNat) { wr := true } with
      | .error (c, v) => .trap c v
      | .ok acc => .done (s.startStore acc (portImage (s.getQ d.toNat)) (BitVec.ofNat 64 (hBase (s.rh a.toNat)))
          (some d.toNat) r)) s

/-- PREST (R177, R178): the strand issues nothing until the image has been read and checked. The fetch of the next unit's block
starts at its issue (R92). -/
def execPrest (t : TCtl) (d a : BitVec 4) (s : State) : Host.Outcome State Fault Refusal :=
  portWord (.prest t d a) t d (some a.toNat) true false (imageSo a { rd := true }) (imageCheck a { rd := true } (.prest t d a))
    (fun s r => match s.imageAcc (s.rh a.toNat) { rd := true } with
      | .error (c, v) => .trap c v
      | .ok acc => .raw ((s.startLoad acc 64 (.port d.toNat (encode (.prest t d a))) false (BitVec.ofNat 64 (hBase (s.rh a.toNat))) (some d.toNat) r).fetchAt s.cur.nextPc |>.modCur
          fun c => { c with status := .restoring, slot := s.nextSlot t.hold.toNat })) s

/-- The end of a PREST (R178): a good image is installed and the next unit keeps its planned slot, late when that has
passed; a bad one is an illegal word at the PREST unit. -/
def State.endPrest (s : State) (q : Nat) (word : BitVec 48) (bytes : List Byte) : State :=
  let slot := s.cur.slot
  let s := s.modCur fun c => { c with status := .running }
  match imagePort bytes with
  | some p =>
    let t := ((s.setQ q p).advance 0).modCur fun c => { c with slot := slot }
    (if t.planned < t.z0 then t.lateIssue else t).modCur fun c => { c with slot := max slot t.z0 }
  | none => s.precise Cause.illegal (0#16 ++ word)

end Sys2Proof.Machine
end

