-- ==== Sys2Proof/Machine/Walk.lean ====
section
/-! DEFINITION. How a handle record turns into vectors, runs and byte ranges (R140, R144 to R146). -/

namespace Sys2Proof.Machine

/-- The byte address of the first element of run n, in the record's space (R144). -/
def hRunAddr (h : HRec) (n : Nat) : Int :=
  let e1 := max (hExt h 1) 1
  let e2 := max (hExt h 2) 1
  (hBase h : Int) + ((n % e1 : Nat) : Int) * hStride h 1 + ((n / e1 % e2 : Nat) : Int) * hStride h 2
    + ((n / (e1 * e2) : Nat) : Int) * hStride h 3

/-- Elements of dimension 0 that vector v holds (R144). -/
def hVecLanes (h : HRec) (v : Nat) : Nat :=
  min (fmtLanes (hFmt h)) (hExt h 0 - v % hRunVecs h * fmtLanes (hFmt h))

/-- The byte address of the first element of vector v (R144): every lane of a broadcast dimension 0 reads element 0. -/
def hVecAddr (h : HRec) (v : Nat) : Int :=
  hRunAddr h (v / hRunVecs h) + (if hBcast h 0 then 0 else ((v % hRunVecs h * 512 : Nat) : Int))

/-- Nibbles that `k` consecutive elements of a run occupy; a block form counts whole blocks. -/
def fmtNibs (f k : Nat) : Nat := if fmtBlock f then k / 48 * 128 else k * fmtStore f / 4

/-- Bytes that the active elements of vector v occupy (R145, R146). -/
def hVecBytes (h : HRec) (v : Nat) : Nat :=
  if hBcast h 0 then (if fmtBlock (hFmt h) then 64 else max 1 (fmtStore (hFmt h) / 8))
  else (fmtNibs (hFmt h) (hVecLanes h v) + 1) / 2

/-- The byte range of vector v: first address and length. -/
def hVecRange (h : HRec) (v : Nat) : Int × Nat := (hVecAddr h v, hVecBytes h v)

/-- The byte ranges of `count` vectors from `first` on, with the restart of R147. -/
def hRanges (h : HRec) (first count : Nat) : List (Int × Nat) :=
  if hNV h = 0 then [] else (upFrom first (min count (hNV h))).map fun v => hVecRange h (v % hNV h)

/-- Bytes of one whole run of dimension 0. -/
def hRunBytes (h : HRec) : Nat :=
  if hBcast h 0 then (if fmtBlock (hFmt h) then 64 else max 1 (fmtStore (hFmt h) / 8))
  else (fmtNibs (hFmt h) (hExt h 0) + 1) / 2

/-- The byte ranges of the whole sweep, run by run. -/
def hSweep (h : HRec) : List (Int × Nat) :=
  if hNV h = 0 then [] else (upFrom 0 (hRuns h)).map fun n => (hRunAddr h n, hRunBytes h)

/-- An address in a record's space as a 64-bit number: addresses below zero wrap. -/
def wrapAddr (a : Int) : Nat := (a % 2 ^ 64).toNat

/-- The lowest byte of a byte range that lies outside [lo, hi), if any. -/
def outside (r : Int × Nat) (lo hi : Int) : Option Int :=
  if r.2 = 0 then none
  else if r.1 < lo then some r.1
  else if hi < r.1 + r.2 then some (max r.1 hi)
  else none

/-- The lowest byte of any of the ranges that lies outside [lo, hi). -/
def lowestOutside (rs : List (Int × Nat)) (lo hi : Int) : Option Int :=
  rs.foldl (fun best r => match best, outside r lo hi with
    | none, o => o
    | some b, some o => some (min b o)
    | some b, none => some b) none

/-- Keep the lowest address of each 64 KiB page: insert one pair in page order. -/
def pageIns (pg low : Nat) : SMap Nat → SMap Nat
  | [] => [(pg, low)]
  | (q, l) :: r =>
    if pg < q then (pg, low) :: (q, l) :: r
    else if pg = q then (q, min l low) :: r
    else (q, l) :: pageIns pg low r

/-- The 64 KiB pages that byte ranges touch, ascending, each with its lowest byte. -/
def pagesOf (rs : List (Int × Nat)) : SMap Nat :=
  rs.foldl (fun m r =>
    if r.2 = 0 then m
    else
      let a := wrapAddr r.1
      (upFrom (a / 65536) ((a + r.2 - 1) / 65536 - a / 65536 + 1)).foldl
        (fun m p => pageIns p (max a (p * 65536)) m) m) []

/-! ### Elements of a vector -/

/-- The elements that a string of bytes holds, `n` of them, of a plain format: bits 7 and 6 of an
LNS6 byte are ignored (R25, R144). -/
def plainElems (f n : Nat) (bytes : List Byte) : List Nat :=
  if fmtStore f = 4 then
    (upFrom 0 n).map fun i => let b := (bytes.getD (i / 2) 0).toNat; if i % 2 = 0 then b % 16 else b / 16
  else
    let w := fmtStore f / 8
    (upFrom 0 n).map fun i => let v := leNat ((bytes.drop (w * i)).take w); if f = 0x0D then v % 64 else v

/-- The zero element of a block of a format: the value is zero (R31). -/
def blockZero (f : Nat) : Nat := if f % 128 = 0x0D then 0x20 else 0

/-- The elements of one block, with its scale, and whether its header mismatches (R30, R31). R31 says only that the
elements of a block with a wrong header read as zero: that its scale then reads as 0 is a DESIGN CHOICE
(notes/assumptions/39.md). -/
def blockElems (f : Nat) (bytes : List Byte) : List Lane × Bool :=
  if (bytes.getD 0 0).toNat = f then
    let sc := toSInt 8 (bytes.getD 1 0).toNat
    let str := leNat (bytes.drop 2)
    let w := fmtBits f
    ((upFrom 0 48).map fun i => (bitsOf str (w * i) w, sc), false)
  else (List.replicate 48 (blockZero f, 0), true)

/-- Elements of blocks that lie one after the other. -/
def blocksElems (f : Nat) : Nat → List Byte → List Lane × Bool
  | 0, _ => ([], false)
  | n + 1, bytes =>
    let b := blockElems f (bytes.take 64)
    let r := blocksElems f n (bytes.drop 64)
    (b.1 ++ r.1, b.2 || r.2)

/-- The lanes of vector v as a pop delivers them, from the bytes read (R144 to R146): none is a masked lane. The flag is a
header mismatch. -/
def popLanes (h : HRec) (v : Nat) (bytes : List Byte) : List (Option Lane) × Bool :=
  let f := hFmt h
  let k := hVecLanes h v
  let (els, bad) : List Lane × Bool :=
    if fmtBlock f then
      (if hBcast h 0 then
        let b := blockElems f bytes
        (List.replicate k (b.1.getD 0 (0, 0)), b.2)
       else blocksElems f (k / 48) bytes)
    else if hBcast h 0 then (List.replicate k ((plainElems f 1 bytes).getD 0 0, 0), false)
    else ((plainElems f k bytes).map fun b => (b, 0), false)
  let edge : Option Lane :=
    if fmtBlock f then none
    else match hEdge h with
      | 1 => some (if f = 0x0D then 0x20 else 0, 0)
      | 2 => els.getLast?
      | _ => none
  (els.map some ++ List.replicate (fmtLanes f - k) edge, bad)

/-- The nibbles of one element, lowest first, each with whether it is written. -/
def nibsOf (f : Nat) : Option Nat → List (Nat × Bool)
  | some b => (upFrom 0 (fmtStore f / 4)).map fun i => (b / 16 ^ i % 16, true)
  | none => List.replicate (fmtStore f / 4) (0, false)

/-- Bytes from nibbles: the value, and which nibbles of it are written (1 low, 2 high). -/
def nibBytes : List (Nat × Bool) → List (Byte × Nat)
  | [] => []
  | [lo] => [(BitVec.ofNat 8 lo.1, if lo.2 then 1 else 0)]
  | lo :: hi :: r =>
    (BitVec.ofNat 8 (lo.1 + 16 * hi.1), (if lo.2 then 1 else 0) + (if hi.2 then 2 else 0)) :: nibBytes r

/-- The bytes that a push of plain lanes writes into vector v: lanes past EXT0 are masked (R145). With BCAST on dimension 0
every lane is element 0 of its run, and the last lane that is not masked stands (R144). DEDUCED (notes/assumptions/12.md). -/
def pushBytes (h : HRec) (v : Nat) (lanes : List (Option Nat)) : List (Byte × Nat) :=
  let l := lanes.take (hVecLanes h v)
  nibBytes (if hBcast h 0 then nibsOf (hFmt h) ((l.filterMap id).getLast?) else l.flatMap (nibsOf (hFmt h)))

/-- One block of 48 elements as its 64 bytes (R30, R32). -/
def blockBytes (f : Nat) (scale : Int) (els : List Nat) : List Byte :=
  let w := fmtBits f
  let str := els.zipIdx.foldl (fun acc e => acc + e.1 % 2 ^ w * 2 ^ (w * e.2)) 0
  BitVec.ofNat 8 f :: BitVec.ofInt 8 scale :: leBytes 62 str

end Sys2Proof.Machine
end

