-- ==== Sys2Proof/Machine/Enqueue.lean ====
section
/-! DEFINITION. Enqueueing an engine word: the checks of R342 in their order, translation and pinning (R149 to R151), and
what is captured (R99). -/

namespace Sys2Proof.Machine

/-- An operand of an engine word: its field, its record, the byte ranges of the vectors it will use, and the rights it
needs. `far` allows SPACE 11 (R149). -/
structure Opnd where
  fld : Nat
  h : HRec
  ranges : List (Int × Nat)
  rd : Bool
  wr : Bool
  far : Bool
  deriving DecidableEq, Repr

/-- A register that a field names: a handle or a port. -/
inductive Named where
  | hdl (fld reg : Nat)
  | prt (fld reg : Nat)
  deriving DecidableEq, Repr

/-- An address lies inside a range of R155. An offset of a die window that Table 9-5 does not list, or of a cell that the
die lacks, is unmapped under R155 (R156), so it lies in none. DEDUCED (notes/assumptions/12.md). -/
def State.inMap (s : State) (a : Nat) : Bool := match s.placeOf a with | .unmapped => false | _ => true

/-- The lowest byte of any range for which a test on the granule's physical address holds. -/
def firstGranule (rs : List (Int × Nat)) (bad : Nat → Bool) : Option Nat :=
  leastNat (rs.filterMap fun r =>
    if r.2 = 0 then none
    else
      let a := wrapAddr r.1
      (upFrom (a / 64) ((a + r.2 - 1) / 64 - a / 64 + 1)).findSome? fun g => if bad (g * 64) then some (max a (g * 64)) else none)

/-- The lowest byte of any range that belongs to the secure world (R339): each byte is judged by itself. -/
def State.firstSecure (s : State) (rs : List (Int × Nat)) : Option Nat :=
  leastNat (rs.flatMap fun r =>
    let a := wrapAddr r.1
    s.secureList.filterMap fun z =>
      let lo := max a z.1
      if lo < min (min (a + r.2) (z.1 + z.2)) s.hbmTop then some lo else none)

/-- The checks of SPACE 11 (R149): the map, the firewall of R77 and R339, a store to a sync page, and the compute phase.
DEDUCED (notes/assumptions/12.md). -/
def State.peerCheck (s : State) (o : Opnd) : Option (Nat × Word) :=
  match firstGranule o.ranges (fun a => !s.inMap a) with
  | some a => some (Cause.translation, BitVec.ofNat 64 a)
  | none =>
    match (if s.launch.secure then none else s.firstSecure o.ranges) with
    | some a => some (Cause.world, BitVec.ofNat 64 a)
    | none =>
      match (if o.wr then firstGranule o.ranges (fun a => match s.placeOf a with | .sync _ _ => true | _ => false) else none) with
      | some a => some (Cause.syncStore, BitVec.ofNat 64 a)
      | none => if s.compute then some (Cause.nonLocal, 0) else none

/-- The checks of SPACE 01 and 10 (R149): the range first, then the context's share (R72). -/
def State.ownCheck (s : State) (o : Opnd) : Option (Nat × Word) :=
  let sp := hSpace o.h
  let top : Nat := if sp = 1 then s.capss s.slotNo else clsTiles s.vd.cls * 4096
  let unit : Nat := if sp = 1 then 6144 else 4096
  let lo := if sp = 1 then s.ctx.sprow0 else s.ctx.ftile0
  let n := if sp = 1 then s.ctx.sprows else s.ctx.ftiles
  match lowestOutside o.ranges 0 top with
  | some a => some (Cause.translation, BitVec.ofInt 64 a)
  | none =>
    match lowestOutside o.ranges (lo * unit : Nat) ((lo + n) * unit : Nat) with
    | some a => some (Cause.privilege, BitVec.ofInt 64 a)
    | none => none

/-- Translate the pages of an operand in ascending order (R150): the entries it needs, and whether any is SO. Every 64 KiB page that
it touches is checked; `seen` holds the end and the lowest active byte of the last 512 MiB leaf, whose pages are one entry. -/
def State.transPages (s : State) (need : Need) : SMap Nat → Nat × Nat → Nat → Bool → Except (Nat × Word) (Nat × Bool)
  | [], _, n, so => .ok (n, so)
  | (_, low) :: r, seen, n, so =>
    let again := decide (low < seen.1)
    match s.access need (BitVec.ofNat 64 low) with
    | .error c => .error (c, BitVec.ofNat 64 (if again then seen.2 else low))
    | .ok acc =>
      if again then s.transPages need r seen n (so || acc.so)
      else
        let big := (s.walk s.launch.root low).any fun l => l.size == 2 ^ 29
        s.transPages need r (if big then ((low / 2 ^ 29 + 1) * 2 ^ 29, low) else seen) (n + 1) (so || acc.so)

/-- The word's 48 bits: the value of an illegal word that its entry gives no other value (Table 22-5). -/
def wordTval (i : Instr) : Word := 0#16 ++ encode i

/-- Part 5 of R342 for one operand: alignment (R144), the space (R149), translation (R150).
DEDUCED (notes/assumptions/12.md). -/
def State.checkOpnd (s : State) (i : Instr) (o : Opnd) : Except (Nat × Word) (Nat × Bool) :=
  if hMisaligned o.h then .error (Cause.misaligned, BitVec.ofNat 64 (hBase o.h))
  else if hSpace o.h = 0 then
    s.transPages { rd := o.rd, wr := o.wr, block := fmtBlock (hFmt o.h) } (pagesOf o.ranges) (0, 0) 0 false
  else if hSpace o.h = 3 then
    if !o.far then .error (Cause.illegal, wordTval i)
    else match s.peerCheck o with | some e => .error e | none => .ok (0, false)
  else match s.ownCheck o with | some e => .error e | none => .ok (0, false)

/-- Part 5 of R342 for every operand in field order: the entries of each, and whether any is SO. -/
def State.checkOpnds (s : State) (i : Instr) : List Opnd → Except (Nat × Word) (List Nat × Bool)
  | [] => .ok ([], false)
  | o :: r =>
    match s.checkOpnd i o with
    | .error e => .error e
    | .ok (n, so) =>
      match s.checkOpnds i r with
      | .error e => .error e
      | .ok (l, so') => .ok (n :: l, so || so')

/-- The vector index that a port will hold when a word enqueued now dispatches (R150). -/
def State.portAhead (s : State) (q : Nat) : Nat :=
  let p := s.getQ q
  let taken := (s.cur.queue.flatMap fun w => w.ports.filterMap fun e => if e.1 = q then some e.2 else none).sum
  if hNV p.hrec = 0 then 0 else (p.vidx + taken) % hNV p.hrec

/-- A port as an operand that will use `count` vectors. -/
def State.portOpnd (s : State) (fld q count : Nat) (rd wr : Bool) : Opnd :=
  let h := (s.getQ q).hrec
  { fld := fld, h := h, ranges := hRanges h (s.portAhead q) count, rd := rd, wr := wr, far := false }

/-- A handle as an operand over its whole sweep. -/
def State.hdlOpnd (s : State) (fld reg : Nat) (rd wr far : Bool) : Opnd :=
  let h := s.rh reg
  { fld := fld, h := h, ranges := hSweep h, rd := rd, wr := wr, far := far }

/-- Part 2 of R342: the records of the handles named, and bound ports (R143, R147). -/
def State.checkNamed (s : State) (portTval : Nat → Word) (l : List Named) : Option (Nat × Word) :=
  l.findSome? fun n =>
    match n with
    | .hdl _ r => if hBad (s.rh r) then some (Cause.illegal, BitVec.ofNat 64 r) else none
    | .prt _ q => if (s.getQ q).bound then none else some (Cause.illegal, portTval q)

/-- What an engine word names and needs (R99, R342). -/
structure EngSpec where
  queue : Nat
  named : List Named := []
  /-- Scalar registers read at enqueue: field and register. -/
  xs : List (Nat × Nat) := []
  /-- Scalar registers and predicates written at completion. -/
  dests : List Nat := []
  portTval : Nat → Word
  /-- Part 3: the entry's own illegal-word checks and others it lists there. -/
  own : State → Option (Nat × Word) := fun _ => none
  /-- Part 4: the entry's own privilege checks. -/
  priv : State → Option (Nat × Word) := fun _ => none
  opnds : State → List Opnd := fun _ => []
  /-- A check that follows the operands. -/
  after : State → Option (Nat × Word) := fun _ => none
  /-- The vectors each port gives or takes. -/
  pops : State → List (Nat × Nat) := fun _ => []
  /-- What issue does besides enqueueing. -/
  post : State → State := id

/-- The word as it goes into its queue (R99). -/
def State.qword (s : State) (i : Instr) (e : EngSpec) (sw sr : Option Nat) (pins : Nat) (so : Bool) : QWord :=
  { queue := e.queue, seq := s.cur.seq, instr := i, pc := s.cur.pc, enq := s.z0, sw := sw, sr := sr
    recs := e.named.filterMap fun n => match n with | .hdl f r => some (f, s.rh r) | .prt _ _ => none
    xs := e.xs.map fun x => (x.1, s.rx x.2)
    ports := e.pops s, pins := pins, so := so
    chain := if e.queue = 0 then s.cur.chain else none }

/-- Put a word into its queue; a matrix word takes and clears the chain latch (R183). -/
def State.enqueueWord (s : State) (w : QWord) (dests : List Nat) : State :=
  let s := dests.foldl (fun t r => t.setBusy r none none) s
  s.modCur fun c => { c with queue := c.queue ++ [w], seq := c.seq + 1, chain := if w.queue = 0 then none else c.chain }

/-- The pins that the focused cell holds (R151): its own words' and those of a context that is swapped out. -/
def State.cellPins (s : State) : Nat :=
  ((s.allStrands.filter fun c => c.cell == s.cur.cell && ((s.launchD c.prio).vd c.vdie).slot == s.slotNo).map fun c =>
    ((c.queue.map QWord.pins) ++ (c.running.map fun r => r.word.pins)).sum).sum

/-- The checks of R342 in their order: the first that fails, with its trap's value, or the word's semaphores, the entries
it pins, and whether it makes an SO access. -/
def State.enqCheck (s : State) (i : Instr) (t : TCtl) (e : EngSpec) :
    Except (Nat × Word) ((Option Nat × Option Nat) × Nat × Bool) :=
  let sem := s.semFields t (encode i)
  let semIll := match sem with | .error (1, v) => some (Cause.illegal, v) | _ => none
  let semPriv := match sem with | .error x => some x | .ok _ => none
  match semIll <|> s.checkNamed e.portTval e.named <|> e.own s <|> semPriv <|> e.priv s with
  | some x => .error x
  | none =>
    match s.checkOpnds i (e.opnds s) with
    | .error x => .error x
    | .ok (ns, so) =>
      match e.after s with
      | some x => .error x
      | none =>
        let pins := ns.sum
        let held := s.cellPins
        if ns.any (2048 < ·) || decide (8192 < held + pins) then .error (Cause.pinLimit, BitVec.ofNat 64 pins)
        else match sem with
          | .error x => .error x
          | .ok ss => .ok (ss, pins, so)

/-- What an engine word reads and writes at enqueue, and the queue that takes it. -/
def EngSpec.uses (e : EngSpec) : Use :=
  { reads := (e.named.filterMap fun n => match n with | .hdl _ r => some (regH r) | .prt _ _ => none) ++ e.xs.map Prod.snd
    writes := e.dests, queue := some e.queue }

/-- Issue an engine word: the checks of R342 in order, then enqueue it (R99). -/
def enqueue (i : Instr) (t : TCtl) (e : EngSpec) (s : State) : Host.Outcome State Fault Refusal :=
  issue i e.uses s fun s =>
    match s.enqCheck i t e with
    | .error (c, v) => .trap c v
    | .ok ((sw, sr), pins, so) => .done (e.post (s.enqueueWord (s.qword i e sw sr pins so) e.dests))

/-- A word that names no operand but the registers it writes. -/
def plainSpec (queue : Nat) (i : Instr) (dests : List Nat) : EngSpec :=
  { queue := queue, dests := dests, portTval := fun _ => wordTval i }

/-- The T-format fields of an S-format word, which names no semaphore. -/
def noSem (g : Ctl) : TCtl := { pg := g.pg, hold := g.hold, sw := 0, sr := 0 }

end Sys2Proof.Machine
end

