-- ==== Sys2Proof/Machine/Engine.lean ====
section
/-! DEFINITION. How a dispatched engine word reaches memory, tick by tick: reads that are judged tile by tile (R162 to
R164), writes in fleeting sessions (R165 to R168), bank service (R141, R142), and the path of a side (Table 11-4). A word states
the reads of its next step, and takes the step when all of them have been made; a write waits among `outs` for its tick
(notes/assumptions/5.md). -/

namespace Sys2Proof.Machine

/-- A running word in its machine, whose focused strand is the word's. DESIGN CHOICE (notes/assumptions/5.md). -/
structure Run where
  s : State
  w : Running
  deriving Repr

/-- Set flags of the word. -/
def Run.flag (r : Run) (f : BitVec 8) : Run := { r with w := { r.w with flags := r.w.flags ||| f } }

/-- Set the counters of the word's steps. -/
def Run.count (r : Run) (f : Steps → Steps) : Run := { r with w := { r.w with st := f r.w.st } }

/-- The time of the word's next step, none when it takes no more. -/
def Run.at_ (r : Run) (t : Option Nat) : Run := { r with w := { r.w with next := t } }

/-- The word's time without the ticks of pre-emption: the scale of its steps. -/
def Running.time (w : Running) : Nat := w.wt - w.gap

/-- The busy window of a partial session of its own holds the word: from the tick after the session's last write (R166). -/
def Running.paused (w : Running) : Bool := w.wait != 0 && decide (w.wait < 8)

/-- The word as a writer of fleeting memory (R165). -/
def Run.writer (r : Run) : Writer :=
  { link := false, prio := r.s.cur.prio, vdie := r.s.cur.vdie, cell := r.s.cur.cell, no := r.w.word.seq }

/-- What one address of a record's space reaches (R149, R150). Pinned translations do not change (R152). -/
def State.reach (s : State) (space : Nat) (a : Int) : Acc :=
  let n := wrapAddr a
  if space = 0 then
    match s.walk s.launch.root n with
    | some l => { phys := l.phys, so := bitsOf l.pte.toNat 7 2 == 0, uo := bitsOf l.pte.toNat 7 2 == 2, answers := s.answers l.phys }
    | none => { phys := 0, so := false, answers := false }
  else if space = 3 then { phys := n, so := false, answers := s.answers n }
  else let p := s.localPhys space n; { phys := p, so := false, answers := s.answers p }

/-- The tile that an address of a record's space lies in, when an access reaches one: its number over the package and the
offset in it. -/
def State.tileAt (s : State) (space : Nat) (a : Int) : Option (Nat × Nat) :=
  let acc := s.reach space a
  if !acc.answers then none
  else match s.placeOf acc.phys with
    | .tile slot tile off => some (tileKey slot tile, off)
    | _ => none

/-- The scratchpad granule that a physical address lies in, by its number over the package, (slot × 16 + cell) × 2^16 + granule
(R140): none outside every scratchpad. -/
def State.granOf (s : State) (a : Nat) : Option Nat :=
  if !s.answers a then none
  else match s.placeOf a with | .scratch n c off => some ((n * 16 + c) * 2 ^ 16 + off / 64) | _ => none

/-- The bank of a granule, by (slot × 16 + cell) × 96 + bank (R140). -/
def bankOf (g : Nat) : Nat := g / 2 ^ 16 * 96 + g % 2 ^ 16 % 96

/-- The scratchpad granule that an address of a record's space lies in. -/
def State.granAt (s : State) (space : Nat) (a : Int) : Option Nat := s.granOf (s.reach space a).phys

/-- The scratchpad granules that a physical range reaches (R140). -/
def State.outGrans (s : State) (a n : Nat) : List Nat :=
  if n = 0 then []
  else (upFrom (a / 64) ((a + n - 1) / 64 - a / 64 + 1)).filterMap fun g => s.granOf (g * 64)

/-- The parts of a byte range that lie in one granule each: addresses and lengths. -/
def granules : Nat → Int → Nat → List (Int × Nat)
  | 0, _, _ => []
  | fuel + 1, a, n =>
    if n = 0 then []
    else let k := min n (64 - (a % 64).toNat); (a, k) :: granules fuel (a + k) (n - k)

/-- The pieces of the reads that a step states. -/
def piecesOf (l : List Req) : List Piece :=
  l.zipIdx.flatMap fun e => (granules (e.1.n / 64 + 2) e.1.addr e.1.n).map fun g =>
    { req := e.2, port := e.1.port, space := e.1.space, addr := g.1, n := g.2 }

/-- The bytes that a read of a step has delivered. -/
def pieceBytes (l : List Piece) (i : Nat) : List Byte := (l.filter fun p => p.req == i).flatMap fun p => p.got.getD []

/-- Bytes of a tile that a session has written, over zero: what its writer reads of an expired tile inside it (R168). -/
def maskedBytes (mask : BitVec 8192) (off : Nat) (bytes : List Byte) : List Byte :=
  bytes.zipIdx.map fun (b, i) =>
    (if mask.getLsbD (2 * (off + i)) then b &&& 0x0F#8 else 0) ||| (if mask.getLsbD (2 * (off + i) + 1) then b &&& 0xF0#8 else 0)

/-- A piece cannot be read at this tick: its bank serves it later (R142), or its tile is in a busy window (R162). -/
def Run.waits (r : Run) (p : Piece) : Bool :=
  p.svc.any (r.s.z0 < ·) || (r.s.tileAt p.space p.addr).any fun t => r.s.tileBusy t.1 && !r.s.ownSess r.writer t.1

/-- Read one piece at this tick (R155, R162 to R164, R168). -/
def Run.readPiece (r : Run) (p : Piece) : Run × List Byte :=
  let acc := r.s.reach p.space p.addr
  if !acc.answers then
    ({ r with w := { r.w with bus := some (r.w.bus.getD (BitVec.ofNat 64 (wrapAddr p.addr))) } }, List.replicate p.n 0)
  else match r.s.tileAt p.space p.addr with
    | some (key, off) =>
      if r.s.liveAt key r.s.z0 then (r, r.s.rdBytes acc.phys p.n)
      else
        ({ r with w := { r.w with exp := true } },
         if r.s.ownSess r.writer key then
           maskedBytes ((r.s.sessOn key).elim 0 OpenSess.mask) off (r.s.rdBytes acc.phys p.n)
         else List.replicate p.n 0)
    | none => (r, r.s.rdBytes acc.phys p.n)

/-- Make the reads that can be made at this tick: those of fleeting memory where `tiles` says so. -/
def Run.readPieces (tiles : Bool) (r : Run) : Run :=
  let x := r.w.pieces.foldl (fun (acc : Run × List Piece) p =>
    if p.got.isSome || (!tiles && (acc.1.s.tileAt p.space p.addr).isSome) || acc.1.waits p then (acc.1, acc.2 ++ [p])
    else let y := acc.1.readPiece p; (y.1, acc.2 ++ [{ p with got := some y.2 }])) (r, [])
  { x.1 with w := { x.1.w with pieces := x.2 } }

/-! ### Writes -/

/-- The nibble mask of masked bytes from an offset in a tile. -/
def nibMask (off : Nat) (data : List (Byte × Nat)) : BitVec 8192 :=
  data.zipIdx.foldl (fun m e => m ||| (BitVec.ofNat 8192 e.1.2 <<< (2 * (off + e.2)))) 0

/-- Split masked bytes into runs in which some nibble of every byte is written: offsets and runs. -/
def writtenRuns : Nat → List (Byte × Nat) → List (Nat × List (Byte × Nat))
  | _, [] => []
  | i, d :: rest =>
    if d.2 = 0 then writtenRuns (i + 1) rest
    else match writtenRuns (i + 1) rest with
      | (j, run) :: more => if j = i + 1 then (i, d :: run) :: more else (i, [d]) :: (j, run) :: more
      | [] => [(i, [d])]

/-- The writes of masked bytes at an address, granule by granule: runs of written bytes only (R145). -/
def outsOf (at_ port space : Nat) (a : Int) (data : List (Byte × Nat)) : List Out :=
  (writtenRuns 0 data).flatMap fun x =>
    (granules (x.2.length / 64 + 2) (a + x.1) x.2.length).map fun g =>
      { at_ := at_, port := port, space := space, addr := g.1, data := (x.2.drop (g.1 - (a + x.1)).toNat).take g.2 }

/-- Keep a write among others by its tick, then its port, after those of the same tick and port (R142). -/
def keepOut (o : Out) : List Out → List Out
  | [] => [o]
  | p :: r => if o.at_ < p.at_ || (o.at_ == p.at_ && decide (o.port < p.port)) then o :: p :: r else p :: keepOut o r

/-- Plan the write of masked bytes at a time of the word's steps. -/
def Run.out (r : Run) (t port space : Nat) (a : Int) (data : List (Byte × Nat)) : Run :=
  { r with w := { r.w with outs := (outsOf (t + r.w.gap) port space a data).foldl (fun l o => keepOut o l) r.w.outs } }

/-- Where the word writes next, once the writes among `outs` are done, for each destination that it still writes. -/
def Run.writesNext (r : Run) (a : List (Nat × Int)) : Run := { r with w := { r.w with ahead := a } }

/-- The word completes at a word time: nothing is written after what `outs` holds. -/
def Run.ends (r : Run) (t : Nat) : Run := { r with w := { r.w with comp := some t, ahead := [] } }

/-- The engine accepts the next word of the queue from a time of the word's steps on (R227). -/
def Run.accepts (r : Run) (t : Nat) : Run := { r with w := { r.w with accept := some (t + r.w.gap) } }

/-- The tile that the word writes next, of those that its planned writes and its destinations reach; none when it writes no tile
again (R165). -/
def Run.nextTile (r : Run) : Option Nat :=
  match r.w.outs.findSome? fun o => r.s.tileAt o.space o.addr with
  | some t => some t.1
  | none => (r.w.ahead.findSome? fun a => r.s.tileAt a.1 a.2).map Prod.fst

/-- The word leaves its session on a tile (R165, R166): a partial session that ends holds its writer for 8 ticks.
DEDUCED (notes/assumptions/17.md). -/
def Run.leave (r : Run) (key : Nat) : Run :=
  let x := r.s.sessLeave r.writer key
  if x.2 then
    { s := x.1.modCur fun c => c.putOff r.w.word.seq (· + 8), w := { r.w with wait := r.w.wait + 8, parts := r.w.parts + 1 } }
  else { r with s := x.1 }

/-- After a write of a tile: the session closes when the word writes another tile next, or no tile again (R165). -/
def Run.afterWrite (r : Run) (key : Nat) : Run := if r.nextTile == some key then r else r.leave key

/-- A write cannot be made at this tick: its bank serves it later (R142), or its tile is another writer's or in a busy
window (R167). -/
def Run.held (r : Run) (o : Out) : Bool :=
  o.svc.any (r.s.z0 < ·) || (r.s.tileAt o.space o.addr).any fun t => !r.s.mayWrite r.writer t.1

/-- The granule of physical memory that an address of a record's space lies in. -/
def State.physGran (s : State) (space : Nat) (a : Int) : Nat := (s.reach space a).phys / 64

/-- A copy writes a granule: another running copy that has written part of it writes all that it has of the granule again with what
it still writes there, so that the granule ends whole as one of the two wrote it (R182). `w` is the copy that writes.
DEDUCED (notes/assumptions/16.md). -/
def State.tear (s : State) (w : Writer) (g : Nat) : State :=
  let hit := fun (x : Running) => x.wrote.any fun o => s.physGran o.space o.addr == g
  if s.allStrands.any fun c => c.running.any fun x => !x.wrote.isEmpty then
    s.mapStrands fun c => { c with running := c.running.map fun x => if hit x && !wordIn [w] c x then { x with torn := g :: x.torn } else x }
  else s

/-- The writes that a copy makes again with one of a granule: its earlier ones there, when another copy has written it since (R182).
DEDUCED (notes/assumptions/16.md). -/
def Run.again (r : Run) (g : Nat) : List Out :=
  if r.w.torn.contains g then r.w.wrote.filter fun o => r.s.physGran o.space o.addr == g else []

/-- A copy has written some bytes of a granule, or all: those of a part are kept (R182). -/
def Run.noteWrote (r : Run) (o : Out) (g : Nat) : Run :=
  { r with w := { r.w with
      wrote := if o.data.length = 64 ∧ o.data.all (·.2 == 3) then r.w.wrote else r.w.wrote ++ [o]
      torn := r.w.torn.filter (· != g) } }

/-- Put masked bytes into memory, in the word's session of the tile that they lie in (R145, R165). -/
def Run.putOut (r : Run) (o : Out) : Run :=
  let acc := r.s.reach o.space o.addr
  let merged := o.data.zipIdx.map fun (d, i) =>
    let old := r.s.rdByte (acc.phys + i)
    (if d.2 % 2 = 1 then d.1 &&& 0x0F#8 else old &&& 0x0F#8) ||| (if 2 ≤ d.2 then d.1 &&& 0xF0#8 else old &&& 0xF0#8)
  let s := r.s.writeRaw acc merged
  { r with s := match r.s.tileAt o.space o.addr with
      | some (key, off) => s.sessWrite r.writer key (nibMask off o.data)
      | none => s }

/-- Make one write at this tick (R145, R165 to R167). Where it is refused, a bus error follows (R92, R155). -/
def Run.writeOut (r : Run) (o : Out) : Run :=
  let acc := r.s.reach o.space o.addr
  let g := acc.phys / 64
  if r.s.refuses acc then { r with w := { r.w with bus := some (r.w.bus.getD (BitVec.ofNat 64 (wrapAddr o.addr))) } }
  else
    let t := (r.again g ++ [o]).foldl Run.putOut r
    let t := if t.w.batch.isSome then ({ t with s := t.s.tear t.writer g } : Run).noteWrote o g else t
    match r.s.tileAt o.space o.addr with
    | some (key, _) => t.afterWrite key
    | none => t

/-- Reserve the bank of a granule for an access that reaches it at this tick (R142): the tick at which the bank serves it. -/
def State.serveBank (s : State) (g : Nat) : State × Nat :=
  let t := max s.z0 (sget 0 s.banks (bankOf g))
  ({ s with banks := sset 0 s.banks (bankOf g) (t + 1) }, t)

/-- Make the writes that are due, in order, while a test admits them, until one cannot be made, or a partial session of the word's
own ends. -/
def Run.writeDue (sel : Run → Out → Bool) : Nat → Run → Run
  | 0, r => r
  | fuel + 1, r =>
    match r.w.outs with
    | [] => r
    | o :: rest =>
      if r.w.wt < o.at_ ∨ r.w.wait ≠ 0 then r
      else if !sel r o || r.held o then r
      else Run.writeDue sel fuel (({ r with w := { r.w with outs := rest } } : Run).writeOut o)

/-- A write reaches a tile of another die, through its window (R142, R157). -/
def Run.foreign (r : Run) (o : Out) : Bool := (r.s.tileAt o.space o.addr).any fun t => t.1 / 2 ^ 20 != r.s.slotNo

/-! ### Ports -/

/-- The next vector of a port, as the word counts it. -/
def Run.idx (r : Run) (q : Nat) : Nat := sget 0 r.w.st.idx q

/-- The vector after one of a port's sweep (R147). -/
def nextVec (h : HRec) (v : Nat) : Nat := if v + 1 = hNV h then 0 else v + 1

/-- The record that a port holds. -/
def State.portRec (s : State) (q : Nat) : HRec := (s.getQ q).hrec

/-- The read that pops the next vector of a port (R144, R147). -/
def Run.popReq (r : Run) (q : Nat) : Req :=
  let h := r.s.portRec q
  let rng := hVecRange h (r.idx q)
  { port := q, space := hSpace h, addr := rng.1, n := rng.2 }

/-- Go on to the next vector of a port. -/
def Run.step (r : Run) (q : Nat) : Run := r.count fun c => { c with idx := sset 0 c.idx q (nextVec (r.s.portRec q) (r.idx q)) }

/-- Take the vector that a pop delivered (R144, R147): its lanes; a header mismatch sets HDR (R31). -/
def Run.popped (r : Run) (q : Nat) (bytes : List Byte) : Run × List (Option Lane) :=
  let l := popLanes (r.s.portRec q) (r.idx q) bytes
  ((if l.2 then r.flag flagHDR else r).step q, l.1)

/-- Plan the push of masked bytes as the next vector of a port at a time (R145, R147). With BCAST on dimension 0 every lane is
element 0 of its run, and the last active lane stands (R144). DEDUCED (notes/assumptions/12.md). -/
def Run.pushAt (r : Run) (q t : Nat) (data : List (Byte × Nat)) : Run :=
  let h := r.s.portRec q
  (r.out t q (hSpace h) (hVecAddr h (r.idx q)) data).step q

/-- The lanes that a port delivered. -/
def lanesOf (l : List (Nat × List (Option Lane))) (q : Nat) : List (Option Lane) :=
  (l.find? fun e => e.1 == q).elim [] Prod.snd

/-! ### Paths of a side (Table 11-4) -/

/-- The path of a side by the first address it reaches (Table 11-4). DEDUCED (notes/assumptions/16.md). -/
def State.pathTo (s : State) (space : Nat) (a : Int) : Figures :=
  let acc := s.reach space a
  let other := fun n : Nat =>
    if n = s.slotNo then { setup := 8, rate := 256, rd := 12, wr := 6 : Figures }
    else { setup := 8, rate := 256, rd := 2 * routeLat s.slotNo n + 12, wr := routeLat s.slotNo n }
  if !acc.answers then { setup := 8, rate := 256, rd := 12, wr := 6 }
  else match s.placeOf acc.phys with
    | .scratch n c _ => if n = s.slotNo ∧ c = s.cur.cell then { setup := 4, own := true } else other n
    | .acc n c _ => if n = s.slotNo ∧ c = s.cur.cell then { setup := 4, own := true } else other n
    | .tile n _ _ => if n = s.slotNo then { setup := 4, rd := 4, own := true } else other n
    | .inbox n _ _ => other n
    | .sync n _ => other n
    | .hbm _ => { setup := 16, rate := 256, rd := 268, wr := 44 }
    | .host _ => { setup := 32, rate := 128, rd := 6000, wr := 600 }
    | .unmapped => { setup := 8, rate := 256, rd := 12, wr := 6 }

/-- The path of a record's side. -/
def State.pathOf (s : State) (h : HRec) : Figures := s.pathTo (hSpace h) (hBase h)

/-! ### Dispatched words -/

/-- The captured record of a field. -/
def QWord.rec_ (w : QWord) (fld : Nat) : HRec := ((w.recs.find? fun r => r.1 == fld).map Prod.snd).getD 0

/-- The captured scalar of a field. -/
def QWord.xv (w : QWord) (fld : Nat) : Word := ((w.xs.find? fun r => r.1 == fld).map Prod.snd).getD 0

/-- A word at its dispatch that completes after a number of ticks, its bound when nothing holds it, and from whose word time
`accept` on its engine accepts the next. -/
def State.running (s : State) (w : QWord) (comp accept : Nat) : Running :=
  { word := w, disp := s.z0, comp := some comp, accept := some accept, fin := comp, bound := comp }

/-- The ports of a word stand, as ports, past all the vectors that it takes (R147): the word itself counts on from where they
stood. -/
def Run.takePorts (r : Run) : Run :=
  r.w.word.ports.foldl (fun r e =>
    let p := r.s.getQ e.1
    let nv := hNV p.hrec
    { r with
      s := r.s.setQ e.1 { p with vidx := if nv = 0 then p.vidx else (p.vidx + e.2) % nv }
      w := { r.w with st := { r.w.st with idx := sset 0 r.w.st.idx e.1 p.vidx } } }) r

/-- Put a dispatched word among the running ones. A SCHED read of a register it writes is defined from the tick after its
bound (R343). DESIGN CHOICE (notes/assumptions/7.md). -/
def State.start (s : State) (x : Running) : State :=
  s.modCur fun c =>
    { c with running := c.running ++ [x]
             busy := c.busy.map fun b => if b.seq = x.word.seq then { b with sched := some (s.z0 + x.bound + 1) } else b }

/-- Put a dispatched word with steps among the running ones. DESIGN CHOICE (notes/assumptions/7.md). -/
def Run.start (r : Run) : State := let r := r.takePorts; r.s.start r.w

/-- The predicate select of a field (R174): none for 0. -/
def predSel (c : BitVec 4) : Option Nat := if c.toNat < 8 then none else some (c.toNat - 8)

/-- The destinations of a predicate select. -/
def predDests (c : BitVec 4) : List Nat := (predSel c).toList.map regP

end Sys2Proof.Machine
end

