-- ==== Sys2Proof/Machine/Fleeting.lean ====
section
/-! DEFINITION. Renewing fleeting tiles and asking about their life (R169, R194). -/

namespace Sys2Proof.Machine

/-- Insert a number into a rising list without repeats. -/
def insNat (k : Nat) : List Nat → List Nat
  | [] => [k]
  | a :: r => if k < a then k :: a :: r else if k = a then a :: r else a :: insNat k r

/-- The tiles that a sweep's active elements touch, ascending (R169). -/
def tilesOf (h : HRec) : List Nat :=
  (hSweep h).foldl (fun l r =>
    if r.2 = 0 then l
    else
      let a := wrapAddr r.1
      (upFrom (a / 4096) ((a + r.2 - 1) / 4096 - a / 4096 + 1)).foldl (fun l t => insNat t l) l) []

/-- The birth of a tile on the z0 scale; an unlisted tile was born at LTICK -2^20 of the launch (R170). -/
def State.birthZ (s : State) (key : Nat) : Int := (sget none s.births key).getD ((s.launch.l0 : Int) - Config.retention)

/-- The tile that FRENEW renews next. -/
def renewTile (r : Run) : Option Nat := ((tilesOf (r.w.word.rec_ 1))[r.w.st.k]?).map (tileKey r.s.slotNo)

/-- FRENEW's tick moves on: the tile is in a busy window or has an open session (R169).
DEDUCED (notes/assumptions/17.md). -/
def renewHeld (r : Run) : Bool := (renewTile r).any fun k => r.s.tileBusy k || (r.s.sessOn k).isSome || (r.s.endedOn k).isSome

/-- FRENEW treats its next tile at this tick (R169). DEDUCED (notes/assumptions/17.md). -/
def renewTake (r : Run) : Run :=
  match renewTile r with
  | none => r.at_ none
  | some key =>
    let s := r.s
    let ok := decide ((s.z0 : Int) < s.birthZ key + Config.retention - 8)
    let s := if ok then ({ s with births := sset none s.births key (some (s.z0 : Int)) }).noteBusy key s.z0 else s.orExp 2
    let k := r.w.st.k + 1
    { s := s
      w := { r.w with st := { r.w.st with k := k }, rnf := r.w.rnf || !ok
                      next := if k < (tilesOf (r.w.word.rec_ 1)).length then some (r.w.time + 1) else none } }

/-- Dispatch FRENEW (R169, R194): its bound grows with the moves of its tiles, and a move makes the die late in SCHED mode. -/
def dispFrenew (w : QWord) (pred : BitVec 4) (s : State) : State :=
  let ts := tilesOf (w.rec_ 1)
  s.start { s.running w (ts.length + 10) 0 with psel := predSel pred, next := if ts.isEmpty then none else some 0 }

/-- The least of some numbers, or a default for none. -/
def leastOf (dflt : Int) : List Int → Int
  | [] => dflt
  | a :: r => r.foldl min a

/-- FLIFE of an extent at its dispatch (R169). -/
def State.flife (s : State) (ts : List Nat) : Word :=
  BitVec.ofInt 64 (leastOf 0 (ts.map fun t => max 0 (s.birthZ (tileKey s.slotNo t) + Config.retention - s.z0)))

/-- FBIRTH of an extent at its dispatch, on the LTICK scale (R169). -/
def State.fbirth (s : State) (ts : List Nat) : Word :=
  BitVec.ofInt 64 (leastOf 0x7FFFFFFFFFFFFFFF (ts.map fun t => s.birthZ (tileKey s.slotNo t) - s.launch.l0))

/-- FCHK of an extent at its dispatch (R169). -/
def State.fchk (s : State) (ts : List Nat) : Bool := ts.any fun t => !s.liveAt (tileKey s.slotNo t) s.z0

/-- Dispatch one of the three queries (R194). -/
def dispQuery (w : QWord) (s : State) : State :=
  let ts := tilesOf (w.rec_ 1)
  let x := s.running w (4 + ceilDiv ts.length 64) 0
  s.start (match w.instr with
    | .flife _ d _ => { x with xres := some (d.toNat, s.flife ts) }
    | .fbirth _ d _ => { x with xres := some (d.toNat, s.fbirth ts) }
    | .fchk _ d _ => { x with pres := some (d.toNat, s.fchk ts) }
    | _ => x)

/-- What a fleeting word names (R194): h[A] must have SPACE 10. -/
def fleetSpec (i : Instr) (a : BitVec 4) (dests : List Nat) : EngSpec where
  queue := 2
  named := [.hdl 1 a.toNat]
  dests := dests
  portTval := fun _ => wordTval i
  own := fun s => if hSpace (s.rh a.toNat) != 2 then some (Cause.illegal, wordTval i) else none
  opnds := fun s => [s.hdlOpnd 1 a.toNat false false false]

/-- FRENEW (R169, R194). -/
def execFrenew (t : TCtl) (a c : BitVec 4) (s : State) : Host.Outcome State Fault Refusal :=
  enqueue (.frenew t a c) t (fleetSpec (.frenew t a c) a (predDests c)) s

/-- FLIFE (R169, R194). -/
def execFlife (t : TCtl) (d a : BitVec 4) (s : State) : Host.Outcome State Fault Refusal :=
  enqueue (.flife t d a) t (fleetSpec (.flife t d a) a [d.toNat]) s

/-- FCHK (R169, R194). -/
def execFchk (t : TCtl) (d a : BitVec 4) (s : State) : Host.Outcome State Fault Refusal :=
  enqueue (.fchk t d a) t (fleetSpec (.fchk t d a) a [regP d.toNat]) s

/-- FBIRTH (R169, R194). -/
def execFbirth (t : TCtl) (d a : BitVec 4) (s : State) : Host.Outcome State Fault Refusal :=
  enqueue (.fbirth t d a) t (fleetSpec (.fbirth t d a) a [d.toNat]) s

end Sys2Proof.Machine
end

