-- ==== Sys2Proof/Machine/Copy.lean ====
section
/-! DEFINITION. Copies and copy batches (R179 to R185). -/

namespace Sys2Proof.Machine

/-- Nibbles of one element of a sweep as a copy sees it: a block form counts whole blocks (R179). -/
def elemNibs (f : Nat) : Nat := if fmtBlock f then 128 else fmtStore f / 4

/-- Elements of one run as a copy sees them. -/
def copyRun (h : HRec) : Nat := if fmtBlock (hFmt h) then hExt h 0 / 48 else hExt h 0

/-- Elements of a sweep as a copy sees them (R179). -/
def copyCount (h : HRec) : Nat := copyRun h * hRuns h

/-- Bytes that one run of the destination occupies in its byte stream. -/
def copyRunBytes (h : HRec) : Nat := (copyRun h * elemNibs (hFmt h) + 1) / 2

/-- The destination elements that lie before a position of the byte stream. -/
def elemsBefore (h : HRec) (pos : Nat) : Nat :=
  let rb := copyRunBytes h
  if rb = 0 then 0 else pos / rb * copyRun h + min (copyRun h) (pos % rb * 2 / elemNibs (hFmt h))

/-- The nibbles of some bytes, lowest first. -/
def toNibs (bytes : List Byte) : List Nat := bytes.flatMap fun b => [b.toNat % 16, b.toNat / 16]

/-- A block with all its elements equal to its element 0, as a broadcast block reads (R144). -/
def blockSplat (f : Nat) (bytes : List Byte) : List Byte :=
  let w := fmtBits f
  let str := leNat (bytes.drop 2)
  let e := str % 2 ^ w
  let els := (upFrom 0 48).foldl (fun acc i => acc + e * 2 ^ (w * i)) 0
  bytes.take 2 ++ leBytes 62 (str / 2 ^ (48 * w) * 2 ^ (48 * w) + els)

/-- The read of `m` elements of a sweep from element i on, all of one run. -/
def elemReq (h : HRec) (e : Nat × Nat) : Req :=
  let w := elemNibs (hFmt h)
  let base := hRunAddr h (e.1 / copyRun h)
  if hBcast h 0 then { space := hSpace h, addr := base, n := (w + 1) / 2 }
  else
    let n := e.1 % copyRun h * w
    { space := hSpace h, addr := base + (n / 2 : Nat), n := (n % 2 + e.2 * w + 1) / 2 }

/-- The nibbles of `m` elements from element i on, from the bytes that their read delivered. -/
def elemGot (h : HRec) (e : Nat × Nat) (bytes : List Byte) : List Nat :=
  let w := elemNibs (hFmt h)
  if hBcast h 0 then
    (List.replicate e.2 ((toNibs (if fmtBlock (hFmt h) then blockSplat (hFmt h) bytes else bytes)).take w)).flatten
  else ((toNibs bytes).drop (e.1 % copyRun h * w % 2)).take (e.2 * w)

/-- The parts of elements i to i + m - 1 of a sweep that lie in one run each: first element and count. -/
def spanParts (h : HRec) : Nat → Nat → Nat → List (Nat × Nat)
  | 0, _, _ => []
  | fuel + 1, i, m =>
    if m = 0 then []
    else let k := min m (copyRun h - i % copyRun h); (i, k) :: spanParts h fuel (i + k) (m - k)

/-- The reads of elements i to i + m - 1 of a sweep, run by run. -/
def spanReqs (h : HRec) (i m : Nat) : List Req := (spanParts h (m + 1) i m).map (elemReq h)

/-- Their nibbles, from what the reads delivered. -/
def spanGot (h : HRec) (i m : Nat) (got : List (List Byte)) : List Nat :=
  (List.zip (spanParts h (m + 1) i m) got).flatMap fun e => elemGot h e.1 e.2

/-- Plan the write of nibbles as consecutive elements of a sweep from element i on, all of one run. With BCAST on dimension 0
every element, a whole block in a block form, is element 0 of the run, and the last one stands (R144).
DEDUCED (notes/assumptions/12.md). -/
def Run.outElems (r : Run) (h : HRec) (i t : Nat) (nibs : List Nat) : Run :=
  let w := elemNibs (hFmt h)
  if hBcast h 0 then
    r.out t 12 (hSpace h) (hRunAddr h (i / copyRun h)) (nibBytes ((nibs.drop (nibs.length - w)).map fun v => (v, true)))
  else
    let n := i % copyRun h * w
    r.out t 12 (hSpace h) (hRunAddr h (i / copyRun h) + (n / 2 : Nat))
      (nibBytes (List.replicate (n % 2) (0, false) ++ nibs.map fun v => (v, true)))

/-- Plan the writes of elements from i on, run by run. -/
def Run.outSpan (h : HRec) (t : Nat) : Nat → Run → Nat → List Nat → Run
  | 0, r, _, _ => r
  | fuel + 1, r, i, nibs =>
    if nibs.isEmpty then r
    else
      let k := copyRun h - i % copyRun h
      let w := elemNibs (hFmt h)
      Run.outSpan h t fuel (r.outElems h i t (nibs.take (k * w))) (i + k) (nibs.drop (k * w))

/-- Where element i of a sweep is written. -/
def elemAddr (h : HRec) (i : Nat) : Nat × Int :=
  let n := i % copyRun h * elemNibs (hFmt h)
  (hSpace h, hRunAddr h (i / copyRun h) + ((if hBcast h 0 then 0 else n / 2 : Nat) : Int))

/-- The physical byte ranges of a sweep, cut at 4 KiB. -/
def State.physRanges (s : State) (h : HRec) : List (Nat × Nat) :=
  (hSweep h).flatMap fun r =>
    if r.2 = 0 then []
    else
      let a := wrapAddr r.1
      (upFrom (a / 4096) ((a + r.2 - 1) / 4096 - a / 4096 + 1)).map fun p =>
        let lo := max a (p * 4096)
        let hi := min (a + r.2) ((p + 1) * 4096)
        ((s.reach (hSpace h) (lo : Nat)).phys, hi - lo)

/-- Source and destination share a physical byte (R180). -/
def State.overlaps (s : State) (src dst : HRec) : Bool :=
  let b := s.physRanges dst
  (s.physRanges src).any fun x => b.any fun y => rangesMeet x.1 x.2 y.1 y.2

/-- Ticks of a segment of `len` bytes at the smaller rate. -/
def Figures.ticks (c : Figures) (len : Nat) : Nat := ceilDiv len c.rate

/-- The bound of a copy without partial sessions (R181). -/
def Figures.bound (c : Figures) (total : Nat) : Nat :=
  let nseg := ceilDiv total 512
  if c.serial then
    c.setup + ((upFrom 0 nseg).map fun k => c.ticks (min 512 (total - 512 * k)) + c.rd + c.wr).sum
  else c.setup + ceilDiv total c.rate + c.rd + c.wr

/-- The latest tick of a copy's last write, when nothing holds it (R181, R182). DEDUCED (notes/assumptions/16.md). -/
def Figures.last (c : Figures) (total : Nat) : Nat :=
  let nseg := ceilDiv total 512
  (if c.serial then c.bound total
   else c.setup + (nseg - 1) * ceilDiv 512 c.rate + c.rd + c.wr + c.ticks (total - 512 * (nseg - 1))) - 1

/-- A copy's destination bytes. -/
def copyTotal (dst : HRec) : Nat := if copyCount dst = 0 then 0 else copyRunBytes dst * hRuns dst

/-- The elements of segment k of a copy into a destination: the first and how many (R180). -/
def copySeg (dst : HRec) (k : Nat) : Nat × Nat :=
  let i := elemsBefore dst (512 * k)
  (i, elemsBefore dst (512 * k + min 512 (copyTotal dst - 512 * k)) - i)

/-- The ticks after a_k at which the copy reads segment k (R181): none for a source of the cell's own.
DESIGN CHOICE (notes/assumptions/3.md). -/
def Running.lag (w : Running) (k : Nat) : Nat := if w.fig.ownSrc then 0 else Config.readLag w.draw k % (w.fig.rd + 1)

/-- The reads of a copy's next segment. -/
def copyWant (r : Run) : List Req :=
  let e := copySeg (r.w.word.rec_ 0) r.w.st.k
  spanReqs (r.w.word.rec_ 1) e.1 e.2

/-- A copy has read its next segment, which `st.t` times as a_k: its write is planned, and the segment after it (R180, R181). The tick
of a write whose path is not the cell's own is free up to R181's latest, and not before the tick after the read while that allows
it. R181 puts the latest write one tick before the bound and R182 the completion at that write, where R220 has copies complete at the
bound: such a copy completes at its last write or at the next tick, which a free value says.
DEDUCED (notes/assumptions/16.md). DESIGN CHOICE (notes/assumptions/3.md). -/
def copyTake (r : Run) (got : List (List Byte)) : Run :=
  let dst := r.w.word.rec_ 0
  let c := r.w.fig
  let k := r.w.st.k
  let total := copyTotal dst
  let e := copySeg dst k
  let now := r.w.time
  let latest := r.w.st.t + c.rd + c.wr + c.ticks (min 512 (total - 512 * k)) - 1
  let u := if c.own then latest
           else max (max (min (now + 1) latest) (r.w.st.prev.getD 0)) (latest - Config.writeLead r.w.draw k)
  let r := Run.outSpan dst u (e.2 + 1) r e.1 (spanGot (r.w.word.rec_ 1) e.1 e.2 got)
  let a := if c.serial then u + 1 else r.w.st.t + ceilDiv 512 c.rate
  let r := r.count fun x => { x with t := a, k := k + 1, prev := some u }
  if k + 1 < ceilDiv total 512 then
    (r.at_ (some (max now (a + r.w.lag (k + 1))))).writesNext [elemAddr dst (copySeg dst (k + 1)).1]
  else
    let fin := u + (if c.own then 0 else Config.writeLead r.w.draw (k + 1) % 2)
    let r := (r.at_ none).ends (fin + r.w.gap)
    { s := if r.w.bound < fin + r.w.moved ∧ c.own = false then r.s.lateIssue else r.s, w := { r.w with fin := fin } }

/-- Dispatch a copy (R180 to R184): it joins the open batch, or opens one. DEDUCED (notes/assumptions/16.md). -/
def dispCopy (w : QWord) (pred : BitVec 4) (s : State) : State :=
  let s := if s.cur.batchOpen then s else s.modCur fun c => { c with batch := c.batch + 1, batchOpen := true }
  let src := w.rec_ 1
  let dst := w.rec_ 0
  let total := copyTotal dst
  let a := s.pathOf src
  let b := s.pathOf dst
  let c : Figures :=
    { setup := max a.setup b.setup, rate := min a.rate b.rate, rd := a.rd, wr := b.wr
      serial := total != 0 && s.overlaps src dst, own := a.own && b.own, ownSrc := a.own }
  let x := { s.running w 0 0 with fig := c, st := { t := c.setup }, batch := some s.cur.batch, psel := predSel pred, draw := s.free }
  if total = 0 then s.start x
  else { s with free := s.free + 1 }.start
    { x with comp := none, fin := if c.own then c.last total else 0, bound := c.bound total, next := some (c.setup + x.lag 0)
             ahead := [elemAddr dst 0] }

/-- Copies that run (R182). -/
def Strand.copiesRunning (c : Strand) : Nat := (c.running.filter fun r => r.batch.isSome).length

/-- The closed batches that are outstanding (R184, R185). -/
def Strand.batchesOut (c : Strand) : Nat :=
  ((c.running.filterMap fun r =>
    match r.batch with
    | some b => if b = c.batch && c.batchOpen then none else some b
    | none => none).dedup).length

/-- The copy engine accepts a copy (R182, R184): fewer than four run, and no sixteenth batch would open. -/
def State.copyAccepts (s : State) : Bool :=
  decide (s.cur.copiesRunning < 4) && (s.cur.batchOpen || decide (s.cur.batchesOut < 15))

/-- Dispatch CLOSE (R184). -/
def dispClose (w : QWord) (s : State) : State :=
  let s := s.modCur fun c => { c with batchOpen := false }
  s.start (s.running w 1 0)

/-- Dispatch CWAIT (R185): it completes when at most n batches are outstanding. -/
def dispCwait (w : QWord) (s : State) : State :=
  let s := s.modCur fun c => { c with batchOpen := false }
  s.modCur fun c => { c with running := c.running ++ [{ word := w, disp := s.z0 }] }

/-- The copy's own checks (R179). -/
def copyCheck (i : Instr) (chain : Bool) (d a : Nat) (s : State) : Option (Nat × Word) :=
  let hd := s.rh d
  let ha := s.rh a
  let same := if fmtBlock (hFmt hd) || fmtBlock (hFmt ha) then hFmt hd == hFmt ha
              else fmtStore (hFmt hd) == fmtStore (hFmt ha)
  if !same || copyCount hd != copyCount ha || hGet hd 10 != 0 || (chain && (s.cur.chain.isSome || s.vd.cls != .md))
  then some (Cause.illegal, wordTval i) else none

/-- What a copy names (R179). -/
def copySpec (i : Instr) (chain : Bool) (d a : BitVec 4) (c : BitVec 4) : EngSpec where
  queue := 2
  named := [.hdl 0 d.toNat, .hdl 1 a.toNat]
  dests := predDests c
  portTval := fun _ => wordTval i
  own := copyCheck i chain d.toNat a.toNat
  opnds := fun s => [s.hdlOpnd 0 d.toNat false true true, s.hdlOpnd 1 a.toNat true false true]
  post := fun s => if chain then s.modCur fun c => { c with chain := some (c.seq - 1) } else s

/-- CPY (R179 to R182). -/
def execCpy (t : TCtl) (d a c : BitVec 4) (s : State) : Host.Outcome State Fault Refusal :=
  enqueue (.cpy t d a c) t (copySpec (.cpy t d a c) false d a c) s

/-- CPYM (R183): a copy that chains the next matrix word. -/
def execCpym (t : TCtl) (d a c : BitVec 4) (s : State) : Host.Outcome State Fault Refusal :=
  enqueue (.cpym t d a c) t (copySpec (.cpym t d a c) true d a c) s

/-- CLOSE (R184). -/
def execClose (t : TCtl) (s : State) : Host.Outcome State Fault Refusal :=
  enqueue (.close t) t (plainSpec 2 (.close t) []) s

/-- CWAIT (R185). -/
def execCwait (t : TCtl) (n : BitVec 4) (s : State) : Host.Outcome State Fault Refusal :=
  enqueue (.cwait t n) t (plainSpec 2 (.cwait t n) []) s

end Sys2Proof.Machine
end

