-- ==== Sys2Proof/Machine/Link.lean ====
section
/-! DEFINITION. Link contexts, pushes, and the landing and admission of segments (R17, R186 to R191, R344). -/

namespace Sys2Proof.Machine

/-- The context number of a link word: bits [7:4] in D, [3:0] in A. -/
def ctxNo (c : BitVec 8) : Nat := c.toNat

/-- The latency of a class (Table 1-6). -/
def clsLat (c : Nat) : Nat := if c = 0 then 20 else if c = 1 then 36 else 44

/-- A class can meet the route between two bound slots (R17, R344). -/
def classMeets (own peer c : Nat) : Bool :=
  if own = peer then (if c = 2 then slotCls own == .bd else true)
  else if c = 0 then adjacent own peer
  else if c = 1 then slotCls own != .bd && slotCls peer != .bd
  else slotCls own == .bd || slotCls peer == .bd

/-- The context of a die's endpoint, if it is set up. -/
def State.findCtx (s : State) (prio : Bool) (vdie ctx : Nat) : Option LinkCtx :=
  s.links.find? fun l => l.prio == prio && l.vdie == vdie && l.ctx == ctx

/-- Change a context that is set up. -/
def State.modCtx (s : State) (prio : Bool) (vdie ctx : Nat) (f : LinkCtx → LinkCtx) : State :=
  { s with links := s.links.map fun l => if l.prio = prio ∧ l.vdie = vdie ∧ l.ctx = ctx then f l else l }

/-- Clear a context (R191). -/
def State.dropCtx (s : State) (prio : Bool) (vdie ctx : Nat) : State :=
  { s with links := s.links.filter fun l => !(l.prio == prio && l.vdie == vdie && l.ctx == ctx) }

/-- Bytes of a sweep as a byte stream. -/
def streamBytes (h : HRec) : Nat := copyRunBytes h * hRuns h

/-- An odd 4-bit run, which is no byte stream (R188). -/
def oddNibbles (h : HRec) : Bool := fmtStore (hFmt h) == 4 && !fmtBlock (hFmt h) && hExt h 0 % 2 == 1

/-- The illegal descriptors of R186: a reserved class or a reserved bit. -/
def ctxBadDesc (v : Word) : Bool := bitsOf v.toNat 5 2 == 3 || decide (128 ≤ v.toNat)

/-- The peer check of R186: VDIE below NVDIE, and a class that the route meets. -/
def State.peerBad (s : State) (v : Word) : Option (Nat × Word) :=
  let peer := v.toNat % 32
  if s.launch.vdies.length ≤ peer ∨ !classMeets s.slotNo (s.launch.vd peer).slot (bitsOf v.toNat 5 2) then
    some (Cause.translation, v)
  else none

/-- What LCTX.r names and checks (R186). R342 gives the check of PEER and CLASS no part: it is made after part 5 of h[B] and before
the pin limit. DEDUCED (notes/assumptions/15.md). -/
def lctxRSpec (i : Instr) (b c : BitVec 4) : EngSpec where
  queue := 3
  named := [.hdl 2 b.toNat]
  xs := [(3, c.toNat)]
  portTval := fun _ => wordTval i
  own := fun s =>
    let h := s.rh b.toNat
    if ctxBadDesc (s.rx c.toNat) || !(hSpace h == 1 || hSpace h == 2) || hNV h == 0 || oddNibbles h
    then some (Cause.illegal, wordTval i) else none
  opnds := fun s => [s.hdlOpnd 2 b.toNat false true false]
  after := fun s => s.peerBad (s.rx c.toNat)

/-- LCTX.r (R186). -/
def execLctxR (t : TCtl) (ctx : BitVec 8) (b c : BitVec 4) (s : State) : Host.Outcome State Fault Refusal :=
  enqueue (.lctxR t ctx b c) t (lctxRSpec (.lctxR t ctx b c) b c) s

/-- What LCTX.s names and checks (R186). -/
def lctxSSpec (i : Instr) (c : BitVec 4) : EngSpec where
  queue := 3
  xs := [(3, c.toNat)]
  portTval := fun _ => wordTval i
  own := fun s => if ctxBadDesc (s.rx c.toNat) then some (Cause.illegal, wordTval i) else none
  after := fun s => s.peerBad (s.rx c.toNat)

/-- LCTX.s (R186). -/
def execLctxS (t : TCtl) (ctx : BitVec 8) (c : BitVec 4) (s : State) : Host.Outcome State Fault Refusal :=
  enqueue (.lctxS t ctx c) t (lctxSSpec (.lctxS t ctx c) c) s

/-- What LOPEN names and checks (R187): both registers are read and checked at enqueue. -/
def lopenSpec (i : Instr) (b c : BitVec 4) : EngSpec where
  queue := 3
  xs := [(2, b.toNat), (3, c.toNat)]
  portTval := fun _ => wordTval i
  own := fun s =>
    if 2 ^ 28 ≤ (s.rx b.toNat).toNat ∨ 2 ^ 16 ≤ (s.rx c.toNat).toNat then some (Cause.illegal, wordTval i) else none

/-- LOPEN (R187). -/
def execLopen (t : TCtl) (ctx : BitVec 8) (b c : BitVec 4) (s : State) : Host.Outcome State Fault Refusal :=
  enqueue (.lopen t ctx b c) t (lopenSpec (.lopen t ctx b c) b c) s

/-- What LPUSH names and checks (R188). -/
def lpushSpec (i : Instr) (b : BitVec 4) : EngSpec where
  queue := 3
  named := [.hdl 2 b.toNat]
  portTval := fun _ => wordTval i
  own := fun s => if oddNibbles (s.rh b.toNat) then some (Cause.illegal, wordTval i) else none
  opnds := fun s => [s.hdlOpnd 2 b.toNat true false true]

/-- LPUSH (R188). -/
def execLpush (t : TCtl) (ctx : BitVec 8) (b : BitVec 4) (s : State) : Host.Outcome State Fault Refusal :=
  enqueue (.lpush t ctx b) t (lpushSpec (.lpush t ctx b) b) s

/-- LCLOSE (R191). -/
def execLclose (t : TCtl) (ctx : BitVec 8) (s : State) : Host.Outcome State Fault Refusal :=
  enqueue (.lclose t ctx) t (plainSpec 3 (.lclose t ctx) []) s

/-- LSTAT (R191). -/
def execLstat (t : TCtl) (ctx : BitVec 8) (b : BitVec 4) (s : State) : Host.Outcome State Fault Refusal :=
  enqueue (.lstat t ctx b) t (plainSpec 3 (.lstat t ctx b) [b.toNat]) s

/-! ### Dispatch and completion -/

/-- Start a link word that completes at a known tick, with its bound: the next word dispatches from the tick after. -/
def startAt (w : QWord) (comp bound : Nat) (xres : Option (Nat × Word) := none) (s : State) : State :=
  s.start { s.running w comp (comp + 1) with bound := bound, xres := xres }

/-- A window is open at an LTICK, or at all in LOCK mode (R187, R190, Table 11-6). -/
def LinkCtx.isOpen (l : LinkCtx) (lock : Bool) (lt : Nat) : Bool :=
  match l.win with | none => false | some (a, b) => lock || decide (a ≤ lt ∧ lt ≤ b)

/-- What LSTAT samples (Table 11-6). -/
def State.lstatValue (s : State) (ctx : Nat) : Word :=
  match s.findCtx s.cur.prio s.cur.vdie ctx with
  | none => 0
  | some l =>
    BitVec.ofNat 64 ((if l.rx then 1 else 0) + (if l.tx then 2 else 0)
      + (if l.isOpen s.launch.lock s.ltick then 4 else 0) + l.cls * 8 + l.peer * 32
      + min l.landed 0xFFFF * 2 ^ 16 + min l.miss 0xFFFF * 2 ^ 32)

/-- The reads of a push's next segment (R188). -/
def pushWant (r : Run) : List Req :=
  let e := copySeg (r.w.word.rec_ 2) r.w.st.k
  spanReqs (r.w.word.rec_ 2) e.1 e.2

/-- A push has read its next segment, which the endpoint may send ρ ticks on (R188): one segment is read each tick. `st.res` holds
the peer, the context and its latency. -/
def pushTake (r : Run) (got : List (List Byte)) : Run :=
  let h := r.w.word.rec_ 2
  let k := r.w.st.k
  let e := copySeg h k
  let n := ceilDiv (streamBytes h) 512
  let c := r.s.cur
  let seg : Seg :=
    { id := r.s.segId, prio := c.prio, src := c.vdie, srcCell := c.cell, seq := r.w.word.seq
      dst := r.w.st.res.getD 0 0, ctx := r.w.st.res.getD 1 0, lat := r.w.st.res.getD 2 0
      bytes := (nibBytes ((spanGot h e.1 e.2 got).map fun v => (v, true))).map Prod.fst
      sent := r.s.z0 + r.w.fig.rd, land := none, last := k + 1 == n }
  ({ r with s := { r.s with segs := r.s.segs ++ [seg], segId := r.s.segId + 1 } }.count fun x => { x with k := k + 1 }).at_
    (if k + 1 < n then some (r.w.time + 1) else none)

/-- Dispatch a push (R188). In LOCK mode it completes when its last segment is admitted (R190), in SCHED mode when it is sent.
One that finds no sender set up before this tick (R186) sends nothing, and completes when its last segment would have left. R188 gives
no completion for a push of no bytes: it completes at the tick after its dispatch, or without a sender ρ ticks after its dispatch.
DEDUCED (notes/assumptions/15.md). -/
def dispPush (w : QWord) (ctx : Nat) (s : State) : State :=
  let h := w.rec_ 2
  let p := s.pathOf h
  let n := ceilDiv (streamBytes h) 512
  let fin := n - 1 + p.rd
  match (s.findCtx s.cur.prio s.cur.vdie ctx).filter fun l => l.tx && decide (l.born < s.z0) with
  | none => s.start { s.running w fin (fin + 1) with bus := some (BitVec.ofNat 64 ctx) }
  | some l =>
    if n = 0 then s.start (s.running w 1 2)
    else
      s.start
        { s.running w fin (fin + 1) with
          comp := none, next := some 0, fig := { rd := p.rd }, st := { res := [l.peer, l.ctx, clsLat l.cls] } }

/-- The segments of a launch that its dies' endpoints may send at this tick: the first that its push has left, when its tick has
come (R188). -/
def State.sendable (s : State) (prio : Bool) : List Seg :=
  s.segs.filter fun g =>
    g.prio == prio && g.land.isNone && g.acc.isNone && decide (g.sent ≤ s.z0)
      && !(s.segs.any fun x => x.prio == g.prio && x.src == g.src && x.srcCell == g.srcCell && x.seq == g.seq
            && x.land.isNone && x.acc.isNone && decide (x.id < g.id))

/-- A segment leaves its endpoint at this tick (R188): the next of its push leaves a tick later at the earliest, and the push
completes with its last. `wt` is the push's word time at this tick. -/
def State.send (s : State) (g : Seg) (wt : Running → Nat) : State :=
  let s := { s with segs := s.segs.map fun x =>
              if x.id = g.id then { x with sent := s.z0, land := some (s.z0 + x.lat) }
              else if x.land.isNone ∧ x.acc.isNone ∧ x.prio = g.prio ∧ x.src = g.src ∧ x.srcCell = g.srcCell ∧ x.seq = g.seq
              then { x with sent := max x.sent (s.z0 + 1) } else x }
  if g.last then
    s.mapStrands fun c =>
      if c.is g.prio g.src g.srcCell then
        { c with running := c.running.map fun x => if x.word.seq = g.seq then { x with comp := some (wt x) } else x }
      else c
  else s

/-- Segments that a die's endpoint has sent at this tick. -/
def State.sentNow (s : State) (prio : Bool) (src : Nat) : Nat :=
  (s.segs.filter fun g => g.prio == prio && g.src == src && g.sent == s.z0 && (g.land.isSome || g.acc.isSome)).length

/-- The segments of a SCHED launch leave at this tick (R188): an endpoint sends at most 12, in ascending logical cell; one that
must wait makes the sending die late. -/
def State.sendAll (s : State) (prio : Bool) : State :=
  (upFrom 0 16).foldl (fun (s : State) cell =>
    ((s.sendable prio).filter fun g => g.srcCell == cell).foldl (fun (s : State) g =>
      if s.sentNow prio g.src < 12 then s.send g Running.wt
      else s.asStrand (fun c => c.is prio g.src g.srcCell) State.lateIssue) s) s

/-- Dispatch a link word (R186 to R191). -/
def dispLink (w : QWord) (s : State) : State :=
  match w.instr with
  | .lctxR _ _ _ _ | .lctxS _ _ _ => startAt w 4 4 none s
  | .lopen _ _ _ _ => startAt w 1 2 none s
  | .lclose _ _ => startAt w 1 2 none s
  | .lstat _ ctx b => startAt w 4 4 (some (b.toNat, s.lstatValue (ctxNo ctx))) s
  | .lpush _ ctx _ => dispPush w (ctxNo ctx) s
  | _ => s

/-- A segment has been admitted to a context and is not performed yet (R190). -/
def State.inFlight (s : State) (prio : Bool) (dst ctx : Nat) : Bool :=
  s.segs.any fun g => g.prio == prio && g.dst == dst && g.ctx == ctx && (g.land.isSome || g.acc.isSome)

/-- A link word that changes a receive context's setup or closes its window: the context (R190). -/
def changesCtx (w : QWord) : Option Nat :=
  match w.instr with
  | .lctxR _ ctx _ _ | .lctxS _ ctx _ | .lclose _ ctx => some (ctxNo ctx)
  | .lopen _ ctx _ _ => if w.xv 3 == 0 then some (ctxNo ctx) else none
  | _ => none

/-- A link word that changes a receive context completes, in LOCK mode, only after the segments already admitted to it have
been performed (R190). DEDUCED (notes/assumptions/15.md). -/
def State.linkHeld (s : State) (w : QWord) : Bool :=
  s.launch.lock && (changesCtx w).any fun ctx => s.inFlight s.cur.prio s.cur.vdie ctx

/-- A word that changes a receive context waits to complete: what waits behind it is admitted only under the new setup
(R190). -/
def State.ctxChanging (s : State) (prio : Bool) (dst ctx : Nat) : Bool :=
  (s.cur :: s.others).any fun c =>
    c.prio == prio && c.vdie == dst && c.status != .idle
      && c.running.any fun x => x.comp.any (· ≤ x.wt) && changesCtx x.word == some ctx

/-- What a link word does at its completion (R186, R187, R191): `disp` is its dispatch tick.
DEDUCED (notes/assumptions/15.md). -/
def completeLink (w : QWord) (disp : Nat) (s : State) : State :=
  let p := s.cur.prio
  let v := s.cur.vdie
  match w.instr with
  | .lctxR _ ctx _ _ =>
    let n := ctxNo ctx
    let d := (w.xv 3).toNat
    let s := s.dropCtx p v n
    { s with links := s.links ++ [{ prio := p, vdie := v, ctx := n, rx := true, tx := false, cls := bitsOf d 5 2,
                                    peer := d % 32, hrec := w.rec_ 2, cell := s.cur.cell, born := s.z0 }] }
  | .lctxS _ ctx _ =>
    let n := ctxNo ctx
    let d := (w.xv 3).toNat
    let s := s.dropCtx p v n
    { s with links := s.links ++ [{ prio := p, vdie := v, ctx := n, rx := false, tx := true, cls := bitsOf d 5 2,
                                    peer := d % 32, cell := s.cur.cell, born := s.z0 }] }
  | .lopen _ ctx _ _ =>
    -- the superstep base in force at dispatch: a link word never outlives its superstep (R296)
    let a := s.launch.base + (w.xv 2).toNat
    let n := (w.xv 3).toNat
    let from_ := max a (disp + 2 - s.launch.l0)
    s.modCtx p v (ctxNo ctx) fun l =>
      if !l.rx then l
      else { l with win := if n = 0 then none else if s.launch.lock then some (0, 0) else if a + n ≤ from_ then none
                           else some (from_, a + n - 1) }
  | .lclose _ ctx =>
    -- LANDED and MISS stay until the next LCTX (Table 11-6)
    s.modCtx p v (ctxNo ctx) fun l => { l with rx := false, tx := false, cls := 0, peer := 0, win := none }
  | _ => s

/-! ### Landing -/

/-- The parts of a landed segment from a position of the receiver's byte stream, granule by granule, with the wrap of R189.
With BCAST on dimension 0 every element, a whole block in a block form, is element 0 of its run (R144). -/
def landParts (h : HRec) : Nat → Nat → List Byte → List (Int × List Byte)
  | 0, _, _ => []
  | fuel + 1, pos, bytes =>
    if bytes.isEmpty ∨ streamBytes h = 0 then []
    else
      let p := pos % streamBytes h
      let rb := copyRunBytes h
      let k := rb - p % rb
      let base := hRunAddr h (p / rb)
      let part := bytes.take k
      let here :=
        if hBcast h 0 then
          let w := if fmtBlock (hFmt h) then 64 else max 1 (fmtStore (hFmt h) / 8)
          part.zipIdx.map fun e => (base + (((p % rb + e.2) % w : Nat) : Int), [e.1])
        else (granules (part.length / 64 + 2) (base + (p % rb : Nat)) part.length).map fun g =>
          (g.1, (part.drop (g.1 - (base + (p % rb : Nat))).toNat).take g.2)
      here ++ landParts h fuel (p + k) (bytes.drop k)

/-- The receive context of a segment as a writer of fleeting memory (R165). -/
def Seg.writer (g : Seg) : Writer := { link := true, prio := g.prio, vdie := g.dst, cell := 0, no := g.ctx }

/-- Write landed bytes at an address of the receiver's space, as the focused strand, whose cell issued LCTX.r (R165, R189). A
byte of a broadcast 4-bit form leaves its high nibble, the later element, in the low one, and writes nothing else (R144, R145). -/
def State.landPart (s : State) (w : Writer) (h : HRec) (e : Int × List Byte) : State :=
  let acc := s.reach (hSpace h) e.1
  let low := hBcast h 0 && fmtStore (hFmt h) == 4 && !fmtBlock (hFmt h)
  let t := s.writeRaw acc (if low then e.2.map fun (b : Byte) => (s.rdByte acc.phys &&& 0xF0#8) ||| (b >>> 4) else e.2)
  match s.tileAt (hSpace h) e.1 with
  | some (key, off) => t.sessWrite w key (nibMask off (e.2.map fun b => (b, if low then 1 else 3)))
  | none => t

/-- A tile that the parts of a segment reach is another writer's or in a busy window (R167). -/
def State.landHeld (s : State) (w : Writer) (h : HRec) (l : List (Int × List Byte)) : Bool :=
  l.any fun e => (s.tileAt (hSpace h) e.1).any fun t => !s.mayWrite w t.1

/-- The strand that a landing acts for: the one whose LCTX.r set the context up, or logical cell 0 (R272, R189). -/
def landCell (l : Option LinkCtx) : Nat := match l.filter LinkCtx.rx with | some x => x.cell | none => 0

/-- A landing outside every window (R189): counted, the die late with cause 0x10, and a trap for the strand concerned when
it still runs. -/
def State.misTimed (s : State) (g : Seg) (cell : Nat) : State :=
  let l := s.launchD g.prio
  let tval := BitVec.ofNat 64 (g.ctx % 256 + (s.z0 - l.l0 - l.base) % 2 ^ 28 * 256)
  let s := s.markDie g.prio
    { vdie := g.dst, cause := Cause.mistimed, tick := s.z0, dieLevel := false, lstrand := lstrandOf l g.dst cell,
      cell := cell, detail := tval }
  let live := fun c : Strand =>
    c.is g.prio g.dst cell && !c.out && !(c.status == .ended && c.pend.isEmpty && c.queue.isEmpty && c.running.isEmpty)
  s.asStrand live (raiseAsync { code := Cause.mistimed, tval := tval, tpc := none })

/-- MISS counts a segment, on a context that was never set up as well (R189). DEDUCED (notes/assumptions/15.md). -/
def State.countMiss (s : State) (g : Seg) : State :=
  if (s.findCtx g.prio g.dst g.ctx).isSome then s.modCtx g.prio g.dst g.ctx fun x => { x with miss := x.miss + 1 }
  else { s with links := s.links ++ [{ prio := g.prio, vdie := g.dst, ctx := g.ctx, rx := false, tx := false, cls := 0, peer := 0,
                                       miss := 1 }] }

/-- When a segment next does something at its receiver: it lands, and an accepted one is then performed (R189). -/
def Seg.due (g : Seg) : Option Nat := match g.acc with | some a => some a.due | none => g.land

/-- The context takes a segment that lands at a tick: it is a receiver with an open window, or with any in LOCK mode (R189, R190). -/
def State.takesAt (s : State) (prio : Bool) (x : LinkCtx) (tick : Nat) : Bool :=
  x.rx && ((s.launchD prio).lock || x.isOpen false (tick - (s.launchD prio).l0))

/-- A segment lands: it is accepted when a window covers the tick, and in LOCK mode always; otherwise it is mis-timed. The
position advances in both cases. An accepted segment waits to be performed (R189, R190).
DESIGN CHOICE (notes/assumptions/3.md). DEDUCED (notes/assumptions/15.md). -/
def landNow (g : Seg) (s : State) : State :=
  let c := s.findCtx g.prio g.dst g.ctx
  let cell := landCell c
  let take := c.any fun x => s.takesAt g.prio x s.z0
  let pos := (c.map LinkCtx.pos).getD 0
  let h := (c.map LinkCtx.hrec).getD 0
  let rest := s.segs.filter fun x => x.id != g.id
  let s :=
    if take then
      let born := (c.map LinkCtx.born).getD 0
      let a : Landing := { due := s.z0 + Config.landTicks born, tau := s.z0, hrec := h, pos := pos, cell := cell, born := born }
      { s with segs := rest ++ [{ g with acc := some a }] }
    else ({ s with segs := rest }.misTimed g cell).countMiss g
  s.modCtx g.prio g.dst g.ctx fun x =>
    if x.rx then { x with pos := if streamBytes h = 0 then 0 else (pos + g.bytes.length) % streamBytes h } else x

/-- An accepted segment waits for a segment of its context that was accepted before it. -/
def State.landAfter (s : State) (g : Seg) : Bool :=
  (s.segs.takeWhile fun x => x.id != g.id).any fun x => x.acc.isSome && x.prio == g.prio && x.dst == g.dst && x.ctx == g.ctx

/-- The scratchpad granules that the parts of a segment reach, each once. -/
def State.landGrans (s : State) (h : HRec) (l : List (Int × List Byte)) : List Nat :=
  (l.filterMap fun e => s.granAt (hSpace h) e.1).dedup

/-- Reserve the banks of an accepted segment, after every other access of the tick that reaches them (R142): the tick by which all
of them have served it. DESIGN CHOICE (notes/assumptions/38.md). DEDUCED (notes/assumptions/15.md). -/
def State.landBanks (s : State) (h : HRec) (l : List (Int × List Byte)) : State × Nat :=
  (s.landGrans h l).foldl (fun (acc : State × Nat) g => let y := acc.1.serveBank g; (y.1, max acc.2 y.2)) (s, s.z0)

/-- An accepted segment that its receiver's banks have to serve takes its place after the engine steps of its tick (R142). -/
def State.landReady (s : State) (g : Seg) : Bool :=
  match g.acc with | some a => hSpace a.hrec != 1 || s.stepped | none => true

/-- A segment's bytes are performed, and the setup that took it counts it in LANDED (R189). -/
def landWrite (g : Seg) (a : Landing) (parts : List (Int × List Byte)) (s : State) : State :=
  let s := { s with segs := s.segs.filter fun x => x.id != g.id }
  (s.asStrand (fun y => y.is g.prio g.dst a.cell) fun t => parts.foldl (fun t e => t.landPart g.writer a.hrec e) t).modCtx
    g.prio g.dst g.ctx fun x => if x.born = a.born then { x with landed := x.landed + 1 } else x

/-- An accepted segment is performed later; one that needs more than 16 ticks makes the die late (R189). -/
def landLater (g : Seg) (a : Landing) (due : Nat) (s : State) : State :=
  let s := { s with segs := s.segs.map fun x => if x.id = g.id then { x with acc := some { a with due := due } } else x }
  if a.tau + 16 < due then s.asStrand (fun y => y.is g.prio g.dst a.cell) State.lateIssue else s

/-- An accepted segment is performed (R189). Where a tile keeps it waiting it is tried again a tick later (R167), and banks serve it
before (R142). DEDUCED (notes/assumptions/15.md). -/
def performSeg (g : Seg) (a : Landing) (s : State) : State :=
  let parts := landParts a.hrec (g.bytes.length + 1) a.pos g.bytes
  let t := s.focus fun y => y.is g.prio g.dst a.cell
  if s.landAfter g || t.landHeld g.writer a.hrec parts then landLater g a (s.z0 + 1) s
  else if a.served then landWrite g a parts s
  else
    let x := t.landBanks a.hrec parts
    let s := { s with banks := x.1.banks }
    if x.2 ≤ s.z0 then landWrite g a parts s else landLater g { a with served := true } x.2 s

/-- LINK_SEGMENT_LANDING (R189, R190): a segment lands at the tick its latency gives, and an accepted one is performed within
16 ticks of that. -/
def execLinkSegmentLanding (seg : Nat) (s : State) : Host.Outcome State Fault Refusal :=
  .next (match s.segs.find? fun g => g.id == seg && g.due == some s.z0 with
    | none => s
    | some g => match g.acc with | some a => performSeg g a s | none => landNow g s)

/-- A waiting segment may be admitted now (R190): LOCK mode, after the reads of this tick; it is the first that its push has left
and its tick has come; its endpoint has a send slot (R188); its peer's context is a receiver with an open window, and no word
that changes the context waits to complete. DEDUCED (notes/assumptions/15.md). -/
def State.admits (s : State) (g : Seg) : Bool :=
  decide (s.z0 < s.served) && (s.launchD g.prio).lock && !(s.launchD g.prio).out && decide (s.sentNow g.prio g.src < 12)
    && (s.sendable g.prio).any (fun x => x.id == g.id) && !s.ctxChanging g.prio g.dst g.ctx
    && (s.findCtx g.prio g.dst g.ctx).any fun l => l.rx && l.win.isSome

/-- The segment that is admitted next: the admissible one of the lowest logical cell (R188). -/
def State.admitNext (s : State) : Option Seg :=
  (upFrom 0 16).findSome? fun cell => s.segs.find? fun g => g.srcCell == cell && s.admits g

/-- LINK_SEGMENT_ADMIT (R190): an admitted segment leaves the endpoint now; the later segments of its push follow one tick
apart, and the push completes with its last. -/
def execLinkSegmentAdmit (seg : Nat) (s : State) : Host.Outcome State Fault Refusal :=
  .next (match s.segs.find? fun g => g.id == seg && s.admits g with
    | none => s
    | some g => s.send g fun x => x.wt - 1)

/-- A segment that is due at the next tick waits then: behind one that its context accepted before it, or for a tile that another
writer holds or that is in a busy window (R167). -/
def State.heldNext (s : State) (g : Seg) (h : HRec) (cell : Nat) (parts : List (Int × List Byte)) : Bool :=
  (s.segs.takeWhile fun x => x.id != g.id).any (fun x =>
      x.prio == g.prio && x.dst == g.dst && x.ctx == g.ctx && x.acc.any fun a => decide (s.z0 + 1 < a.due))
    || (({ s with z0 := s.z0 + 1 } : State).focus fun y => y.is g.prio g.dst cell).landHeld g.writer h parts

/-- The context's next accepted segment is performed at the next tick, and in this tile (R165): one accepted already, or one that
lands, is accepted and is performed at that tick. -/
def State.landsOn (s : State) (w : Writer) (key : Nat) : Bool :=
  s.segs.any fun g =>
    let c := (s.findCtx g.prio g.dst g.ctx).filter fun l => s.takesAt g.prio l (s.z0 + 1)
    let at_ := match g.acc with
      | some a => some (a.due, a.hrec, a.pos, a.cell)
      | none => c.bind fun l => g.land.map fun t => (t + Config.landTicks l.born, l.hrec, l.pos, l.cell)
    g.writer == w && at_.any fun a =>
      let parts := landParts a.2.1 (g.bytes.length + 1) a.2.2.1 g.bytes
      a.1 == s.z0 + 1 && !s.heldNext g a.2.1 a.2.2.2 parts && parts.any fun e =>
        ((s.focus fun y => y.is g.prio g.dst a.2.2.2).tileAt (hSpace a.2.1) e.1).any fun t => t.1 == key

/-- A receive context leaves its session on a tile with the last segment that is performed in it on consecutive ticks (R165). -/
def State.closeLandings (s : State) : State :=
  (s.sessions.flatMap fun x => (x.writers.filter fun w => w.link && !s.landsOn w x.key).map fun w => (w, x.key)).foldl
    (fun t e => (t.sessLeave e.1 e.2).1) s

end Sys2Proof.Machine
end

