-- ==== Sys2Proof/Machine/Gather.lean ====
section
/-! DEFINITION. Gathers and scatters (R192, R193). -/

namespace Sys2Proof.Machine

/-- The three forms (FN6 of MAJ 0x32). -/
inductive GatherOp where
  | gath | scat | scatadd
  deriving DecidableEq, Repr

/-- Add the elements of two runs of i32 or f32 (R193): nibbles in, nibbles and flags out. -/
def addRuns (f : Nat) : List Nat → List Nat → List Nat × BitVec 8
  | a, b =>
    let n := a.length / 8
    (upFrom 0 n).foldl (fun acc i =>
      let x := ((a.drop (8 * i)).take 8).foldr (fun d v => d + 16 * v) 0
      let y := ((b.drop (8 * i)).take 8).foldr (fun d v => d + 16 * v) 0
      let z := if f = 0x01 then f32Add x y else ((x + y) % 2 ^ 32, 0)
      (acc.1 ++ (upFrom 0 8).map (fun j => z.1 / 16 ^ j % 16), acc.2 ||| z.2)) ([], 0)

/-- Put the word's own writes that wait for their ticks over bytes that it reads: a later run sees what an earlier one wrote
(R192). -/
def Run.withOuts (r : Run) (q : Req) (bytes : List Byte) : List Byte :=
  if r.w.outs.isEmpty then bytes
  else
    let at_ := (granules (q.n / 64 + 2) q.addr q.n).flatMap fun g =>
      let p := (r.s.reach q.space g.1).phys; (upFrom 0 g.2).map (p + ·)
    let outs := r.w.outs.map fun o => ((r.s.reach o.space o.addr).phys, o.data)
    (List.zip at_ bytes).map fun e =>
      outs.foldl (fun b o =>
        if o.1 ≤ e.1 ∧ e.1 < o.1 + o.2.length then
          let d := o.2.getD (e.1 - o.1) (0, 0)
          (if d.2 % 2 = 1 then d.1 &&& 0x0F#8 else b &&& 0x0F#8) ||| (if 2 ≤ d.2 then d.1 &&& 0xF0#8 else b &&& 0xF0#8)
        else b) e.2

/-- A read meets unperformed writes of the word's own in part of its bytes of a granule. -/
def Run.mixed (r : Run) (p : Piece) : Bool :=
  let a := (r.s.reach p.space p.addr).phys
  let stage := (upFrom 0 p.n).map fun i => r.w.outs.foldl (fun m o =>
    let b := (r.s.reach o.space o.addr).phys
    if b ≤ a + i ∧ a + i < b + o.data.length then max m (o.data.getD (a + i - b) (0, 0)).2 else m) 0
  stage.any (· != 0) && stage.any (· != 3)

/-- A read that has been made meets unperformed writes of the word's own in part of its bytes of a granule: it waits for them, so that
it returns the granule at one point of its coherence order (R274). DEDUCED (notes/assumptions/16.md). -/
def gatherHeld (r : Run) : Bool := !r.w.outs.isEmpty && r.w.pieces.any r.mixed

/-- The reads of a held gather word that are made again at the next tick, when its writes up to a word time have been performed: those
which meet no later write of its own (R274). DEDUCED (notes/assumptions/16.md). -/
def Run.readAgain (r : Run) (wt : Nat) : Run :=
  let due := fun (p : Piece) => r.w.outs.all fun o =>
    decide (o.at_ ≤ wt) || !rangesMeet (r.s.reach o.space o.addr).phys o.data.length (r.s.reach p.space p.addr).phys p.n
  { r with w := { r.w with pieces := r.w.pieces.map fun p => if r.mixed p && due p then { p with got := none, svc := none } else p } }

/-- A gather word that waits for its own writes goes on to their ticks, while its next step waits (R274). -/
def Run.waitsOwn (r : Run) : Bool :=
  gatherHeld r && r.w.wait == 0 && r.w.pieces.all (fun p => p.got.isSome) && r.w.outs.all fun o => decide (r.w.wt < o.at_)

/-- The table and the dense record of a gather word, and its index port (R192). -/
def GatherOp.table (op : GatherOp) (w : QWord) : HRec := match op with | .gath => w.rec_ 1 | _ => w.rec_ 0
def GatherOp.dense (op : GatherOp) (w : QWord) : HRec := match op with | .gath => w.rec_ 0 | _ => w.rec_ 1

/-- The row that a lane of an index vector names: none for a masked lane and outside the table (R192). Where EXT2 or EXT3 of the table is 0
its sweep is empty, so that nothing of it is checked or pinned at enqueue (R144), and the rows that R192 gives it are accessed all the
same. DEDUCED (notes/assumptions/16.md). -/
def rowOf (table : HRec) (lane : Option Lane) : Option Nat :=
  (lane.map fun l => toSInt 32 l.1).bind fun (k : Int) => if 0 ≤ k ∧ k < (hExt table 1 : Int) then some k.toNat else none

/-- The word pops an index vector now: before each 128th run. -/
def Running.popsIndex (w : Running) : Bool := w.st.k % 128 == 0 && w.st.i == 0

/-- The reads of a gather word's next step: an index vector, or those of its next run (R192). -/
def gatherWant (op : GatherOp) (q : Nat) (r : Run) : List Req :=
  let w := r.w.word
  let table := op.table w
  let dense := op.dense w
  let e := copyRun table
  if r.w.popsIndex then [r.popReq q]
  else match rowOf table ((lanesOf r.w.st.buf q).getD (r.w.st.k % 128) none) with
    | none => []
    | some k =>
      match op with
      | .gath => [elemReq table (k * e, e)]
      | .scat => [elemReq dense (r.w.st.k * e, e)]
      | .scatadd => [elemReq dense (r.w.st.k * e, e), elemReq table (k * e, e)]

/-- The index vector that a gather word pops a number of pops from now, as its bytes stand. -/
def Run.lanesAhead (r : Run) (q j : Nat) : List (Option Lane) :=
  let r := (upFrom 0 j).foldl (fun r _ => r.step q) r
  let p := r.popReq q
  let bytes := (granules (p.n / 64 + 2) p.addr p.n).flatMap fun g => (r.readPiece { req := 0, port := q, space := p.space, addr := g.1, n := g.2 }).2
  (popLanes (r.s.portRec q) (r.idx q) bytes).1

/-- The next row that an index of a gather word names: in what is left of the vector that it has popped, else in those still to be
popped, of which its `n` runs take the first lanes (R192). -/
def Run.nextRow (r : Run) (table : HRec) (n q : Nat) : Option Nat :=
  let st := r.w.st
  let left := if st.i = 0 then [] else (lanesOf st.buf q).drop (st.k % 128)
  let from_ := if st.i = 0 then st.k else (st.k / 128 + 1) * 128
  match (left.take (n - st.k)).findSome? (rowOf table) with
  | some k => some k
  | none => (upFrom 0 (ceilDiv (n - from_) 128)).findSome? fun j => ((r.lanesAhead q j).take (n - from_ - 128 * j)).findSome? (rowOf table)

/-- Where a gather word writes next: its next dense run, or the next row that an index names.
DEDUCED (notes/assumptions/17.md). -/
def Run.gatherNext (r : Run) (op : GatherOp) (q : Nat) : Run :=
  let table := op.table r.w.word
  let dense := op.dense r.w.word
  let k := r.w.st.k
  if hRuns dense ≤ k then r.writesNext []
  else match op with
    | .gath => r.writesNext [elemAddr dense (k * copyRun dense)]
    | _ => r.writesNext ((r.nextRow table (hRuns dense) q).map fun row => elemAddr table (row * copyRun table)).toList

/-- A gather word takes its next step (R192, R193): the index vector takes one tick, a run `fig.setup` ticks, and a run is
written `fig.wr` ticks after its read. Runs without elements take no tick. DEDUCED (notes/assumptions/16.md). -/
def gatherTake (op : GatherOp) (q : Nat) (r : Run) (got : List (List Byte)) : Run :=
  let table := op.table r.w.word
  let dense := op.dense r.w.word
  let e := copyRun table
  let n := hRuns dense
  let st := r.w.st
  let t := r.w.time
  if r.w.popsIndex then
    let x := r.popped q (got.headD [])
    if e = 0 then
      let m := min 128 (n - st.k)
      let out := (x.2.take m).any fun l => (rowOf table l).isNone
      let r := x.1.count fun c => { c with k := st.k + m }
      { r with w := { r.w with bad := r.w.bad || out, next := if st.k + m < n then some (t + 1) else none } }
    else ((x.1.count fun c => { c with i := 1, buf := [(q, x.2)] }).at_ (some (t + 1))).gatherNext op q
  else
    let wr := t + r.w.fig.wr
    let row := rowOf table ((lanesOf st.buf q).getD (st.k % 128) none)
    let reqs := gatherWant op q r
    let data := (List.zip reqs got).map fun x => r.withOuts x.1 x.2
    let r := match row with
      | none =>
        let r := { r with w := { r.w with bad := true } }
        (match op with
          | .gath => r.outElems dense (st.k * e) wr (List.replicate (e * elemNibs (hFmt dense)) 0)
          | _ => r)
      | some k =>
        (match op with
          | .gath => r.outElems dense (st.k * e) wr (elemGot table (k * e, e) (data.headD []))
          | .scat => r.outElems table (k * e) wr (elemGot dense (st.k * e, e) (data.headD []))
          | .scatadd =>
            let z := addRuns (hFmt table) (elemGot table (k * e, e) ((data.drop 1).headD []))
              (elemGot dense (st.k * e, e) (data.headD []))
            (r.flag z.2).outElems table (k * e) wr z.1)
    let r := r.count fun c => { c with k := st.k + 1, i := if (st.k + 1) % 128 = 0 then 0 else 1 }
    (r.at_ (if st.k + 1 < n then some (t + r.w.fig.setup) else none)).gatherNext op q

/-- Dispatch a gather word (R192, R193). -/
def dispGather (op : GatherOp) (w : QWord) (pred : BitVec 4) (s : State) : State :=
  let table := op.table w
  let dense := op.dense w
  let pt := s.pathOf table
  let pd := s.pathOf dense
  let n := hRuns dense
  let per := ceilDiv (hRunBytes dense) (min pt.rate pd.rate)
  let (rd, wr) := match op with
    | .gath => (pt.rd, pd.wr)
    | .scat => (pd.rd, pt.wr)
    | .scatadd => (pd.rd + pt.rd, pt.wr)
  let setup := max pt.setup pd.setup
  let b := setup + n * per + ceilDiv n 128 + rd + wr
  Run.start
    { s := s
      w := { s.running w b (b + 1) with
        next := if n = 0 then none else some setup, psel := predSel pred
        fig := { setup := per, wr := rd + wr + per - 1 } } }

/-- The entry's own checks (R192, R193). -/
def gatherCheck (i : Instr) (op : GatherOp) (d a b : Nat) (s : State) : Option (Nat × Word) :=
  let hd := s.rh d
  let ha := s.rh a
  let table := match op with | .gath => ha | _ => hd
  let same := if fmtBlock (hFmt hd) || fmtBlock (hFmt ha) then hFmt hd == hFmt ha
              else fmtStore (hFmt hd) == fmtStore (hFmt ha)
  let sum := match op with
    | .scatadd => (hFmt hd == 0x04 && hFmt ha == 0x04) || (hFmt hd == 0x01 && hFmt ha == 0x01)
    | _ => true
  if hFmt (s.getQ b).hrec != 0x04 || hExt hd 0 != hExt ha 0 || !same || hGet table 10 != 0 || !sum then
    some (Cause.illegal, wordTval i)
  else none

/-- What a gather word names (R192). -/
def gatherSpec (i : Instr) (op : GatherOp) (d a b c : BitVec 4) : EngSpec where
  queue := 4
  named := [.hdl 0 d.toNat, .hdl 1 a.toNat, .prt 2 b.toNat]
  dests := predDests c
  portTval := fun _ => wordTval i
  own := gatherCheck i op d.toNat a.toNat b.toNat
  opnds := fun s =>
    let dense := s.rh (match op with | .gath => d.toNat | _ => a.toNat)
    let rw := match op with | .scatadd => true | _ => false
    [s.hdlOpnd 0 d.toNat rw true true, s.hdlOpnd 1 a.toNat true false true,
     s.portOpnd 2 b.toNat (ceilDiv (hRuns dense) 128) true false]
  pops := fun s =>
    let dense := s.rh (match op with | .gath => d.toNat | _ => a.toNat)
    [(b.toNat, ceilDiv (hRuns dense) 128)]

/-- GATH (R192). -/
def execGath (t : TCtl) (d a b c : BitVec 4) (s : State) : Host.Outcome State Fault Refusal :=
  enqueue (.gath t d a b c) t (gatherSpec (.gath t d a b c) .gath d a b c) s

/-- SCAT (R192). -/
def execScat (t : TCtl) (d a b c : BitVec 4) (s : State) : Host.Outcome State Fault Refusal :=
  enqueue (.scat t d a b c) t (gatherSpec (.scat t d a b c) .scat d a b c) s

/-- SCATADD (R192, R193). -/
def execScatadd (t : TCtl) (d a b c : BitVec 4) (s : State) : Host.Outcome State Fault Refusal :=
  enqueue (.scatadd t d a b c) t (gatherSpec (.scatadd t d a b c) .scatadd d a b c) s

end Sys2Proof.Machine
end

