-- ==== Sys2Proof/Machine/Special.lean ====
section
/-! DEFINITION. The special functions of R42: each value is bracketed between two neighbours on a grid far finer than any
destination, so that the one rounding that follows is the correct rounding of the real value. DEDUCED (notes/assumptions/35.md). -/

namespace Sys2Proof.Machine

/-- A real value that is not a dyadic number of the grid: m × 2^e plus something below one grid unit. The extra low bit
keeps it apart from every tie and from every representable value. -/
def sticky (neg : Bool) (m : Nat) (e : Int) : Num := .fin neg (2 * m + 1) (e - 1)

/-- The largest r with r × r ≤ n, found bit by bit from bit k - 1 down. -/
def isqrtGo (n : Nat) : Nat → Nat → Nat
  | 0, r => r
  | k + 1, r => let t := r + 2 ^ k; isqrtGo n k (if t * t ≤ n then t else r)

/-- The integer square root. -/
def isqrt (n : Nat) : Nat := isqrtGo n (n.log2 / 2 + 1) 0

/-- Fractional bits of the working grid. -/
def gridBits : Nat := 448

/-- The sum of t^(2k+1) / (2k+1) from k on, for t on the grid: `p` is t^(2k+1), `t2` is t². -/
def atanhGo (t2 : Nat) : Nat → Nat → Nat → Nat
  | 0, _, _ => 0
  | n + 1, k, p => p / (2 * k + 1) + atanhGo t2 n (k + 1) (p * t2 / 2 ^ gridBits)

/-- ln of y, for y from 1 to 2 on the grid: 2 × atanh((y - 1) / (y + 1)). -/
def lnGrid (y : Nat) : Nat :=
  let one := 2 ^ gridBits
  let t := (y - one) * one / (y + one)
  2 * atanhGo (t * t / one) 160 0 t

/-- ln 2 on the grid. -/
def ln2Grid : Nat := lnGrid (2 ^ (gridBits + 1))

/-- The sum of r^k / k! from k on: `p` is the current term. -/
def expGo (r : Nat) : Nat → Nat → Nat → Nat
  | 0, _, _ => 0
  | n + 1, k, p => p + expGo r n (k + 1) (p * r / 2 ^ gridBits / (k + 1))

/-- exp of r, for r from 0 to 1 on the grid. -/
def expGrid (r : Nat) : Nat := expGo r 120 0 (2 ^ gridBits)

/-- 2^x for a finite x: the exact value when x is an integer. -/
def exp2Val (neg : Bool) (m : Nat) (e : Int) : Num :=
  if m = 0 then .fin false 1 0
  else if 12 ≤ msbExp m e then sticky false 1 (if neg then -4096 else 4096)
  else
    -- x as an integer part and a fraction in units of 2^-200, exact for every source format
    let u : Int := signed neg (m * 2 ^ (e + 200).toNat)
    let n := u / 2 ^ 200
    let f := (u % 2 ^ 200).toNat
    if f = 0 then .fin false 1 n
    else
      let r := f * ln2Grid / 2 ^ 200
      sticky false (expGrid r) (n - (gridBits : Int))

/-- log2 of a positive finite x: exact when x is a power of two. -/
def log2Val (m : Nat) (e : Int) : Num :=
  let k := msbExp m e
  if m = 2 ^ m.log2 then Num.ofInt k
  else
    let y := m * 2 ^ (gridBits - m.log2)
    let g := lnGrid y * 2 ^ gridBits / ln2Grid
    let t : Int := k * 2 ^ gridBits + g
    if 0 ≤ t then sticky false t.toNat (-(gridBits : Int)) else sticky true (-t - 1).toNat (-(gridBits : Int))

/-- 1 / x for a finite x other than zero. -/
def rcpVal (neg : Bool) (m : Nat) (e : Int) : Num :=
  let q := 2 ^ gridBits / m
  if q * m = 2 ^ gridBits then .fin neg q (-e - (gridBits : Int)) else sticky neg q (-e - (gridBits : Int))

/-- 1 / sqrt x for a positive finite x. -/
def rsqrtVal (m : Nat) (e : Int) : Num :=
  let m' := if e % 2 = 0 then m else 2 * m
  let e' := if e % 2 = 0 then e else e - 1
  let q := 2 ^ (2 * gridBits) / m'
  let r := isqrt q
  if r * r * m' = 2 ^ (2 * gridBits) then .fin false r (-(e' / 2) - (gridBits : Int))
  else sticky false r (-(e' / 2) - (gridBits : Int))

/-- tanh x for a finite x: below 2^-64 it lies just inside x, and from 64 up just inside 1. -/
def tanhVal (neg : Bool) (m : Nat) (e : Int) : Num :=
  if m = 0 then .fin neg 0 0
  else
    let k := msbExp m e
    if k < -64 then sticky neg (m * 2 ^ 64 - 1) (e - 64)
    else if 6 ≤ k then sticky neg (2 ^ 200 - 1) (-200)
    else
      let one := 2 ^ gridBits
      let t := 2 * m * 2 ^ (e + (gridBits : Int)).toNat
      let n := t / ln2Grid
      let ex := expGrid (t % ln2Grid) * 2 ^ n
      sticky neg ((ex - one) * one / (ex + one)) (-(gridBits : Int))

/-- The five special functions by FN6 (R242). -/
inductive SpecFn where
  | exp2 | log2 | rcp | rsqrt | tanh
  deriving DecidableEq, Repr

/-- A special function of a value: the value before rounding, and the flags of its domain (R42). -/
def SpecFn.eval (fn : SpecFn) (v : Num) : Num × BitVec 8 :=
  match v with
  | .nan => (.nan, 0)
  | .inf neg =>
    (match fn with
      | .exp2 => (if neg then .zero else .inf false, 0)
      | .log2 | .rsqrt => if neg then (.nan, flagNV) else ((match fn with | .log2 => .inf false | _ => .zero), 0)
      | .rcp => (.fin neg 0 0, 0)
      | .tanh => (.fin neg 1 0, 0))
  | .fin neg m e =>
    if m = 0 then
      (match fn with
        | .exp2 => (.fin false 1 0, 0)
        | .log2 => (.inf true, flagDZ)
        | .rcp | .rsqrt => (.inf neg, flagDZ)
        | .tanh => (.fin neg 0 0, 0))
    else
      (match fn with
        | .exp2 => (exp2Val neg m e, 0)
        | .log2 => if neg then (.nan, flagNV) else (log2Val m e, 0)
        | .rcp => (rcpVal neg m e, 0)
        | .rsqrt => if neg then (.nan, flagNV) else (rsqrtVal m e, 0)
        | .tanh => (tanhVal neg m e, 0))

/-- A special function rounded to its format (R242): an infinity that the table of R42 gives sets no further flag. -/
def SpecFn.code (fn : SpecFn) (f : FFmt) (b : Nat) : Nat × BitVec 8 :=
  let r := fn.eval (f.decode b)
  let c := f.encode .rne false r.1
  (c.1, c.2 ||| r.2)

end Sys2Proof.Machine
end

