-- ==== Sys2Proof/Machine/VecOps.lean ====
section
/-! DEFINITION. What the vector words compute, lane by lane and run by run (R41, R43, R229 to R246). -/

namespace Sys2Proof.Machine

/-- Round an exact result to a float format (R229). -/
def fltRes (f : FFmt) (r : Num × Bool) : Nat × BitVec 8 :=
  let c := f.encode .rne false r.1
  (c.1, c.2 ||| (if r.2 then flagNV else 0))

/-- The two-source operations of Table 15-4. -/
inductive Bin where
  | add | sub | mul | min | max
  deriving DecidableEq, Repr

/-- A two-source float lane (R229, R231). -/
def fltBin (op : Bin) (f : FFmt) (a b : Nat) : Nat × BitVec 8 :=
  let x := f.decode a
  let y := f.decode b
  match op with
  | .add => fltRes f (x.add y)
  | .sub => fltRes f (x.add y.neg)
  | .mul => fltRes f (x.mul y)
  | .min => (fltMin f a b, 0)
  | .max => (fltMax f a b, 0)

/-- The exact integer result of a two-source lane; MIN and MAX give `a` for equal values (R231, R232). -/
def intBin (op : Bin) (x y : Int) : Int :=
  match op with
  | .add => x + y
  | .sub => x - y
  | .mul => x * y
  | .min => if y < x then y else x
  | .max => if x < y then y else x

/-- A two-source lane of a float or integer format; integers wrap (R229, R231). -/
def binLane (op : Bin) (f a b : Nat) : Nat × BitVec 8 :=
  match ffmtOf f with
  | some g => fltBin op g a b
  | none => (intBits (fmtBits f) (intBin op (intVal f a) (intVal f b)), 0)

/-- A saturating integer lane (R232, R229). -/
def satLane (op : Bin) (f a b : Nat) : Nat × BitVec 8 :=
  let c := clampInt (intRange f) (intBin op (intVal f a) (intVal f b))
  (intBits (fmtBits f) c.1, if c.2 then flagSAT else 0)

/-- ±(a × b) ± c with one rounding (R229): a NaN in any source sets no flag. -/
def fmaLane (negP negC : Bool) (f a b c : Nat) : Nat × BitVec 8 :=
  match ffmtOf f with
  | none => (0, 0)
  | some g =>
    let x := g.decode a
    let y := g.decode b
    let z := if negC then (g.decode c).neg else g.decode c
    if x.isNan || y.isNan || z.isNan then (g.nanCode, 0)
    else
      let p := x.mul y
      let s := (if negP then p.1.neg else p.1).add z
      fltRes g (s.1, p.2 || s.2)

/-- VABS (R231). -/
def absLane (f a : Nat) : Nat × BitVec 8 :=
  match ffmtOf f with
  | some g => (if (g.decode a).isNan then g.nanCode else a % 2 ^ (g.bits - 1), 0)
  | none => (intBits (fmtBits f) (intVal f a).natAbs, 0)

/-- VNEG (R231). -/
def negLane (f a : Nat) : Nat × BitVec 8 :=
  match ffmtOf f with
  | some g => (if (g.decode a).isNan then g.nanCode else (a + 2 ^ (g.bits - 1)) % 2 ^ g.bits, 0)
  | none => (intBits (fmtBits f) (-(intVal f a)), 0)

/-- The bitwise operations (R231). -/
inductive Bit where
  | and | or | xor | andn
  deriving DecidableEq, Repr

/-- A bitwise lane of a plain format: raw bits. -/
def bitLane (op : Bit) (f a b : Nat) : Nat × BitVec 8 :=
  (match op with
    | .and => a &&& b
    | .or => a ||| b
    | .xor => a ^^^ b
    | .andn => a &&& (2 ^ fmtStore f - 1 - b % 2 ^ fmtStore f), 0)

/-- VSHL (R231): a count of the width or more gives 0. -/
def shlLane (n f a : Nat) : Nat × BitVec 8 := (if fmtBits f ≤ n then 0 else a * 2 ^ n % 2 ^ fmtBits f, 0)

/-- VSHR (R231): arithmetic for signed formats, logical for ui8. -/
def shrLane (n f a : Nat) : Nat × BitVec 8 := (intBits (fmtBits f) (intVal f a / 2 ^ min n 64), 0)

/-- The conditions of VCMP (R233). -/
inductive Cond where
  | eq | ne | lt | le | gt | ge
  deriving DecidableEq, Repr

/-- A condition on two values: a NaN makes every one false but `ne` (R233). -/
def condHolds (c : Cond) (x y : Num) : Bool :=
  match c with
  | .eq => x.eqv y
  | .ne => !x.eqv y
  | .lt => x.lt y
  | .le => x.lt y || x.eqv y
  | .gt => y.lt x
  | .ge => y.lt x || x.eqv y

/-- VCVT of one lane (R235): `fd` from `fs`, under RM and SAT. A float to its own format keeps its bits but for a NaN.
DEDUCED (notes/assumptions/13.md). -/
def cvtLane (fd fs : Nat) (rm : Rnd) (sat : Bool) (a : Nat) : Nat × BitVec 8 :=
  let v := elemVal fs a
  if fd = fs ∧ (ffmtOf fs).isSome ∧ ¬ v.isNan then (a, 0) else elemCode fd rm sat v

/-! ### Reductions (R41, R238 to R240) -/

/-- The kinds of reduction. -/
inductive Red where
  | add | max | min
  deriving DecidableEq, Repr

/-- -0 counts as below +0, as in VMIN and VMAX (R231). -/
def Num.below (a b : Num) : Bool :=
  a.lt b || (a.eqv b && (match a, b with | .fin n _ _, .fin m _ _ => n && !m | _, _ => false))

/-- Add one lane to a reduction. -/
def RedAcc.push (k : Red) (r : RedAcc) (v : Num) : RedAcc :=
  match v with
  | .nan => { r with nan := true }
  | .inf n =>
    let r := if n then { r with ninf := true } else { r with pinf := true }
    (match k with
      | .add => r
      | .max => { r with val := some (match r.val with | some w => if w.below v then v else w | none => v) }
      | .min => { r with val := some (match r.val with | some w => if v.below w then v else w | none => v) })
  | .fin _ _ _ =>
    (match k with
      | .add => { r with val := some ((r.val.getD .zero).add v).1 }
      | .max => { r with val := some (match r.val with | some w => if w.below v then v else w | none => v) }
      | .min => { r with val := some (match r.val with | some w => if v.below w then v else w | none => v) })

/-- The exact result of a float reduction and whether it is invalid: over no lane, +0, -∞ or +∞ (R41).
DEDUCED (notes/assumptions/13.md). -/
def RedAcc.result (k : Red) (r : RedAcc) : Num × Bool :=
  match k with
  | .add =>
    if r.pinf && r.ninf then (.nan, true)
    else if r.nan then (.nan, false)
    else if r.pinf then (.inf false, false)
    else if r.ninf then (.inf true, false)
    else (r.val.getD .zero, false)
  | .max => (if r.nan then .nan else r.val.getD (.inf true), false)
  | .min => (if r.nan then .nan else r.val.getD (.inf false), false)

/-- A reduction as a code of its destination (R238): a float is rounded once, an integer saturates.
DEDUCED (notes/assumptions/14.md). -/
def RedAcc.code (k : Red) (f : Nat) (r : RedAcc) : Nat × BitVec 8 :=
  match ffmtOf f with
  | some g => fltRes g (r.result k)
  | none =>
    let x : Int := match r.val with
      | some (.fin n m e) => signed n (m * 2 ^ e.toNat)
      | _ => (match k with | .add => 0 | .max => (intRange f).1 | .min => (intRange f).2)
    let c := clampInt (intRange f) x
    (intBits (fmtBits f) c.1, if c.2 then flagSAT else 0)

/-- Reduce the active lanes of one vector into an accumulator. -/
def RedAcc.lanes (k : Red) (f : Nat) (r : RedAcc) (l : List (Option Lane)) : RedAcc :=
  l.foldl (fun r x => match x with | some v => r.push k (elemVal f v.1) | none => r) r

/-- Scan one vector (R240): the code of each active lane's prefix, the flags, and the accumulator after it. -/
def scanLanes (k : Red) (fd fs : Nat) : RedAcc → List (Option Lane) → List (Option Nat) × BitVec 8 × RedAcc
  | r, [] => ([], 0, r)
  | r, none :: l => let x := scanLanes k fd fs r l; (none :: x.1, x.2)
  | r, some v :: l =>
    let r := r.push k (elemVal fs v.1)
    let c := r.code k fd
    let x := scanLanes k fd fs r l
    (some c.1 :: x.1, c.2 ||| x.2.1, x.2.2)

/-! ### Sorting (R241) -/

/-- Whether candidate (i, a) sorts before (j, b): descending values, NaNs last, equal values by lower index. -/
def topBefore (f : FFmt) (x y : Nat × Nat) : Bool :=
  let a := f.decode x.2
  let b := f.decode y.2
  if a.isNan then b.isNan && decide (x.1 < y.1)
  else if b.isNan then true
  else if b.lt a then true
  else if a.lt b then false
  else decide (x.1 < y.1)

/-- Insert a candidate into a sorted list. -/
def topIns (f : FFmt) (x : Nat × Nat) : List (Nat × Nat) → List (Nat × Nat)
  | [] => [x]
  | y :: r => if topBefore f x y then x :: y :: r else y :: topIns f x r

/-- The values and indices that VTOPK writes for one run: k sorted ones, then -∞ and 0xFFFF. -/
def topK (f : FFmt) (k : Nat) (els : List Nat) : List Nat × List Nat :=
  let sorted := (els.zipIdx.foldl (fun l e => topIns f (e.2, e.1) l) []).take k
  let rest := els.length - k
  (sorted.map (fun e => if (f.decode e.2).isNan then f.nanCode else e.2) ++ List.replicate rest (f.signBit true + f.infCode),
   sorted.map Prod.fst ++ List.replicate rest 0xFFFF)

/-! ### Blocks (R236, R237) -/

/-- The largest finite magnitude of a block form's elements (R236): m × 2^e. -/
def blockMax (f : Nat) : Nat × Int :=
  match f % 128 with
  | 0x06 => (127, 0) | 0x07 => (255, 0) | 0x08 => (7, 0) | 0x0A => (448, 0) | 0x0B => (57344, 0) | 0x0C => (6, 0)
  | _ => (0xD745, -15)

/-- The largest magnitude among finite values. -/
def maxMagOf (l : List Num) : Nat × Int :=
  l.foldl (fun b v => match v with
    | .fin _ m e => if decide (0 < cmpFin false m e false b.1 b.2) then (m, e) else b
    | _ => b) (0, 0)

/-- The scale that a block chooses for its elements (R236). -/
def blockScale (f : Nat) (l : List Num) : Int :=
  let mx := maxMagOf l
  if mx.1 = 0 then 0
  else
    let fm := blockMax f
    let g := msbExp mx.1 mx.2 - msbExp fm.1 fm.2
    let ok := fun s : Int => decide (cmpFin false mx.1 (mx.2 - s) false fm.1 fm.2 ≤ 0)
    let s := if ok (g - 1) then g - 1 else if ok g then g else g + 1
    max (-128) (min 127 s)

/-- One element of a block of scale s (R236): a negative value to bui8 gives 0 with SAT.
DEDUCED (notes/assumptions/13.md). -/
def quantElem (f : Nat) (s : Int) (v : Num) : Nat × BitVec 8 :=
  let c := f % 128
  if c = 0x0D then toLns s v
  else
    let r := elemCode c .rne true (v.scale (-s))
    if c = 0x07 ∧ v.isNeg then (r.1, r.2 ||| flagSAT ||| flagNX) else r

/-- Quantise 48 values into one block: its bytes and flags (R236, R32). -/
def quantBlock (f : Nat) (fixed : Option Int) (l : List Num) : List Byte × BitVec 8 :=
  let s := fixed.getD (blockScale f l)
  let els := l.map (quantElem f s)
  (blockBytes f s (els.map Prod.fst), els.foldl (fun fl e => fl ||| e.2) 0)

/-! ### Random values (R43) -/

/-- The 32-bit value of a lane from the key, the counter and the lane index. -/
def randVal (key counter lane : Nat) : Nat :=
  let z : BitVec 32 := BitVec.ofNat 32 key ^^^ BitVec.ofNat 32 (counter + lane)
  let z := z * 0x2C1B3C6D#32
  let z := z ^^^ (z >>> 15)
  let z := z * 0x297A2D39#32
  (z ^^^ (z >>> 16)).toNat

/-- The FP32 bits of (z >> 8) × 2^-24. -/
def randUniform (z : Nat) : Nat := (fF32.encode .rne false (.fin false (z / 256) (-24))).1

end Sys2Proof.Machine
end

