-- ==== Sys2Proof/Machine/Vector.lean ====
section
/-! DEFINITION. The vector engine and its words (R222 to R246). -/

namespace Sys2Proof.Machine

/-- What a vector word does. -/
inductive VKind where
  | bin (op : Bin)
  | sat (op : Bin)
  | fma (negP negC : Bool)
  | abs
  | neg
  | mov
  | adds
  | muls
  | axpb
  | bit (op : Bit)
  | shl
  | shr
  | cmp (c : Cond)
  | sel
  | cvt (rm : BitVec 2) (sat : Bool)
  | quant
  | dequant
  | red (k : Red)
  | redx (k : Red)
  | scan (k : Red)
  | topk
  | spec (fn : SpecFn)
  | perm
  | splat
  | iota
  | extr
  | randU
  | randB
  deriving DecidableEq, Repr

/-- A vector word: what it does, the ports it writes, the ports of its source fields in field order, the scalar registers
it reads by field, and the scalar register it writes. -/
structure VForm where
  kind : VKind
  dst : List Nat
  src : List Nat
  xs : List (Nat × Nat) := []
  xd : Option Nat := none
  deriving DecidableEq, Repr

/-- The distinct ports of a list. -/
def distinctPorts (l : List Nat) : List Nat := l.dedup

/-- The vectors that each port gives or takes, with whether it is written, in field order, one entry for each operand
(R150, R224, R245). -/
def VForm.ports (f : VForm) (s : State) : List (Nat × Nat × Bool) :=
  let put := fun q => (q, hNV (s.portRec q), true)
  (f.dst.take 1).map put ++ f.src.map (fun q => (q, (match f.kind with | .extr => 1 | _ => hNV (s.portRec q)), false))
    ++ (f.dst.drop 1).map put

/-! ### Checks at enqueue (R223, R224) -/

/-- The geometry rule of R224. -/
def sameGeom (a b : HRec) : Bool := hExt a 0 == hExt b 0 && hRuns a == hRuns b

/-- The classes of Table 15-2. -/
def fmtArith (f : Nat) : Bool := fmtFloat f || fmtIntClass f

/-- The widths of two plain formats have a ratio of 1, 2 or 4 (R235). -/
def ratioOk (a b : Nat) : Bool :=
  let x := max (fmtStore a) (fmtStore b)
  let y := min (fmtStore a) (fmtStore b)
  x == y || x == 2 * y || x == 4 * y

/-- Every source holds the destination's FMT, in a class (R231): the ports that breach it. -/
def sameFmt (cls : Nat → Bool) (s : State) (d : Nat) (src : List Nat) : List (Bool × Nat) :=
  let fd := hFmt (s.portRec d)
  (!cls fd, d) :: src.map fun q => (hFmt (s.portRec q) != fd, q)

/-- The entry's own conditions on FMT, and its limits: each with the port or register that TVAL names (R223). -/
def VForm.own (f : VForm) (s : State) : List (Bool × Nat) :=
  let d := f.dst.headD 0
  let a := f.src.headD 0
  let b := (f.src.drop 1).headD 0
  let c := (f.src.drop 2).headD 0
  let fmt := fun q => hFmt (s.portRec q)
  let geom := f.src.map fun q => (!sameGeom (s.portRec d) (s.portRec q), q)
  match f.kind with
  | .bin _ | .abs | .neg | .adds | .muls => sameFmt fmtArith s d f.src ++ geom
  | .sat _ | .shl | .shr => sameFmt fmtIntClass s d f.src ++ geom
  | .fma _ _ | .axpb | .spec _ => sameFmt fmtFloat s d f.src ++ geom
  | .mov => sameFmt (fun _ => true) s d f.src ++ geom
  | .bit _ => sameFmt fmtPlain s d f.src ++ geom
  | .cmp _ =>
    [(!fmtArith (fmt a), a), (fmt b != fmt a, b), (!fmtIntClass (fmt d) || fmtBits (fmt d) != fmtBits (fmt a), d)] ++ geom
  | .sel =>
    [(!fmtPlain (fmt d), d), (fmt a != fmt d, a), (fmt b != fmt d, b),
     (!fmtInt (fmt c) || fmtStore (fmt c) != fmtStore (fmt d), c)] ++ geom
  | .cvt rm _ =>
    let sp := fmt d == 0x0E || fmt a == 0x0E
    let lns := fmt d == 0x0D
    [(!fmtPlain (fmt d), d), (!fmtPlain (fmt a), a), (!ratioOk (fmt d) (fmt a), d),
     (fmt a == 0x0E && fmt d != 0x01, d), (fmt d == 0x0E && fmt a != 0x01, a), ((sp || lns) && rm != 0, d)] ++ geom
  | .quant => [(!fmtFloat (fmt a), a), (!fmtBlock (fmt d), d), (hExt (s.portRec a) 0 % 48 != 0, a)] ++ geom
  | .dequant => [(!fmtBlock (fmt a), a), (!fmtFloat (fmt d), d), (hExt (s.portRec d) 0 % 48 != 0, d)] ++ geom
  | .red _ =>
    [(!fmtArith (fmt a), a), (!fmtArith (fmt d) || fmtFloat (fmt d) != fmtFloat (fmt a), d),
     (hElems (s.portRec d) != hRuns (s.portRec a), d)]
  | .redx _ => [(!fmtArith (fmt a), a)]
  | .scan _ =>
    [(!fmtArith (fmt d), d), (!fmtArith (fmt a), a),
     (fmtFloat (fmt d) != fmtFloat (fmt a) || fmtBits (fmt d) != fmtBits (fmt a), d)] ++ geom
  | .topk =>
    let bi := (f.dst.drop 1).headD 0
    [(!fmtFloat (fmt a), a), (fmt d != fmt a, d), (fmt bi != 0x05, bi),
     (!sameGeom (s.portRec d) (s.portRec a), a), (!sameGeom (s.portRec d) (s.portRec bi), bi), (4096 < hExt (s.portRec a) 0, a)]
      ++ f.xs.map fun x => (decide (hExt (s.portRec a) 0 < (s.rx x.2).toNat), x.2)
  | .perm =>
    [(!fmtPlain (fmt d) || fmtStore (fmt d) < 8, d), (fmt a != fmt d, a),
     (!fmtIntClass (fmt b) || fmtStore (fmt b) != fmtStore (fmt d), b)] ++ geom
  | .splat => [(!fmtPlain (fmt d), d)]
  | .iota => [(!fmtIntClass (fmt d), d)]
  | .extr => [(fmtBlock (fmt a), a)]
  | .randU => [(fmt d != 0x01, d)]
  | .randB => [(fmt d != 0x04, d)]

/-- VQUANT's control: a set reserved bit makes the word illegal (Table 15-5). -/
def VForm.control (f : VForm) (s : State) : Option (Nat × Word) :=
  match f.kind with
  | .quant => f.xs.findSome? fun x => if 512 ≤ (s.rx x.2).toNat then some (Cause.illegal, s.rx x.2) else none
  | _ => none

/-- The checks of R223 on top of those of every engine word: the first breach. DEDUCED (notes/assumptions/35.md). -/
def VForm.check (f : VForm) (s : State) : Option (Nat × Word) :=
  let two := match f.dst with | [d, b] => [(d == b, b)] | _ => []
  let shared := f.dst.map fun q => (f.src.contains q, q)
  let bcast := f.dst.map fun q => (hGet (s.portRec q) 10 != 0, q)
  match (two ++ shared ++ bcast ++ f.own s).find? Prod.fst with
  | some e => some (Cause.illegal, BitVec.ofNat 64 e.2)
  | none => f.control s

/-- What a vector word names and needs (R223, R150). -/
def vecSpec (f : VForm) : EngSpec where
  queue := 1
  named := (f.dst.take 1 ++ f.src ++ f.dst.drop 1).zipIdx.map fun e => .prt e.2 e.1
  xs := f.xs
  dests := f.xd.toList
  portTval := fun q => BitVec.ofNat 64 q
  own := f.check
  opnds := fun s => (f.ports s).map fun p => s.portOpnd 0 p.1 p.2.1 (!p.2.2) p.2.2
  pops := fun s => ((f.ports s).map fun p => (p.1, p.2.1)).dedup

/-! ### Extents (R227) -/

/-- The member of an extent that holds an address: a granule, or a translation entry. -/
def State.member (s : State) (space : Nat) (a : Int) : Nat :=
  let n := wrapAddr a
  if space = 0 then
    let big := (s.walk s.launch.root n).any fun l => l.size == 2 ^ 29
    2 ^ 60 + (if big then n / 2 ^ 29 * 8192 else n / 65536)
  else s.localPhys space n / 64

/-- The extent of the vectors that a port will use from where it stands. -/
def State.portExtent (s : State) (q count : Nat) (write : Bool) : List Range :=
  let p := s.getQ q
  (hRanges p.hrec p.vidx count).filterMap fun r =>
    if r.2 = 0 then none
    else some { lo := s.member (hSpace p.hrec) r.1, hi := s.member (hSpace p.hrec) (r.1 + ((r.2 - 1 : Nat) : Int)) + 1, write := write }

/-- The extent of a vector word. -/
def VForm.extent (f : VForm) (s : State) : List Range := (f.ports s).flatMap fun p => s.portExtent p.1 p.2.1 p.2.2

/-- Two extents share a member that one of them writes. -/
def extentsMeet (a b : List Range) : Bool :=
  a.any fun x => b.any fun y => (x.write || y.write) && decide (x.lo < y.hi ∧ y.lo < x.hi)

/-! ### Running -/

/-- Plan a push: one at or before the word's previous push falls on the tick after that, and later ones move with it
(R236, R238). DEDUCED (notes/assumptions/35.md). -/
def Run.push (r : Run) (q t : Nat) (data : List (Byte × Nat)) (flags : BitVec 8) : Run :=
  let t0 := t + r.w.st.shift
  let t1 := match r.w.st.prev with | some p => max t0 (p + 1) | none => t0
  ((r.flag flags).pushAt q t1 data).count fun c => { c with prev := some t1, shift := c.shift + (t1 - t0) }

/-- Take what the pops of distinct ports delivered: the lanes by port. -/
def Run.takeLanes (r : Run) (qs : List Nat) (got : List (List Byte)) : Run × List (Nat × List (Option Lane)) :=
  (List.zip qs got).foldl (fun acc e => let x := acc.1.popped e.1 e.2; (x.1, acc.2 ++ [(e.1, x.2)])) (r, [])

/-- Join lanes, by port, to those of the pops before. -/
def joinLanes (qs : List Nat) (a b : List (Nat × List (Option Lane))) : List (Nat × List (Option Lane)) :=
  qs.map fun q => (q, lanesOf a q ++ lanesOf b q)

/-- Put the lanes of several sources side by side: none where a lane is masked in any (R224). -/
def sideBySide (n : Nat) (l : List (List (Option Lane))) : List (Option (List Lane)) :=
  l.foldl (fun acc x => List.zipWith (fun a b => a.bind fun u => b.map fun w => u ++ [w]) acc x) (List.replicate n (some []))

/-- What one destination vector receives: its record, how many lanes are active in it, and the lanes of each source
field. -/
abbrev Emit := HRec → Nat → List (List (Option Lane)) → List (Byte × Nat) × BitVec 8

/-- Apply a lane operation to every active lane (R224). -/
def emitLanes (op : List Nat → Nat × BitVec 8) : Emit := fun h n srcs =>
  let res := (sideBySide n srcs).map fun l => l.map fun x => op (x.map Prod.fst)
  (nibBytes ((res.take n).flatMap fun o => nibsOf (hFmt h) (o.map Prod.fst)),
   res.foldl (fun f o => match o with | some x => f ||| x.2 | none => f) 0)

/-- VMOV of block forms: whole blocks, written under R32 (R231), none where the source's block is masked (R224). -/
def emitBlocks : Emit := fun h n srcs =>
  let els := sideBySide n srcs
  ((upFrom 0 (n / 48)).flatMap fun b =>
    let seg := (els.drop (48 * b)).take 48
    if seg.any Option.isNone then List.replicate 64 (0, 0)
    else
      let l := seg.map fun l => (l.getD []).headD (0, 0)
      (blockBytes (hFmt h) ((l.headD (0, 0)).2) (l.map Prod.fst)).map fun x => (x, 3), 0)

/-- VPERM (R243): an index lane reaches only the data vector of the same step. -/
def emitPerm (fi : Nat) : Emit := fun h n srcs =>
  let data := srcs.headD []
  let res := (sideBySide n srcs).map fun l => l.map fun x =>
    let k := intVal fi ((x.drop 1).headD (0, 0)).1
    if 0 ≤ k ∧ k < (fmtLanes (hFmt h) : Int) then ((data.getD k.toNat none).map Prod.fst).getD 0 else 0
  (nibBytes ((res.take n).flatMap fun o => nibsOf (hFmt h) o), 0)

/-- The steps of one run over a source and a destination record (R225). -/
def runSteps (hs hd : HRec) : Nat := if fmtLanes (hFmt hd) ≤ fmtLanes (hFmt hs) then hRunVecs hs else hRunVecs hd

/-- Pops and pushes of step k (R225). -/
def stepShape (hs hd : HRec) (k : Nat) : Nat × Nat :=
  let i := k % runSteps hs hd
  if fmtLanes (hFmt hd) ≤ fmtLanes (hFmt hs) then
    let n := fmtLanes (hFmt hs) / fmtLanes (hFmt hd)
    (1, min n (hRunVecs hd - n * i))
  else
    let n := fmtLanes (hFmt hd) / fmtLanes (hFmt hs)
    (min n (hRunVecs hs - n * i), 1)

/-- The steps of a word (R225). -/
def stepCount (hs hd : HRec) : Nat := runSteps hs hd * hRuns hd

/-- Go on to the next step, run or vector at time t, the k-th, when there is one; after the last the word completes at a time of
its own. -/
def Run.goOn (r : Run) (k n t comp : Nat) : Run :=
  let r := r.count fun c => { c with t := t, i := 0, k := k, buf := [] }
  if k < n then r.at_ (some t) else (r.at_ none).ends (comp + r.w.gap)

/-- Where the word's next push of each destination goes, while steps remain. -/
def Run.pushesNext (r : Run) (qs : List Nat) : Run :=
  r.writesNext (if r.w.next.isSome then qs.map fun q => let h := r.s.portRec q; (hSpace h, hVecAddr h (r.idx q)) else [])

/-- One pop of an elementwise word (R224 to R226): after the last pop of a step its destination vectors are pushed, lanes in
order, `delay` ticks on. -/
def stepTake (src : List Nat) (qd occ delay : Nat) (emit : Emit) (r : Run) (got : List (List Byte)) : Run :=
  let hd := r.s.portRec qd
  let hs := r.s.portRec (src.headD 0)
  let qs := distinctPorts src
  let x := r.takeLanes qs got
  let st := r.w.st
  let sh := stepShape hs hd st.k
  let buf := joinLanes qs st.buf x.2
  if st.i + 1 < sh.1 then (x.1.count fun c => { c with i := st.i + 1, buf := buf }).at_ (some (st.t + st.i + 1))
  else
    let ld := fmtLanes (hFmt hd)
    let r := (upFrom 0 sh.2).foldl (fun r i =>
      let e := emit hd (hVecLanes hd (r.idx qd)) (src.map fun q => ((lanesOf buf q).drop (i * ld)).take ld)
      r.push qd (st.t + sh.1 - 1 + delay + i) e.1 e.2) x.1
    let n := stepCount hs hd
    let r := if st.k + 1 < n then r else r.accepts (st.t + sh.1)
    (r.goOn (st.k + 1) n (st.t + occ * max sh.1 sh.2) (r.w.st.prev.getD 0 + 1)).pushesNext [qd]

/-- A scalar in a word's format (R228): bits 7 and 6 of an LNS6 code are zero (R25), and an SP32 zero is all zero (R28). -/
def scalarIn (f : Nat) (x : Word) : Nat :=
  let v := x.toNat % 2 ^ fmtStore f
  if f = 0x0D then v % 64 else if f = 0x0E then spClean v else v

/-- What an elementwise word does with its lanes (Table 15-4, R235, R242, R243). -/
def VKind.emit (k : VKind) (fd fa fb : Nat) (xb xc : Word) : Emit :=
  let lane := fun (g : Nat → Nat → Nat → Nat × BitVec 8) =>
    emitLanes fun l => g (l.getD 0 0) (l.getD 1 0) (l.getD 2 0)
  match k with
  | .bin op => lane fun a b _ => binLane op fd a b
  | .sat op => lane fun a b _ => satLane op fd a b
  | .fma n m => lane fun a b c => fmaLane n m fd a b c
  | .abs => lane fun a _ _ => absLane fd a
  | .neg => lane fun a _ _ => negLane fd a
  | .mov => if fmtBlock fd then emitBlocks else lane fun a _ _ => (a, 0)
  | .adds => lane fun a _ _ => binLane .add fd a (scalarIn fd xc)
  | .muls => lane fun a _ _ => binLane .mul fd a (scalarIn fd xc)
  | .axpb => lane fun a _ _ => fmaLane false false fd a (scalarIn fd xb) (scalarIn fd xc)
  | .bit op => lane fun a b _ => bitLane op fd a b
  | .shl => lane fun a _ _ => shlLane xc.toNat fd a
  | .shr => lane fun a _ _ => shrLane xc.toNat fd a
  | .cmp c => lane fun a b _ => (if condHolds c (elemVal fa a) (elemVal fa b) then 1 else 0, 0)
  | .sel => lane fun a b c => (if c ≠ 0 then a else b, 0)
  | .cvt rm st => lane fun a _ _ => cvtLane fd fa (Rnd.ofBits rm) st a
  | .spec fn => lane fun a _ _ => match ffmtOf fd with | some g => fn.code g a | none => (0, 0)
  | .perm => emitPerm fb
  | _ => fun _ _ _ => ([], 0)

/-! #### Words with steps of their own -/

/-- Elements i to j - 1 of the lanes that a run's pops delivered. -/
def runSlice (buf : List (Option Lane)) (i j : Nat) : List (Option Lane) := (buf.drop i).take (j - i)

/-- One destination vector of VQUANT (R236): whole blocks. -/
def quantVec (fd fs : Nat) (fixed : Option Int) (els : List (Option Lane)) : List (Byte × Nat) × BitVec 8 :=
  (upFrom 0 (els.length / 48)).foldl (fun acc b =>
    let q := quantBlock fd fixed (((els.drop (48 * b)).take 48).map fun o => elemVal fs (o.getD (0, 0)).1)
    (acc.1 ++ q.1.map (fun x => (x, 3)), acc.2 ||| q.2)) ([], 0)

/-- One destination vector of VDEQUANT (R237). -/
def dequantVec (fd fs : Nat) (els : List (Option Lane)) : List (Byte × Nat) × BitVec 8 :=
  let res := els.map fun o => o.map fun l =>
    match ffmtOf fd with | some g => fltRes g (elemVal fs l.1 l.2, false) | none => (0, 0)
  (nibBytes (res.flatMap fun o => nibsOf fd (o.map Prod.fst)),
   res.foldl (fun f o => match o with | some x => f ||| x.2 | none => f) 0)

/-- The element after the last of destination vector j of a run. -/
def vecEnd (hd : HRec) (j : Nat) : Nat := min (fmtLanes (hFmt hd) * (j + 1)) (hExt hd 0)

/-- The destination vectors of a run that pop p completes (R236). -/
def vecsEnding (hs hd : HRec) (p : Nat) : List Nat :=
  (upFrom 0 (hRunVecs hd)).filter fun j => (vecEnd hd j - 1) / fmtLanes (hFmt hs) == p

/-- One pop of VQUANT or VDEQUANT (R236, R237): a destination vector is pushed 4 ticks after the pop that completes it, as many lanes
of it as are active in the vector at which D stands (R145). -/
def blockTake (qa qd : Nat) (vec : List (Option Lane) → List (Byte × Nat) × BitVec 8) (r : Run) (got : List (List Byte)) : Run :=
  let hd := r.s.portRec qd
  let hs := r.s.portRec qa
  let x := r.takeLanes [qa] got
  let st := r.w.st
  let buf := joinLanes [qa] st.buf x.2
  let r := (vecsEnding hs hd st.i).foldl (fun r j =>
    let e := vec ((runSlice (lanesOf buf qa) (fmtLanes (hFmt hd) * j) (vecEnd hd j)).take (hVecLanes hd (r.idx qd)))
    r.push qd (st.t + st.i + 4) e.1 e.2) x.1
  if st.i + 1 < hRunVecs hs then
    let edge := !(vecsEnding hs hd st.i).isEmpty
    ((r.count fun c => { c with i := st.i + 1, buf := buf, edge := edge }).at_ (some (st.t + st.i + 1))).pushesNext [qd]
  else
    let t := st.t + hRunVecs hs
    let r := if st.k + 1 < hRuns hs then r else r.accepts t
    (r.goOn (st.k + 1) (hRuns hs) t (r.w.st.prev.getD 0 + 1)).pushesNext [qd]

/-- The tick after the last push of VQUANT or VDEQUANT that nothing holds (R236). -/
def blockEnd (hs hd : HRec) : Nat :=
  let x := (upFrom 0 (hRuns hs)).foldl (fun (acc : Option Nat × Nat) k =>
    (upFrom 0 (hRunVecs hs)).foldl (fun acc i => (vecsEnding hs hd i).foldl (fun acc _ =>
      let t0 := k * hRunVecs hs + i + 4 + acc.2
      let t1 := match acc.1 with | some p => max t0 (p + 1) | none => t0
      (some t1, acc.2 + (t1 - t0))) acc) acc) (none, 0)
  x.1.getD 0 + 1

/-- One pop of VRED (R238): results gather until they fill the destination vector at the port's position, or the runs
end. -/
def redTake (k : Red) (qa qd fa : Nat) (r : Run) (got : List (List Byte)) : Run :=
  let hd := r.s.portRec qd
  let hs := r.s.portRec qa
  let x := r.takeLanes [qa] got
  let st := r.w.st
  let acc := st.acc.lanes k fa (lanesOf x.2 qa)
  if st.i + 1 < hRunVecs hs then (x.1.count fun c => { c with i := st.i + 1, acc := acc }).at_ (some (st.t + st.i + 1))
  else
    let c := acc.code k (hFmt hd)
    let res := st.res ++ [c.1]
    let t := st.t + hRunVecs hs
    let n := hRuns hs
    let full := decide (n ≤ st.k + 1 ∨ hVecLanes hd (r.idx qd) ≤ res.length)
    let r := x.1.flag c.2
    let r := if full then r.push qd (t + 5) (pushBytes hd (r.idx qd) (res.map some)) 0 else r
    let r := r.count fun y => { y with acc := {}, res := if full then [] else res }
    let r := if st.k + 1 < n then r else r.accepts t
    (r.goOn (st.k + 1) n t (r.w.st.prev.getD 0 + 1)).pushesNext [qd]

/-- One pop of VREDX (R239): its register is written at its bound. -/
def redxTake (k : Red) (qa fa : Nat) (r : Run) (got : List (List Byte)) : Run :=
  let x := r.takeLanes [qa] got
  let st := r.w.st
  let acc := st.acc.lanes k fa (lanesOf x.2 qa)
  let r := x.1.count fun c => { c with acc := acc }
  if st.i + 1 < hNV (r.s.portRec qa) then (r.count fun c => { c with i := st.i + 1 }).at_ (some (st.i + 1))
  else
    let c := acc.code k (if fmtFloat fa then 0x01 else 0x0F)
    let r := ((r.flag c.2).at_ none).accepts (st.i + 1)
    { r with w := { r.w with xres := r.w.xres.map fun e => (e.1, BitVec.ofNat 64 c.1) } }

/-- One pop of VSCAN (R240). -/
def scanTake (k : Red) (qa qd fa : Nat) (r : Run) (got : List (List Byte)) : Run :=
  let hd := r.s.portRec qd
  let hs := r.s.portRec qa
  let x := r.takeLanes [qa] got
  let st := r.w.st
  let y := scanLanes k (hFmt hd) fa st.acc ((lanesOf x.2 qa).take (hVecLanes hd (r.idx qd)))
  let r := x.1.push qd (st.t + st.i + 6) (pushBytes hd (r.idx qd) y.1) y.2.1
  if st.i + 1 < hRunVecs hs then
    ((r.count fun c => { c with i := st.i + 1, acc := y.2.2 }).at_ (some (st.t + st.i + 1))).pushesNext [qd]
  else
    let t := st.t + hRunVecs hs
    let r := r.count fun c => { c with acc := {} }
    let r := if st.k + 1 < hRuns hs then r else r.accepts t
    (r.goOn (st.k + 1) (hRuns hs) t (r.w.st.prev.getD 0 + 1)).pushesNext [qd]

/-- The least c with 2^c ≥ n. -/
def clog2 (n : Nat) : Nat := if n ≤ 1 then 0 else (n - 1).log2 + 1

/-- Push the vectors of one destination of VTOPK from a time on. -/
def topPush (q t : Nat) (vals : List Nat) (r : Run) : Run :=
  let h := r.s.portRec q
  let l := fmtLanes (hFmt h)
  (upFrom 0 (hRunVecs h)).foldl (fun r i =>
    r.push q (t + i) (pushBytes h (r.idx q) (((vals.drop (l * i)).take l).map some)) 0) r

/-- One pop of VTOPK (R241): after the run's last pop it sorts, then pushes the values and then the indices. -/
def topTake (qa qd qb k : Nat) (g : FFmt) (r : Run) (got : List (List Byte)) : Run :=
  let ha := r.s.portRec qa
  let x := r.takeLanes [qa] got
  let st := r.w.st
  let buf := joinLanes [qa] st.buf x.2
  if st.i + 1 < hRunVecs ha then (x.1.count fun c => { c with i := st.i + 1, buf := buf }).at_ (some (st.t + st.i + 1))
  else
    let els := (runSlice (lanesOf buf qa) 0 (hExt ha 0)).map fun o => (o.getD (0, 0)).1
    let y := topK g k els
    let u := st.t + hRunVecs ha + 8 * clog2 (max (hExt ha 0) 2)
    let nd := hRunVecs (r.s.portRec qd)
    let nb := hRunVecs (r.s.portRec qb)
    let r := topPush qb (u + 4 + nd) y.2 (topPush qd (u + 4) y.1 x.1)
    let r := if st.k + 1 < hRuns ha then r else r.accepts (st.t + hRunVecs ha)
    (r.goOn (st.k + 1) (hRuns ha) (u + nd + nb) (r.w.st.prev.getD 0 + 1)).pushesNext [qd, qb]

/-- Ticks that one run of VTOPK takes (R241). -/
def topTicks (ha hd hb : HRec) : Nat :=
  hRunVecs ha + 8 * clog2 (max (hExt ha 0) 2) + hRunVecs hd + hRunVecs hb

/-- One vector of a fill: one per tick (R244, R246). `val` gives lane k of sweep vector j. -/
def fillTake (qd delay : Nat) (val : Nat → Nat → Nat) (r : Run) : Run :=
  let h := r.s.portRec qd
  let st := r.w.st
  let lanes := (upFrom 0 (hVecLanes h (r.idx qd))).map fun k => some (val (r.idx qd) k)
  let r := r.push qd (st.t + delay) (pushBytes h (r.idx qd) lanes) 0
  (r.goOn (st.k + 1) (hNV h) (st.t + 1) (r.w.st.prev.getD 0 + 1)).pushesNext [qd]

/-- VEXTR's value (R245): bits 7 and 6 of an LNS6 byte are ignored (R25), as in every read. -/
def extrVal (f : Nat) (lane : Option Lane) : Word :=
  match lane with
  | none => 0
  | some l => if fmtInt f then BitVec.ofInt 64 (intVal f l.1) else BitVec.ofNat 64 l.1

/-- The bound of a vector word without partial sessions. -/
def VForm.bound (f : VForm) (s : State) : Nat :=
  let hd := s.portRec (f.dst.headD 0)
  let ha := s.portRec (f.src.headD 0)
  match f.kind with
  | .cvt _ _ =>
    ((upFrom 0 (runSteps ha hd)).map fun k => let p := stepShape ha hd k; max p.1 p.2).sum * hRuns hd + 4
  | .quant | .dequant => hNV ha + hNV hd + 4
  | .red _ | .scan _ => hNV ha + 6
  | .redx _ => hNV ha + 8
  | .topk => hRuns ha * topTicks ha hd (s.portRec ((f.dst.drop 1).headD 0)) + 4
  | .spec _ => 4 * (hNV hd - 1) + 24
  | .splat | .iota => hNV hd + 2
  | .extr => 6
  | _ => hNV hd + 4

/-- The reads of a vector word's next step (R224): one vector of each distinct source port. -/
def VForm.want (f : VForm) (r : Run) : List Req := (distinctPorts f.src).map r.popReq

/-- A vector word takes its next step. DEDUCED (notes/assumptions/12.md, 35.md). -/
def VForm.take (f : VForm) (r : Run) (got : List (List Byte)) : Run :=
  let d := f.dst.headD 0
  let a := f.src.headD 0
  let b := (f.dst.drop 1).headD 0
  let fd := hFmt (r.s.portRec d)
  let fa := hFmt (r.s.portRec a)
  let fb := hFmt (r.s.portRec ((f.src.drop 1).headD 0))
  let w := r.w.word
  match f.kind with
  | .quant =>
    let c := (w.xv 3).toNat
    blockTake a d (quantVec fd fa (if bitOf c 8 then some (toSInt 8 (c % 256)) else none)) r got
  | .dequant => blockTake a d (dequantVec fd fa) r got
  | .red k => redTake k a d fa r got
  | .redx k => redxTake k a fa r got
  | .scan k => scanTake k a d fa r got
  | .topk => match ffmtOf fd with | some g => topTake a d b (w.xv 3).toNat g r got | none => r.at_ none
  | .splat => fillTake d 2 (fun _ _ => scalarIn fd (w.xv 3)) r
  | .iota => fillTake d 2 (fun j k => ((w.xv 3).toNat + j * fmtLanes fd + k) % 2 ^ fmtBits fd) r
  | .randU => fillTake d 4 (fun j k => randUniform (randVal (w.xv 2).toNat (w.xv 3).toNat (j * 128 + k))) r
  | .randB => fillTake d 4 (fun j k => randVal (w.xv 2).toNat (w.xv 3).toNat (j * 128 + k)) r
  | .extr =>
    let x := r.takeLanes [a] got
    let v := extrVal fa ((lanesOf x.2 a).getD (w.xv 3).toNat none)
    let r := (x.1.at_ none).accepts 1
    { r with w := { r.w with xres := r.w.xres.map fun e => (e.1, v) } }
  | k =>
    let occ := match k with | .spec _ => 4 | _ => 1
    let delay := match k with | .spec _ => 23 | _ => 4
    stepTake f.src d occ delay (k.emit fd fa fb (w.xv 2) (w.xv 3)) r got

/-- The vectors that the word pops, or pushes when it has no source: with none it takes no step. -/
def VForm.count (f : VForm) (s : State) : Nat :=
  match f.src with | q :: _ => hNV (s.portRec q) | [] => hNV (s.portRec (f.dst.headD 0))

/-- The word completes at a time known at dispatch: it pushes nothing, or has no step. -/
def VForm.fixed (f : VForm) (s : State) : Bool :=
  f.count s == 0 || (match f.kind with | .redx _ => true | .extr => true | _ => false)

/-- The scalar result over no lane at all (R239, R245). -/
def VForm.empty (f : VForm) (s : State) : Word :=
  match f.kind with
  | .redx k => BitVec.ofNat 64 (({} : RedAcc).code k (if fmtFloat (hFmt (s.portRec (f.src.headD 0))) then 0x01 else 0x0F)).1
  | _ => 0

/-- Dispatch a vector word (R224 to R230): the engine accepts the next one from the tick after the last pop (R227).
DEDUCED (notes/assumptions/35.md). -/
def dispVector (f : VForm) (w : QWord) (s : State) : State :=
  let b := f.bound s
  let fin := match f.kind with
    | .quant | .dequant => if f.fixed s then b else blockEnd (s.portRec (f.src.headD 0)) (s.portRec (f.dst.headD 0))
    | _ => b
  let stepless := f.count s == 0
  Run.start
    { s := s
      w := { s.running w b 0 with
        comp := if f.fixed s then some b else none
        accept := if stepless || f.src.isEmpty then some 0 else none
        fin := fin, extent := f.extent s, xres := f.xd.map fun d => (d, f.empty s)
        next := if stepless then none else some 0
        ahead := if stepless then [] else f.dst.map fun q => (hSpace (s.portRec q), hVecAddr (s.portRec q) (s.getQ q).vidx) } }

/-- The engine can accept the word now (R227): no earlier word of the queue that still runs has an extent that meets its
own. -/
def VForm.accepts (f : VForm) (s : State) : Bool :=
  let e := f.extent s
  s.cur.running.all fun r => r.word.queue != 1 || !extentsMeet r.extent e

/-! ### The words -/

/-- A word of one, two or three source ports. -/
def vf1 (k : VKind) (d a : BitVec 4) : VForm := { kind := k, dst := [d.toNat], src := [a.toNat] }
def vf2 (k : VKind) (d a b : BitVec 4) : VForm := { kind := k, dst := [d.toNat], src := [a.toNat, b.toNat] }
def vf3 (k : VKind) (d a b c : BitVec 4) : VForm := { kind := k, dst := [d.toNat], src := [a.toNat, b.toNat, c.toNat] }

/-- A word of one source port and a scalar in field C. -/
def vfS (k : VKind) (d a c : BitVec 4) : VForm := { kind := k, dst := [d.toNat], src := [a.toNat], xs := [(3, c.toNat)] }

/-- A word of one source port that writes a scalar register. -/
def vfX (k : VKind) (d a : BitVec 4) : VForm := { kind := k, dst := [], src := [a.toNat], xd := some d.toNat }

/-- The form of a vector word; none for any other. -/
def vecForm : Instr → Option VForm
  | .vadd _ d a b => some (vf2 (.bin .add) d a b)
  | .vsub _ d a b => some (vf2 (.bin .sub) d a b)
  | .vmul _ d a b => some (vf2 (.bin .mul) d a b)
  | .vmin _ d a b => some (vf2 (.bin .min) d a b)
  | .vmax _ d a b => some (vf2 (.bin .max) d a b)
  | .vqadd _ d a b => some (vf2 (.sat .add) d a b)
  | .vqsub _ d a b => some (vf2 (.sat .sub) d a b)
  | .vqmul _ d a b => some (vf2 (.sat .mul) d a b)
  | .vfma _ d a b c => some (vf3 (.fma false false) d a b c)
  | .vfms _ d a b c => some (vf3 (.fma false true) d a b c)
  | .vfnma _ d a b c => some (vf3 (.fma true false) d a b c)
  | .vabs _ d a => some (vf1 .abs d a)
  | .vneg _ d a => some (vf1 .neg d a)
  | .vmov _ d a => some (vf1 .mov d a)
  | .vadds _ d a c => some (vfS .adds d a c)
  | .vmuls _ d a c => some (vfS .muls d a c)
  | .vaxpb _ d a b c => some { kind := .axpb, dst := [d.toNat], src := [a.toNat], xs := [(2, b.toNat), (3, c.toNat)] }
  | .vand _ d a b => some (vf2 (.bit .and) d a b)
  | .vor _ d a b => some (vf2 (.bit .or) d a b)
  | .vxor _ d a b => some (vf2 (.bit .xor) d a b)
  | .vandn _ d a b => some (vf2 (.bit .andn) d a b)
  | .vshl _ d a c => some (vfS .shl d a c)
  | .vshr _ d a c => some (vfS .shr d a c)
  | .vcmpEq _ d a b => some (vf2 (.cmp .eq) d a b)
  | .vcmpNe _ d a b => some (vf2 (.cmp .ne) d a b)
  | .vcmpLt _ d a b => some (vf2 (.cmp .lt) d a b)
  | .vcmpLe _ d a b => some (vf2 (.cmp .le) d a b)
  | .vcmpGt _ d a b => some (vf2 (.cmp .gt) d a b)
  | .vcmpGe _ d a b => some (vf2 (.cmp .ge) d a b)
  | .vsel _ d a b c => some (vf3 .sel d a b c)
  | .vcvt _ d a sat rm => some (vf1 (.cvt rm (sat == 1#1)) d a)
  | .vquant _ d a c => some (vfS .quant d a c)
  | .vdequant _ d a => some (vf1 .dequant d a)
  | .vredAdd _ d a => some (vf1 (.red .add) d a)
  | .vredMax _ d a => some (vf1 (.red .max) d a)
  | .vredMin _ d a => some (vf1 (.red .min) d a)
  | .vredxAdd _ d a => some (vfX (.redx .add) d a)
  | .vredxMax _ d a => some (vfX (.redx .max) d a)
  | .vredxMin _ d a => some (vfX (.redx .min) d a)
  | .vscanAdd _ d a => some (vf1 (.scan .add) d a)
  | .vscanMax _ d a => some (vf1 (.scan .max) d a)
  | .vscanMin _ d a => some (vf1 (.scan .min) d a)
  | .vtopk _ d b a c => some { kind := .topk, dst := [d.toNat, b.toNat], src := [a.toNat], xs := [(3, c.toNat)] }
  | .vexp2 _ d a => some (vf1 (.spec .exp2) d a)
  | .vlog2 _ d a => some (vf1 (.spec .log2) d a)
  | .vrcp _ d a => some (vf1 (.spec .rcp) d a)
  | .vrsqrt _ d a => some (vf1 (.spec .rsqrt) d a)
  | .vtanh _ d a => some (vf1 (.spec .tanh) d a)
  | .vperm _ d a b => some (vf2 .perm d a b)
  | .vsplat _ d c => some { kind := .splat, dst := [d.toNat], src := [], xs := [(3, c.toNat)] }
  | .viota _ d c => some { kind := .iota, dst := [d.toNat], src := [], xs := [(3, c.toNat)] }
  | .vextr _ d a c => some { kind := .extr, dst := [], src := [a.toNat], xs := [(3, c.toNat)], xd := some d.toNat }
  | .vrandU _ d b c => some { kind := .randU, dst := [d.toNat], src := [], xs := [(2, b.toNat), (3, c.toNat)] }
  | .vrandB _ d b c => some { kind := .randB, dst := [d.toNat], src := [], xs := [(2, b.toNat), (3, c.toNat)] }
  | _ => none

/-- VADD (Table 15-4, R229, R231). -/
def execVadd (t : TCtl) (d a b : BitVec 4) (s : State) : Host.Outcome State Fault Refusal :=
  enqueue (.vadd t d a b) t (vecSpec (vf2 (.bin .add) d a b)) s

/-- VSUB (Table 15-4, R229, R231). -/
def execVsub (t : TCtl) (d a b : BitVec 4) (s : State) : Host.Outcome State Fault Refusal :=
  enqueue (.vsub t d a b) t (vecSpec (vf2 (.bin .sub) d a b)) s

/-- VMUL (Table 15-4, R229, R231). -/
def execVmul (t : TCtl) (d a b : BitVec 4) (s : State) : Host.Outcome State Fault Refusal :=
  enqueue (.vmul t d a b) t (vecSpec (vf2 (.bin .mul) d a b)) s

/-- VMIN (Table 15-4, R229, R231). -/
def execVmin (t : TCtl) (d a b : BitVec 4) (s : State) : Host.Outcome State Fault Refusal :=
  enqueue (.vmin t d a b) t (vecSpec (vf2 (.bin .min) d a b)) s

/-- VMAX (Table 15-4, R229, R231). -/
def execVmax (t : TCtl) (d a b : BitVec 4) (s : State) : Host.Outcome State Fault Refusal :=
  enqueue (.vmax t d a b) t (vecSpec (vf2 (.bin .max) d a b)) s

/-- VQADD (R232). -/
def execVqadd (t : TCtl) (d a b : BitVec 4) (s : State) : Host.Outcome State Fault Refusal :=
  enqueue (.vqadd t d a b) t (vecSpec (vf2 (.sat .add) d a b)) s

/-- VQSUB (R232). -/
def execVqsub (t : TCtl) (d a b : BitVec 4) (s : State) : Host.Outcome State Fault Refusal :=
  enqueue (.vqsub t d a b) t (vecSpec (vf2 (.sat .sub) d a b)) s

/-- VQMUL (R232). -/
def execVqmul (t : TCtl) (d a b : BitVec 4) (s : State) : Host.Outcome State Fault Refusal :=
  enqueue (.vqmul t d a b) t (vecSpec (vf2 (.sat .mul) d a b)) s

/-- VFMA (R229): one rounding. -/
def execVfma (t : TCtl) (d a b c : BitVec 4) (s : State) : Host.Outcome State Fault Refusal :=
  enqueue (.vfma t d a b c) t (vecSpec (vf3 (.fma false false) d a b c)) s

/-- VFMS (R229): one rounding. -/
def execVfms (t : TCtl) (d a b c : BitVec 4) (s : State) : Host.Outcome State Fault Refusal :=
  enqueue (.vfms t d a b c) t (vecSpec (vf3 (.fma false true) d a b c)) s

/-- VFNMA (R229): one rounding. -/
def execVfnma (t : TCtl) (d a b c : BitVec 4) (s : State) : Host.Outcome State Fault Refusal :=
  enqueue (.vfnma t d a b c) t (vecSpec (vf3 (.fma true false) d a b c)) s

/-- VABS (R231). -/
def execVabs (t : TCtl) (d a : BitVec 4) (s : State) : Host.Outcome State Fault Refusal :=
  enqueue (.vabs t d a) t (vecSpec (vf1 .abs d a)) s

/-- VNEG (R231). -/
def execVneg (t : TCtl) (d a : BitVec 4) (s : State) : Host.Outcome State Fault Refusal :=
  enqueue (.vneg t d a) t (vecSpec (vf1 .neg d a)) s

/-- VMOV (R231). -/
def execVmov (t : TCtl) (d a : BitVec 4) (s : State) : Host.Outcome State Fault Refusal :=
  enqueue (.vmov t d a) t (vecSpec (vf1 .mov d a)) s

/-- VADDS (R228, R231). -/
def execVadds (t : TCtl) (d a c : BitVec 4) (s : State) : Host.Outcome State Fault Refusal :=
  enqueue (.vadds t d a c) t (vecSpec (vfS .adds d a c)) s

/-- VMULS (R228, R231). -/
def execVmuls (t : TCtl) (d a c : BitVec 4) (s : State) : Host.Outcome State Fault Refusal :=
  enqueue (.vmuls t d a c) t (vecSpec (vfS .muls d a c)) s

/-- VAXPB (R228, R231). -/
def execVaxpb (t : TCtl) (d a b c : BitVec 4) (s : State) : Host.Outcome State Fault Refusal :=
  enqueue (.vaxpb t d a b c) t (vecSpec { kind := .axpb, dst := [d.toNat], src := [a.toNat], xs := [(2, b.toNat), (3, c.toNat)] }) s

/-- VAND (R231). -/
def execVand (t : TCtl) (d a b : BitVec 4) (s : State) : Host.Outcome State Fault Refusal :=
  enqueue (.vand t d a b) t (vecSpec (vf2 (.bit .and) d a b)) s

/-- VOR (R231). -/
def execVor (t : TCtl) (d a b : BitVec 4) (s : State) : Host.Outcome State Fault Refusal :=
  enqueue (.vor t d a b) t (vecSpec (vf2 (.bit .or) d a b)) s

/-- VXOR (R231). -/
def execVxor (t : TCtl) (d a b : BitVec 4) (s : State) : Host.Outcome State Fault Refusal :=
  enqueue (.vxor t d a b) t (vecSpec (vf2 (.bit .xor) d a b)) s

/-- VANDN (R231). -/
def execVandn (t : TCtl) (d a b : BitVec 4) (s : State) : Host.Outcome State Fault Refusal :=
  enqueue (.vandn t d a b) t (vecSpec (vf2 (.bit .andn) d a b)) s

/-- VSHL (R231). -/
def execVshl (t : TCtl) (d a c : BitVec 4) (s : State) : Host.Outcome State Fault Refusal :=
  enqueue (.vshl t d a c) t (vecSpec (vfS .shl d a c)) s

/-- VSHR (R231). -/
def execVshr (t : TCtl) (d a c : BitVec 4) (s : State) : Host.Outcome State Fault Refusal :=
  enqueue (.vshr t d a c) t (vecSpec (vfS .shr d a c)) s

/-- VCMP.eq (R233). -/
def execVcmpEq (t : TCtl) (d a b : BitVec 4) (s : State) : Host.Outcome State Fault Refusal :=
  enqueue (.vcmpEq t d a b) t (vecSpec (vf2 (.cmp .eq) d a b)) s

/-- VCMP.ne (R233). -/
def execVcmpNe (t : TCtl) (d a b : BitVec 4) (s : State) : Host.Outcome State Fault Refusal :=
  enqueue (.vcmpNe t d a b) t (vecSpec (vf2 (.cmp .ne) d a b)) s

/-- VCMP.lt (R233). -/
def execVcmpLt (t : TCtl) (d a b : BitVec 4) (s : State) : Host.Outcome State Fault Refusal :=
  enqueue (.vcmpLt t d a b) t (vecSpec (vf2 (.cmp .lt) d a b)) s

/-- VCMP.le (R233). -/
def execVcmpLe (t : TCtl) (d a b : BitVec 4) (s : State) : Host.Outcome State Fault Refusal :=
  enqueue (.vcmpLe t d a b) t (vecSpec (vf2 (.cmp .le) d a b)) s

/-- VCMP.gt (R233). -/
def execVcmpGt (t : TCtl) (d a b : BitVec 4) (s : State) : Host.Outcome State Fault Refusal :=
  enqueue (.vcmpGt t d a b) t (vecSpec (vf2 (.cmp .gt) d a b)) s

/-- VCMP.ge (R233). -/
def execVcmpGe (t : TCtl) (d a b : BitVec 4) (s : State) : Host.Outcome State Fault Refusal :=
  enqueue (.vcmpGe t d a b) t (vecSpec (vf2 (.cmp .ge) d a b)) s

/-- VSEL (R233). -/
def execVsel (t : TCtl) (d a b c : BitVec 4) (s : State) : Host.Outcome State Fault Refusal :=
  enqueue (.vsel t d a b c) t (vecSpec (vf3 .sel d a b c)) s

/-- VCVT (R235). -/
def execVcvt (t : TCtl) (d a : BitVec 4) (sat : BitVec 1) (rm : BitVec 2) (s : State) : Host.Outcome State Fault Refusal :=
  enqueue (.vcvt t d a sat rm) t (vecSpec (vf1 (.cvt rm (sat == 1#1)) d a)) s

/-- VQUANT (R236). -/
def execVquant (t : TCtl) (d a c : BitVec 4) (s : State) : Host.Outcome State Fault Refusal :=
  enqueue (.vquant t d a c) t (vecSpec (vfS .quant d a c)) s

/-- VDEQUANT (R237). -/
def execVdequant (t : TCtl) (d a : BitVec 4) (s : State) : Host.Outcome State Fault Refusal :=
  enqueue (.vdequant t d a) t (vecSpec (vf1 .dequant d a)) s

/-- VRED.add (R238). -/
def execVredAdd (t : TCtl) (d a : BitVec 4) (s : State) : Host.Outcome State Fault Refusal :=
  enqueue (.vredAdd t d a) t (vecSpec (vf1 (.red .add) d a)) s

/-- VRED.max (R238). -/
def execVredMax (t : TCtl) (d a : BitVec 4) (s : State) : Host.Outcome State Fault Refusal :=
  enqueue (.vredMax t d a) t (vecSpec (vf1 (.red .max) d a)) s

/-- VRED.min (R238). -/
def execVredMin (t : TCtl) (d a : BitVec 4) (s : State) : Host.Outcome State Fault Refusal :=
  enqueue (.vredMin t d a) t (vecSpec (vf1 (.red .min) d a)) s

/-- VREDX.add (R239). -/
def execVredxAdd (t : TCtl) (d a : BitVec 4) (s : State) : Host.Outcome State Fault Refusal :=
  enqueue (.vredxAdd t d a) t (vecSpec (vfX (.redx .add) d a)) s

/-- VREDX.max (R239). -/
def execVredxMax (t : TCtl) (d a : BitVec 4) (s : State) : Host.Outcome State Fault Refusal :=
  enqueue (.vredxMax t d a) t (vecSpec (vfX (.redx .max) d a)) s

/-- VREDX.min (R239). -/
def execVredxMin (t : TCtl) (d a : BitVec 4) (s : State) : Host.Outcome State Fault Refusal :=
  enqueue (.vredxMin t d a) t (vecSpec (vfX (.redx .min) d a)) s

/-- VSCAN.add (R240). -/
def execVscanAdd (t : TCtl) (d a : BitVec 4) (s : State) : Host.Outcome State Fault Refusal :=
  enqueue (.vscanAdd t d a) t (vecSpec (vf1 (.scan .add) d a)) s

/-- VSCAN.max (R240). -/
def execVscanMax (t : TCtl) (d a : BitVec 4) (s : State) : Host.Outcome State Fault Refusal :=
  enqueue (.vscanMax t d a) t (vecSpec (vf1 (.scan .max) d a)) s

/-- VSCAN.min (R240). -/
def execVscanMin (t : TCtl) (d a : BitVec 4) (s : State) : Host.Outcome State Fault Refusal :=
  enqueue (.vscanMin t d a) t (vecSpec (vf1 (.scan .min) d a)) s

/-- VTOPK (R241). -/
def execVtopk (t : TCtl) (d b a c : BitVec 4) (s : State) : Host.Outcome State Fault Refusal :=
  enqueue (.vtopk t d b a c) t (vecSpec { kind := .topk, dst := [d.toNat, b.toNat], src := [a.toNat], xs := [(3, c.toNat)] }) s

/-- VEXP2 (R242). -/
def execVexp2 (t : TCtl) (d a : BitVec 4) (s : State) : Host.Outcome State Fault Refusal :=
  enqueue (.vexp2 t d a) t (vecSpec (vf1 (.spec .exp2) d a)) s

/-- VLOG2 (R242). -/
def execVlog2 (t : TCtl) (d a : BitVec 4) (s : State) : Host.Outcome State Fault Refusal :=
  enqueue (.vlog2 t d a) t (vecSpec (vf1 (.spec .log2) d a)) s

/-- VRCP (R242). -/
def execVrcp (t : TCtl) (d a : BitVec 4) (s : State) : Host.Outcome State Fault Refusal :=
  enqueue (.vrcp t d a) t (vecSpec (vf1 (.spec .rcp) d a)) s

/-- VRSQRT (R242). -/
def execVrsqrt (t : TCtl) (d a : BitVec 4) (s : State) : Host.Outcome State Fault Refusal :=
  enqueue (.vrsqrt t d a) t (vecSpec (vf1 (.spec .rsqrt) d a)) s

/-- VTANH (R242). -/
def execVtanh (t : TCtl) (d a : BitVec 4) (s : State) : Host.Outcome State Fault Refusal :=
  enqueue (.vtanh t d a) t (vecSpec (vf1 (.spec .tanh) d a)) s

/-- VPERM (R243). -/
def execVperm (t : TCtl) (d a b : BitVec 4) (s : State) : Host.Outcome State Fault Refusal :=
  enqueue (.vperm t d a b) t (vecSpec (vf2 .perm d a b)) s

/-- VSPLAT (R244). -/
def execVsplat (t : TCtl) (d c : BitVec 4) (s : State) : Host.Outcome State Fault Refusal :=
  enqueue (.vsplat t d c) t (vecSpec { kind := .splat, dst := [d.toNat], src := [], xs := [(3, c.toNat)] }) s

/-- VIOTA (R244). -/
def execViota (t : TCtl) (d c : BitVec 4) (s : State) : Host.Outcome State Fault Refusal :=
  enqueue (.viota t d c) t (vecSpec { kind := .iota, dst := [d.toNat], src := [], xs := [(3, c.toNat)] }) s

/-- VEXTR (R245). -/
def execVextr (t : TCtl) (d a c : BitVec 4) (s : State) : Host.Outcome State Fault Refusal :=
  enqueue (.vextr t d a c) t (vecSpec { kind := .extr, dst := [], src := [a.toNat], xs := [(3, c.toNat)], xd := some d.toNat }) s

/-- VRAND.U (R246). -/
def execVrandU (t : TCtl) (d b c : BitVec 4) (s : State) : Host.Outcome State Fault Refusal :=
  enqueue (.vrandU t d b c) t (vecSpec { kind := .randU, dst := [d.toNat], src := [], xs := [(2, b.toNat), (3, c.toNat)] }) s

/-- VRAND.B (R246). -/
def execVrandB (t : TCtl) (d b c : BitVec 4) (s : State) : Host.Outcome State Fault Refusal :=
  enqueue (.vrandB t d b c) t (vecSpec { kind := .randB, dst := [d.toNat], src := [], xs := [(2, b.toNat), (3, c.toNat)] }) s

end Sys2Proof.Machine
end

