-- ==== Sys2Proof/Machine/Matrix.lean ====
section
/-! DEFINITION. The matrix engine and its words (R195 to R217). -/

namespace Sys2Proof.Machine

/-! ### Pairs and sums (R195, R196, R38 to R40) -/

/-- The kinds of operand pair. -/
inductive PairKind where
  | int | flt | wgt | lns
  deriving DecidableEq, Repr

/-- An allowed pair: its kind and the K elements of one K-step (Table 12-1). -/
def pairOf2 (a b : Nat) : Option (PairKind × Nat) :=
  if (a = 0x06 ∨ a = 0x07) ∧ (b = 0x06 ∨ b = 0x07) then some (.int, 128)
  else if (a = 0x86 ∨ a = 0x87) ∧ (b = 0x86 ∨ b = 0x87) then some (.int, 96)
  else if a = b ∧ (a = 0x0A ∨ a = 0x0B) then some (.flt, 128)
  else if a = b ∧ (a = 0x8A ∨ a = 0x8B) then some (.flt, 96)
  else if a = 0x02 ∧ b = 0x02 then some (.flt, 64)
  else if a = 0x02 ∧ (b = 0x88 ∨ b = 0x8C) then some (.wgt, 64)
  else if a = b ∧ (a = 0x0D ∨ a = 0x8D) then some (.lns, 96)
  else none

/-- Ticks of one K-step (R195): LNS6 takes 3 in a group. -/
def kTicks (k : PairKind) (group : Nat) : Nat := match k with | .lns => if group = 0 then 8 else 3 | _ => 8

/-- A magnitude below the smallest normal FP32 or BF16 number. -/
def tinyNum : Num → Bool
  | .fin _ m e => m != 0 && decide (cmpFin false m e false 1 (-126) < 0)
  | _ => false

/-- An operand element of a floating pair (R23): a BF16 subnormal reads as zero. -/
def opNum (f : Nat) (l : Lane) : Num :=
  let v := elemVal f l.1 l.2
  if f = 0x02 && tinyNum v then .zero else v

/-- A weight of a weight-only pair as BF16 (R196): clamped above the largest, zero below the smallest normal. -/
def weightNum (f : Nat) (l : Lane) : Num × BitVec 8 :=
  let v := elemVal f l.1 l.2
  match v with
  | .fin n m e =>
    if decide (0 < cmpFin false m e false fBF16.maxMag.1 fBF16.maxMag.2) then
      (.fin n fBF16.maxMag.1 fBF16.maxMag.2, flagCLAMP)
    else if tinyNum v then (.zero, 0)
    else (v, 0)
  | w => (w, 0)

/-- What a K-step has summed: the reduction of R41's shape, whether a product was invalid, and flags. -/
structure KAcc where
  acc : RedAcc := {}
  bad : Bool := false
  flags : BitVec 8 := 0
  deriving DecidableEq, Repr

/-- Add one exact product (R38). -/
def KAcc.push (k : KAcc) (a b : Num) (f : BitVec 8) : KAcc :=
  let p := a.mul b
  { acc := k.acc.push .add p.1, bad := k.bad || p.2, flags := k.flags ||| f }

/-- Flush a subnormal FP32 code to zero with its sign. Only the flush sets UF, together with NX: the rounding before it
sets none (R23, R38). DEDUCED (notes/assumptions/13.md). -/
def flushF32 (x : Nat × BitVec 8) : Nat × BitVec 8 :=
  let fl := x.2 &&& ~~~flagUF
  if x.1 / 2 ^ 23 % 256 = 0 ∧ x.1 % 2 ^ 23 ≠ 0 then (x.1 / 2 ^ 31 * 2 ^ 31, fl ||| flagUF ||| flagNX) else (x.1, fl)

/-- Round a K-step sum to FP32 and add it to the accumulator, each rounding flushed (R38).
DEDUCED (notes/assumptions/13.md). -/
def joinF32 (old : Nat) (s : Num × Bool) : Nat × BitVec 8 :=
  let t := flushF32 (f32Round s)
  let a := flushF32 (f32Add old t.1)
  (a.1, t.2 ||| a.2)

/-- A floating K-step of one element (R38). -/
def kstepFlt (k : PairKind) (fa fb old : Nat) (l : List (Lane × Lane)) : Nat × BitVec 8 :=
  let s := l.foldl (fun (acc : KAcc) (x : Lane × Lane) =>
    let b := match k with | .wgt => weightNum fb x.2 | _ => (opNum fb x.2, 0)
    acc.push (opNum fa x.1) b.1 b.2) {}
  let r := s.acc.result .add
  let j := joinF32 old (if s.bad then (.nan, true) else r)
  (j.1, j.2 ||| s.flags)

/-- The exact sum of an integer pair when it is an integer (R39). -/
def intSum (fa fb : Nat) (l : List (Lane × Lane)) : Option Int :=
  let s := l.foldl (fun (acc : Num) (x : Lane × Lane) =>
    (acc.add ((elemVal fa x.1.1 x.1.2).mul (elemVal fb x.2.1 x.2.2)).1).1) .zero
  match s with
  | .fin n m e =>
    if 0 ≤ e then some (signed n (m * 2 ^ e.toNat))
    else if m % 2 ^ (-e).toNat = 0 then some (signed n (m / 2 ^ (-e).toNat))
    else none
  | _ => none

/-- Add an integer to an INT32 element, wrapping or saturating (R39). -/
def joinInt (isat : Bool) (old : Nat) (s : Int) : Nat × BitVec 8 :=
  let x := toSInt 32 old + s
  if isat then let c := clampInt (intRange 0x04) x; (intBits 32 c.1, if c.2 then flagSAT else 0)
  else (intBits 32 x, 0)

/-- The product of two LNS6 codes (R26): its sign, P and the exponent of its scales. -/
def lnsProd (x : Lane × Lane) : Bool × Nat × Int :=
  let a := x.1.1 % 64
  let b := x.2.1 % 64
  let s := a % 32 + b % 32
  (bitOf a 5 != bitOf b 5, if a = 0x20 ∨ b = 0x20 then 0 else lnsT s * 2 ^ (s / 4), x.1.2 + x.2.2)

/-- An LNS6 K-step of one element (R40). DEDUCED (notes/assumptions/14.md). -/
def kstepLns (old : Nat) (l : List (Lane × Lane)) : Nat × BitVec 8 :=
  let ps := l.map lnsProd
  let smax := match ps with | [] => 0 | p :: r => r.foldl (fun m x => max m x.2.2) p.2.2
  let terms := ps.map fun p =>
    let d := smax - p.2.2
    if d ≤ 9 then (signed p.1 (p.2.1 * 2 ^ (9 - d).toNat), false)
    else let q := roundMag .rne false p.2.1 (9 - d) 0; (signed p.1 q.1, q.2)
  let sum := (terms.map Prod.fst).sum
  let j := joinF32 old (((Num.ofInt sum).scale (smax - 38)), false)
  (j.1, j.2 ||| (if terms.any Prod.snd then flagNX else 0))

/-- One K-step of one element. `draw` names the free value an integer block pair takes when its sum is no integer.
DEDUCED (notes/assumptions/14.md). -/
def kstep (k : PairKind) (fa fb : Nat) (isat : Bool) (draw : Nat × Nat) (old : Nat) (l : List (Lane × Lane)) : Nat × BitVec 8 :=
  match k with
  | .int => joinInt isat old ((intSum fa fb l).getD (Config.openSum draw.1 draw.2))
  | .lns => kstepLns old l
  | _ => kstepFlt k fa fb old l

/-! ### Gangs (R197, R198) -/

/-- The ports of a gang. -/
def gang (f g : Nat) : List Nat := upFrom f g

/-- Rows that a gang supplies. -/
def State.gangRows (s : State) (ps : List Nat) : Nat := (ps.map fun q => hExt (s.portRec q) 1).sum

/-- The geometry of R197 over the ports of a word's gangs, and R209's and R214's rule on EDGE: what breaks it.
DEDUCED (notes/assumptions/18.md). -/
def State.gangBad (s : State) (gangs : List (List Nat)) : Bool :=
  let all := gangs.flatten
  let h0 := s.portRec (all.headD 0)
  all.any (fun q =>
    let h := s.portRec q
    hExt h 0 != hExt h0 0 || hExt h 2 != hExt h0 2 || hExt h 3 != 1 || decide (fmtLanes (hFmt h) < hExt h 0)
      || hBcast h 0 || hEdge h == 2)
    || gangs.any fun g =>
      let rows := s.gangRows g
      g.zipIdx.any fun e => hExt (s.portRec e.1) 1 != (rows + g.length - 1 - e.2) / g.length

/-- The reads of a gang's ports at row i of a chunk: one vector of each port that has the row (R198). -/
def Run.rowReqs (r : Run) (ports : List Nat) (i : Nat) : List Req :=
  (ports.filter fun q => decide (i < hExt (r.s.portRec q) 1)).map r.popReq

/-- Take what the pops of row i of chunk j delivered. -/
def Run.takeRow (r : Run) (ports : List Nat) (j i : Nat) (got : List (List Byte)) : Run :=
  let qs := ports.filter fun q => decide (i < hExt (r.s.portRec q) 1)
  (List.zip qs got).foldl (fun r e =>
    let x := r.popped e.1 e.2
    x.1.count fun c => { c with rows := c.rows ++ [{ chunk := j, port := e.1, row := i, lanes := x.2 }] }) r

/-- The operand rows of a gang in one chunk, each with its port's FMT: row r lies in port r mod G. -/
def State.gangRow (s : State) (f g : Nat) (c : List RowPop) (rows : Nat) : List (Nat × List (Option Lane)) :=
  (upFrom 0 rows).map fun r =>
    (hFmt (s.portRec (f + r % g)), (c.find? fun e => e.port == f + r % g && e.row == r / g).elim [] RowPop.lanes)

/-- The first pop and the first K-step of each chunk, from chunk j on, and the time after the last K-step (R198): `e1` and `e2`
are the ends of the two chunks before. -/
def chunkTimes (rmax st : Nat) : Nat → Nat → Nat → Nat → Nat → List (Nat × Nat × Nat) × Nat
  | 0, _, _, e1, _ => ([], e1)
  | n + 1, j, p, e1, e2 =>
    let p := if j = 0 then p else max (p + rmax) e2
    let c := max (p + rmax) e1
    let x := chunkTimes rmax st n (j + 1) p (c + st) e1
    ((j, p, c) :: x.1, x.2)

/-! ### The cell's state -/

/-- GROUP, ISAT, ACT and DSAT of the matrix mode state (Table 12-3). -/
def mGroup (m : BitVec 6) : Nat := (m.extractLsb' 0 2).toNat
def mIsat (m : BitVec 6) : Bool := m.getLsbD 2
def mRelu (m : BitVec 6) : Bool := m.getLsbD 3
def mDsat (m : BitVec 6) : Bool := m.getLsbD 5

/-- The side of a group: 1, 2 or 4 (R199). -/
def groupSide (g : Nat) : Nat := if g = 1 then 2 else if g = 2 then 4 else 1

/-- The logical cells of the aligned block that a cell lies in, row by row (R199). -/
def groupCells (g cell : Nat) : List Nat :=
  let n := groupSide g
  let r0 := cell / 4 / n * n
  let c0 := cell % 4 / n * n
  (upFrom 0 n).flatMap fun r => (upFrom 0 n).map fun c => 4 * (r0 + r) + c0 + c

/-- The mode state that a word enqueued now will find at its dispatch: that of the last MMODE that waits, else the present
one (R208). DEDUCED (notes/assumptions/18.md). -/
def State.modeAhead (s : State) : BitVec 6 :=
  (s.cur.queue.filterMap fun w => match w.instr with | .mmode _ _ => some ((w.xv 3).setWidth 6) | _ => none).getLast?.getD s.cur.mmode

/-- The context owns a bank (R202). -/
def State.ownsBank (s : State) (bank : Nat) : Bool :=
  let c := (s.launchD false).ctx1
  if s.cur.prio then bank == 1
  else if c.sprows = 0 ∧ c.ftiles = 0 ∧ c.semn = 0 ∧ c.spgn = 0 then true
  else bank == 0

/-- The privilege check on a bank: TVAL holds its number (R202). -/
def bankPriv (bank : BitVec 1) (s : State) : Option (Nat × Word) :=
  if s.ownsBank bank.toNat then none else some (Cause.privilege, BitVec.ofNat 64 bank.toNat)

/-- Elements of a row of a bank, from column 0. -/
def State.accRow (s : State) (bank m n : Nat) : List Nat :=
  (upFrom 0 n).map fun c => leNat (rdMems s.mem (s.accBase bank + 4 * (128 * m + c)) 4)

/-- Write the first elements of a row of a bank. -/
def State.setAccRow (s : State) (bank m : Nat) (l : List Nat) : State :=
  { s with mem := wrMems s.mem (s.accBase bank + 512 * m) (l.flatMap (leBytes 4)) }

/-- A column record of the scale state (R205): MULT is 1 at strand start. -/
def Strand.scaleRec (c : Strand) (n : Nat) : BitVec 128 := sget 1 c.scale n

/-! ### Drains (R206, R212) -/

/-- The formats a drain may write: an integer bank, then a floating one. -/
def drainInt (f : Nat) : Bool := f == 0x04 || f == 0x05 || f == 0x06 || f == 0x07 || f == 0x08
def drainFlt (f : Nat) : Bool := f == 0x01 || f == 0x02 || f == 0x03 || f == 0x0A || f == 0x0B

/-- One element of a drain. An integer drain is a conversion: NX is set when its one rounding is inexact, and SAT with NX when
it clamps (R34). DEDUCED (notes/assumptions/14.md). -/
def drainElem (fd : Nat) (mode : BitVec 6) (r : BitVec 128) (acc : Nat) : Nat × BitVec 8 :=
  if drainInt fd then
    let mult := (r.extractLsb' 0 32).toInt
    let bias := (r.extractLsb' 64 32).toInt
    let zpo := (r.extractLsb' 96 16).toInt
    let shift := (r.extractLsb' 32 6).toNat
    let x := (toSInt 32 acc + bias) * mult
    let e := roundMag .rne (decide (x < 0)) x.natAbs (-(shift : Int)) 0
    let q := signed (decide (x < 0)) e.1
    let q := if mRelu mode then max q 0 else q
    let c := clampInt (intRange fd) (q + zpo)
    (intBits (fmtBits fd) c.1, (if c.2 then flagSAT ||| flagNX else 0) ||| (if e.2 then flagNX else 0))
  else
    let s := (fF32.decode acc).add (fF32.decode (r.extractLsb' 64 32).toNat)
    let y := s.1.mul (fF32.decode (r.extractLsb' 0 32).toNat)
    let v := if mRelu mode && (y.1.isNeg || y.1.eqv .zero) then .zero else y.1
    let c := elemCode fd .rne (mDsat mode) v
    (c.1, c.2 ||| (if s.2 || y.2 then flagNV else 0))

/-- Read one row of a bank, convert it and push it at this time (R206, R212); `zero` clears the row as it is read. -/
def drainRow (bank qd : Nat) (zero : Bool) (m : Nat) (r : Run) : Run :=
  let h := r.s.portRec qd
  let row := (r.s.accRow bank m (hExt h 0)).zipIdx.map fun e =>
    drainElem (hFmt h) r.w.mode (r.s.cur.scaleRec e.2) e.1
  let r := row.foldl (fun r e => r.flag e.2) r
  let r := if zero then { r with s := r.s.setAccRow bank m (List.replicate 128 0) } else r
  r.pushAt qd r.w.time (pushBytes h (r.idx qd) (row.map fun e => some e.1))

/-- One step of a drain: row `st.k`, and the next row a tick later (R206). -/
def drainTake (bank qd : Nat) (zero : Bool) (r : Run) : Run :=
  let h := r.s.portRec qd
  let rows := hExt h 1
  let m := r.w.st.k
  let r := (drainRow bank qd zero m r).count fun c => { c with k := m + 1 }
  if m + 1 < rows then (r.at_ (some (r.w.time + 1))).writesNext [(hSpace h, hVecAddr h (r.idx qd))]
  else (r.at_ none).writesNext []

/-- A drain's destination (R206, R212). -/
def State.drainBad (s : State) (q : Nat) : Bool :=
  let h := s.portRec q
  decide (128 < hExt h 0) || decide (64 < hExt h 1) || hExt h 2 != 1 || hExt h 3 != 1
    || !(drainInt (hFmt h) || drainFlt (hFmt h))

/-! ### MMA and MMAW -/

/-- A K-step word taken apart: bank, INIT, the drain port, and the gangs. -/
structure MForm where
  bank : Nat
  init : Bool
  drain : Option Nat
  fa : Nat
  ga : Nat
  fb : Nat
  gb : Nat
  deriving DecidableEq, Repr

/-- The operands of MMA (R209). -/
def mmaForm (bank init : BitVec 1) (fa ga fb gb : BitVec 4) : MForm :=
  { bank := bank.toNat, init := init == 1, drain := none, fa := fa.toNat, ga := ga.toNat + 1, fb := fb.toNat, gb := gb.toNat + 1 }

/-- The form of a K-step word. -/
def mForm : Instr → Option MForm
  | .mma _ bank init fa ga fb gb => some (mmaForm bank init fa ga fb gb)
  | .mmaw _ bank init w fa ga fb gb => some { mmaForm bank init fa ga fb gb with drain := some w.toNat }
  | _ => none

def MForm.aPorts (f : MForm) : List Nat := gang f.fa f.ga
def MForm.bPorts (f : MForm) : List Nat := gang f.fb f.gb
def MForm.ports (f : MForm) : List Nat := f.aPorts ++ f.bPorts

/-- Check 1 of R209. -/
def MForm.gangsBad (f : MForm) : Bool :=
  decide (12 < f.fa + f.ga) || decide (12 < f.fb + f.gb) || f.aPorts.any f.bPorts.contains
    || f.drain.any f.ports.contains

/-- The checks of R209 in order. Each FMT of the A gang must pair with each of the B gang.
DEDUCED (notes/assumptions/18.md). -/
def MForm.check (i : Instr) (f : MForm) (s : State) : Option (Nat × Word) :=
  let ill := fun v : Word => some (Cause.illegal, v)
  let g := groupSide (mGroup s.modeAhead)
  if f.gangsBad then ill (wordTval i)
  else
    let pairs := f.aPorts.flatMap fun a => f.bPorts.map fun b => (hFmt (s.portRec a), hFmt (s.portRec b))
    match pairs.find? fun p => (pairOf2 p.1 p.2).isNone with
    | some (a, b) => ill (BitVec.ofNat 64 (a + 256 * b))
    | none =>
      if s.gangBad [f.aPorts, f.bPorts] || decide (64 / g < s.gangRows f.aPorts) || decide (128 / g < s.gangRows f.bPorts)
          || f.drain.any s.drainBad then ill (wordTval i)
      else none

/-- What a K-step word names and needs (R208, R209). The drain port W of MMAW lies in FN6, to which R342 gives no place among the
fields: it is checked and translated after both gangs. DEDUCED (notes/assumptions/15.md). -/
def mmaSpec (i : Instr) (f : MForm) (bank : BitVec 1) : EngSpec where
  queue := 0
  named := ((f.ports ++ f.drain.toList).filter (· < 12)).zipIdx.map fun e => .prt e.2 e.1
  portTval := fun _ => wordTval i
  own := f.check i
  priv := bankPriv bank
  opnds := fun s =>
    f.ports.map (fun q => s.portOpnd 0 q (hNV (s.portRec q)) true false)
      ++ f.drain.toList.map fun q => s.portOpnd 0 q (hExt (s.portRec q) 1) false true
  pops := fun s =>
    f.ports.map (fun q => (q, hNV (s.portRec q))) ++ f.drain.toList.map fun q => (q, hExt (s.portRec q) 1)

/-- Act as the strand of a logical cell of the focused strand's die and context. -/
def State.asCell (s : State) (cell : Nat) (g : State → State) : State :=
  let prio := s.cur.prio
  let vdie := s.cur.vdie
  let own := s.cur.cell
  (s.asStrand (fun c => c.is prio vdie cell && !c.out) g).focus (fun c => c.is prio vdie own && !c.out)

/-- Focus a logical cell of the same die and context. -/
def State.toCell (s : State) (cell : Nat) : State :=
  let prio := s.cur.prio
  let vdie := s.cur.vdie
  s.focus (fun c => c.is prio vdie cell && !c.out)

/-- One K-step on one member's tile part (R210): the t-th of chunk j, over operand rows a and b. -/
def kstepAll (k : PairKind) (kel ext0 : Nat) (f : MForm) (a b : List (Nat × List (Option Lane))) (steps j t : Nat) (r : Run) : Run :=
  let isat := mIsat r.w.mode
  let cut := fun l : Nat × List (Option Lane) => (l.1, (l.2.drop (t * kel)).take (min kel (ext0 - t * kel)))
  let bs := b.map cut
  a.zipIdx.foldl (fun r row =>
    let old := if f.init && j == 0 && t == 0 then List.replicate bs.length 0 else r.s.accRow f.bank row.2 bs.length
    let av := cut row.1
    let res := (List.zip old bs).zipIdx.map fun e =>
      let l := (List.zip av.2 e.1.2.2).filterMap fun x => match x with | (some u, some v) => some (u, v) | _ => none
      kstep ((pairOf2 av.1 e.1.2.1).elim k Prod.fst) av.1 e.1.2.1 isat (r.w.draw, ((j * steps + t) * 64 + row.2) * 128 + e.2) e.1.1 l
    res.foldl (fun r e => r.flag e.2) { r with s := r.s.setAccRow f.bank row.2 (res.map Prod.fst) }) r

/-- A member's word among its cell's running ones: its form and the pops of a chunk. -/
def State.mateRows (s : State) (mate : Nat × Nat) (j : Nat) : Option (State × MForm × List RowPop) :=
  let t := s.toCell mate.1
  (t.cur.running.find? fun x => x.word.seq == mate.2).bind fun x =>
    (mForm x.word.instr).map fun f => (t, f, x.st.rows.filter fun e => e.chunk == j)

/-- The operand rows that a member supplies of one gang. -/
def supplied (side : Bool) (m : State × MForm × List RowPop) : List (Nat × List (Option Lane)) :=
  let f := m.2.1
  if side then m.1.gangRow f.fb f.gb m.2.2 (m.1.gangRows f.bPorts) else m.1.gangRow f.fa f.ga m.2.2 (m.1.gangRows f.aPorts)

/-- The operands of chunk j that a member sees: what its group row supplies of A, and its group column of B (R199). -/
def State.operands (s : State) (w : Running) (own : Nat) (j : Nat) :
    List (Nat × List (Option Lane)) × List (Nat × List (Option Lane)) :=
  let g := groupSide (mGroup w.mode)
  let ms := w.mates.zipIdx
  let i := (ms.find? fun m => m.1.1 == own).elim 0 Prod.snd
  let gather := fun (side : Bool) (p : Nat → Bool) =>
    (ms.filter fun m => p m.2).flatMap fun m => ((s.mateRows m.1 j).map (supplied side)).getD []
  (gather false fun o => o / g == i / g, gather true fun o => o % g == i % g)

/-- The pair, the K elements, the length of a chunk and the K-steps of a chunk of a K-step word. -/
def Run.pair (r : Run) (f : MForm) : Option (PairKind × Nat × Nat × Nat) :=
  (pairOf2 (hFmt (r.s.portRec f.fa)) (hFmt (r.s.portRec f.fb))).map fun p =>
    let e := hExt (r.s.portRec f.fa) 0
    (p.1, p.2, e, ceilDiv e p.2)

/-- The row that a K-step word pops now: the chunk and the row (R198). -/
def Running.popRow (w : Running) : Option (Nat × Nat) :=
  (w.st.plan.findSome? fun c => if c.2.1 ≤ w.time ∧ w.time < c.2.1 + w.fig.rate then some (c.1, w.time - c.2.1) else none)

/-- The K-step whose last tick is now: the chunk and the K-step of it (R198); `fig.setup` is T and `fig.rd` the K-steps of a
chunk. -/
def Running.sumStep (w : Running) : Option (Nat × Nat) :=
  let T := w.fig.setup
  w.st.plan.findSome? fun c =>
    if c.2.2 ≤ w.time ∧ w.time < c.2.2 + w.fig.rd * T ∧ (w.time - c.2.2) % T + 1 = T then some (c.1, (w.time - c.2.2) / T) else none

/-- The reads of a K-step word at this time: the pops of a row, while a chunk's rows last (R198); rows of a drain read no
port. -/
def MForm.want (f : MForm) (r : Run) : List Req :=
  match r.w.popRow with | some e => r.rowReqs f.ports e.2 | none => []

/-- A K-step word takes the pops of this time, or drains its next row (R211). -/
def MForm.take (f : MForm) (r : Run) (got : List (List Byte)) : Run :=
  if r.w.st.plan.isEmpty then match f.drain with | some q => drainTake f.bank q false r | none => r.at_ none
  else match r.w.popRow with | some e => r.takeRow f.ports e.1 e.2 got | none => r

/-- Forget the pops of a chunk that is used up. -/
def Run.dropChunk (r : Run) (j : Nat) : Run :=
  r.count fun c => { c with rows := c.rows.filter fun e => e.chunk != j, plan := c.plan.filter fun e => e.1 != j }

/-- A K-step word adds the K-step whose last tick is now (R203, R210): each granule of the bank goes from its value before the
K-step to its value after it. The pops of a chunk go once every member has used them, at `st.i`. -/
def MForm.sum (f : MForm) (r : Run) : Run :=
  match r.w.sumStep, r.pair f with
  | some (j, t), some (k, kel, e, steps) =>
    let own := r.s.cur.cell
    let o := r.s.operands r.w own j
    kstepAll k kel e f o.1 o.2 steps j t { r with s := r.s.toCell own }
  | _, _ => r

/-- The word drains its next row now: it reads no port, so that its push takes its place among the ports' accesses (R142). -/
def Run.drains (r : Run) : Bool :=
  match r.w.word.instr with
  | .mdrain _ _ _ _ => true
  | i => (mForm i).any fun f => f.drain.isSome && r.w.st.plan.isEmpty

/-- After this time's pops and K-step: the chunks that are used up go, one without K elements with its last pop; the next time, and
the drain's rows from the end of the last K-step on (R198, R211). -/
def MForm.goOn (f : MForm) (r : Run) : Run :=
  let t := r.w.time
  let r := (r.w.st.plan.filter fun c => decide (c.2.2 + r.w.fig.rd * r.w.fig.setup ≤ t + 1)).foldl (fun r c => r.dropChunk c.1) r
  if !r.w.st.plan.isEmpty then r.at_ (some (t + 1))
  else match f.drain with
    | some q =>
      if r.w.st.k < hExt (r.s.portRec q) 1 then
        (r.at_ (some (max (t + 1) r.w.fig.wr))).writesNext [(hSpace (r.s.portRec q), hVecAddr (r.s.portRec q) (r.idx q))]
      else r.at_ none
    | none => r.at_ none

/-- A member of a joint dispatch starts its word (R198 to R200): times are from the dispatch. -/
def mmaStart (times : List (Nat × Nat × Nat) × Nat) (rmax T steps draw : Nat) (mates : List (Nat × Nat)) (c : QWord × MForm)
    (s : State) : State :=
  let fin := times.2
  let rows := c.2.drain.elim 0 fun q => hExt (s.portRec q) 1
  let tail := if c.2.drain.isSome then rows + 2 else 0
  Run.start
    { s := s
      w := { s.running c.1 (fin + tail) (fin + rows) with
        next := if times.1.isEmpty && rows == 0 then none else some 0
        fig := { setup := T, rate := rmax, rd := steps, wr := fin }, st := { plan := times.1 }
        mates := mates, mode := s.cur.mmode, draw := draw } }

/-- Dispatch the K-step words of a list of cells together (R198 to R200, R210, R211): a lone cell is a list of one.
DEDUCED (notes/assumptions/18.md). -/
def dispMma (cells : List (Nat × QWord × MForm)) (s : State) : State :=
  let own := s.cur.cell
  let group := mGroup s.cur.mmode
  match cells with
  | [] => s
  | (c0, _, f0) :: _ =>
    let s0 := s.toCell c0
    let ext0 := hExt (s0.portRec f0.fa) 0
    let n := hExt (s0.portRec f0.fa) 2
    match pairOf2 (hFmt (s0.portRec f0.fa)) (hFmt (s0.portRec f0.fb)) with
    | none => s
    | some (k, kel) =>
      let steps := ceilDiv ext0 kel
      let T := kTicks k group
      let rmax := (cells.map fun c => let t := s.toCell c.1; (c.2.2.ports.map fun q => hExt (t.portRec q) 1).foldl max 0).foldl max 0
      let times := chunkTimes rmax (steps * T) n 0 0 0 0
      let mates := cells.map fun c => (c.1, c.2.1.seq)
      let out := cells.zipIdx.foldl (fun (st : State) e =>
        st.asCell e.1.1 (mmaStart times rmax T steps (s.free + e.2) mates e.1.2)) s
      { out with free := out.free + cells.length }.toCell own

/-- The words of a joint dispatch agree (R200). -/
def mmaAgree (cells : List (Nat × QWord × MForm)) (s : State) : Bool :=
  let key := fun c : Nat × QWord × MForm =>
    let t := s.toCell c.1
    let h := t.portRec c.2.2.fa
    ((hFmt h, hFmt (t.portRec c.2.2.fb)), (hExt h 0, hExt h 2), c.2.2.bank, c.2.2.drain.isSome, mGroup t.cur.mmode)
  match cells with
  | [] => true
  | c :: l => l.all fun x => decide (key x = key c)

/-- The words of a joint dispatch disagree (R200): each is discarded and each member takes an illegal word.
DEDUCED (notes/assumptions/18.md). -/
def mmaDiscard (cells : List (Nat × QWord × MForm)) (s : State) : State :=
  cells.foldl (fun st c => st.asCell c.1 fun t => raiseAsync { code := Cause.illegal, tval := c.2.1.pc, tpc := none } t) s

/-- MMA (R209 to R211). -/
def execMma (t : TCtl) (bank init : BitVec 1) (fa ga fb gb : BitVec 4) (s : State) : Host.Outcome State Fault Refusal :=
  enqueue (.mma t bank init fa ga fb gb) t
    (mmaSpec (.mma t bank init fa ga fb gb) (mmaForm bank init fa ga fb gb) bank) s

/-- MMAW (R209 to R211). -/
def execMmaw (t : TCtl) (bank init : BitVec 1) (w fa ga fb gb : BitVec 4) (s : State) : Host.Outcome State Fault Refusal :=
  enqueue (.mmaw t bank init w fa ga fb gb) t
    (mmaSpec (.mmaw t bank init w fa ga fb gb) { mmaForm bank init fa ga fb gb with drain := some w.toNat } bank) s

/-! ### MDRAIN and MAJ 0x23 -/

/-- What MDRAIN names and checks (R212). -/
def mdrainSpec (i : Instr) (bank : BitVec 1) (d : BitVec 4) : EngSpec where
  queue := 0
  named := [.prt 0 d.toNat]
  portTval := fun _ => wordTval i
  own := fun s => if s.drainBad d.toNat then some (Cause.illegal, wordTval i) else none
  priv := bankPriv bank
  opnds := fun s => [s.portOpnd 0 d.toNat (hExt (s.portRec d.toNat) 1) false true]
  pops := fun s => [(d.toNat, hExt (s.portRec d.toNat) 1)]

/-- MDRAIN (R212). -/
def execMdrain (t : TCtl) (bank zero : BitVec 1) (d : BitVec 4) (s : State) : Host.Outcome State Fault Refusal :=
  enqueue (.mdrain t bank zero d) t (mdrainSpec (.mdrain t bank zero d) bank d) s

/-- Dispatch MDRAIN (R212). DEDUCED (notes/assumptions/18.md). -/
def dispMdrain (w : QWord) (q : Nat) (s : State) : State :=
  let h := s.portRec q
  let rows := hExt h 1
  Run.start
    { s := s
      w := { s.running w (rows + 2) rows with
        next := if rows = 0 then none else some 0, mode := s.cur.mmode
        ahead := if rows = 0 then [] else [(hSpace h, hVecAddr h (s.getQ q).vidx)] } }

/-- A matrix word that names no port: it checks its bank (R202). -/
def bankSpec (i : Instr) (bank : BitVec 1) : EngSpec := { queue := 0, portTval := fun _ => wordTval i, priv := bankPriv bank }

/-- MZERO (R213). -/
def execMzero (t : TCtl) (bank : BitVec 1) (s : State) : Host.Outcome State Fault Refusal :=
  enqueue (.mzero t bank) t (bankSpec (.mzero t bank) bank) s

/-- Dispatch MZERO (R213): the whole bank. -/
def dispMzero (w : QWord) (bank : Nat) (s : State) : State :=
  let t := (upFrom 0 64).foldl (fun s m => s.setAccRow bank m (List.replicate 128 0)) s
  t.start (t.running w 4 4)

/-- MSUM's own checks (R214). -/
def msumCheck (i : Instr) (side : BitVec 1) (f g : Nat) (s : State) : Option (Nat × Word) :=
  let ps := gang f g
  if 12 < f + g then some (Cause.illegal, wordTval i)
  else if ps.any (fun q => hFmt (s.portRec q) != 0x06 && hFmt (s.portRec q) != 0x07) || s.gangBad [ps]
      || decide ((if side = 0 then 64 else 128) < s.gangRows ps) then some (Cause.illegal, wordTval i)
  else none

/-- What MSUM names and checks (R214): z is the low 32 bits of x[C]. -/
def msumSpec (i : Instr) (bank side : BitVec 1) (f gm c : BitVec 4) : EngSpec where
  queue := 0
  named := ((gang f.toNat (gm.toNat + 1)).filter (· < 12)).zipIdx.map fun e => .prt e.2 e.1
  xs := [(3, c.toNat)]
  portTval := fun _ => wordTval i
  own := msumCheck i side f.toNat (gm.toNat + 1)
  priv := bankPriv bank
  opnds := fun s => (gang f.toNat (gm.toNat + 1)).map fun q => s.portOpnd 0 q (hNV (s.portRec q)) true false
  pops := fun s => (gang f.toNat (gm.toNat + 1)).map fun q => (q, hNV (s.portRec q))

/-- MSUM (R214). -/
def execMsum (t : TCtl) (bank side : BitVec 1) (f gm c : BitVec 4) (s : State) : Host.Outcome State Fault Refusal :=
  enqueue (.msum t bank side f gm c) t (msumSpec (.msum t bank side f gm c) bank side f gm c) s

/-- The exact sum of the active elements of an operand row (R204). -/
def rowSum (fmt ext0 : Nat) (l : List (Option Lane)) : Int :=
  ((l.take ext0).map fun o => match o with | some e => intVal fmt e.1 | none => 0).sum

/-- Correct an element (R204): e - z × S. -/
def correct (isat : Bool) (z sum : Int) (e : Nat) : Nat × BitVec 8 := joinInt isat e (-(z * sum))

/-- Correct a bank by row sums (side A) or column sums (side B) (R204, R214). -/
def msumCorrect (bank : Nat) (sideB : Bool) (z : Int) (sums : List Int) (r : Run) : Run :=
  let isat := mIsat r.w.mode
  (upFrom 0 (if sideB then 64 else sums.length)).foldl (fun r m =>
    let n := if sideB then sums.length else 128
    let res := (r.s.accRow bank m n).zipIdx.map fun e =>
      correct isat z (sums.getD (if sideB then e.2 else m) 0) e.1
    res.foldl (fun r e => r.flag e.2) { r with s := r.s.setAccRow bank m (res.map Prod.fst) }) r

/-- Dispatch MSUM (R204, R214): it pops for n × R ticks, and corrects the bank in the last tick before its bound.
DEDUCED (notes/assumptions/18.md). -/
def dispMsum (w : QWord) (f g : Nat) (s : State) : State :=
  let ps := gang f g
  let n := hExt (s.portRec f) 2
  let rmax := (ps.map fun q => hExt (s.portRec q) 1).foldl max 0
  let b := n * rmax + 16
  Run.start
    { s := s
      w := { s.running w b b with
        next := some (if n * rmax = 0 then b - 1 else 0), fig := { rate := rmax, rd := n }, mode := s.cur.mmode
        st := { sums := List.replicate (s.gangRows ps) 0 } } }

/-- The reads of MSUM at this time: row t mod R of chunk t div R (R214). -/
def msumWant (f g : Nat) (r : Run) : List Req :=
  if r.w.time < r.w.fig.rd * r.w.fig.rate then r.rowReqs (gang f g) (r.w.time % r.w.fig.rate) else []

/-- MSUM takes a row's pops, adding up each operand row, or corrects the bank (R214). -/
def msumTake (bank : Nat) (sideB : Bool) (f g : Nat) (r : Run) (got : List (List Byte)) : Run :=
  let all := r.w.fig.rd * r.w.fig.rate
  let t := r.w.time
  if t < all then
    let i := t % r.w.fig.rate
    let qs := (gang f g).filter fun q => decide (i < hExt (r.s.portRec q) 1)
    let r := (List.zip qs got).foldl (fun r e =>
      let h := r.s.portRec e.1
      let x := r.popped e.1 e.2
      let k := i * g + (e.1 - f)
      x.1.count fun c => { c with sums := c.sums.set k (c.sums.getD k 0 + rowSum (hFmt h) (hExt h 0) x.2) }) r
    r.at_ (some (if t + 1 < all then t + 1 else all + 15))
  else (msumCorrect bank sideB ((r.w.word.xv 3).extractLsb' 0 32).toInt r.w.st.sums r).at_ none

/-- What MSCALE names and checks (R215). -/
def mscaleSpec (i : Instr) (d : BitVec 4) : EngSpec where
  queue := 0
  named := [.prt 0 d.toNat]
  portTval := fun _ => wordTval i
  own := fun s =>
    let h := s.portRec d.toNat
    if !([0x00, 0x04, 0x01].contains (hFmt h)) || hExt h 0 * (fmtStore (hFmt h) / 8) % 512 != 0
    then some (Cause.illegal, wordTval i) else none
  opnds := fun s => [s.portOpnd 0 d.toNat 4 true false]
  pops := fun _ => [(d.toNat, 4)]

/-- MSCALE (R215). -/
def execMscale (t : TCtl) (d : BitVec 4) (s : State) : Host.Outcome State Fault Refusal :=
  enqueue (.mscale t d) t (mscaleSpec (.mscale t d) d) s

/-- One pop of MSCALE (R215): four vectors, a tick each, as whole 512-byte strings. -/
def mscaleTake (q : Nat) (r : Run) (got : List (List Byte)) : Run :=
  let h := r.s.portRec q
  let b := got.headD []
  let bytes := if hBcast h 0 then (List.replicate (fmtLanes (hFmt h)) b).flatten else b
  let recs := (upFrom 0 32).map fun i => (32 * r.w.st.k + i, BitVec.ofNat 128 (leNat ((bytes.drop (16 * i)).take 16)))
  let k := r.w.st.k + 1
  let r := (r.step q).count fun c => { c with k := k }
  { r with w := { r.w with scale := r.w.scale.map (· ++ recs), next := if k < 4 then some (r.w.time + 1) else none } }

/-- Dispatch MSCALE (R215): the new scale state takes the old one's place at completion. A sweep of no vectors gives records of
zero. DEDUCED (notes/assumptions/18.md). -/
def dispMscale (w : QWord) (q : Nat) (s : State) : State :=
  let none_ := hNV (s.portRec q) = 0
  Run.start
    { s := s
      w := { s.running w 6 6 with
        next := if none_ then none else some 0
        scale := some (if none_ then (upFrom 0 128).map fun c => (c, 0) else []) } }

/-- MMODE's checks (R216). -/
def mmodeCheck (c : Nat) (s : State) : Option (Nat × Word) :=
  let v := s.rx c
  let m := v.extractLsb' 0 6
  if mGroup m = 3 || m.getLsbD 4 || v.extractLsb' 6 58 != 0
      || (groupCells (mGroup m) s.cur.cell).any (fun k => decide (s.vd.cells ≤ k)) then some (Cause.illegal, v)
  else none

/-- What MMODE names and checks (R216). -/
def mmodeSpec (i : Instr) (c : BitVec 4) : EngSpec :=
  { queue := 0, xs := [(3, c.toNat)], portTval := fun _ => wordTval i, own := mmodeCheck c.toNat }

/-- MMODE (R216). -/
def execMmode (t : TCtl) (c : BitVec 4) (s : State) : Host.Outcome State Fault Refusal :=
  enqueue (.mmode t c) t (mmodeSpec (.mmode t c) c) s

/-- Dispatch MMODE (R216): the mode state is written at once. -/
def dispMmode (w : QWord) (s : State) : State :=
  let t := s.modCur fun c => { c with mmode := (w.xv 3).extractLsb' 0 6 }
  t.start (t.running w 1 1)

/-- MSTAT (R217). -/
def execMstat (t : TCtl) (d : BitVec 4) (s : State) : Host.Outcome State Fault Refusal :=
  enqueue (.mstat t d) t (plainSpec 0 (.mstat t d) [d.toNat]) s

/-- What MSTAT samples (Table 13-4). A step whose last request has fallen stands until the next control-interval boundary
(R331). -/
def State.mstat (s : State) : Word :=
  let m := s.cur.mmode
  let rail := (groupCells (mGroup m) s.cur.cell).all fun c => s.power.stands.contains (s.slotNo * 4 + s.cluster s.slotNo c)
  0#46 ++ (if s.cur.railReq then 1#1 else 0#1) ++ (if rail then 1#1 else 0#1) ++ 0#10 ++ m

/-- Dispatch MSTAT (R217). -/
def dispMstat (w : QWord) (d : Nat) (s : State) : State :=
  s.start { s.running w 2 2 with xres := some (d, s.mstat) }

end Sys2Proof.Machine
end

