-- ==== Sys2Proof/Machine/SumProd.lean ====
section
/-! DEFINITION. The sum-product engine and its words (R250 to R269). Registers and table entries that a word writes are
written at its completion; R260 and R262 let no later word of the queue read them earlier. -/

namespace Sys2Proof.Machine

/-! ### Entries (R251 to R254) -/

/-- KIND of node i (Table 17-1). -/
def spKind (sh i : Nat) : Nat := bitsOf sh (2 * i - 2) 2

/-- ROOT (Table 17-1). -/
def spRoot (sh : Nat) : Nat := bitsOf sh 46 4

/-- A position lies in the subtree of a node (R251). -/
def inSubtree (root p : Nat) : Bool := root != 0 && decide (root.log2 ≤ p.log2) && p / 2 ^ (p.log2 - root.log2) == root

/-- A position below the root is present (R253): `fuel` levels are left. -/
def spPresentGo (sh : Nat) : Nat → Nat → Bool
  | 0, _ => false
  | fuel + 1, p =>
    if 16 ≤ p then bitOf sh (30 + p - 16)
    else if spKind sh p = 0 then spPresentGo sh fuel (2 * p)
    else spPresentGo sh fuel (2 * p) || spPresentGo sh fuel (2 * p + 1)

/-- A position of the tree is present (R253). -/
def spPresent (sh p : Nat) : Bool := inSubtree (spRoot sh) p && spPresentGo sh 5 p

/-- The shape faults that the entry alone shows (R253). -/
def spFault (sh : Nat) : Bool :=
  spRoot sh == 0 || decide (2 ^ 50 ≤ sh)
    || (upFrom 1 15).any (fun i => spKind sh i != 0 && !inSubtree (spRoot sh) i)
    || (upFrom 0 16).any (fun j => bitOf sh (30 + j) && !inSubtree (spRoot sh) (16 + j))
    || !spPresent sh (spRoot sh)

def spLeafReg (l j : Nat) : Nat := bitsOf l (10 * j) 10
def spWReg (l i : Nat) : Nat := bitsOf l (160 + 10 * (i - 1)) 10
def spSaveReg (l i : Nat) : Nat := bitsOf l (310 + 10 * (i - 1)) 10
def spSave (l i : Nat) : Bool := bitOf l (460 + (i - 1))

/-! ### Arithmetic (R257) -/

/-- FP, MAX and GOFF of the mode state (Table 17-3). -/
def spFp (m : BitVec 12) : Bool := m.getLsbD 0
def spMax (m : BitVec 12) : Bool := m.getLsbD 1
def spGoff (m : BitVec 12) : Nat := (m.extractLsb' 2 10).toNat

/-- The value of a register's bits. -/
def spNum (fp : Bool) (b : Nat) : Num := if fp then fF32.decode b else spVal b

/-- One rounding of an exact result. -/
def spRound (fp : Bool) (r : Num × Bool) : Nat × BitVec 8 := if fp then f32Round r else toSp r.1

def spMul (fp : Bool) (a b : Nat) : Nat × BitVec 8 := spRound fp ((spNum fp a).mul (spNum fp b))
def spAdd (fp : Bool) (a b : Nat) : Nat × BitVec 8 := spRound fp ((spNum fp a).add (spNum fp b))

/-- w × (l + r), exact inside, one rounding. -/
def spWsum (fp : Bool) (w l r : Nat) : Nat × BitVec 8 :=
  let x := spNum fp w
  let s := (spNum fp l).add (spNum fp r)
  if x.isNan then spRound fp (.nan, false)
  else let p := x.mul s.1; spRound fp (p.1, p.2 || s.2)

/-- The left of two values is the maximum (R257): a NaN is greater than every number, -0 below +0, equal values keep the
left. -/
def spLeftMax (fp : Bool) (l r : Nat) : Bool :=
  let a := spNum fp l
  let b := spNum fp r
  if a.isNan then true else if b.isNan then false else !a.below b

/-! ### Passes -/

/-- A pass as it runs: values or gradients by position, the registers read, flags, and whether it met a shape fault. -/
structure SpRun where
  vals : SMap (Option Nat) := []
  reads : List Nat := []
  flags : BitVec 8 := 0
  fault : Bool := false
  deriving DecidableEq, Repr

/-- What a pass works on: the registers, the entries and the mode at dispatch. -/
structure SpEnv where
  v : SMap (BitVec 32)
  sh : Nat
  ls : Nat
  mode : BitVec 12
  deriving DecidableEq, Repr

/-- A register's bits. -/
def SpEnv.reg (e : SpEnv) (n : Nat) : Nat := (sget 0 e.v n).toNat

/-- Read a register. -/
def SpRun.rd (r : SpRun) (n : Nat) : SpRun := { r with reads := n :: r.reads }

/-- The value at a position. -/
def SpRun.val (r : SpRun) (p : Nat) : Nat := (sget none r.vals p).getD 0

/-- Give a position a value. -/
def SpRun.put (r : SpRun) (p : Nat) (x : Nat × BitVec 8) : SpRun :=
  { r with vals := sset none r.vals p (some x.1), flags := r.flags ||| x.2 }

/-- The single present child a node passes on, when it acts as a bypass (R253). -/
def spOnly (sh i : Nat) : Option Nat :=
  let l := spPresent sh (2 * i)
  let r := spPresent sh (2 * i + 1)
  if spKind sh i = 0 then some (2 * i) else if l && r then none else if l then some (2 * i) else some (2 * i + 1)

/-- A node multiplies by its weight: a weighted sum in sum mode. -/
def SpEnv.weighted (e : SpEnv) (i : Nat) : Bool := spKind e.sh i == 3 && !spMax e.mode

/-- A value that a node passes on as it is, as the engine writes it: an SP32 zero is all zero bits (R28), and a NaN is the
canonical one (R22). -/
def spKeep (fp : Bool) (b : Nat) : Nat := if fp then (if (fF32.decode b).isNan then 0x7FC00000 else b) else spClean b

/-- One node of the upward pass (R256). -/
def SpEnv.upNode (e : SpEnv) (r : SpRun) (i : Nat) : SpRun :=
  let fp := spFp e.mode
  let w := spWReg e.ls i
  if !spPresent e.sh i then r
  else match spOnly e.sh i with
    | some c => if e.weighted i then (r.rd w).put i (spMul fp (e.reg w) (r.val c)) else r.put i (spKeep fp (r.val c), 0)
    | none =>
      let a := r.val (2 * i)
      let b := r.val (2 * i + 1)
      if spKind e.sh i = 1 then r.put i (spAdd fp a b)
      else if spKind e.sh i = 2 then r.put i (spMul fp a b)
      else if spMax e.mode then r.put i (spKeep fp (if spLeftMax fp a b then a else b), 0)
      else (r.rd w).put i (spWsum fp (e.reg w) a b)

/-- The upward pass (R256): the run, and the writes in order with DEST last. -/
def SpEnv.up (e : SpEnv) (dest : Nat) : SpRun × List (Nat × Nat) :=
  let leaves := (upFrom 0 16).foldl (fun (r : SpRun) j =>
    if spPresent e.sh (16 + j) then let n := spLeafReg e.ls j; (r.rd n).put (16 + j) (e.reg n, 0) else r) {}
  let r := (upFrom 1 15).reverse.foldl e.upNode leaves
  let saves := ((upFrom 1 15).filter fun i => spPresent e.sh i && spSave e.ls i).map fun i => (spSaveReg e.ls i, r.val i)
  (r, saves ++ [(dest, r.val (spRoot e.sh))])

/-- The value of a child or sibling in the downward pass: from its leaf register or its save register (R258). -/
def SpEnv.saved (e : SpEnv) (r : SpRun) (p : Nat) : SpRun × Nat :=
  if 16 ≤ p then let n := spLeafReg e.ls (p - 16); (r.rd n, e.reg n)
  else if spSave e.ls p then let n := spSaveReg e.ls p; (r.rd n, e.reg n)
  else ({ r with fault := true }, 0)

/-- One node of the downward pass (R258): nothing passes through a node that no gradient reached. -/
def SpEnv.downNode (e : SpEnv) (r : SpRun) (i : Nat) : SpRun :=
  let fp := spFp e.mode
  let w := spWReg e.ls i
  match sget none r.vals i with
  | none => r
  | some g =>
    match spOnly e.sh i with
    | some c => if e.weighted i then (r.rd w).put c (spMul fp g (e.reg w)) else r.put c (g, 0)
    | none =>
      if spKind e.sh i = 1 then (r.put (2 * i) (g, 0)).put (2 * i + 1) (g, 0)
      else if spKind e.sh i = 2 then
        let a := e.saved r (2 * i)
        let b := e.saved a.1 (2 * i + 1)
        (b.1.put (2 * i) (spMul fp g b.2)).put (2 * i + 1) (spMul fp g a.2)
      else if spMax e.mode then
        let a := e.saved r (2 * i)
        let b := e.saved a.1 (2 * i + 1)
        b.1.put (if spLeftMax fp a.2 b.2 then 2 * i else 2 * i + 1) (g, 0)
      else
        let x := spMul fp g (e.reg w)
        ((r.rd w).put (2 * i) x).put (2 * i + 1) x

/-- The downward pass (R258): the run, and the gradient registers written in ascending leaf order. -/
def SpEnv.down (e : SpEnv) (dest : Nat) : SpRun × List (Nat × Nat) :=
  let fp := spFp e.mode
  let r := (upFrom 1 15).foldl e.downNode ((({} : SpRun).rd dest).put (spRoot e.sh) (e.reg dest, 0))
  (upFrom 0 16).foldl (fun (acc : SpRun × List (Nat × Nat)) j =>
    match sget none acc.1.vals (16 + j) with
    | none => acc
    | some g =>
      let n := (spLeafReg e.ls j + spGoff e.mode) % 1024
      let old := (acc.2.reverse.find? fun w => w.1 == n).elim (e.reg n) Prod.snd
      let x := spAdd fp old g
      ({ acc.1.rd n with flags := acc.1.flags ||| x.2 }, acc.2 ++ [(n, x.1)])) (r, [])

/-- Renormalisation (R261, R267). DEDUCED (notes/assumptions/19.md). -/
def SpEnv.norm (e : SpEnv) (dest : Nat) : SpRun × List (Nat × Nat) :=
  let fp := spFp e.mode
  let mem := (((upFrom 0 16).filter fun j => bitOf e.sh (30 + j)).map (spLeafReg e.ls)).reverse.dedup.reverse
  let logs := mem.filterMap fun n => match spNum fp (e.reg n) with | .fin _ m x => if m = 0 then none else some (msbExp m x) | _ => none
  let k : Int := match logs with | [] => 0 | a :: l => l.foldl max a
  let out := mem.map fun n =>
    match spNum fp (e.reg n) with
    | .fin s m x => (n, spRound fp (.fin s m (x - k), false))
    | _ => (n, (e.reg n, 0))
  let c := clampInt (intRange 0x04) (toSInt 32 (e.reg dest) + k)
  ({ reads := dest :: mem
     flags := (out.foldl (fun f o => f ||| o.2.2) (0 : BitVec 8)) ||| (if c.2 then flagSAT else 0) },
   out.map (fun o => (o.1, o.2.1)) ++ [(dest, intBits 32 c.1)])

/-! ### Banks and timing (R259) -/

/-- The largest number of entries that share a bank. -/
def bankMost (l : List Nat) : Nat := (l.map fun n => (l.filter fun m => m % 32 == n % 32).length).foldl max 0

/-- ρ: the ticks of the read phase. -/
def spRho (reads : List Nat) : Nat := max 1 (ceilDiv (bankMost reads.dedup) 2)

/-- ω: the ticks of the writes. -/
def spOmega (writes : List Nat) : Nat := max 1 (bankMost writes)

/-- Write ports that running words still use, by tick and bank. -/
def Strand.portsTaken (c : Strand) : List (Nat × Nat) := c.running.flatMap Running.wbanks

/-- How far a write in a bank moves from a tick so that its port is free. -/
def portWait (taken : List (Nat × Nat)) (bank : Nat) : Nat → Nat → Nat
  | 0, _ => 0
  | fuel + 1, t => if taken.contains (t, bank) then portWait taken bank fuel (t + 1) + 1 else 0

/-- Place the writes of a word that begin at tick t, row by row: `left` holds the banks still to write, once for each
write. Gives the ports taken and δ. DEDUCED (notes/assumptions/19.md). -/
def placeWrites (taken : List (Nat × Nat)) : Nat → Nat → List Nat → List (Nat × Nat) × Nat
  | 0, _, _ => ([], 0)
  | fuel + 1, t, left =>
    let row := left.dedup
    if row.isEmpty then ([], 0)
    else
      let waits := row.map fun b => (b, portWait taken b (taken.length + 1) t)
      let moved := (waits.map Prod.snd).foldl max 0
      let rest := row.foldl (fun l b => l.erase b) left
      let x := placeWrites taken fuel (t + moved + 1) rest
      (waits.map (fun e => (t + e.2, e.1)) ++ x.1, moved + x.2)

/-! ### Enqueue -/

/-- A word that names no handle. -/
def spPlain (i : Instr) : EngSpec := plainSpec 5 i []

/-- Bytes that a handle's sweep holds. -/
def spBytes (h : HRec) : Nat := hElems h * fmtStore (hFmt h) / 8

/-- SPSHAPE's and SPLIST's checks (R265): entries of `size` bytes into a table of `top` from `first` on.
DEDUCED (notes/assumptions/19.md). -/
def spTableCheck (fmts : List Nat) (size first top h : Nat) (s : State) : Option (Nat × Word) :=
  let r := s.rh h
  let b := spBytes r
  if !fmts.contains (hFmt r) || b % size != 0 || b == 0 || decide (top < first + b / size) then
    some (Cause.illegal, BitVec.ofNat 64 h)
  else none

/-- SPLD's and SPST's checks (R266). -/
def spMoveCheck (i : Instr) (fmts : List Nat) (store : Bool) (h : Nat) (s : State) : Option (Nat × Word) :=
  let r := s.rh h
  if !fmts.contains (hFmt r) || hElems r == 0 || decide (1024 < hElems r) || (store && hGet r 10 != 0) then
    some (Cause.illegal, wordTval i)
  else none

/-- A word that names a handle. -/
def spMem (i : Instr) (h : BitVec 4) (write : Bool) (own : State → Option (Nat × Word)) : EngSpec where
  queue := 5
  named := [.hdl 0 h.toNat]
  portTval := fun _ => wordTval i
  own := own
  opnds := fun s => [s.hdlOpnd 0 h.toNat (!write) write false]

/-- SPUP (R263). -/
def execSpup (g : Ctl) (shape : BitVec 8) (list dest : BitVec 10) (s : State) : Host.Outcome State Fault Refusal :=
  enqueue (.spup g shape list dest) (noSem g) (spPlain (.spup g shape list dest)) s

/-- SPDN (R263). -/
def execSpdn (g : Ctl) (shape : BitVec 8) (list dest : BitVec 10) (s : State) : Host.Outcome State Fault Refusal :=
  enqueue (.spdn g shape list dest) (noSem g) (spPlain (.spdn g shape list dest)) s

/-- SPMODE (R264). -/
def execSpmode (g : Ctl) (fp mx : BitVec 1) (goff : BitVec 10) (s : State) : Host.Outcome State Fault Refusal :=
  enqueue (.spmode g fp mx goff) (noSem g) (spPlain (.spmode g fp mx goff)) s

/-- SPSHAPE (R265). -/
def execSpshape (g : Ctl) (shape : BitVec 8) (h : BitVec 4) (s : State) : Host.Outcome State Fault Refusal :=
  enqueue (.spshape g shape h) (noSem g)
    (spMem (.spshape g shape h) h false (spTableCheck [0x0F, 0x00] 8 shape.toNat 256 h.toNat)) s

/-- SPLIST (R265). -/
def execSplist (g : Ctl) (list : BitVec 10) (h : BitVec 4) (s : State) : Host.Outcome State Fault Refusal :=
  enqueue (.splist g list h) (noSem g) (spMem (.splist g list h) h false (spTableCheck [0x00] 64 list.toNat 1024 h.toNat)) s

/-- SPLD (R266). -/
def execSpld (g : Ctl) (h : BitVec 4) (dest : BitVec 10) (s : State) : Host.Outcome State Fault Refusal :=
  enqueue (.spld g h dest) (noSem g)
    (spMem (.spld g h dest) h false (spMoveCheck (.spld g h dest) [0x01, 0x0E, 0x04] false h.toNat)) s

/-- SPLD.CVT (R266). -/
def execSpldCvt (g : Ctl) (h : BitVec 4) (dest : BitVec 10) (s : State) : Host.Outcome State Fault Refusal :=
  enqueue (.spldCvt g h dest) (noSem g)
    (spMem (.spldCvt g h dest) h false (spMoveCheck (.spldCvt g h dest) [0x01] false h.toNat)) s

/-- SPST (R266). -/
def execSpst (g : Ctl) (h : BitVec 4) (dest : BitVec 10) (s : State) : Host.Outcome State Fault Refusal :=
  enqueue (.spst g h dest) (noSem g)
    (spMem (.spst g h dest) h true (spMoveCheck (.spst g h dest) [0x01, 0x0E, 0x04] true h.toNat)) s

/-- SPST.CVT (R266). -/
def execSpstCvt (g : Ctl) (h : BitVec 4) (dest : BitVec 10) (s : State) : Host.Outcome State Fault Refusal :=
  enqueue (.spstCvt g h dest) (noSem g)
    (spMem (.spstCvt g h dest) h true (spMoveCheck (.spstCvt g h dest) [0x01] true h.toNat)) s

/-- SPNORM (R267). -/
def execSpnorm (g : Ctl) (shape : BitVec 8) (list dest : BitVec 10) (s : State) : Host.Outcome State Fault Refusal :=
  enqueue (.spnorm g shape list dest) (noSem g) (spPlain (.spnorm g shape list dest)) s

/-- SPSYNC (R268): its semaphore fields await at dispatch and raise at completion. -/
def execSpsync (g : Ctl) (sw sr : BitVec 6) (s : State) : Host.Outcome State Fault Refusal :=
  enqueue (.spsync g sw sr) { pg := g.pg, hold := g.hold, sw := sw, sr := sr } (spPlain (.spsync g sw sr)) s

/-- SPCLR (R269). -/
def execSpclr (g : Ctl) (n dest : BitVec 10) (s : State) : Host.Outcome State Fault Refusal :=
  enqueue (.spclr g n dest) (noSem g) (spPlain (.spclr g n dest)) s

/-! ### Dispatch -/

/-- What a pass dispatched now works on. -/
def State.spEnv (s : State) (shape list : Nat) : SpEnv :=
  { v := s.cur.v, sh := (sget 0 s.cur.shapes shape).toNat, ls := (sget 0 s.cur.lists list).toNat, mode := s.cur.spmode }

/-- A pass: its run, its writes, its height; it reads its entries at dispatch. DEDUCED (notes/assumptions/19.md). -/
def State.spPass (s : State) : Instr → Option (SpRun × List (Nat × Nat) × Nat)
  | .spup _ sh ls d =>
    let e := s.spEnv sh.toNat ls.toNat
    let x := e.up d.toNat
    some (if spFault e.sh then ({ fault := true }, [], 0) else (x.1, x.2, 4 - (spRoot e.sh).log2))
  | .spdn _ sh ls d =>
    let e := s.spEnv sh.toNat ls.toNat
    let x := e.down d.toNat
    some (if spFault e.sh then ({ fault := true }, [], 0)
          else (x.1, if x.1.fault then [] else x.2, 4 - (spRoot e.sh).log2))
  | .spnorm _ sh ls d =>
    let x := (s.spEnv sh.toNat ls.toNat).norm d.toNat
    some (x.1, x.2, 1)
  | _ => none

/-- Registers counted upwards from one, modulo 1024. -/
def spRegs (d n : Nat) : List Nat := (upFrom 0 n).map fun i => (d + i) % 1024

/-- The registers that a word reads and writes, were it to dispatch now. -/
def State.spSets (s : State) (w : QWord) : List Nat × List Nat :=
  match s.spPass w.instr with
  | some p => (p.1.reads, p.2.1.map Prod.fst)
  | none =>
    match w.instr with
    | .spld _ _ d => ([], spRegs d.toNat (hElems (w.rec_ 0)))
    | .spldCvt _ _ d => ([], spRegs d.toNat (hElems (w.rec_ 0)))
    | .spst _ _ d => (spRegs d.toNat (hElems (w.rec_ 0)), [])
    | .spstCvt _ _ d => (spRegs d.toNat (hElems (w.rec_ 0)), [])
    | .spclr _ n d => ([], spRegs d.toNat (n.toNat + 1))
    | _ => ([], [])

/-- A memory word (R262). -/
def spIsMem : Instr → Bool
  | .spshape _ _ _ => true
  | .splist _ _ _ => true
  | .spld _ _ _ => true
  | .spldCvt _ _ _ => true
  | .spst _ _ _ => true
  | .spstCvt _ _ _ => true
  | _ => false

/-- The shape and list entries that a pass reads. -/
def spEntries : Instr → Option (Nat × Nat)
  | .spup _ sh ls _ => some (sh.toNat, ls.toNat)
  | .spdn _ sh ls _ => some (sh.toNat, ls.toNat)
  | .spnorm _ sh ls _ => some (sh.toNat, ls.toNat)
  | _ => none

/-- The engine accepts the word now (R260, R262). The end of the previous word's read phase is the queue's own. -/
def State.spAccepts (s : State) (w : QWord) : Bool :=
  let run := s.cur.running.filter fun r => r.word.queue == 5
  let sets := s.spSets w
  let regs := sets.1 ++ sets.2
  (match spEntries w.instr with
    | some e => decide ((run.filter Running.tree).length < 8)
        && !(run.any fun r => r.tables.any fun t => (t.1 == 0 && t.2.1 == e.1) || (t.1 == 1 && t.2.1 == e.2))
    | none => true)
    && !(spIsMem w.instr && run.any fun r => spIsMem r.word.instr)
    && !(run.any fun r => r.wregs.any regs.contains)

/-- Plan a word's writes from a tick on: the tick after the last, the ports taken and δ. -/
def State.spPlan (s : State) (t : Nat) (writes : List Nat) : Nat × List (Nat × Nat) × Nat :=
  let x := placeWrites s.cur.portsTaken (writes.length + 1) t (writes.map (· % 32))
  (t + spOmega writes + x.2, x.1, x.2)

/-- The word as one that writes registers from time t on: they are written at its completion, and their write ports taken row by
row (R259). -/
def State.spWrites (s : State) (x : Running) (t : Nat) (writes : List (Nat × Nat)) : Running :=
  let y := s.spPlan (x.disp + t) (writes.map Prod.fst)
  { x with
    comp := some (y.1 - x.disp), fin := y.1 - x.disp, bound := y.1 - x.disp
    wregs := writes.map Prod.fst, wbanks := y.2.1, tables := writes.map fun e => (2, e.1, e.2) }

/-- Dispatch a pass (R253, R259, R263): a shape fault discards the word, and its strand takes an illegal word.
DEDUCED (notes/assumptions/19.md). -/
def dispPass (w : QWord) (p : SpRun × List (Nat × Nat) × Nat) (s : State) : State :=
  if p.1.fault then raiseAsync { code := Cause.illegal, tval := w.pc, tpc := none } s
  else
    let rho := spRho p.1.reads
    s.start { s.spWrites (s.running w 0 rho) (rho + 4 * p.2.2) p.2.1 with flags := p.1.flags, tree := true }

/-- Dispatch SPMODE (R264). -/
def dispSpmode (w : QWord) (fp mx : BitVec 1) (goff : BitVec 10) (s : State) : State :=
  let t := s.modCur fun c => { c with spmode := goff ++ mx ++ fp }
  t.start (t.running w 1 1)

/-- Elements of one 512-byte segment of a record. -/
def spPer (h : HRec) : Nat := 512 / (fmtStore (hFmt h) / 8)

/-- Elements of segment k of a record's sweep: the first and how many. -/
def spSeg (h : HRec) (k : Nat) : Nat × Nat := (spPer h * k, min (spPer h) (copyCount h - spPer h * k))

/-- The reads of a memory word's next segment (R265, R266, R162). -/
def spWant (r : Run) : List Req :=
  let h := r.w.word.rec_ 0
  let e := spSeg h r.w.st.k
  spanReqs h e.1 e.2

/-- Numbers of `k` nibbles each. -/
def nibWords (k : Nat) : Nat → List Nat → List Nat
  | 0, _ => []
  | n + 1, l => ((l.take k).foldr (fun d v => d + 16 * v) 0) :: nibWords k n (l.drop k)

/-- A word's planned writes, in the order of their ticks, among writes that have moved: one that finds its port taken moves, with every
later write (R259). `tick` is the tick of the writes before, which have moved by `base`, and `top` how far the last of that tick moved. -/
def shiftWrites (taken : List (Nat × Nat)) : Nat → Nat → Nat → List (Nat × Nat) → List (Nat × Nat) × Nat
  | _, _, top, [] => ([], top)
  | tick, base, top, e :: r =>
    let base := if tick < e.1 then top else base
    let k := base + portWait taken e.2 (taken.length + 1) (e.1 + base)
    let x := shiftWrites taken e.1 base (max top k) r
    ((e.1 + k, e.2) :: x.1, x.2)

/-- The words dispatched after one whose writes have moved make way for them, and find the ports of the words dispatched before it taken
as well (R259). DEDUCED (notes/assumptions/19.md). -/
def State.makeWay (s : State) (seq : Nat) (own : List (Nat × Nat)) : State :=
  s.modCur fun c =>
    let taken := (c.running.filter fun x => decide (x.word.seq < seq)).flatMap Running.wbanks ++ own
    { c with running := (c.running.foldl (fun (acc : List Running × List (Nat × Nat)) x =>
    if x.word.queue = 5 ∧ seq < x.word.seq then
      let y := shiftWrites acc.2 0 0 0 x.wbanks
      (acc.1 ++ [{ x with wbanks := y.1, comp := x.comp.map (· + y.2), fin := x.fin + y.2, bound := x.bound + y.2 }], acc.2 ++ y.1)
    else (acc.1 ++ [x], acc.2)) ([], taken)).1 }

/-- The reads of a memory word are over: the entries of SPSHAPE and SPLIST, or the registers of SPLD (R265, R266). Reads that
were held move the writes of the registers, and those of words dispatched later make way (R259).
DEDUCED (notes/assumptions/19.md). -/
def spLoaded (r : Run) (nibs : List Nat) : Run :=
  let table := fun (which first size : Nat) =>
    { r with w := { r.w with tables := (nibWords (2 * size) (nibs.length / (2 * size)) nibs).zipIdx.map fun e => (which, first + e.2, e.1) } }
  let load := fun (cvt : Bool) =>
    let vals := (nibWords 8 (hElems (r.w.word.rec_ 0)) nibs).map fun v => if cvt then toSp (fF32.decode v) else (v, 0)
    let r := vals.foldl (fun r v => r.flag v.2) r
    let put := fun x : Running => { x with tables := (List.zip r.w.wregs (vals.map Prod.fst)).map fun e => (2, e.1, e.2) }
    if r.w.moved = 0 then { r with w := put r.w }
    else
      let free := r.s.modCur fun c => { c with running := c.running.filter fun x => decide (x.word.seq < r.w.word.seq) }
      let y := free.spWrites { r.w with disp := r.w.disp + r.w.moved } r.w.st.t (r.w.wregs.map fun k => (k, 0))
      { s := r.s.makeWay r.w.word.seq y.wbanks, w := put { y with disp := r.w.disp, fin := r.w.fin, bound := r.w.bound } }
  match r.w.word.instr with
  | .spshape _ shape _ => table 0 shape.toNat 8
  | .splist _ list _ => table 1 list.toNat 64
  | .spld _ _ _ => load false
  | .spldCvt _ _ _ => load true
  | _ => r

/-- A memory word takes its next segment, one a tick (R265, R266). -/
def spTake (r : Run) (got : List (List Byte)) : Run :=
  let h := r.w.word.rec_ 0
  let k := r.w.st.k
  let e := spSeg h k
  let nibs := r.w.st.res ++ spanGot h e.1 e.2 got
  if e.1 + e.2 < copyCount h then
    (r.count fun c => { c with k := k + 1, res := nibs }).at_ (some (r.w.time + 1))
  else spLoaded ((r.count fun c => { c with res := [] }).at_ none) nibs

/-- Dispatch SPSHAPE or SPLIST (R265): the entries are written at completion. -/
def dispTable (w : QWord) (which first size : Nat) (s : State) : State :=
  let h := w.rec_ 0
  let p := s.pathOf h
  let b := spBytes h
  s.start
    { s.running w (p.setup + ceilDiv b p.rate + p.rd + 1) 1 with
      next := some p.setup, tables := (upFrom 0 (b / size)).map fun i => (which, first + i, 0) }

/-- Dispatch SPLD (R266). -/
def dispSpld (w : QWord) (d : Nat) (s : State) : State :=
  let h := w.rec_ 0
  let p := s.pathOf h
  let n := hElems h
  let t := p.setup + ceilDiv (4 * n) p.rate + p.rd
  s.start { s.spWrites (s.running w 0 1) t ((spRegs d n).map fun k => (k, 0)) with next := some p.setup, st := { t := t } }

/-- Dispatch SPST (R266): it reads its registers from its dispatch on, and writes segment by segment. -/
def dispSpst (w : QWord) (d : Nat) (cvt : Bool) (s : State) : State :=
  let h := w.rec_ 0
  let p := s.pathOf h
  let n := hElems h
  let rho := spRho (spRegs d n)
  let vals := (spRegs d n).map fun k =>
    let b := (sget 0 s.cur.v k).toNat
    if cvt then f32Round (spVal b, false) else (b, 0)
  let r : Run := vals.foldl (fun r v => r.flag v.2) { s := s, w := s.running w 0 rho }
  let nibs := vals.flatMap fun v => (upFrom 0 8).map fun j => v.1 / 16 ^ j % 16
  let last := rho + p.setup + p.wr + ceilDiv (4 * n) p.rate
  let r := (upFrom 0 (ceilDiv n 128)).foldl (fun r k =>
    Run.outSpan h (rho + p.setup + p.wr + ceilDiv (min (4 * n) (512 * (k + 1))) p.rate) 1025 r (128 * k)
      ((nibs.drop (1024 * k)).take 1024)) r
  s.start { r.w with comp := some last, fin := last, bound := last }

/-- Dispatch SPSYNC (R268): it completes when every earlier word of the queue has. DEDUCED (notes/assumptions/19.md). -/
def dispSpsync (w : QWord) (s : State) : State :=
  s.modCur fun c => { c with running := c.running ++ [{ word := w, disp := s.z0, accept := some 1 }] }

/-- SPSYNC may complete (R268). -/
def State.spsyncDone (s : State) (r : Running) : Bool :=
  decide (r.disp < s.z0) && !(s.cur.running.any fun x => x.word.queue == 5 && decide (x.word.seq < r.word.seq))

/-- Dispatch SPCLR (R269). -/
def dispSpclr (w : QWord) (n d : Nat) (s : State) : State :=
  s.start (s.spWrites (s.running w 0 1) 0 ((spRegs d n).map fun k => (k, 0)))

end Sys2Proof.Machine
end

