-- ==== Sys2Proof/Machine/Serve.lean ====
section
/-! DEFINITION. The engine steps of one tick, over every running word of the package: bank service (R142), the reads of the
steps that are due, the steps themselves, the writes that are due, what the endpoints send (R188), and the words' clocks
(R105, R166, R198). -/

namespace Sys2Proof.Machine

/-! ### Families -/

/-- The reads that a word's next step makes. -/
def Run.want (r : Run) : List Req :=
  match vecForm r.w.word.instr, mForm r.w.word.instr with
  | some f, _ => f.want r
  | none, some f => f.want r
  | none, none =>
    match r.w.word.instr with
    | .cpy _ _ _ _ => copyWant r
    | .cpym _ _ _ _ => copyWant r
    | .lpush _ _ _ => pushWant r
    | .gath _ _ _ b _ => gatherWant .gath b.toNat r
    | .scat _ _ _ b _ => gatherWant .scat b.toNat r
    | .scatadd _ _ _ b _ => gatherWant .scatadd b.toNat r
    | .msum _ _ _ f gm _ => msumWant f.toNat (gm.toNat + 1) r
    | .mscale _ d => [r.popReq d.toNat]
    | .spshape _ _ _ => spWant r
    | .splist _ _ _ => spWant r
    | .spld _ _ _ => spWant r
    | .spldCvt _ _ _ => spWant r
    | _ => []

/-- A word takes the step that is due, with what its reads delivered. -/
def Run.take (r : Run) (got : List (List Byte)) : Run :=
  match vecForm r.w.word.instr, mForm r.w.word.instr with
  | some f, _ => f.take r got
  | none, some f => f.take r got
  | none, none =>
    match r.w.word.instr with
    | .cpy _ _ _ _ => copyTake r got
    | .cpym _ _ _ _ => copyTake r got
    | .lpush _ _ _ => pushTake r got
    | .gath _ _ _ b _ => gatherTake .gath b.toNat r got
    | .scat _ _ _ b _ => gatherTake .scat b.toNat r got
    | .scatadd _ _ _ b _ => gatherTake .scatadd b.toNat r got
    | .mdrain _ bank zero d => drainTake bank.toNat d.toNat (zero == 1) r
    | .msum _ bank side f gm _ => msumTake bank.toNat (side == 1) f.toNat (gm.toNat + 1) r got
    | .mscale _ d => mscaleTake d.toNat r got
    | .frenew _ _ _ => renewTake r
    | .spshape _ _ _ => spTake r got
    | .splist _ _ _ => spTake r got
    | .spld _ _ _ => spTake r got
    | .spldCvt _ _ _ => spTake r got
    | _ => r.at_ none

/-- A gather word. -/
def Run.isGather (r : Run) : Bool := majOf r.w.word.instr == 0x32

/-- A step that has made its reads waits for something else: a gather word's for writes of its own (R274), and FRENEW's, which is
taken after every write of its tick (R169). -/
def Run.stuck (r : Run) : Bool :=
  match r.w.word.instr with
  | .frenew _ _ _ => true
  | _ => r.isGather && gatherHeld r

/-- The word may stop before its next step when a pre-emption reaches it (R105, R208, R230, R315): an elementwise word between steps,
a reduction, scan or sort between runs, a block conversion between destination vectors, a K-step word at a K-step boundary before its
first or next K-step, a drain before a row, a copy before a segment, a gather before an index vector. Every other word goes on to its
end. DEDUCED (notes/assumptions/26.md). -/
def Running.atBoundary (w : Running) : Bool :=
  match vecForm w.word.instr, mForm w.word.instr with
  | some f, _ => (match f.kind with
    | .redx _ => false
    | .extr => false
    | .quant => w.st.i == 0 || w.st.edge
    | .dequant => w.st.i == 0 || w.st.edge
    | _ => w.st.i == 0)
  | none, some _ =>
    w.st.plan.all fun c => !(decide (c.2.2 < w.time ∧ w.time < c.2.2 + w.fig.rd * w.fig.setup) && (w.time - c.2.2) % w.fig.setup != 0)
  | none, none =>
    match w.word.instr with
    | .cpy _ _ _ _ => true
    | .cpym _ _ _ _ => true
    | .gath _ _ _ _ _ => w.st.i == 0
    | .scat _ _ _ _ _ => w.st.i == 0
    | .scatadd _ _ _ _ _ => w.st.i == 0
    | .mdrain _ _ _ _ => true
    | _ => false

/-! ### Words -/

/-- A strand and one of its running words. -/
abbrev WordId := (Bool × Nat × Nat) × Nat

/-- A strand's name. -/
def Strand.who (c : Strand) : Bool × Nat × Nat := (c.prio, c.vdie, c.cell)

/-- Focus a strand by name. -/
def State.focusWho (s : State) (w : Bool × Nat × Nat) : State := s.focus fun c => c.is w.1 w.2.1 w.2.2

/-- A running word in its machine. -/
def State.runOf (s : State) (i : WordId) : Option Run :=
  let t := s.focusWho i.1
  (t.cur.running.find? fun x => x.word.seq == i.2).map fun w => { s := t, w := w }

/-- Put a word back among its strand's running ones. -/
def Run.put (r : Run) : State :=
  r.s.modCur fun c => { c with running := c.running.map fun x => if x.word.seq = r.w.word.seq then r.w else x }

/-- Act on a running word. -/
def State.onWord (i : WordId) (f : Run → Run) (s : State) : State :=
  match s.runOf i with | some r => (f r).put | none => s

/-- Act on every word of a list, in order. -/
def State.onWords (l : List WordId) (f : Run → Run) (s : State) : State := l.foldl (fun t i => t.onWord i f) s

/-- The word stands at a boundary at which a pre-emption holds its next step back (R105, R315). -/
def Running.halts (w : Running) : Bool := w.next.isSome && !w.asked && w.atBoundary

/-- A pre-emption holds the word's next step back (R315). -/
def Run.frozen (r : Run) (stopping : Bool) : Bool := stopping && r.w.halts

/-- The word's next step is due at this tick. -/
def Run.stepDue (r : Run) : Bool := r.w.next.any (· ≤ r.w.time) && !r.w.paused

/-- A word states the reads of the step that is due, each with its granule. -/
def Run.ask (r : Run) : Run :=
  if r.stepDue && !r.w.asked then
    { r with w := { r.w with
        asked := true, pieces := (piecesOf r.want).map fun p => { p with gran := r.s.granAt p.space p.addr } } }
  else r

/-- Whether a granule lies in the scratchpad of the word's own cell. -/
def Run.ownGran (r : Run) (g : Nat) : Bool := g / 2 ^ 16 == r.s.slotNo * 16 + r.s.cur.cell

/-- Reserve banks for the reads of a word's step that a test selects, by port and by whether the granule is the cell's own
(R142): what one step reads of a granule through one port is one access. -/
def Run.reserveReads (sel : Nat → Bool → Bool) (r : Run) : Run :=
  let x := r.w.pieces.foldl (fun (acc : State × List Piece) p =>
    match p.gran, p.svc with
    | some g, none =>
      match acc.2.find? fun q => q.gran == some g && q.port == p.port with
      | some q => (acc.1, acc.2 ++ [{ p with svc := q.svc }])
      | none =>
        if sel p.port (r.ownGran g) then let y := acc.1.serveBank g; (y.1, acc.2 ++ [{ p with svc := some y.2 }])
        else (acc.1, acc.2 ++ [p])
    | _, _ => (acc.1, acc.2 ++ [p])) (r.s, [])
  { s := x.1, w := { r.w with pieces := x.2 } }

/-- Reserve banks for the writes of a word that are due, likewise: what one tick writes of a granule through one port is one
access. -/
def Run.reserveWrites (sel : Nat → Bool → Bool) (r : Run) : Run :=
  let x := r.w.outs.foldl (fun (acc : State × List Out) o =>
    match (if o.at_ ≤ r.w.wt ∧ o.svc.isNone then r.s.granAt o.space o.addr else none) with
    | some g =>
      match acc.2.find? fun q => q.at_ == o.at_ && q.port == o.port && r.s.granAt q.space q.addr == some g with
      | some q => (acc.1, acc.2 ++ [{ o with svc := q.svc }])
      | none =>
        if sel o.port (r.ownGran g) then let y := acc.1.serveBank g; (y.1, acc.2 ++ [{ o with svc := some y.2 }])
        else (acc.1, acc.2 ++ [o])
    | none => (acc.1, acc.2 ++ [o])) (r.s, [])
  { s := x.1, w := { r.w with outs := x.2 } }

/-- Reserve banks for the accesses of a word that a test selects. -/
def Run.reserve (sel : Nat → Bool → Bool) (r : Run) : Run := (r.reserveReads sel).reserveWrites sel

/-- Reserve banks for the writes of a word that are due, and make those that a test admits. -/
def Run.writeSel (sel : Run → Out → Bool) (r : Run) : Run := (r.reserveWrites fun _ _ => true).writeDue sel (r.w.outs.length + 1)

/-- Reserve banks for the writes of a word that are due, and make them. -/
def Run.writeAll (r : Run) : Run := r.writeSel fun _ _ => true

/-- Some write of the word is due. -/
def Running.writesNow (w : Running) : Bool := w.outs.any fun o => decide (o.at_ ≤ w.wt)

/-- Make the planned writes that are due, ports q0 to q11 in port-number order and then what goes through no port, but for those that
reach another die's tiles through its window (R142, R167). DESIGN CHOICE (notes/assumptions/38.md). -/
def State.writePorts (s : State) (l : List WordId) : State :=
  let ws := l.filter fun i => (s.runOf i).any fun r => r.w.writesNow
  (upFrom 0 13).foldl (fun (s : State) q =>
    s.onWords ws fun r => r.writeDue (fun r o => decide (o.port ≤ q) && !r.foreign o) (r.w.outs.length + 1)) s

/-- Some access of the word waits for a bank. -/
def Running.wantsBank (w : Running) : Bool :=
  w.pieces.any (fun p => p.gran.isSome && p.svc.isNone) || w.outs.any fun o => o.at_ ≤ w.wt && o.svc.isNone

/-- The scratchpad granule that a scalar access of the focused strand reaches (R96, R142). -/
def State.scalarGran (s : State) (p : PendOp) : Option Nat :=
  match p.act with
  | .sample _ acc _ _ _ => s.granOf acc.phys
  | .store acc _ _ => s.granOf acc.phys
  | _ => none

/-- Reserve banks for the scalar accesses of the focused strand that may be made at this tick and that a test selects. -/
def State.reserveScalar (ready : State → PendOp → Bool) (own : Bool) (s : State) : State :=
  let x := s.cur.pend.foldl (fun (acc : State × List PendOp) p =>
    match s.scalarGran p, p.svc with
    | some g, none =>
      if (g / 2 ^ 16 == s.slotNo * 16 + s.cur.cell) == own && ready s p then
        let y := acc.1.serveBank g; (y.1, acc.2 ++ [{ p with svc := some y.2 }])
      else (acc.1, acc.2 ++ [p])
    | _, _ => (acc.1, acc.2 ++ [p])) (s, [])
  x.1.modCur fun c => { c with pend := x.2 }

/-! ### One tick -/

/-- Every member of a word's joint dispatch has made its reads and is held by nothing (R198, R200): while chunks are popped
and summed the members go on together. -/
def Run.matesReady (r : Run) : Bool :=
  r.w.st.plan.isEmpty || r.w.mates.all fun m =>
    let t := r.s.toCell m.1
    t.cur.running.all fun x => x.word.seq != m.2 || (!x.paused && x.pieces.all fun p => p.got.isSome)

/-- A word takes the step that is due, when its reads have all been made. -/
def Run.takeDue (r : Run) : Run :=
  if r.stepDue && r.w.asked && r.w.pieces.all (fun p => p.got.isSome) && !r.stuck && r.matesReady then
    let n := (r.w.pieces.map Piece.req).foldl max 0 + 1
    let got := (upFrom 0 (if r.w.pieces.isEmpty then 0 else n)).map (pieceBytes r.w.pieces)
    ({ r with w := { r.w with asked := false, pieces := [] } } : Run).take got
  else r

/-- A word takes the steps that are due at this tick, a copy several of them, and makes the writes that are; those that reach another
die's tiles wait for the reads of fleeting memory. -/
def Run.takeAll (tiles : Bool) (r : Run) : Run :=
  let r := (r.readPieces tiles).takeDue
  let r :=
    if r.w.next.any (· ≤ r.w.time) && !r.w.asked && (mForm r.w.word.instr).isNone then
      ((r.ask.reserve fun _ _ => true).readPieces tiles).takeDue
    else r
  r.writeSel fun r o => tiles || !r.foreign o

/-- FRENEW treats its next tile, when the tile is free at this tick (R169). -/
def Run.renewNow (r : Run) : Run :=
  match r.w.word.instr with
  | .frenew _ _ _ =>
    if r.stepDue && r.w.asked && !renewHeld r then renewTake { r with w := { r.w with asked := false, pieces := [] } } else r
  | _ => r

/-- The word's step at this tick is done: a K-step word's, when its reads are. -/
def Run.stepped (r : Run) : Bool := !(r.stepDue && r.w.asked)

/-- The word has nothing left to do at this tick. -/
def Run.clear (r : Run) : Bool := r.stepped && r.w.wait == 0 && r.w.outs.all fun o => decide (r.w.wt < o.at_)

/-- A vector word that has made its last pop is held: the engine still accepts the next word at the first tick after that pop
(R227). -/
def Running.lag1 (w : Running) : Running :=
  if w.word.queue = 1 ∧ w.next.isNone then { w with accept := w.accept.map (· - 1) } else w

/-- A move of FRENEW's ticks moves its bound, and so the tick from which its predicate may be read in SCHED mode (R169, R194). -/
def Run.moveBound (r : Run) : Run :=
  match r.w.word.instr with
  | .frenew _ _ _ => { r with s := r.s.modCur fun c => c.putOff r.w.word.seq (· + 1) }
  | _ => r

/-- A word's writes go on for a tick while its next step, and with it its end, moves by one. -/
def Run.shift (r : Run) : Run :=
  { r with w := { r.w with
      wt := r.w.wt + 1, gap := r.w.gap + 1, comp := r.w.comp.map (· + 1), accept := r.w.accept.map (· + 1) } }

/-- A word's clock at the end of the tick: the busy window of a partial session of its own holds it; a pre-emption holds back the
next step while earlier writes go on, and so does a gather word's wait for its own (R274); it goes on when the word has done all that
was due; anything else holds it, and makes its die late in SCHED mode when the word then completes after its bound (R142, R166, R167).
DESIGN CHOICE (notes/assumptions/7.md). -/
def Run.clock (stopping : Bool) (r : Run) : Run :=
  if r.w.wait ≠ 0 then { r with w := r.w.lag1 }
  else if !r.clear then
    let moved := r.w.moved + 1
    let own := r.isGather && r.waitsOwn
    let r := if r.isGather then r.moveBound.readAgain (r.w.wt + own.toNat) else r.moveBound
    let r : Run := { s := if r.w.bound < r.w.fin + moved then r.s.lateIssue else r.s, w := { r.w.lag1 with moved := moved } }
    if own then r.shift else r
  else if r.frozen stopping then r.shift
  else { r with w := { r.w with wt := r.w.wt + 1 } }

/-- A K-step word that has made the pops of this tick. -/
def Run.summing (r : Run) : Option MForm :=
  (mForm r.w.word.instr).filter fun _ => !r.w.st.plan.isEmpty && r.w.next == some r.w.time && !r.w.asked && !r.w.paused

/-- A running LOCK context stops at its boundaries while a priority launch waits for its cells (R315), unless an abort has put the swap
off (R318). -/
def State.stopping (s : State) (prio : Bool) : Bool :=
  !prio && s.prioL.any (fun p => p.out && !p.started) && (s.launchD false).lock && !(s.launchD false).swapHeld

/-- The words whose clocks run at this tick, in the order of their strands (R157). -/
def State.words (s : State) (l : List Strand) : List WordId :=
  l.flatMap fun c => if c.out || !(s.launchD c.prio).runs then [] else c.running.map fun x => (c.who, x.word.seq)

/-! Accesses from outside a strand -/

/-- An access from outside a strand, which is made among the engine steps of its tick (R142). -/
def isWindow : Instr → Bool
  | .hostBar2Access _ _ _ _ => true | .dieWindowAccess _ _ _ _ => true
  | _ => false

/-- The slot through which an access from outside a strand comes (R142). -/
def windowSlot : Instr → Nat
  | .hostBar2Access _ link _ _ => link | .dieWindowAccess _ from_ _ _ => from_
  | _ => 0

/-- The bytes that an access from outside a strand reaches: the first and how many. -/
def windowRange : Instr → Nat × Nat
  | .hostBar2Access _ _ addr data => (addr.toNat, data.length) | .dieWindowAccess _ _ addr data => (addr.toNat, data.length)
  | _ => (0, 0)

/-- An access from outside a strand that comes through a slot, or one above the last. -/
def comesThrough (n : Nat) (i : Instr) : Bool := isWindow i && min (windowSlot i) 20 == n

/-- Reserve banks for what has arrived from outside a strand through a slot, to be made once all of them have served it (R142). -/
def State.reserveWindows (s : State) (n : Nat) : State :=
  let now := fun e : Nat × Instr => decide (e.1 ≤ s.z0) && comesThrough n e.2
  (s.inputs.filter now).foldl (fun t e =>
    let x := (t.outGrans (windowRange e.2).1 (windowRange e.2).2).foldl (fun (acc : State × Nat) g =>
      let y := acc.1.serveBank g; (y.1, max acc.2 y.2)) (t, t.z0)
    { x.1 with windows := x.1.windows ++ [(x.2, e.2)] }) { s with inputs := s.inputs.filter fun e => !now e }

/-- The slot of a strand's die. -/
def State.slotOf (s : State) (c : Strand) : Nat := ((s.launchD c.prio).vd c.vdie).slot

/-- Reserve banks for accesses of words that are still to dispatch at this tick.
DESIGN CHOICE (notes/assumptions/38.md). -/
def State.promise (s : State) (l : List Promise) : State :=
  l.foldl (fun s e => let y := s.serveBank e.gran; { y.1 with promised := y.1.promised ++ [{ e with svc := y.2 }] }) s

/-- The bank service of one tick (R142): ports q0 to q11 in port-number order, the cell's own scalar access, its engines' other
accesses, then accesses through the die window by writer slot and cell, with one from outside a strand after those of the cells of its
slot. The manual gives the engines' other accesses no place. `late` lists the accesses of words that dispatch after the engine steps.
DESIGN CHOICE (notes/assumptions/38.md). -/
def State.serveBanks (ready : State → PendOp → Bool) (late : List Promise) (l : List Strand) (s : State) : State :=
  let ws := (s.words l).filter fun i => (s.runOf i).any fun r => r.w.wantsBank
  let s := (upFrom 0 12).foldl (fun s q =>
    (s.onWords ws (Run.reserve fun p own => own && p == q)).promise (late.filter fun e => e.port == q)) s
  let s := l.foldl (fun s c => if c.pend.isEmpty || c.out then s else (s.focusWho c.who).reserveScalar ready true) s
  let s := (s.onWords ws (Run.reserve fun _ own => own)).promise (late.filter fun e => decide (12 ≤ e.port))
  (upFrom 0 21).foldl (fun (s : State) n =>
    let s := (l.filter fun c => s.slotOf c == n).foldl (fun (s : State) c =>
      let s := s.onWords (ws.filter fun i => i.1 == c.who) (Run.reserve fun _ own => !own)
      if c.pend.isEmpty || c.out then s else (s.focusWho c.who).reserveScalar ready false) s
    s.reserveWindows n) s

/-- The end of the engine steps of some words at a tick: the reads of fleeting memory and the steps they complete, the K-steps, the
writes that are left, FRENEW, and what the endpoints send (R169, R188, R198). -/
def State.finishSteps (s : State) (go ws : List WordId) : State :=
  let s := s.onWords go (Run.readPieces true)
  let s := s.onWords go (Run.takeAll true)
  let s := s.onWords go fun r => match r.summing with | some f => f.sum r | none => r
  let s := s.onWords go fun r => match r.summing with | some f => f.goOn r | none => r
  let s := s.onWords ws Run.writeAll
  let s := s.onWords go Run.renewNow
  [false, true].foldl (fun (s : State) p => if (s.launchD p).lock then s else s.sendAll p) s

/-- A drain takes its row before the banks serve its tick, so that its push has its port's place (R142). -/
def Run.drainNow (r : Run) : Run := if r.drains then r.takeDue else r

/-- The engine steps of one tick: banks are reserved; writes whose ticks have come are made, and the reads that reach no fleeting
memory; then the cells' scalar accesses and what comes through the die windows (`rest`); then the reads of fleeting memory, so that
they see every session that ends at this tick (R168), with the steps that they complete; then what the endpoints send; and the words'
clocks. `ready` says which outstanding scalar accesses may be made now; `late` lists the accesses of words that dispatch later in the
tick; `l` lists the strands by slot and logical cell. A word that a pre-emption holds at a boundary only makes its planned writes.
DESIGN CHOICE (notes/assumptions/5.md). -/
def State.engineTick (ready : State → PendOp → Bool) (rest : List WordId → State → State) (late : List Promise) (l : List Strand)
    (s : State) : State :=
  let ws := s.words l
  let s := s.onWords ws fun r => { r with w := { r.w with wait := r.w.wait - 1 } }
  let ice := ws.filter fun i => (s.runOf i).any fun r => r.frozen (r.s.stopping r.s.cur.prio)
  let go := ws.filter fun i => !ice.contains i
  let s := s.onWords go Run.ask
  let s := s.onWords go Run.drainNow
  let s := s.serveBanks ready late l
  let s := s.writePorts ws
  let s := s.onWords go (Run.takeAll false)
  let s := rest ws s
  let s := s.finishSteps go ws
  let s := s.onWords go (Run.clock false)
  let s := s.onWords ice (Run.clock true)
  { s with served := s.z0 + 1, banks := s.banks.filter fun e => decide (s.z0 + 1 < e.2) }

/-- The granule that a write of a word reaches at this tick, when it is due. -/
def Run.dueGran (r : Run) (o : Out) : Option Nat := if o.at_ ≤ r.w.wt then r.s.granAt o.space o.addr else none

/-- The accesses of its own cell's scratchpad that a word makes at this tick. -/
def Run.accesses (r : Run) : List Promise :=
  let all := (r.w.pieces.filterMap fun p => p.gran.bind fun g => p.svc.map fun t => (p.port, g, t))
    ++ r.w.outs.filterMap fun o => (r.dueGran o).bind fun g => o.svc.map fun t => (o.port, g, t)
  (all.filter fun e => r.ownGran e.2.1).map fun e =>
    { who := r.s.cur.who, seq := r.w.word.seq, port := e.1, gran := e.2.1, svc := e.2.2 }

/-- A word takes the banks that serve it by what its tick has promised it (R142). -/
def Run.redeem (r : Run) : Run :=
  let at_ := fun (port : Nat) (g : Option Nat) => (r.s.promised.find? fun e =>
    e.who == r.s.cur.who && e.seq == r.w.word.seq && e.port == port && some e.gran == g).map Promise.svc
  { r with w := { r.w with
      pieces := r.w.pieces.map fun p => { p with svc := p.svc.or (at_ p.port p.gran) }
      outs := r.w.outs.map fun o => { o with svc := o.svc.or (at_ o.port (r.dueGran o)) } } }

/-- What a word has reserved at this tick is noted. -/
def Run.noteAccesses (r : Run) : Run :=
  { r with s := { r.s with promised := (r.s.promised ++ r.accesses).dedup } }

/-- The engine steps of words that dispatch after those of their tick: they take the same steps at once, together (R188, R198, R200).
DESIGN CHOICE (notes/assumptions/5.md). -/
def State.lateSteps (s : State) (ws : List WordId) : State :=
  let s := s.onWords ws Run.ask
  let s := s.onWords ws Run.drainNow
  let s := s.onWords ws fun r => (r.redeem.reserve fun _ _ => true).noteAccesses
  (s.finishSteps ws ws).onWords ws (Run.clock false)

end Sys2Proof.Machine
end

