-- ==== Sys2Proof/Machine/Complete.lean ====
section
/-! DEFINITION. The events by which issued work finishes: block fetches, scalar accesses, atomics, engine words, trap
entry, tile events and rail steps. -/

namespace Sys2Proof.Machine

/-! ### Fetches -/

/-- The block at which the next unit waits has come at this tick: the unit issues from the next tick on (R92). While PREST reads its
image that unit is the one after it (R178); a strand that waits for its rendezvous has none before its base (R297).
DEDUCED (notes/assumptions/11.md). -/
def State.blockCame (s : State) (blk : Word) : State :=
  let c := s.cur
  if c.out || s.z0 < c.slot then s
  else if c.status = .running ∧ s.blockOf c.pc = blk then s.awaitBlock
  else if c.status = .restoring ∧ s.blockOf c.nextPc = blk then
    ((s.modCur fun c => { c with pc := c.nextPc, pfx := none }).awaitBlock).modCur fun d => { d with pc := c.pc, pfx := c.pfx }
  else s

/-- BLOCK_FETCH_COMPLETE (R92): a block that has been fetched takes the place of the oldest of the stream buffer's eight, and its
units may issue from the next tick on. DEDUCED (notes/assumptions/11.md). -/
def execBlockFetchComplete (s : State) : Host.Outcome State Fault Refusal :=
  .next (match s.cur.fetching.find? fun f => decide (f.2 ≤ s.z0) with
    | some (blk, t) =>
      (s.modCur fun c => { c with stream := (blk :: c.stream).take 8, fetching := c.fetching.erase (blk, t) }).blockCame blk
    | none => s)

/-! ### Sequencer operations -/

/-- A SEMINIT still waits for an SR or SW access that its strand issued before it, whatever the kind of its page (R133, R279).
DEDUCED (notes/assumptions/30.md). -/
def Strand.accessBefore (c : Strand) (seq : Nat) : Bool := c.pend.any fun o => decide (o.seq < seq) && (o.sr || o.sw)

/-- A release still waits for an SR or SW access that its strand issued before it, but for those of UO pages, which only fences order
(R281, R282, R283). DEDUCED (notes/assumptions/30.md). -/
def Strand.scalarBefore (c : Strand) (seq : Nat) : Bool := c.pend.any fun o => decide (o.seq < seq) && (o.sr || o.sw) && !o.uo

/-- A fence of DIE scope or wider that has SW in P and SR or SW in S lies between an access and a raise, and has not completed: the
raise covers the access although its page is UO (R282, Table 20-4). DEDUCED (notes/assumptions/30.md). -/
def Strand.fencedFrom (c : Strand) (access raise : Nat) : Bool :=
  c.fences.any fun f => decide (access < f.seq ∧ f.seq < raise ∧ 2 ≤ f.scope) && f.suc &&& 3 != 0
    && c.pend.any fun q => q.seq == f.seq && (match q.act with | .fence pre => pre.getLsbD 1 | _ => false)

/-- A raise still waits for a write on path SW that its strand issued before it (R278); for one of a UO page only across a fence
(R282, R283). DEDUCED (notes/assumptions/30.md). -/
def Strand.writesBefore (c : Strand) (seq : Nat) : Bool :=
  c.pend.any fun o => decide (o.seq < seq) && o.sw && (!o.uo || c.fencedFrom o.seq seq)

/-- A store may write the tile that a physical address lies in (R167). -/
def State.tileFree (s : State) (a : Nat) : Bool :=
  match s.placeOf a with | .tile n t _ => s.tileOpen (tileKey n t) | _ => true

/-- The address lies in fleeting memory. -/
def State.inTile (s : State) (a : Nat) : Bool := match s.placeOf a with | .tile _ _ _ => true | _ => false

/-- An atomic that the focused strand issued before a sequence number has not been applied to some of these bytes (R119,
Table 20-2). -/
def State.atomBefore (s : State) (seq a n : Nat) : Bool :=
  s.atoms.any fun x => x.prio == s.cur.prio && x.vdie == s.cur.vdie && x.cell == s.cur.cell && decide (x.seq < seq)
    && rangesMeet x.phys x.bytes a n

/-- An access of the strand that precedes a store of these bytes has not been performed (R119, R281): a load or a store of some of
them, or for a release any scalar access. DESIGN CHOICE (notes/assumptions/3.md). -/
def State.storeWaits (s : State) (p : PendOp) (a n : Nat) : Bool :=
  s.atomBefore p.seq a n || (p.rel && s.cur.scalarBefore p.seq)
    || s.cur.pend.any fun o => decide (o.seq < p.seq) && (match o.act with
        | .store acc bytes _ => rangesMeet acc.phys bytes.length a n
        | .sample _ acc m _ _ => rangesMeet acc.phys m a n
        | _ => false)

/-- An access of the strand that precedes a load has not been performed (R119, R275): a store of some of its bytes, or a load or
an atomic of its granule, so that no two reads go backwards. DESIGN CHOICE (notes/assumptions/6.md). -/
def State.loadWaits (s : State) (p : PendOp) (a n : Nat) : Bool :=
  s.atomBefore p.seq (a / 64 * 64) 64
    || s.cur.pend.any fun o => decide (o.seq < p.seq) && (match o.act with
        | .store acc bytes _ => rangesMeet acc.phys bytes.length a n
        | .sample _ acc _ _ _ => acc.phys / 64 == a / 64
        | _ => false)

/-- A store's tick has come: its bound, or a free number of ticks before it (R118); one that is refused takes its bus error at
its bound (Table 7-6). DESIGN CHOICE (notes/assumptions/3.md). -/
def State.storeDue (s : State) (p : PendOp) (acc : Acc) : Bool :=
  decide (p.due ≤ s.z0)
    || (!s.refuses acc && decide (p.due ≤ s.z0 + Config.storeLead s.slotNo s.cur.cell p.seq p.due))

/-- Nothing but a bank and the order within the tick keeps an outstanding operation from taking effect at this tick.
DESIGN CHOICE (notes/assumptions/6.md). -/
def State.pendOpen (s : State) (p : PendOp) : Bool :=
  match p.act with
  | .fence pre => decide (p.due ≤ s.z0) && !s.fencePreds p.seq p.due pre
  | .raise _ _ => decide (p.due ≤ s.z0) && !s.cur.writesBefore p.seq
  | .seminit _ _ => decide (p.due ≤ s.z0) && !s.cur.accessBefore p.seq
  | .atomic => false
  | .port => decide (p.due ≤ s.z0) && !s.sessions.any fun x => x.left.contains (s.cur.storeWriter p.seq)
  | .sample _ acc n _ _ => decide (p.due ≤ s.z0) && !s.loadWaits p acc.phys n && !s.readBusy acc.phys
  | .store acc bytes _ => s.storeDue p acc && (s.refuses acc || (s.tileFree acc.phys && !s.storeWaits p acc.phys bytes.length))
  | _ => decide (p.due ≤ s.z0)

/-- An operation's place in the order of a tick: an access of fleeting memory is made among the engine steps, one of a scratchpad
after them when its bank has served it (R142, R168). DESIGN CHOICE (notes/assumptions/8.md). -/
def State.pendNow (s : State) (p : PendOp) : Bool :=
  let at_ := fun (acc : Acc) =>
    if !acc.answers then true
    else match s.placeOf acc.phys with
      | .tile _ _ _ => false
      | .scratch _ _ _ => decide (s.z0 < s.served) && p.svc.any (· ≤ s.z0)
      | _ => true
  match p.act with
  | .sample _ acc _ _ _ => at_ acc
  | .store acc _ _ => at_ acc
  | _ => true

/-- An outstanding operation may take effect now. DESIGN CHOICE (notes/assumptions/6.md). -/
def State.pendReady (s : State) (p : PendOp) : Bool := s.pendNow p && s.pendOpen p

/-- Hand a raise or SEMINIT to the sync engine, which applies it at the end of this tick (R133). -/
def State.raiseNow (s : State) (sem n : Nat) (init : Bool) : State :=
  { s with raises := s.raises ++ [{ prio := s.cur.prio, vdie := s.cur.vdie, cell := s.cur.cell, slot := s.slotNo, sem := sem,
                                    n := n, init := init }] }

/-- A release that has waited for an earlier access makes nothing late: its bound moves to the tick at which that access is done
(R281), or where it stores to a tile and the engine steps of that tick are past, to the next. DEDUCED (notes/assumptions/30.md). -/
def State.ease (s : State) (seq : Nat) (o : PendOp) : PendOp :=
  match o.act with
  | .store acc _ _ =>
    if o.rel && decide (seq < o.seq) then { o with due := max o.due (s.z0 + (s.stepped && s.inTile acc.phys).toNat) } else o
  | _ => o

/-- Replace an outstanding operation by what is left of it; none removes it. -/
def State.rePend (s : State) (seq : Nat) (l : List PendOp) : State :=
  s.modCur fun c => { c with pend := c.pend.flatMap fun o => if o.seq = seq then l else [s.ease seq o] }

/-- Drop a fence that has completed (R280). -/
def State.dropFence (s : State) (seq : Nat) : State :=
  s.modCur fun c => { c with fences := c.fences.filter fun f => f.seq != seq }

/-- A bus error of an access (R117, R155). DEDUCED (notes/assumptions/10.md). -/
def busError (ea : Word) (s : State) : State := raiseAsync { code := Cause.bus, tval := ea, tpc := none } s

/-- What is left of an operation after it has taken effect: a port word's raise follows once earlier SR and SW accesses
are performed (R103, R278). -/
def leftover (p : PendOp) (now : Nat) : List PendOp :=
  match p.sem with | some k => [{ seq := p.seq, due := now, act := .raise k 1 }] | none => []

/-- Let an outstanding operation take effect (R117, R118, R133, R134, R136, R162, R164, R178, R294, R303, R304).
DESIGN CHOICE (notes/assumptions/6.md). DEDUCED (notes/assumptions/30.md). -/
def performPend (p : PendOp) (s : State) : State :=
  let rest := s.rePend p.seq (leftover p s.z0)
  match p.act with
  | .regs l => (rest.setXs l).settle p.seq
  | .pred k v => (rest.setP k v).settle p.seq
  | .test k sem n => (rest.setP k (decide (n ≤ s.semCount s.slotNo sem))).settle p.seq
  | .sample dst acc n done ea =>
    let x := s.readAt acc.phys n
    let s := if done < s.z0 then s.lateIssue else s
    (if x.2 then s.orExp 1 else s).rePend p.seq [{ p with due := done, act := .loaded dst x.1 false ea }]
  | .loaded dst bytes bus ea =>
    let t := match dst with
      | .port q w => ((if (imagePort bytes).isSome then rest else s.rePend p.seq []).settle p.seq).endPrest q w bytes
      | _ => (rest.settle p.seq).deliver dst bytes
    if bus then busError ea t else t
  | .store acc bytes ea =>
    if s.refuses acc then busError ea rest
    else if s.inTile acc.phys then
      -- complete when its session is (`settleStores`); a write past its bound is late (R118, R166, R167)
      ((if p.due < s.z0 then s.lateIssue else s).rePend p.seq [{ p with due := s.z0, act := .port }]).writeOwn acc bytes
        (some (s.cur.storeWriter p.seq))
    else rest.writeOwn acc bytes
  | .raise sem n => rest.raiseNow sem n false
  | .seminit sem n => rest.raiseNow sem n true
  | .applied regs flags pc => ((rest.setXs regs).settle p.seq).settleFlags flags pc
  | .fence _ => rest.dropFence p.seq
  | .port => rest
  | .atomic => s

/-- SCALAR_ACCESS_COMPLETION (R96, R117, R118, R133, R134): the first outstanding operation of the strand that may take
effect does. -/
def execScalarAccessCompletion (s : State) : Host.Outcome State Fault Refusal :=
  .next (match s.cur.pend.find? s.pendReady with
    | some p => performPend p s
    | none => s)

/-- Perform the focused strand's accesses of fleeting memory that may be made at this tick and that a test selects. -/
def State.tileOps (sel : PendAct → Bool) : Nat → State → State
  | 0, s => s
  | fuel + 1, s =>
    match s.cur.pend.find? fun p => sel p.act && !s.pendNow p && s.pendOpen p with
    | some p => State.tileOps sel fuel (performPend p s)
    | none => s

/-- Which scalar accesses of fleeting memory are made together: stores of the strand's own die, stores through another die's window,
loads (R142, R168). -/
inductive TileTurn where
  | ownStores | farStores | loads
  deriving DecidableEq, Repr

/-- The address lies in the fleeting memory of the focused strand's die. -/
def State.ownTile (s : State) (a : Nat) : Bool := match s.placeOf a with | .tile n _ _ => n == s.slotNo | _ => false

/-- An access has its turn. -/
def State.inTurn (s : State) (t : TileTurn) : PendAct → Bool
  | .sample _ x _ _ _ => t == .loads && s.inTile x.phys
  | .store x _ _ => s.inTile x.phys && (match t with | .ownStores => s.ownTile x.phys | .farStores => !s.ownTile x.phys | .loads => false)
  | _ => false

/-- The scalar accesses of fleeting memory that have their turn at this tick, of every strand of a list (R142, R162, R165). -/
def State.tileScalars (t : TileTurn) (l : List Strand) (s : State) : State :=
  l.foldl (fun (s : State) c =>
    if c.out || c.pend.isEmpty then s
    else
      let s := s.focusWho c.who
      State.tileOps (s.inTurn t) s.cur.pend.length s) s

/-! ### Atomics -/

/-- Sort by a test that says whether the first may stand before the second. -/
def insertBy {α : Type} (le : α → α → Bool) (a : α) : List α → List α
  | [] => [a]
  | b :: r => if le a b then a :: b :: r else b :: insertBy le a r

/-- Insertion sort. -/
def sortBy {α : Type} (le : α → α → Bool) : List α → List α
  | [] => []
  | a :: r => insertBy le a (sortBy le r)

/-- The order in which a sync engine takes the atomics of one word in a tick (R290, R305): held ones first, as they were held, then
ascending VDIE, then ascending cell, a release that has waited (R281) in its place among them. A priority launch's come after.
DEDUCED (notes/assumptions/29.md). -/
def Atom.before (a b : Atom) : Bool :=
  let k := fun x : Atom => (if x.prio then 33 else 0) + x.vdie
  if a.held || b.held then a.held
  else decide (k a < k b) || (k a == k b && decide (a.cell ≤ b.cell))

/-- A form of which one word takes at most one a tick: value-returning or floating-point (R305). -/
def Atom.single (a : Atom) : Bool := a.takes || atomFp a.op a.takes

/-- A write through an SO page has been made in a launch's superstep (R282, R328). -/
def State.noteSo (s : State) (prio so : Bool) : State :=
  if so then s.modLaunch prio fun l => { l with soWritten := true } else s

/-- Apply one atomic (R282, R302, R303): the word changes now; the issuing strand completes it no earlier than its bound. One
that completes after its bound makes its die late in SCHED mode (R305). DEDUCED (notes/assumptions/29.md). -/
def applyAtom (a : Atom) (s : State) : State :=
  let w := 8 * a.bytes
  let m := leNat (rdMems s.mem a.phys a.bytes)
  let r := atomNew a.op a.takes w m a.a.toNat a.b.toNat
  let due := max a.bound (s.z0 + a.back)
  ({ s with mem := wrMems s.mem a.phys (leBytes a.bytes r.1) }.noteSo a.prio a.so).asStrand (fun c => c.is a.prio a.vdie a.cell) fun t =>
    let t := if a.bound < due && (a.held || !a.rel) then t.lateIssue else t
    let res := PendAct.applied (if a.takes then [(a.d, atomOld a.op w m)] else []) r.2 a.pc
    let mark := fun p : PendOp => if p.seq = a.seq then { p with due := due, act := res } else p
    t.modCur fun c => { c with pend := c.pend.map mark }

/-- Two atomics of one strand that are applied in program order: they have a common byte (R119), or both return values of one granule
(R275). -/
def Atom.precedes (a b : Atom) : Bool :=
  a.prio == b.prio && a.vdie == b.vdie && a.cell == b.cell && decide (a.seq < b.seq)
    && (rangesMeet a.phys a.bytes b.phys b.bytes || (a.takes && b.takes && a.phys / 64 == b.phys / 64))

/-- Apply the atomics that have reached a sync engine, in order: a word takes at most one value-returning or
floating-point atomic a tick, and the others of that kind are held (R305), with what must follow them in program order.
`done` lists the words that took one, `kept` what is held. DEDUCED (notes/assumptions/29.md). -/
def applyAtoms : List Atom → List (Nat × Nat) → List Atom → State → State
  | [], _, _, s => s
  | a :: r, done, kept, s =>
    if (a.single && done.any fun d => rangesMeet d.1 d.2 a.phys a.bytes) || kept.any fun k => k.precedes a then
      applyAtoms r done (a :: kept) { s with atoms := s.atoms ++ [{ a with held := true, arrive := s.z0 + 1 }] }
    else applyAtoms r (if a.single then (a.phys, a.bytes) :: done else done) kept (applyAtom a s)

/-- An atomic has reached its sync engine, a release waits for nothing, and no earlier load or store of its strand waits to read or write
a byte of it, nor, where it returns a value, a load of its granule (R119, R275, R281, R290, R301).
DEDUCED (notes/assumptions/29.md). -/
def State.atomReady (s : State) (a : Atom) : Bool :=
  decide (a.arrive ≤ s.z0)
    && !(s.allStrands.any fun c => c.is a.prio a.vdie a.cell && ((a.rel && c.scalarBefore a.seq)
      || c.pend.any fun o => decide (o.seq < a.seq) && (match o.act with
          | .sample _ acc n _ _ => rangesMeet acc.phys n a.phys a.bytes || (a.takes && acc.phys / 64 == a.phys / 64)
          | .store acc bytes _ => rangesMeet acc.phys bytes.length a.phys a.bytes
          | _ => false)))

/-- The atomics that wait, in the order of their strands, as those which may be applied and those which may not: one that follows
another in program order on a common byte, or a common granule, waits for it (R119, R275). DEDUCED (notes/assumptions/29.md). -/
def State.atomSplit (s : State) : List Atom × List Atom :=
  (sortBy (fun a b : Atom => decide (a.seq ≤ b.seq)) s.atoms).foldl (fun (acc : List Atom × List Atom) a =>
    if s.atomReady a && !(acc.2.any fun k => k.precedes a) then (acc.1 ++ [a], acc.2) else (acc.1, acc.2 ++ [a])) ([], [])

/-- An atomic is due: its sync engine takes those of a tick once (R290, R305). -/
def State.atomDue (s : State) (a : Atom) : Bool :=
  decide (sget 0 s.atomsAt a.slot ≤ s.z0) && decide (a.arrive ≤ s.z0) && s.atomSplit.1.contains a

/-- SYNC_ENGINE_ATOMIC_APPLY (R290, R305). DEDUCED (notes/assumptions/29.md). -/
def execSyncEngineAtomicApply (slot : Nat) (s : State) : Host.Outcome State Fault Refusal :=
  .next (
    let here := fun a : Atom => a.slot == slot && s.atomDue a
    if !s.atoms.any here then s
    else applyAtoms (sortBy Atom.before (s.atoms.filter here)) [] []
      { s with atoms := s.atoms.filter fun a => !here a, atomsAt := sset 0 s.atomsAt slot (s.z0 + 1) })

/-! ### Engine words -/

/-- A dispatched word may complete now: at its completion tick, when nothing of it is left to do; CWAIT when at most n batches
are outstanding (R185); SPSYNC when every earlier word of its queue has (R268). In LOCK mode a word that changes a receive context
waits for the segments admitted to it (R190). -/
def State.engineDone (s : State) (r : Running) : Bool :=
  match r.comp with
  | some c =>
    decide (c + s.stepped.toNat ≤ r.wt) && r.next.isNone && r.outs.isEmpty && r.wait == 0 && !s.linkHeld r.word
  | none =>
    match r.word.instr with
    | .cwait _ n => decide (r.disp < s.z0) && decide (s.cur.batchesOut ≤ n.toNat)
    | .spsync _ _ _ => s.spsyncDone r
    | _ => false

/-- Write the tables and registers that a sum-product word writes at completion: 0 shapes, 1 lists, 2 registers. -/
def State.putTables (s : State) (l : List (Nat × Nat × Nat)) : State :=
  l.foldl (fun t e =>
    t.modCur fun c =>
      if e.1 = 0 then { c with shapes := sset 0 c.shapes e.2.1 (BitVec.ofNat 64 e.2.2) }
      else if e.1 = 1 then { c with lists := sset 0 c.lists e.2.1 (BitVec.ofNat 512 e.2.2) }
      else { c with v := sset 0 c.v e.2.1 (BitVec.ofNat 32 e.2.2) }) s

/-- The scale state that an MSCALE leaves (R215): unlisted columns hold the record 1 of reset. -/
def scaleState (l : List (Nat × BitVec 128)) : SMap (BitVec 128) := l.foldl (fun m e => sset 1 m e.1 e.2) []

/-- The matrix word chained to a copy may dispatch from the tick after the copy's completion (R183). -/
def State.unchain (s : State) (seq : Nat) : State :=
  s.modCur fun c => { c with
    queue := c.queue.map fun w => if w.chain = some seq then { w with enq := max w.enq s.z0 } else w }

/-- An MRAIL.DN takes effect once the K-step words before it have completed (R218). -/
def State.railSettle (s : State) : State :=
  if s.cur.railDn.all s.cur.kstepsBefore then s
  else (s.modCur fun c => { c with railDn := c.railDn.filter c.kstepsBefore }).railClear

/-- The tick from which the engine accepts the next word of its queue, when a word completes before that. -/
def State.noteDone (r : Running) (s : State) : State :=
  let now := s.z0 + s.stepped.toNat
  s.modCur fun c => { c with
    accept := match r.accept with
      | some a => if s.z0 + r.wt < now + a then sset 0 c.accept r.word.queue (now + a - r.wt) else c.accept
      | none => c.accept }

/-- A word that completes leaves every session that it still has open (R165). -/
def State.closeWord (s : State) (w : QWord) : State :=
  let v : Writer := { link := false, prio := s.cur.prio, vdie := s.cur.vdie, cell := s.cur.cell, no := w.seq }
  (s.sessions.filter fun x => x.writers.contains v).foldl (fun t x => (t.sessLeave v x.key).1) s

/-- What a word does at its completion tick (R35, R37, R96, R103, R151, R164, R174, R343): flags, results, tables, link
contexts, a bus error, its raise. Its pins and ports are released with it. -/
def completeWord (r : Running) (s : State) : State :=
  let s := (s.modCur fun c => { c with running := c.running.filter fun x => x.word.seq != r.word.seq }).noteDone r
  let s := s.settleFlags r.flags r.word.pc
  let s := if r.exp then s.orExp 1 else s
  let s := match r.xres with | some (d, v) => s.setX d v | none => s
  let s := match r.pres with | some (k, v) => s.setP k v | none => s
  let s := match r.psel with | some k => s.setP k (r.bad || r.exp || r.rnf) | none => s
  let s := s.putTables r.tables
  let s := match r.scale with | some l => s.modCur fun c => { c with scale := scaleState l } | none => s
  let s := completeLink r.word r.disp s
  let s := s.closeWord r.word
  let s := match r.bus with | some v => busError v s | none => s
  let s := match r.word.sr with | some k => s.raiseNow k 1 false | none => s
  ((s.settle r.word.seq).unchain r.word.seq).railSettle

/-- ENGINE_WORD_COMPLETION (R96, R103): the running word with this sequence number completes, when it may. -/
def execEngineWordCompletion (seq : Nat) (s : State) : Host.Outcome State Fault Refusal :=
  .next (match s.cur.running.find? fun r => r.word.seq == seq && s.engineDone r with
    | some r => completeWord r s
    | none => s)

/-! ### Trap entry -/

/-- TRAP_ENTRY (R306, R308, R321): a drained strand enters its handler; a strand at a word boundary takes the first cause
that waits. A strand that has issued RDV or COMMIT holds the cause until the rendezvous.
DEDUCED (notes/assumptions/10.md). -/
def execTrapEntry (s : State) : Host.Outcome State Fault Refusal :=
  .next (
    if s.cur.status = .trapping then
      match s.cur.trap with
      | some t => if s.cur.drained then enterTrap t s else s
      | none => s
    else if s.cur.status = .running then
      match s.cur.asyncs with
      | t :: r =>
        let s := s.modCur fun c => { c with asyncs := r }
        if s.unhandled t then stopStrand t s
        else if s.cur.drained then enterTrap t s
        else s.modCur fun c => { c with status := .trapping, trap := some t }
      | [] => s
    else s)

/-! ### Tiles and rails -/

/-- TILE_EXPIRY (R160): a tile's life ends by the comparison of its birth with the tick; nothing is written.
DEDUCED (notes/assumptions/17.md). -/
def execTileExpiry (_slot _tile : Nat) (s : State) : Host.Outcome State Fault Refusal := .next s

/-- TILE_BUSY_WINDOW_END (R167): the sessions and busy windows of a tile that have passed are forgotten. -/
def execTileBusyWindowEnd (slot tile : Nat) (s : State) : Host.Outcome State Fault Refusal :=
  .next { s with busyTiles := s.busyTiles.filter fun x => x.key != tileKey slot tile || decide (s.z0 ≤ x.until_) }

/-- RAIL_STEP_STANDS (R207, R218, R331): the step of a cluster whose request still holds stands when it is due. -/
def execRailStepStands (slot cluster : Nat) (s : State) : Host.Outcome State Fault Refusal :=
  let key := slot * 4 + cluster
  let due := sget 0 s.power.due key
  .next (if due ≠ 0 ∧ due ≤ s.z0 then
      { s with power := { s.power with
          due := sset 0 s.power.due key 0
          stands := if s.clusterRequested slot cluster then insNat key s.power.stands else s.power.stands } }
    else s)

end Sys2Proof.Machine
end

