-- ==== Sys2Proof/Machine/Sha.lean ====
section
/-! DEFINITION. SHA-256 and the RSASSA-PSS check with SHA-256, MGF1-SHA-256, a 32-byte salt and exponent 65537, which
R70 and R327 name; their definitions are those of the public standards (notes/assumptions/23.md). -/

namespace Sys2Proof.Machine

/-- The 64 round constants. -/
def shaK : List (BitVec 32) :=
    [0x428a2f98, 0x71374491, 0xb5c0fbcf, 0xe9b5dba5, 0x3956c25b, 0x59f111f1, 0x923f82a4, 0xab1c5ed5] ++
    [0xd807aa98, 0x12835b01, 0x243185be, 0x550c7dc3, 0x72be5d74, 0x80deb1fe, 0x9bdc06a7, 0xc19bf174] ++
    [0xe49b69c1, 0xefbe4786, 0x0fc19dc6, 0x240ca1cc, 0x2de92c6f, 0x4a7484aa, 0x5cb0a9dc, 0x76f988da] ++
    [0x983e5152, 0xa831c66d, 0xb00327c8, 0xbf597fc7, 0xc6e00bf3, 0xd5a79147, 0x06ca6351, 0x14292967] ++
    [0x27b70a85, 0x2e1b2138, 0x4d2c6dfc, 0x53380d13, 0x650a7354, 0x766a0abb, 0x81c2c92e, 0x92722c85] ++
    [0xa2bfe8a1, 0xa81a664b, 0xc24b8b70, 0xc76c51a3, 0xd192e819, 0xd6990624, 0xf40e3585, 0x106aa070] ++
    [0x19a4c116, 0x1e376c08, 0x2748774c, 0x34b0bcb5, 0x391c0cb3, 0x4ed8aa4a, 0x5b9cca4f, 0x682e6ff3] ++
    [0x748f82ee, 0x78a5636f, 0x84c87814, 0x8cc70208, 0x90befffa, 0xa4506ceb, 0xbef9a3f7, 0xc67178f2]

/-- The initial hash value. -/
def shaInit : List (BitVec 32) := [0x6a09e667, 0xbb67ae85, 0x3c6ef372, 0xa54ff53a, 0x510e527f, 0x9b05688c, 0x1f83d9ab, 0x5be0cd19]

/-- A 32-bit word from four bytes, most significant first. -/
def beWord : List Byte → BitVec 32
  | a :: b :: c :: d :: _ => a ++ b ++ c ++ d
  | _ => 0

/-- The 16 words of a 64-byte block. -/
def shaWords : Nat → List Byte → List (BitVec 32)
  | 0, _ => []
  | n + 1, l => beWord l :: shaWords n (l.drop 4)

/-- Extend a schedule, kept newest first, by `n` words. -/
def shaExtend : Nat → List (BitVec 32) → List (BitVec 32)
  | 0, w => w
  | n + 1, w =>
    let g := fun i => w.getD i 0
    let s0 := (g 14).rotateRight 7 ^^^ (g 14).rotateRight 18 ^^^ (g 14) >>> 3
    let s1 := (g 1).rotateRight 17 ^^^ (g 1).rotateRight 19 ^^^ (g 1) >>> 10
    shaExtend n ((g 15 + s0 + g 6 + s1) :: w)

/-- One round on the eight working variables. -/
def shaRound (v : List (BitVec 32)) (k w : BitVec 32) : List (BitVec 32) :=
  match v with
  | [a, b, c, d, e, f, g, h] =>
    let s1 := e.rotateRight 6 ^^^ e.rotateRight 11 ^^^ e.rotateRight 25
    let t1 := h + s1 + ((e &&& f) ^^^ (~~~e &&& g)) + k + w
    let s0 := a.rotateRight 2 ^^^ a.rotateRight 13 ^^^ a.rotateRight 22
    [t1 + s0 + ((a &&& b) ^^^ (a &&& c) ^^^ (b &&& c)), a, b, c, d + t1, e, f, g]
  | _ => v

/-- Take one block into a hash value. -/
def shaBlock (h : List (BitVec 32)) (block : List Byte) : List (BitVec 32) :=
  let w := (shaExtend 48 (shaWords 16 block).reverse).reverse
  let v := (List.zip shaK w).foldl (fun v x => shaRound v x.1 x.2) h
  List.zipWith (· + ·) h v

/-- Take the blocks of a padded message. -/
def shaBlocks : Nat → List (BitVec 32) → List Byte → List (BitVec 32)
  | 0, h, _ => h
  | n + 1, h, l => shaBlocks n (shaBlock h l) (l.drop 64)

/-- The `n` low bytes of a number, most significant first. -/
def beBytes (n v : Nat) : List Byte := (leBytes n v).reverse

/-- A number from its bytes, most significant first. -/
def beNat (l : List Byte) : Nat := l.foldl (fun a b => 256 * a + b.toNat) 0

/-- SHA-256 of a string of bytes. PRESUMED (notes/assumptions/23.md). -/
def sha256 (msg : List Byte) : List Byte :=
  let n := msg.length
  let zeros := (119 - n % 64) % 64
  let padded := msg ++ 0x80 :: List.replicate zeros 0 ++ beBytes 8 (8 * n)
  (shaBlocks (padded.length / 64) shaInit padded).flatMap fun w => beBytes 4 w.toNat

/-- MGF1 with SHA-256: at least `n` bytes from counter `c` on. -/
def mgf1 (seed : List Byte) : Nat → Nat → List Byte
  | 0, _ => []
  | n + 1, c => sha256 (seed ++ beBytes 4 c) ++ mgf1 seed n (c + 1)

/-- b^(2^k) modulo n. -/
def sqMod (n : Nat) : Nat → Nat → Nat
  | 0, b => b
  | k + 1, b => sqMod n k (b * b % n)

/-- RSA's public operation with exponent 65537. -/
def rsaOpen (n sig : Nat) : Nat := sqMod n 16 (sig % n) * (sig % n) % n

/-- Bytes xored together. -/
def xorBytes (a b : List Byte) : List Byte := List.zipWith (· ^^^ ·) a b

/-- The RSASSA-PSS check of a 384-byte signature on a message digest under a 3072-bit modulus (R70).
PRESUMED (notes/assumptions/23.md). -/
def pssOk (n : Nat) (digest sig : List Byte) : Bool :=
  let s := beNat sig
  let em := beBytes 384 (rsaOpen n s)
  let masked := em.take 351
  let h := (em.drop 351).take 32
  let db := xorBytes masked (mgf1 h 11 0)
  let db := match db with | b :: r => (b &&& 0x7F#8) :: r | [] => []
  decide (s < n) && decide (n < 2 ^ 3072) && decide (2 ^ 3071 ≤ n) && em.getLast? == some 0xBC#8
    && (masked.headD 0 &&& 0x80#8) == 0 && (db.take 318).all (· == 0) && db.getD 318 0 == 0x01#8
    && sha256 (List.replicate 8 0 ++ digest ++ db.drop 319) == h

end Sys2Proof.Machine
end

