-- ==== Sys2Proof/Machine/Rendezvous.lean ====
section
/-! DEFINITION. Rendezvous, commit, abort, retirement and hardware errors (R295 to R299, R308 to R312, R317, R323 to R329,
R337). -/

namespace Sys2Proof.Machine

/-! ### Participants -/

/-- The strands of a launch. -/
def State.strandsOf (s : State) (prio : Bool) : List Strand := s.allStrands.filter fun c => c.prio == prio && c.status != .idle

/-- Change every strand of a launch. -/
def State.modStrands (s : State) (prio : Bool) (f : Strand → Strand) : State :=
  let g := fun c : Strand => if c.prio == prio && c.status != .idle then f c else c
  { s with cur := g s.cur, others := s.others.map g }

/-- An outstanding operation is an access or a fence: a late register result, a predicate, a raise or a SEMINIT is none
(R128, R296). DEDUCED (notes/assumptions/30.md). -/
def PendOp.isAccess (p : PendOp) : Bool :=
  match p.act with
  | .regs _ | .pred _ _ | .test _ _ _ | .raise _ _ | .seminit _ _ => false
  | _ => true

/-- Every word a strand enqueued and every access it issued has completed, fences included (R128, R296); of a strand that HALT or
an unhandled trap has stopped, every operation has. -/
def Strand.quiet (c : Strand) : Bool :=
  (if c.status = .stopped then c.pend.isEmpty else !c.pend.any PendOp.isAccess) && c.queue.isEmpty && c.running.isEmpty

/-- Every segment that a strand sent has been performed or discarded (R296). -/
def State.landed (s : State) (c : Strand) : Bool :=
  !(s.segs.any fun g => g.prio == c.prio && g.src == c.vdie && g.srcCell == c.cell)

/-- A strand that END, HALT or an unhandled trap has stopped (R128, R308). -/
def Strand.over_ (c : Strand) : Bool := c.status == .ended || c.status == .stopped

/-- A strand has arrived (R296): one that has ended or stopped waits for none of its segments (R128). -/
def State.arrived (s : State) (c : Strand) : Bool :=
  c.quiet && (c.over_ || (c.status == .waiting && c.rdv.isSome && s.landed c))

/-- The ticks that the strands of a launch have named in this superstep (R297). -/
def State.named (s : State) (prio : Bool) : List Nat := (s.strandsOf prio).filterMap fun c => c.rdv.map Prod.fst

/-- Every strand of a launch has ended (R128, R329). -/
def State.allOver (s : State) (prio : Bool) : Bool :=
  !(s.strandsOf prio).isEmpty && (s.strandsOf prio).all fun c => c.over_ && c.quiet

/-! ### The check of SCHED mode -/

/-- A strand is on time at K for the rendezvous of tick T: it has arrived, and its RDV names T and issued by T - 96; a
strand that has ended names no tick (R296, R297). -/
def State.onTime (s : State) (l : Launch) (T : Nat) (c : Strand) : Bool :=
  s.arrived c &&
    (match c.rdv with
      | some (t, _, issue) => c.over_ || (t == T && decide (issue - l.l0 + Config.commitLead ≤ T))
      | none => c.over_)

/-- The late event of a strand that had not arrived, or named another tick (Table 22-7): DETAIL is K. -/
def State.missEvent (s : State) (l : Launch) (c : Strand) : Late :=
  { vdie := c.vdie, cause := 0x11, tick := s.z0, dieLevel := false, lstrand := lstrandOf l c.vdie c.cell, cell := c.cell,
    detail := BitVec.ofNat 64 (s.z0 - l.l0) }

/-- Begin phase one, or decide the abort (R297): T on the LTICK scale. -/
def State.checkAt (s : State) (prio : Bool) (l : Launch) (T : Nat) : State :=
  let t := ((s.strandsOf prio).filter fun c => !s.onTime l T c).foldl (fun t c => t.markDie prio (s.missEvent l c)) s
  let lt := s.z0 - l.l0
  t.modLaunch prio fun l =>
    { l with checked := true, rdv := if l.lates.isEmpty then .commit (l.l0 + T) else .abort (l.l0 + max T (lt + 1)) }

/-- RENDEZVOUS_CHECK (R297, R325, R329): at K, which is T - 96 or the tick at which the RDV that makes T issues later than
that. When every strand has ended the final rendezvous has T = e + 96, and its check falls now. -/
def execRendezvousCheck (prio : Bool) (s : State) : Host.Outcome State Fault Refusal :=
  .next (match s.launchOf prio with
    | none => s
    | some l =>
      if l.lock || !l.runs || l.checked then s
      else
        let lt := s.z0 - l.l0
        match leastNat (s.named prio) with
        | some T => if T ≤ lt + Config.commitLead then s.checkAt prio l T else s
        | none => if s.allOver prio then s.checkAt prio l (lt + Config.commitLead) else s)

/-! ### LOCK mode -/

/-- The tick at which a die-level error aborts a LOCK superstep (R310), when nothing has decided an abort before it.
DEDUCED (notes/assumptions/25.md). -/
def Launch.errAbort (l : Launch) : Option Nat :=
  match l.errAt, l.rdv with
  | some t, .abort u => if t + Config.commitLead < u then some (t + Config.commitLead) else none
  | some t, _ => some (t + Config.commitLead)
  | none, _ => none

/-- LOCK_RENDEZVOUS (R298, R308, R310, R329): once every participant has arrived, the superstep commits at
max(base + Tmax, a + 96), or aborts there when a fault has been counted. An uncorrectable error aborts it 96 ticks after
its detection without waiting, whatever has been decided, and while the launch is swapped out too. DEDUCED (notes/assumptions/25.md). -/
def execLockRendezvous (prio : Bool) (s : State) : Host.Outcome State Fault Refusal :=
  .next (match s.launchOf prio with
    | none => s
    | some l =>
      if !l.lock || !l.started then s
      else
        match l.errAbort with
        | some t => s.modLaunch prio fun l => { l with rdv := .abort t }
        | none =>
          if !l.runs || l.rdv != .none || (s.strandsOf prio).isEmpty || !(s.strandsOf prio).all s.arrived then s
          else
            let tl := max (l.l0 + (s.named prio).foldl max 0) (s.z0 + Config.commitLead)
            s.modLaunch prio fun l => { l with checked := true, rdv := if l.lates.isEmpty then .commit tl else .abort tl })

/-! ### Restart images -/

/-- The inbox registers of a strand's cell, as its own register values (R57, R314). -/
def State.withInbox (s : State) (c : Strand) : Strand :=
  let slot := ((s.launchD c.prio).vd c.vdie).slot
  { c with x := (upFrom 0 8).foldl (fun m k =>
      sset 0 m (56 + k) (BitVec.ofNat 64 (leNat (rdMems s.mem (inboxBase slot c.cell + 8 * k) 8)))) c.x }

/-- Put a strand's saved inbox registers into its cell's window. -/
def State.putInbox (s : State) (c : Strand) : State :=
  let slot := ((s.launchD c.prio).vd c.vdie).slot
  (upFrom 0 8).foldl (fun t k =>
    { t with mem := wrMems t.mem (inboxBase slot c.cell + 8 * k) (leBytes 8 (sget 0 c.x (56 + k)).toNat) }) s

/-- A strand without the saved copies of its inbox registers. -/
def Strand.dropInbox (c : Strand) : Strand :=
  { c with x := (upFrom 0 8).foldl (fun m k => sset 0 m (56 + k) 0) c.x, inboxOut := false }

/-- Another context of a strand's cell is there (R314). -/
def State.sharesCell (s : State) (c : Strand) : Bool :=
  s.allStrands.any fun d => d.prio != c.prio && d.status != .idle && d.cell == c.cell && s.slotOf d == s.slotOf c

/-- The inbox registers of a launch's contexts come back from the shadow bank into their cells (R314). -/
def State.inboxBack (s : State) (prio : Bool) : State :=
  let back := (s.strandsOf prio).filter Strand.inboxOut
  back.foldl State.putInbox (s.modStrands prio fun c => if c.inboxOut then c.dropInbox else c)

/-- Record the restart images of a launch (R317). -/
def State.recordImage (s : State) (prio : Bool) : State :=
  s.modLaunch prio fun l => { l with image := (s.strandsOf prio).map s.withInbox }

/-! ### Commit -/

/-- A held byte of a launch: from its key, the physical address. -/
def heldOf (prio : Bool) (e : Nat × Option Byte) : Bool := decide (33 ≤ e.1 / 2 ^ 48) == prio

/-- The digest granules among some held bytes, ascending (R327). -/
def digestGranules (l : Launch) (h : SMap (Option Byte)) : List Nat :=
  (h.filterMap fun e => let a := e.1 % 2 ^ 48; if inRanges l.digestRanges a then some (a / 64) else none).foldl
    (fun g k => insNat k g) []

/-- Fold the committed digest granules into J (R327). PRESUMED (notes/assumptions/23.md). -/
def foldDigest (j : BitVec 256) (step : Nat) (m : Memory) (g : List Nat) : BitVec 256 :=
  if g.isEmpty then j
  else BitVec.ofNat 256 (leNat (sha256 (leBytes 32 j.toNat ++ leBytes 8 step ++
    g.flatMap fun k => leBytes 8 (64 * k) ++ rdMems m (64 * k) 64)))

/-- Make a launch's held writes the committed contents (R285, R325): each byte takes the value of the highest VDIE, since
the held bytes stand in rising order of VDIE. -/
def State.commitHeld (s : State) (prio : Bool) : State :=
  let mine := s.held.filter (heldOf prio)
  { s with
    mem := mine.foldl (fun m e => match e.2 with | some b => wrMem m (e.1 % 2 ^ 48) b | none => m) s.mem
    held := s.held.filter fun e => !heldOf prio e }

/-- The commit of a superstep (R285, R299, R325, R327): the held writes, the digest, SSDONE, and CMARK with its signal when
the rendezvous is marked. -/
def State.commitStep (s : State) (prio : Bool) : State :=
  let l := s.launchD prio
  let g := digestGranules l (s.held.filter (heldOf prio))
  let marked := (s.strandsOf prio).any fun c => match c.rdv with | some (_, m, _) => m | none => false
  let t := s.commitHeld prio
  let t := t.modJob prio fun r =>
    { r with digest := foldDigest r.digest r.ssdone t.mem g, ssdone := (r.ssdone + 1) % 2 ^ 32
             cmark := if marked then (r.ssdone + 1) % 2 ^ 32 else r.cmark }
  let t := if marked then { t with msi1 := t.msi1 + 1 } else t
  t.modLaunch prio fun l => { l with rdv := .none, checked := false, lates := [], errAt := none, tilesWritten := [], soWritten := false, swapHeld := false, dmix := none }

/-- A strand at the start of a superstep whose base falls at a tick of z0. -/
def Strand.resume (c : Strand) (slot : Nat) : Strand :=
  if c.status = .waiting then { c with status := .running, slot := slot, rdv := none, ssend := none, since := none }
  else { c with rdv := none, ssend := none }

/-- A STAGGER that came at a tick came by T - 96, for a rendezvous tick T on the z0 scale (R337).
DESIGN CHOICE (notes/assumptions/33.md). -/
def staggerInTime (T t : Nat) : Bool := decide (t + Config.commitLead ≤ T)

/-- The base of the next superstep after a rendezvous at T, on the LTICK scale (R337): it moves when a STAGGER has come in time.
DESIGN CHOICE (notes/assumptions/33.md). -/
def Launch.nextBase (l : Launch) (T : Nat) : Nat := T + (if l.staggers.any (staggerInTime (l.l0 + T)) then l.stagSlot * 38400 else 0)

/-- The messages of a superstep that ends at T, on the z0 scale, are judged: the first late one is kept for the abort report (R337).
DESIGN CHOICE (notes/assumptions/33.md). -/
def Launch.judgeStaggers (l : Launch) (T : Nat) : Launch :=
  { l with staggers := [], lateStagger := l.lateStagger.or (l.staggers.find? fun t => !staggerInTime T t) }

/-- After the commit, the next superstep begins (R297, R298, R317): its base, the planned slots of the waiting strands, and
the restart images. A priority launch that waits starts its swap now when the launch runs in SCHED mode (R315). -/
def State.nextStep (s : State) (prio : Bool) : State :=
  let l := s.launchD prio
  let base := l.nextBase (s.z0 - l.l0)
  let s := s.modLaunch prio fun l => { l.judgeStaggers s.z0 with base := base }
  let s := (s.modStrands prio fun c => c.resume (l.l0 + base)).recordImage prio
  if prio || l.lock then s
  else { s with prioL := s.prioL.map fun p => if p.started || p.swapAt.isSome then p else { p with swapAt := some s.z0 } }

/-! ### Abort -/

/-- A loaded priority launch waits for its cells. -/
def State.prioWaits (s : State) : Bool := s.prioL.any fun p => p.out && !p.started

/-- The focused strand and the others of a launch stop, and all they enqueued or issued is discarded (R311). A strand that
ended in an earlier superstep stays ended. -/
def Strand.abort (c : Strand) : Strand :=
  { c with status := if c.status = .ended then .ended else .stopped
           trap := none, asyncs := [], pfx := none, rep := 0, since := none, rdv := none, ssend := none
           busy := [], pend := [], fences := [], queue := [], running := [], chain := none, railDn := [] }

/-- The tiles written in the superstep read as expired from the abort on (R173). -/
def State.killTiles (s : State) (keys : List Nat) : State :=
  { s with births := keys.foldl (fun b k => sset none b k (some ((s.z0 : Int) - Config.retention))) s.births }

/-- Drop the writers of a launch from the sessions that are open, without an end of those that lose their last (R173). -/
def State.dropSessions (s : State) (prio : Bool) : State :=
  { s with sessions := s.sessions.filterMap fun x =>
      let left := x.writers.filter fun w => w.prio != prio
      if left.isEmpty then none else some { x with writers := left } }

/-- The report of an abort (R312, Table 22-6): the first late event of the late die with the lowest VDIE. The manual gives no VDIE
for an error of a BD that no virtual die is bound to: that field is then a free value.
DESIGN CHOICE (notes/assumptions/34.md). -/
def abortReport (l : Launch) (r : JobRegs) : JobRegs :=
  let e := (leastNat (l.lates.map Late.vdie)).bind fun v => l.lates.find? fun e => e.vdie = v
  let r := match e with
    | some e => { r with cause := e.cause, rvdie := if e.slot.isSome then (Config.unboundVdie e.tick).toNat else e.vdie, rslot := e.slot.getD (l.vd e.vdie).slot, rcell := if e.dieLevel then 0 else e.cell,
                         detail := e.detail }
    | none => r
  { r with ssidx := r.ssdone, late := ((l.lates.filter fun e => e.slot.isNone).map fun e => 2 ^ e.vdie).sum, sow := l.soWritten }

/-- The effects of an abort on every die of a launch (R173, R311, R312, R326). A swap that waits then goes on waiting for the next
committing rendezvous (R318). DEDUCED (notes/assumptions/24.md, 25.md). DESIGN CHOICE (notes/assumptions/33.md). -/
def abortStep (prio : Bool) (s : State) : State :=
  let l := s.launchD prio
  let T := if l.lock then s.z0 else ((leastNat (s.named prio)).map (· + l.l0)).getD s.z0
  let late := (l.judgeStaggers T).lateStagger
  let s := s.modStrands prio Strand.abort
  let s := { s with
    segs := s.segs.filter fun g => g.prio != prio
    atoms := s.atoms.filter fun a => a.prio != prio
    raises := s.raises.filter fun r => r.prio != prio
    held := s.held.filter fun e => !heldOf prio e }.dropSessions prio
  let s := (s.killTiles l.tilesWritten).modJob prio (abortReport l)
  let s := s.modJob prio fun r => match late with | some t => { r with detail := Config.lateStagger t } | none => r
  (s.modLaunch prio fun l =>
    { l with rdv := .none, checked := false, lates := [], errAt := none, tilesWritten := [], soWritten := false, started := false, dmix := none,
             staggers := [], lateStagger := none, swapHeld := !prio && s.prioWaits }).setJob prio 5

/-- SUPERSTEP_ABORT (R297, R298, R310, R311, R312). DEDUCED (notes/assumptions/25.md). -/
def execSuperstepAbort (prio : Bool) (s : State) : Host.Outcome State Fault Refusal :=
  .next (match (s.launchD prio).rdv with
    | .abort t => if t ≤ s.z0 then abortStep prio s else s
    | _ => s)

/-- A commit is due (R297): at its tick, with no die late. -/
def State.commitDue (s : State) (prio : Bool) : Bool :=
  match (s.launchD prio).rdv with | .commit t => decide (t ≤ s.z0) | _ => false

/-- RENDEZVOUS_COMMIT (R297, R298, R325): the commit takes effect, and the next superstep begins; a die marked late since
phase one began aborts the superstep instead. -/
def execRendezvousCommit (prio : Bool) (s : State) : Host.Outcome State Fault Refusal :=
  .next (
    if !s.commitDue prio then s
    else if (s.launchD prio).lates.isEmpty then (s.commitStep prio).nextStep prio
    else abortStep prio s)

/-! ### Retirement -/

/-- Drop the strands of a launch: their cells are idle again. -/
def State.dropStrands (s : State) (prio : Bool) : State :=
  let keep := fun c : Strand => !(c.prio == prio && c.status != .idle)
  { s with cur := if keep s.cur then s.cur else {}, others := s.others.filter keep }

/-- A launch that is present uses an entry of the translation cache (R90). -/
def State.usesCache (s : State) (e : CacheEnt) : Bool :=
  (s.main.toList ++ s.prioL.toList).any fun l => l.cached.any fun k => k.1 == e.key && k.2.1 == e.cls && k.2.2 == e.emask

/-- Translation cache entries that a firmware update made invalid go once every launch that uses them has retired (R90). -/
def State.settleCache (s : State) : State := { s with cache := s.cache.filter fun e => !e.stale || s.usesCache e }

/-- Take a launch away: strands, link contexts, text lock and secure ranges go with it (R92, R314, R339). The inbox registers of the
contexts that stay are those of their cells again. -/
def State.dropLaunch (s : State) (prio : Bool) : State :=
  let s := (s.dropStrands prio).inboxBack (!prio)
  let s := { s with links := s.links.filter fun l => l.prio != prio, segs := s.segs.filter fun g => g.prio != prio
                    atoms := s.atoms.filter fun a => a.prio != prio
                    held := s.held.filter fun e => !heldOf prio e }.dropSessions prio
  (if prio then { s with prioL := none } else { s with main := none }).settleCache

/-- JOB_RETIREMENT (R329): at the tick of the final rendezvous the last superstep commits and JOB becomes 3. A priority
launch stays until its cells have swapped back (R76, R315). -/
def execJobRetirement (prio : Bool) (s : State) : Host.Outcome State Fault Refusal :=
  .next (
    if !(s.commitDue prio && s.allOver prio) then s
    else if (s.launchD prio).lates.isEmpty then
      let t := (s.commitStep prio).setJob prio 3
      if prio then { t with prioL := t.prioL.map fun l => { l with started := false, swapAt := some t.z0 } } else t.dropLaunch false
    else abortStep prio s)

/-- HOST_STOPS_THE_JOB (R107): the running superstep ends as an abort does, and JOB becomes 5
(notes/assumptions/24.md). -/
def execHostStopsTheJob (prio : Bool) (s : State) : Host.Outcome State Fault Refusal :=
  .next (if (s.launchD prio).started then abortStep prio s else s)

/-! ### Hardware errors and STAGGER -/

/-- Mark the virtual dies of the launches bound to a slot with a die-level error, of one that is swapped out too (R310).
DEDUCED (notes/assumptions/25.md). -/
def State.markSlot (s : State) (slot cause : Nat) (detail : Word) : State :=
  [false, true].foldl (fun t prio =>
    match t.launchOf prio with
    | none => t
    | some l =>
      if !l.started then t
      else
        let e : Late := { vdie := 31, cause := cause, tick := s.z0, dieLevel := true, lstrand := 0, cell := 0, detail := detail }
        let own := (l.vdies.zipIdx.filter fun v => v.1.slot == slot).map Prod.snd
        if own.isEmpty && slotCls slot == .bd && cause == 0x13 then t.markDie prio { e with slot := some slot }
        else own.foldl (fun t v => t.markDie prio { e with vdie := v }) t) s

/-- UNCORRECTABLE_MEMORY_ERROR (R161, R310): the die that holds the memory is late, with the failing physical address, or 0
when the error has none. The health change that goes with it waits for a moment that R13 allows (R82, R83).
DEDUCED (notes/assumptions/31.md). -/
def execUncorrectableMemoryError (slot : Nat) (addr : BitVec 48) (retire : Loss) (cell : Option Nat) (s : State) :
    Host.Outcome State Fault Refusal :=
  let t := s.markSlot slot 0x13 (0#16 ++ addr)
  .next { t with retire := if retire.die then t.retire ++ [slot] else t.retire
                 failedCells := t.failedCells ++ cell.toList.map fun c => (slot, c)
                 failedStacks := if retire.stack then t.failedStacks ++ [slot] else t.failedStacks }

/-- LINK_FAILURE (R310): the dies at both ends are late, with the two slots. -/
def execLinkFailure (slotA slotB : Nat) (s : State) : Host.Outcome State Fault Refusal :=
  let d := BitVec.ofNat 64 (min slotA slotB % 32 + max slotA slotB % 32 * 256)
  .next ((s.markSlot slotA 0x14 d).markSlot slotB 0x14 d)

/-- STAGGER (R337): the message names no T, so it concerns the next rendezvous of the launch that runs, whose tick may still be open;
when that comes, one that came by T - 96 moves the base of the next superstep, and a later one is recorded for the abort report.
DESIGN CHOICE (notes/assumptions/33.md, 34.md). -/
def execStagger (s : State) : Host.Outcome State Fault Refusal :=
  .next (s.modLaunch (s.prioL.any Launch.runs) fun l => { l with staggers := l.staggers ++ [s.z0] })

end Sys2Proof.Machine
end

