-- ==== Sys2Proof/Machine/Place.lean ====
section
/-! DEFINITION. Placement (R14, R79 to R83, R86), health (R13, R82, R83) and rebinding (R172, R316). -/

namespace Sys2Proof.Machine

/-! ### Health -/

/-- Clear the GOOD bit of a slot (R12, R82). -/
def clearGood (dmix : Word) (slot : Nat) : Word :=
  if slot < 21 then dmix &&& ~~~(BitVec.ofNat 64 (2 ^ (21 + slot))) else dmix

/-- Take a failed cell into account (R82): an MD lives with one failed cell; a second, or a failed cell of any other die,
retires the die. -/
def noteCell (acc : Word × List (Nat × Nat)) (f : Nat × Nat) : Word × List (Nat × Nat) :=
  if acc.2.contains f then acc
  else if f.1 < 9 ∧ !(acc.2.any fun c => c.1 == f.1) then (acc.1, acc.2 ++ [f])
  else (clearGood acc.1 f.1, acc.2 ++ [f])

/-- Apply the health changes that wait (R13, R82, R83). DEDUCED (notes/assumptions/31.md). -/
def State.applyHealth (s : State) : State :=
  match s.fw with
  | none => s
  | some fw =>
    let x := s.failedCells.foldl noteCell (s.retire.foldl clearGood s.dmix, fw.badCells)
    let d := s.failedStacks.foldl (fun d n => d &&& ~~~(1#64 <<< ssBit n)) x.1
    { s with dmix := d, fw := some { fw with badCells := x.2 }, retire := [], failedCells := [], failedStacks := [] }

/-! ### Binding -/

/-- The primary slots of a class (R79). -/
def primaries : Cls → List Nat
  | .md => upFrom 0 8 | .vd => upFrom 9 4 | .bd => upFrom 13 4 | .gd => upFrom 17 2 | .sd => upFrom 19 2

/-- The spare slots of a class (R79): slot 8 only. -/
def spares : Cls → List Nat
  | .md => [8] | _ => []

/-- A die class has a stacked store (Table 1-1). -/
def clsStacked : Cls → Bool
  | .bd => false | .sd => false | _ => true

/-- A slot is usable for a class (R14, R79): fitted, healthy, of the class, and with its stacked store when the launch
allocates rows above row 256. R14 asks this of every virtual die of such a launch, but BDs and SDs have no stacked store and no
SSGOOD bit: the model exempts them. `only` limits a priority launch to the slots of the running launch (R81).
DESIGN CHOICE (notes/assumptions/37.md). -/
def State.usable (s : State) (high : Bool) (only : Option (List Nat)) (cls : Cls) (slot : Nat) : Bool :=
  s.good slot && slotCls slot == cls && (!(high && clsStacked cls) || s.dmix.getLsbD (ssBit slot))
    && (match only with | some l => l.contains slot | none => true)

/-- Step 1 of R80: the slot of an entry that names one, or the loader error. -/
def bindNamed (taken : List Nat) (v : VDie) : Except Nat (Option Nat) :=
  if v.want = 0xFF then .ok none
  else if taken.contains v.want ∨ 20 < v.want ∨ slotCls v.want ≠ v.cls then .error 0x04
  else .ok (some v.want)

/-- Step 1 of R80 for every entry: the slots named, none where any will do. -/
def bindStep1 : List VDie → List Nat → Except Nat (List (Option Nat))
  | [], _ => .ok []
  | v :: r, taken =>
    match bindNamed taken v with
    | .error e => .error e
    | .ok o =>
      match bindStep1 r (taken ++ o.toList) with
      | .error e => .error e
      | .ok l => .ok (o :: l)

/-- Step 2 of R80: the k-th entry of a class that names no slot prefers the k-th primary slot. `seen` counts the entries of
each class so far. -/
def State.bindStep2 (s : State) (high : Bool) (only : Option (List Nat)) :
    List (VDie × Option Nat) → List Cls → List Nat → List (Option Nat)
  | [], _, _ => []
  | (_, some n) :: r, seen, taken => some n :: s.bindStep2 high only r seen taken
  | (v, none) :: r, seen, taken =>
    let k := (seen.filter (· == v.cls)).length
    match ((primaries v.cls)[k]?).filter fun n => s.usable high only v.cls n && !taken.contains n with
    | some n => some n :: s.bindStep2 high only r (v.cls :: seen) (n :: taken)
    | none => none :: s.bindStep2 high only r (v.cls :: seen) taken

/-- Step 3 of R80: what is left, in VDIE order, takes the lowest unbound usable spare, then primary slot. -/
def State.bindStep3 (s : State) (high : Bool) (only : Option (List Nat)) : List (VDie × Option Nat) → List Nat → Except Nat (List Nat)
  | [], _ => .ok []
  | (v, o) :: r, taken =>
    let pick := match o with
      | some n => some n
      | none => (spares v.cls ++ primaries v.cls).find? fun n => s.usable high only v.cls n && !taken.contains n
    match pick with
    | none => .error 0x05
    | some n =>
      match s.bindStep3 high only r (n :: taken) with
      | .error e => .error e
      | .ok l => .ok (n :: l)

/-- Bind the VDIE entries to slots (R79, R80, R81): the slots, or the loader error. -/
def State.place (s : State) (high : Bool) (only : Option (List Nat)) (vs : List VDie) : Except Nat (List Nat) :=
  match bindStep1 vs [] with
  | .error e => .error e
  | .ok l1 =>
    let pairs := List.zip vs l1
    if pairs.any (fun p => match p.2 with | some n => !s.usable high only p.1.cls n | none => false) then .error 0x05
    else
      let l2 := s.bindStep2 high only pairs [] (l1.filterMap id)
      s.bindStep3 high only (List.zip vs l2) (l2.filterMap id)

/-- Rows of a context lie above row 256 (R14, R72). -/
def Ctx.high (c : Ctx) : Bool := decide (0 < c.sprows) && decide (256 < c.sprow0 + c.sprows)

/-! ### Slices -/

/-- The coordinates of a tile index, innermost loop first: pairs of loop and coordinate (R86). -/
def coordsOf (trip : List Nat) (on : Bool) : List Nat → Nat → List (Nat × Nat)
  | [], _ => []
  | l :: r, idx =>
    let t := trip.getD l 1
    (l, if on then idx % t else 0) :: coordsOf trip on r (idx / t)

/-- The 32-byte slice record of a cell (R86): `perm` lists the loops, outermost first. -/
def sliceRecord (trip perm : List Nat) (cells c : Nat) : List Byte :=
  let total := (perm.map fun l => trip.getD l 1).foldl (· * ·) 1
  let q := total / cells
  let m := total % cells
  let count := q + (if c < m then 1 else 0)
  let start := c * q + min c m
  let co := coordsOf trip (decide (0 < count)) perm.reverse start
  leBytes 8 start ++ leBytes 8 count ++
    (upFrom 0 4).flatMap fun l => leBytes 4 (((co.find? fun e => e.1 = l).map Prod.snd).getD 0)

/-! ### Clearing what a context owns -/

/-- Forget every byte of a physical range: it reads as a byte nothing has written. -/
def clearRange (m : Memory) (a n : Nat) : Memory := m.filter fun c => !(decide (a ≤ c.1) && decide (c.1 < a + n))

/-- Set every semaphore of a context's range on a die to 0 (R248, R328). -/
def State.clearSems (s : State) (slot : Nat) (c : Ctx) (cells : Nat) : State :=
  { s with mem := clearRange s.mem (semAddr slot c.sem0) (2 * (cells * c.semn)) }

/-- Give every tile of a context's range on a die a birth, or none for the birth of R170. -/
def State.setBirths (s : State) (slot : Nat) (c : Ctx) (b : Option Int) : State :=
  let lo := tileKey slot c.ftile0
  let hi := lo + c.ftiles
  let rest := s.births.filter fun e => !(decide (lo ≤ e.1) && decide (e.1 < hi))
  { s with
    births := match b with
      | none => rest
      | some x => (upFrom c.ftile0 c.ftiles).foldl (fun m t => sset none m (tileKey slot t) (some x)) rest }

/-- Zero a context's scratchpad rows and accumulator bank on a die (R316): bank 0 is the active context's, bank 1 the
shadow's (R202). -/
def State.clearRows (s : State) (slot : Nat) (c : Ctx) (bank : Nat) : State :=
  let one := fun (m : Memory) (k : Nat) =>
    let m := clearRange m (winBase slot + k * 0x400000 + c.sprow0 * 6144) (c.sprows * 6144)
    if slotCls slot = .md then clearRange m (winBase slot + 0x04000000 + k * 0x10000 + bank * 0x8000) 0x8000 else m
  { s with mem := (upFrom 0 (clsCells (slotCls slot))).foldl one s.mem }

/-! ### Rebinding -/

/-- Rebind a launch to the present health (R83): the launch with the slots of R80, BINDGEN counted up to 255 where a die
moves; none when R80 finds no slot. A priority launch keeps to the slots `only` of the launch it pre-empts (R81). A retired cell
whose die keeps its slot counts no rebinding: R83 has a die or a cell rebound, R172 a die. DESIGN CHOICE (notes/assumptions/37.md). -/
def State.rebound (s : State) (only : Option (List Nat)) (l : Launch) : Option Launch :=
  match s.place (l.ctx0.high || l.ctx1.high) only l.vdies with
  | .error _ => none
  | .ok slots =>
    let move := fun (v : VDie) (n : Nat) => if v.slot = n then v else { v with slot := n, bindGen := min 255 (v.bindGen + 1) }
    some { l with vdies := List.zipWith move l.vdies slots }

/-- The virtual dies that move between two bindings, as the new one has them. -/
def movedDies (a b : Launch) : List VDie :=
  ((List.zip a.vdies b.vdies).filter fun p => p.1.slot != p.2.slot).map Prod.snd

/-- Move a launch's dies to new slots (R172, R316): the tiles of the new die read as expired from the rebinding on, its rows
and accumulator bank for the contexts are zero, and its semaphores are 0. -/
def State.rebind (s : State) (prio : Bool) (l' : Launch) : State :=
  let l := s.launchD prio
  let moved := movedDies l l'
  let s := s.modLaunch prio fun _ => l'
  moved.foldl (fun t v =>
    let b := some ((t.z0 : Int) - Config.retention)
    let t := (t.setBirths v.slot l'.ctx0 b).setBirths v.slot l'.ctx1 b
    let t := t.clearRows v.slot l'.ctx0 (if prio then 1 else 0)
    (t.clearSems v.slot l'.ctx0 v.cells).clearSems v.slot l'.ctx1 v.cells) s

/-- Load the restart images of a launch (R316, R317, R328): every strand takes its image, with SOVF clear where `clear` says so, and
one that had not ended issues its next unit at a tick. -/
def State.loadImage (s : State) (prio clear : Bool) (slot : Nat) : State :=
  let l := s.launchD prio
  let st := fun c : Strand => if c.status = .ended then Status.ended else Status.running
  let fresh := l.image.map fun c => { c with status := st c, slot := slot, sovf := c.sovf && !clear, busy := [], since := none }
  let s := s.dropStrands prio
  let s := fresh.foldl (fun t c => if c.out then t else t.putInbox c) s
  let s := { s with others := s.others ++ fresh.map (fun c => if c.out then { c with inboxOut := true } else c.dropInbox) }
  (l.vdies.zipIdx.flatMap fun v => (upFrom 0 4).map fun k => (v.1.slot, k)).foldl (fun t e => t.railUpdate e.1 e.2) s

end Sys2Proof.Machine
end

