-- ==== Sys2Proof/Machine/Loader.lean ====
section
/-! DEFINITION. Code objects and launch records in memory: their layout, their checks, symbols, relocation and page tables
(R64 to R72, R138, R139, R153, R339 to R341). -/

namespace Sys2Proof.Machine

/-- Bytes of physical memory as the management core reads them: a die that does not answer reads zero (R158). -/
def State.devBytes (s : State) (a n : Nat) : List Byte := (upFrom a n).map fun k => if s.answers k then rdMem s.mem k else 0

/-- A little-endian field of `n` bytes of physical memory. -/
def State.fld (s : State) (a n : Nat) : Nat := leNat (s.devBytes a n)

/-- Bytes that must be zero. -/
def State.zeros (s : State) (a n : Nat) : Bool := (s.devBytes a n).all (· == 0)

/-- Round up to a multiple. -/
def upTo (v m : Nat) : Nat := ceilDiv v m * m

/-- A class by its code in records (R65, R71). -/
def clsOf (n : Nat) : Option Cls :=
  match n with | 1 => some .md | 2 => some .vd | 3 => some .bd | 4 => some .gd | 5 => some .sd | _ => none

/-- Check a condition, or fail with an error. -/
def need (e : Nat × Nat) (b : Bool) : Except (Nat × Nat) Unit := if b then .ok () else .error e

/-- No failing record: LERRIDX (Table 4-4). -/
def noIdx : Nat := 0xFFFF

/-! ### Code objects -/

/-- A section table entry (R65). -/
structure Sect where
  kind : Nat
  cls : Nat
  attr : Nat
  align : Nat
  foff : Nat
  size : Nat
  ioff : Nat
  deriving DecidableEq, Repr

/-- A code object of a launch (R64, R69, R340, R341). -/
structure Obj where
  addr : Nat
  base : Nat
  img : Nat
  nsym : Nat
  nrel : Nat
  flags : Nat
  emask : Nat
  sects : List Sect
  /-- Bytes before the signature block (R70). -/
  len : Nat
  /-- Image address (R340). -/
  ipa : Nat
  deriving DecidableEq, Repr

/-- Read one section table entry. -/
def State.readSect (s : State) (a : Nat) : Sect :=
  { kind := s.fld a 2, cls := s.fld (a + 2) 1, attr := s.fld (a + 3) 1, align := s.fld (a + 4) 4, foff := s.fld (a + 8) 8,
    size := s.fld (a + 16) 8, ioff := s.fld (a + 24) 8 }

/-- Read an object at an address, with its load base or 0 for PREFBASE; none when its table does not lie in HBM. -/
def State.readObj (s : State) (addr base : Nat) : Option Obj :=
  let n := s.fld (addr + 24) 4
  let tab := addr + s.fld (addr + 40) 8
  if s.hbmTop < addr + 64 ∨ s.hbmTop < tab + 32 * n then none
  else
    let sects := (upFrom 0 n).map fun i => s.readSect (tab + 32 * i)
    let len := upTo ((sects.map fun x => x.foff + x.size).foldl max 0) 64
    some { addr := addr, base := if base = 0 then s.fld (addr + 8) 8 else base, img := s.fld (addr + 16) 8
           nsym := s.fld (addr + 28) 4, nrel := s.fld (addr + 32) 4, flags := s.fld (addr + 6) 2, emask := s.fld (addr + 48) 8
           sects := sects, len := len, ipa := upTo (addr + len + 400) 65536 }

/-- The trusted key store (R70): slots 0 to 7, one key each. An enrolment of a key into slots 1 to 7 is the firmware's, and done when
it reports the store. DEDUCED (notes/assumptions/31.md). -/
def State.keyStore (s : State) : List (Nat × Nat) :=
  (upFrom 0 8).filterMap fun k => ((s.fw.map FirmwareInfo.keys).getD []).find? fun e => e.1 == k

/-- The key slot that signed an object (R70): none when its signature does not hold, or when reserved bytes of its block are not zero.
DESIGN CHOICE (notes/assumptions/21.md). -/
def State.signer (s : State) (o : Obj) : Option Nat :=
  let b := o.addr + o.len
  if s.hbmTop < b + 400 then none
  else
    (s.keyStore.find? fun k => (sha256 (beBytes 384 k.2)).take 8 == s.devBytes b 8
      && s.zeros (b + 8) 8 && pssOk k.2 (sha256 (s.devBytes o.addr o.len)) (s.devBytes (b + 16) 384)).map Prod.fst

/-- A loaded section (R65). -/
def Sect.loaded (x : Sect) : Bool := decide (1 ≤ x.kind ∧ x.kind ≤ 5)

/-- A power of two. -/
def isPow2 (n : Nat) : Bool := n != 0 && 2 ^ n.log2 == n

/-- The 64 KiB pages of the image that a section touches. -/
def Sect.pages (x : Sect) : Nat × Nat := (x.ioff / 65536, (x.ioff + x.size + 65535) / 65536)

/-- Two sections share a 64 KiB page of the image. -/
def Sect.meets (a b : Sect) : Bool :=
  decide (0 < a.size ∧ 0 < b.size) && decide (a.pages.1 < b.pages.2) && decide (b.pages.1 < a.pages.2)

/-- The rules of R65 on one section. -/
def Sect.ok (img : Nat) (x : Sect) : Bool :=
  decide (1 ≤ x.kind ∧ x.kind ≤ 0x0A) && decide (x.cls ≤ 5) && (x.kind != 1 || x.cls != 0)
    && (if x.kind = 2 ∨ x.kind = 3 then bitsOf x.attr 0 2 != 3 && bitsOf x.attr 5 3 == 0 && !(bitOf x.attr 2 && bitOf x.attr 3)
        else x.attr == 0)
    && isPow2 x.align
    && (!x.loaded || (decide (x.ioff + x.size ≤ img) && x.ioff % x.align == 0))
    && (x.kind != 1 || x.ioff % 48 == 0) && (x.kind != 4 || x.ioff % 32 == 0)

/-- The rules of R65 on two sections. -/
def Sect.pairOk (a b : Sect) : Bool :=
  !(a.loaded && b.loaded) ||
    (!rangesMeet a.ioff a.size b.ioff b.size && (!a.meets b || (a.kind != 1 && b.kind != 1 && a.attr == b.attr)))

/-- Every pair of a list. -/
def allPairs {α : Type} (f : α → α → Bool) : List α → Bool
  | [] => true
  | a :: r => r.all (f a) && allPairs f r

/-- The rules of R64 and R65 on an object. -/
def State.objOk (s : State) (o : Obj) : Bool :=
  s.fld o.addr 4 == 0x014F4B53 && s.fld (o.addr + 4) 2 == 1 && o.flags / 4 == 0 && s.zeros (o.addr + 56) 8
    && bitOf (s.fld (o.addr + 36) 4) s.comp.toNat && decide (o.nrel ≤ 65534) && o.img % 65536 == 0
    && o.sects.all (Sect.ok o.img) && allPairs Sect.pairOk o.sects

/-- The first section of a kind. -/
def Obj.sect (o : Obj) (kind : Nat) : Option Sect := o.sects.find? fun x => x.kind == kind

/-- Where a section of a kind begins in memory: the first of the kind, however short it is, and 0 for none.
DESIGN CHOICE (notes/assumptions/21.md). -/
def Obj.tab (o : Obj) (kind : Nat) : Nat := ((o.sect kind).map fun x => o.addr + x.foff).getD 0

/-! ### Placement table (R85) -/

/-- One placement table entry: loops, their permutation outermost first, trip counts and the slice array. -/
structure PlaceEnt where
  perm : List Nat
  trip : List Nat
  slices : Nat
  deriving DecidableEq, Repr

/-- Read one placement table entry at an address. -/
def State.readPlace (s : State) (a : Nat) : PlaceEnt :=
  let n := s.fld a 1
  let p := s.fld (a + 1) 1
  { perm := (upFrom 0 n).map fun i => bitsOf p (2 * i) 2, trip := (upFrom 0 4).map fun i => s.fld (a + 8 + 4 * i) 4
    slices := s.fld (a + 24) 8 }

/-- The rules of R85 on one entry; the slice array has a record for each of `cells` cells. -/
def State.placeOk (s : State) (o : Obj) (a cells : Nat) : Bool :=
  let e := s.readPlace a
  let n := s.fld a 1
  decide (n ≤ 4) && s.zeros (a + 2) 6 && s.zeros (a + 32) 32 && bitsOf (s.fld (a + 1) 1) (2 * n) 8 == 0
    && e.perm.all (· < n) && decide e.perm.Nodup
    && (e.trip.zipIdx.all fun t => if t.2 < n then decide (1 ≤ t.1) else t.1 == 0)
    && (n == 0 || (e.slices % 32 == 0 && o.sects.any fun x => (x.kind == 2 || x.kind == 3)
      && decide (x.ioff ≤ e.slices ∧ e.slices + 32 * max 1 cells ≤ x.ioff + x.size)))

/-- The rules of R85 on a table, for the cells of each virtual die. -/
def State.placeTableOk (s : State) (o : Obj) (cells : List Nat) : Bool :=
  match o.sect 8 with
  | none => true
  | some x => x.size % 64 == 0 && (upFrom 0 (x.size / 64)).all fun i => s.placeOk o (o.addr + x.foff + 64 * i) (cells.getD i 0)

/-! ### Symbols (R66) -/

/-- The address of a symbol record. -/
def Obj.symAt (o : Obj) (i : Nat) : Nat := o.tab 6 + 24 * i

/-- A name in the string table. The manual gives an offset and not how a name ends: the model takes the bytes before the first zero
byte. DESIGN CHOICE (notes/assumptions/21.md). -/
def State.symName (s : State) (o : Obj) (i : Nat) : List Byte :=
  let size := ((o.sect 9).map Sect.size).getD 0
  let off := s.fld (o.symAt i) 4
  (s.devBytes (o.tab 9 + off) (size - off)).takeWhile (· != 0)

/-- Where an FSF strand record's text went: (section index, record offset, text offset) (R88). -/
abbrev FsfMap := List (Nat × Nat × Nat)

/-- The address of a symbol that the object defines (R66, R88). -/
def State.symDef (s : State) (m : FsfMap) (o : Obj) (i : Nat) : Option Nat :=
  let sect := s.fld (o.symAt i + 4) 2
  let v := s.fld (o.symAt i + 8) 8
  (o.sects[sect]?).map fun x =>
    let v := if bitOf o.flags 0 && x.kind == 1 then ((m.find? fun e => e.1 == sect && e.2.1 == v).map fun e => e.2.2).getD v else v
    o.base + x.ioff + v

/-- The address of a symbol (R66, R341): an external one is the first global symbol of its name in another object, in
launch order. The maps are one per object. -/
def State.symAddr (s : State) (objs : List (Obj × FsfMap)) (me i : Nat) : Option Nat :=
  match objs[me]? with
  | none => none
  | some (o, m) =>
    if s.fld (o.symAt i + 4) 2 ≠ 0xFFFF then s.symDef m o i
    else
      let name := s.symName o i
      objs.zipIdx.findSome? fun p =>
        if p.2 = me then none
        else
          ((upFrom 0 p.1.1.nsym).find? fun k =>
            s.fld (p.1.1.symAt k + 6) 1 == 1 && s.fld (p.1.1.symAt k + 4) 2 != 0xFFFF && s.symName p.1.1 k == name).bind
            fun k => s.symDef p.1.2 p.1.1 k

/-- The address of a symbol's GOT slot, if it has one (R67). One in an object that has no GOT section has none: the manual gives it no G.
DESIGN CHOICE (notes/assumptions/21.md). -/
def State.gotAddr (s : State) (o : Obj) (i : Nat) : Option Nat :=
  let g := s.fld (o.symAt i + 16) 4
  if g = 0xFFFFFFFF then none else (o.sect 5).map fun x => o.base + x.ioff + 8 * g

/-! ### Relocation (R67, R68, R139) -/

/-- A relocation record (R67). -/
structure Rel where
  off : Nat
  sym : Nat
  type : Nat
  pair : Nat
  add : Nat
  deriving DecidableEq, Repr

/-- Read a relocation record. -/
def State.readRel (s : State) (a : Nat) : Rel :=
  { off := s.fld a 8, sym := s.fld (a + 8) 4, type := s.fld (a + 12) 1, pair := s.fld (a + 14) 2, add := s.fld (a + 16) 8 }

/-- An upper kind: PCHIGH or GOTHIGH. -/
def Rel.upper (r : Rel) : Bool := r.type == 1 || r.type == 4
/-- A lower kind: PCLOW or GOTLOW. -/
def Rel.lower (r : Rel) : Bool := r.type == 2 || r.type == 5
/-- A GOT kind. -/
def Rel.got (r : Rel) : Bool := r.type == 4 || r.type == 5

/-- hi(v) of R67. -/
def relHi (v : Int) : Int := (v + 0x800) / 4096
/-- lo(v) of R67. -/
def relLo (v : Int) : Int := v - relHi v * 4096

/-- S + A or G + A of a record, as a 64-bit number. -/
def Rel.value (r : Rel) (syms : List (Nat × Option Nat)) : Nat :=
  let e := syms.getD r.sym (0, none)
  ((if r.got then e.2.getD 0 else e.1) + r.add) % 2 ^ 64

/-- The signed difference of two 64-bit addresses. -/
def diff64 (a b : Nat) : Int := toSInt 64 ((a + 2 ^ 64 - b % 2 ^ 64) % 2 ^ 64)

/-- A number replacing bits [lo + n - 1 : lo] of a word. -/
def putBits (w lo n v : Nat) : Nat := w % 2 ^ lo + (v % 2 ^ n) * 2 ^ lo + w / 2 ^ (lo + n) * 2 ^ (lo + n)

/-- The MAJ values of the M format (Table 3-3). -/
def mFormat (maj : Nat) : Bool := [0x08, 0x09, 0x11, 0x18, 0x19, 0x1D].contains maj

/-- Patch `n` bytes of an image at an offset. -/
def State.patch (s : State) (o : Obj) (off n v : Nat) : State := { s with mem := wrMems s.mem (o.ipa + off) (leBytes n v) }

/-- The first two checks of R139 on a record: its kind and its symbol. -/
def Rel.early (r : Rel) (syms : List (Nat × Option Nat)) : Option Nat :=
  let pairKind := r.upper || r.lower
  if r.type < 1 ∨ 6 < r.type ∨ (pairKind ∧ r.pair = 0) ∨ (¬ pairKind ∧ r.pair ≠ 0) then some 0x09
  else if syms.length ≤ r.sym ∨ (r.got ∧ (syms.getD r.sym (0, none)).2.isNone) then some 0x06
  else none

/-- Check and apply record `i` of an object, in the order of R139. `syms` gives S and G of every symbol. -/
def State.relocOne (s : State) (o : Obj) (syms : List (Nat × Option Nat)) (i : Nat) : Except Nat State :=
  let rd := fun k => s.readRel (o.tab 7 + 24 * k)
  let r := rd i
  let pairKind := r.upper || r.lower
  let size := if pairKind then 6 else 8
  let al := if pairKind then 6 else if r.type = 3 then 8 else 32
  let u := r.value syms
  let P := o.base + r.off
  let word := s.fld (o.ipa + r.off) 6
  let inside := o.sects.any fun x => x.loaded && !(bitOf o.flags 0 && x.kind == 1)
    && decide (x.ioff ≤ r.off ∧ r.off + size ≤ x.ioff + x.size)
  match r.early syms with
  | some e => .error e
  | none =>
  if r.off % al ≠ 0 ∨ !inside then .error 0x09
  else if r.upper then
    let h := relHi (diff64 u P)
    if h < -(2 ^ 19) ∨ 2 ^ 19 ≤ h then .error 0x07
    else .ok (s.patch o r.off 6 (putBits word 4 20 (h % 2 ^ 20).toNat))
  else if r.lower then
    match ((upFrom 0 i).map rd).find? fun e => e.type + 1 == r.type && e.pair == r.pair && e.value syms == u with
    | none => .error 0x08
    | some e =>
      let up := s.fld (o.ipa + e.off) 6
      let lo := relLo (diff64 u (o.base + e.off))
      if bitsOf up 42 6 ≠ 0x04 ∨ bitsOf up 36 2 ≠ 1 then .error 0x08
      else if bitsOf word 42 6 = 0x02 ∧ bitsOf word 36 2 = 0 then .ok (s.patch o r.off 6 (putBits word 4 20 (lo % 2 ^ 20).toNat))
      else if mFormat (bitsOf word 42 6) then .ok (s.patch o r.off 6 (putBits word 4 12 (lo % 2 ^ 12).toNat))
      else .error 0x08
  else if r.type = 3 then .ok (s.patch o r.off 8 u)
  else if 2 ^ 54 ≤ u then .error 0x0A
  else .ok (s.patch o r.off 8 (putBits (s.fld (o.ipa + r.off) 8) 0 54 u))

/-- The tables of a relocation strand (R138): the resolved symbols, S then G; the loaded sections, IOFF then IOFF + SIZE; and the work
area, the result doubleword and one doubleword a record. They lie in memory of the management core's own.
DESIGN CHOICE (notes/assumptions/21.md). -/
def State.loaderArea (s : State) : Nat := (s.fw.map coreBase).getD 0 + 2 ^ 31

/-- Where the section list of a relocation strand lies. -/
def State.loaderSects (s : State) (o : Obj) : Nat := s.loaderArea + 16 * o.nsym

/-- Where the work area of a relocation strand lies. -/
def State.loaderWork (s : State) (o : Obj) : Nat := s.loaderSects o + 16 * (o.sects.filter Sect.loaded).length

/-- Write a doubleword of the management core's memory. -/
def State.putCore (s : State) (a v : Nat) : State := { s with mem := wrMems s.mem a (leBytes 8 v) }

/-- Where a relocation strand finds its tables, as virtual addresses that its page table gives them and that the manual does not: the
records, the resolved symbols, the work area, the section list. Free values. DESIGN CHOICE (notes/assumptions/21.md). -/
def State.loaderVirt (s : State) (k : Nat) : Word := Config.loaderAddr s.free k

/-- The loader's own page table during the relocation strand of an object (R138, R340), as ranges with their first virtual address,
first physical address and length: each image at its load base, and the strand's tables. All have RD and WR. -/
def State.loaderMap (s : State) (objs : List (Obj × FsfMap)) (o : Obj) : List (Nat × Nat × Nat) :=
  objs.map (fun e => (e.1.base, e.1.ipa, e.1.img))
    ++ [((s.loaderVirt 0).toNat, o.tab 7, 24 * o.nrel), ((s.loaderVirt 1).toNat, s.loaderArea, 16 * o.nsym),
        ((s.loaderVirt 2).toNat, s.loaderWork o, 8 + 8 * o.nrel), ((s.loaderVirt 3).toNat, s.loaderSects o, s.loaderWork o - s.loaderSects o)]

/-- A doubleword that the relocation strand stores at a virtual address: one that its page table does not map, or that is misaligned, is
not written, and the load goes on; the manual gives such a fault of the loader's no error. DESIGN CHOICE (notes/assumptions/21.md). -/
def State.loaderStore (s : State) (map : List (Nat × Nat × Nat)) (va v : Nat) : State :=
  match (map.find? fun e => decide (e.1 ≤ va ∧ va + 8 ≤ e.1 + e.2.2)).filter fun _ => va % 8 == 0 with
  | some e => { s with mem := wrMems s.mem (e.2.1 + (va - e.1)) (leBytes 8 v) }
  | none => s

/-- Write the resolved symbols and the loaded sections for a relocation strand (R138): those of an FSF object's text are listed too.
DESIGN CHOICE (notes/assumptions/21.md). -/
def State.loaderTables (s : State) (o : Obj) (syms : List (Nat × Option Nat)) : State :=
  let s := syms.zipIdx.foldl (fun (t : State) e =>
    (t.putCore (t.loaderArea + 16 * e.2) e.1.1).putCore (t.loaderArea + 16 * e.2 + 8) (e.1.2.getD 0)) s
  (o.sects.filter Sect.loaded).zipIdx.foldl (fun (t : State) e =>
    (t.putCore (t.loaderSects o + 16 * e.2) e.1.ioff).putCore (t.loaderSects o + 16 * e.2 + 8) (e.1.ioff + e.1.size)) s

/-- A record whose kind and symbol pass their checks leaves u in the work area (R138, R139). -/
def State.noteValue (s : State) (o : Obj) (syms : List (Nat × Option Nat)) (i : Nat) : State :=
  let r := s.readRel (o.tab 7 + 24 * i)
  if (r.early syms).isSome then s else s.putCore (s.loaderWork o + 8 + 8 * i) (r.value syms)

/-- Apply the records of an object from record i on (R68): the state with what was patched, and the failure if one fails. -/
def relocGo (o : Obj) (syms : List (Nat × Option Nat)) : Nat → Nat → State → State × Option (Nat × Nat)
  | 0, _, s => (s, none)
  | n + 1, i, s =>
    let s := s.noteValue o syms i
    match s.relocOne o syms i with
    | .error e => (s, some (e, i))
    | .ok t => relocGo o syms n (i + 1) t

/-- The relocation strand of one object (R69, R138, R139): it fills the GOT, then takes the records in table order, and leaves its
result, the error and the index of the record that failed. The strand's whole run falls in the tick of the launch. A GOT index past
the GOT section meets no check of the manual: its slot is stored where the loader's page table maps it. A slot whose address G is 0,
which the symbol table of R138 shows as none, is filled as R69 says, and GOT records on it are accepted.
DESIGN CHOICE (notes/assumptions/21.md). -/
def State.relocObj (s : State) (objs : List (Obj × FsfMap)) (me : Nat) : State × Option (Nat × Nat) :=
  match objs[me]? with
  | none => (s, none)
  | some (o, _) =>
    let syms := (upFrom 0 o.nsym).map fun i => ((s.symAddr objs me i).getD 0, s.gotAddr o i)
    let t := syms.foldl (fun t e => match e.2 with
      | some g => t.loaderStore (s.loaderMap objs o) g e.1
      | none => t) (s.loaderTables o syms)
    let x := relocGo o syms o.nrel 0 t
    let e := x.2.getD (0, noIdx)
    (x.1.putCore (x.1.loaderWork o) (e.1 + e.2 * 2 ^ 8), x.2)

/-- What the relocation strand of an object finds in its inbox registers (R57, R138): they stay in SD slot 19's cell 0, where a strand
of the launch may read them. Where a strand of a launch that runs holds that cell, the loader's strand has its registers in the cell's
shadow bank (R314), where nothing else reads them. DESIGN CHOICE (notes/assumptions/21.md). -/
def State.loaderInbox (s : State) (o : Obj) : State :=
  if s.allStrands.any fun c => c.status != .idle && !c.out && c.cell == 0 && ((s.launchD c.prio).vd c.vdie).slot == 19 then s
  else
    let vals := [BitVec.ofNat 64 o.base, s.loaderVirt 0, BitVec.ofNat 64 o.nrel, s.loaderVirt 1, s.loaderVirt 2, s.loaderVirt 3,
      BitVec.ofNat 64 (o.sects.filter Sect.loaded).length, BitVec.ofNat 64 o.nsym]
    { s with mem := wrMems s.mem (inboxBase 19 0) (vals.flatMap fun (v : Word) => leBytes 8 v.toNat) }

/-- Relocate every object in launch order (R341). -/
def relocAll (objs : List (Obj × FsfMap)) : Nat → Nat → State → State × Option (Nat × Nat)
  | 0, _, s => (s, none)
  | n + 1, i, s =>
    match ((objs[i]?).elim s fun o => s.loaderInbox o.1).relocObj objs i with
    | (t, some e) => (t, some e)
    | (t, none) => relocAll objs n (i + 1) { t with free := t.free + 1 }

/-- Copy bytes that answer between disjoint ranges of memory; the target holds nothing before. -/
def copyRange (ok : Nat → Bool) (m : Memory) (src dst n : Nat) : Memory :=
  m.foldl (fun acc c => if src ≤ c.1 ∧ c.1 < src + n ∧ ok c.1 then wrMem acc (dst + (c.1 - src)) c.2 else acc) m

/-- Load an object's image (R69, R340): its loaded sections, and zero everywhere else; GOT slots start at zero. -/
def State.loadObj (s : State) (o : Obj) : State :=
  let m := clearRange s.mem o.ipa o.img
  { s with mem := (o.sects.filter fun x => x.loaded && x.kind != 5).foldl (fun m x => copyRange s.answers m (o.addr + x.foff) (o.ipa + x.ioff) x.size) m }

/-! ### Page tables (R153, R340) -/

/-- A range to map: its virtual and physical address, and the rights and attributes of each of its 64 KiB pages (none for
a page that is not mapped), as page table entry bits. -/
structure MapSrc where
  va : Nat
  pa : Nat
  pages : Nat
  bits : Nat → Option Nat

/-- Tables being built: memory, and the next free physical address. -/
structure Tables where
  mem : Memory
  next : Nat
  root : Nat

/-- The table that an entry leads to, made when it is not there. -/
def Tables.sub (t : Tables) (entry : Nat) : Tables × Nat :=
  let e := leNat (rdMems t.mem entry 8)
  if e % 2 = 1 then (t, bitsOf e 16 32 * 65536)
  else ({ t with mem := wrMems t.mem entry (leBytes 8 (1 + t.next)), next := t.next + 65536 }, t.next)

/-- Put a leaf of 64 KiB or 512 MiB. -/
def Tables.leaf (t : Tables) (va pa bits : Nat) (big : Bool) : Tables :=
  let (t, l2) := t.sub (t.root + 8 * bitsOf va 42 12)
  let e := 3 + bits + pa
  if big then { t with mem := wrMems t.mem (l2 + 8 * bitsOf va 29 13) (leBytes 8 e) }
  else
    let (t, l3) := t.sub (l2 + 8 * bitsOf va 29 13)
    { t with mem := wrMems t.mem (l3 + 8 * bitsOf va 16 13) (leBytes 8 e) }

/-- The pages of one 512 MiB block of a range that can be one leaf (R340). -/
def MapSrc.bigBits (r : MapSrc) (p : Nat) : Option Nat :=
  if (r.va + p * 65536) % 2 ^ 29 = 0 ∧ (r.pa + p * 65536) % 2 ^ 29 = 0 ∧ p + 8192 ≤ r.pages then
    match r.bits p with
    | some b => if (upFrom p 8192).all fun q => r.bits q == some b then some b else none
    | none => none
  else none

/-- Map a range from page p on (R340). -/
def mapGo (r : MapSrc) : Nat → Nat → Tables → Tables
  | 0, _, t => t
  | n + 1, p, t =>
    if r.pages ≤ p then t
    else match r.bigBits p with
      | some b => mapGo r n (p + 8192) (t.leaf (r.va + p * 65536) (r.pa + p * 65536) b true)
      | none =>
        match r.bits p with
        | some b => mapGo r n (p + 1) (t.leaf (r.va + p * 65536) (r.pa + p * 65536) b false)
        | none => mapGo r n (p + 1) t

/-- The ordering kind of a section's ATTR as ORDK: ATTR 00 RC, 01 SO, 10 UO (R65, Table 9-4). -/
def attrOrdk (a : Nat) : Nat := if bitsOf a 0 2 = 0 then 1 else if bitsOf a 0 2 = 1 then 0 else 2

/-- Rights and attributes that a loaded section gives its pages (R340). -/
def Sect.bits (x : Sect) : Nat :=
  let rights := if x.kind = 1 then 16 else if x.kind = 2 ∨ x.kind = 5 then 4 else 12
  let at_ := if x.kind = 2 ∨ x.kind = 3 then
      attrOrdk x.attr * 128 + (if bitOf x.attr 4 then 512 else 0) + (if bitOf x.attr 3 then 1024 else 0)
        + (if bitOf x.attr 2 then 2048 else 0)
    else 128
  rights + at_

/-- Two sets of rights and attributes together: rights add up. -/
def orBits (a b : Nat) : Nat := a ||| b

/-- The bits of a page of an object's image (R340). -/
def Obj.pageBits (o : Obj) (p : Nat) : Option Nat :=
  match (o.sects.filter fun x => x.loaded && decide (0 < x.size) && decide (x.pages.1 ≤ p ∧ p < x.pages.2)).map Sect.bits with
  | [] => none
  | a :: r => some (r.foldl orBits a)

/-- A range with the SEC bit of each page set as its physical range belongs to a world (R339, R340). -/
def MapSrc.withWorld (r : MapSrc) (sec : Nat → Bool) : MapSrc :=
  { r with bits := fun p => (r.bits p).map fun b => if sec (r.pa + p * 65536) then b + 64 else b }

/-- The bits of a mapping list entry's pages (R340). -/
def MapEnt.bits (e : MapEnt) : Nat :=
  (if bitOf e.attr 0 then 4 else 0) + (if bitOf e.attr 1 then 8 else 0) + bitsOf e.attr 2 2 * 128
    + (if bitOf e.attr 4 then 512 else 0) + (if bitOf e.attr 5 then 1024 else 0) + (if bitOf e.attr 6 then 2048 else 0)

/-- The physical address of a mapping list entry: with WIN, an offset in the window of a virtual die's slot (R340). -/
def MapEnt.phys (e : MapEnt) (slots : List Nat) : Nat :=
  if bitOf e.attr 7 then winBase (slots.getD (bitsOf e.attr 8 5) 0) + e.pa else e.pa

/-- What an entry of the mapping list maps. -/
def MapEnt.src (e : MapEnt) (slots : List Nat) : MapSrc :=
  { va := e.va, pa := e.phys slots, pages := e.size / 65536, bits := fun _ => some e.bits }

/-- Write the leaves of the entries that follow a binding anew, in tables that hold their pages already (R83, R152, R340), and move
their digest pages with them (R327). -/
def State.remap (s : State) (prio : Bool) (old : List Nat) : State :=
  let l := s.launchD prio
  let new := l.vdies.map VDie.slot
  let t := l.wins.foldl (fun t e => mapGo (e.src new) (e.src new).pages 0 t) { mem := s.mem, next := l.root, root := l.root : Tables }
  let move := fun (r : Nat × Nat) =>
    match l.wins.find? fun e => bitOf e.attr 6 && (e.phys old, e.size) == r with
    | some e => (e.phys new, e.size)
    | none => r
  ({ s with mem := t.mem } : State).modLaunch prio fun l => { l with digestRanges := l.digestRanges.map move }

/-- Build the page table of a launch from an address on (R153, R340): the memory, and the first free address. -/
def buildTables (m : Memory) (root : Nat) (srcs : List MapSrc) : Memory × Nat :=
  let t := srcs.foldl (fun t r => mapGo r r.pages 0 t) { mem := m, next := root + 65536, root := root : Tables }
  (t.mem, t.next)

end Sys2Proof.Machine
end

