-- ==== Sys2Proof/Machine/Fsf.lean ====
section
/-! DEFINITION. FSF text: its form, its checks and its translation (R87 to R90). The text itself is the translator's
(Config.fsfText). DESIGN CHOICE (notes/assumptions/22.md). -/

namespace Sys2Proof.Machine

/-! ### The form of an FSF section (Tables 5-7 to 5-10) -/

/-- The length of a strand record. -/
def State.fsfLen (s : State) (a : Nat) : Nat := 32 + 48 * s.fld (a + 4) 1 + 8 * (s.fld (a + 6) 2 + s.fld (a + 12) 2 + s.fld (a + 14) 2)

/-- The strand records of a section: (offset in the section, length). -/
def State.fsfStrands (s : State) (a : Nat) : Nat → Nat → List (Nat × Nat)
  | 0, _ => []
  | n + 1, off => (off, s.fsfLen (a + off)) :: s.fsfStrands a n (off + s.fsfLen (a + off))

/-- The handle record of a local stream at one iteration (Table 5-9): BASE is ADDEND plus i times ADV. -/
def State.fsfHandle (s : State) (a i : Nat) : HRec :=
  let base := (s.fld (a + 8) 8 + i * s.fld (a + 40) 8) % 2 ^ 54
  BitVec.ofNat 256 (base + bitsOf (s.fld (a + 16) 1) 0 2 * 2 ^ 54 + s.fld (a + 17) 1 * 2 ^ 56 + s.fld (a + 20) 8 * 2 ^ 64
    + s.fld (a + 28) 12 * 2 ^ 128 + bitsOf (s.fld (a + 18) 1) 0 2 * 2 ^ 228)

/-- A local stream's tile obeys R143, R144 and R149 in a die. -/
def State.fsfTileOk (s : State) (c : Ctx) (slot : Nat) (h : HRec) : Bool :=
  let row := hSpace h == 1
  let top : Nat := if row then s.capss slot else clsTiles (slotCls slot) * 4096
  let unit : Nat := if row then 6144 else 4096
  let lo : Nat := if row then c.sprow0 else c.ftile0
  let n : Nat := if row then c.sprows else c.ftiles
  !hBad h && !hMisaligned h && (lowestOutside (hSweep h) 0 top).isNone
    && (lowestOutside (hSweep h) ((lo * unit : Nat) : Int) (((lo + n) * unit : Nat) : Int)).isNone

/-- One stream specification (Table 5-9). `iters` lists the iterations whose tiles are checked. -/
def State.fsfStreamOk (s : State) (o : Obj) (c : Ctx) (slot : Nat) (iters : List Nat) (a : Nat) : Bool :=
  let ctl := s.fld (a + 16) 1
  let space := bitsOf ctl 0 2
  let sym := s.fld a 4
  s.zeros (a + 4) 4 && s.zeros (a + 19) 1 && decide (ctl < 16) && space != 3 && !fmtReserved (s.fld (a + 17) 1)
    && decide (s.fld (a + 18) 1 < 4) && (sym == 0xFFFFFFFF || (space == 0 && decide (sym < o.nsym)))
    && (space == 0 || iters.all fun i => s.fsfTileOk c slot (s.fsfHandle a i))

/-- An engine MAJ that a class has (Table 5-10, Table 3-3). -/
def fsfMaj (cls : Cls) (maj : Nat) : Bool :=
  match cls with
  | .md => (decide (0x20 ≤ maj ∧ maj ≤ 0x23)) || maj == 0x30 || maj == 0x34
  | .vd => (decide (0x28 ≤ maj ∧ maj ≤ 0x2C)) || maj == 0x30 || maj == 0x34
  | .gd => maj == 0x30 || maj == 0x32 || maj == 0x34
  | _ => maj == 0x30

/-- An operand byte (Table 5-10). -/
def fsfOpOk (nstream b : Nat) : Bool :=
  b == 0 || decide (1 ≤ b ∧ b ≤ nstream) || decide (0x40 ≤ b ∧ b ≤ 0x4F) || decide (0x60 ≤ b ∧ b ≤ 0x6F)

/-- An operation record (Table 5-10), the k-th of the body counting from 0. -/
def State.fsfRecOk (s : State) (cls : Cls) (nstream a k : Nat) : Bool :=
  fsfMaj cls (s.fld a 1) && decide (s.fld (a + 1) 1 < 64) && [2, 3, 4, 5].all (fun f => fsfOpOk nstream (s.fld (a + f) 1))
    && decide (s.fld (a + 6) 1 ≤ k) && s.zeros (a + 7) 1

/-- The scalar registers that a sequencer word of a slot names. -/
def slotRegs (w : BitVec 48) (maj : Nat) : List Nat :=
  let f := fun lo => (w.extractLsb' lo 6).toNat
  if [0x01, 0x05, 0x06, 0x07].contains maj then [f 26, f 20, f 14]
  else if maj = 0x0A then [f 26, f 20, f 14, f 8]
  else if [0x02, 0x03, 0x04, 0x0B].contains maj then [f 30, f 24]
  else if [0x08, 0x09, 0x18, 0x19].contains maj then [f 28, f 22]
  else []

/-- A prologue or epilogue slot (R88). -/
def State.fsfSlotOk (s : State) (a : Nat) : Bool :=
  let w := BitVec.ofNat 48 (s.fld a 6)
  let maj := (w.extractLsb' 42 6).toNat
  s.zeros (a + 6) 2 && (decide (1 ≤ maj ∧ maj ≤ 0x0B) || [0x14, 0x15, 0x18, 0x19].contains maj)
    && w.extractLsb' 38 4 == 0 && w.extractLsb' 0 4 == 0 && (slotRegs w maj).all (· ≤ 39)
    && (match decode w with | .ok i => i.wf | .error _ => false)

/-- The iterations whose tiles decide whether a local stream is legal at each of `n` (R89): the addresses are evenly spaced, so the
first two and the last do; with no iteration the first tile does. DESIGN CHOICE (notes/assumptions/22.md). -/
def fsfIters (n : Nat) : List Nat := [0, 1, n - 1].filter (· < max n 1)

/-- A stream's addresses do not wrap over `n` iterations: one that does leaves every local range. -/
def State.fsfAdvOk (s : State) (a n : Nat) : Bool :=
  bitsOf (s.fld (a + 16) 1) 0 2 == 0 || decide ((toSInt 54 (s.fld (a + 40) 8 % 2 ^ 54)).natAbs * (n - 1) < 2 ^ 53)

/-- A strand record (Table 5-8) of section number `idx`, and all it holds, within the `size` bytes of its section. ENTRY is the symbol
of this record (R88). -/
def State.fsfStrandOk (s : State) (o : Obj) (cls : Cls) (c : Ctx) (slot idx a off size : Nat) : Bool :=
  let b := a + off
  let ns := s.fld (b + 4) 1
  let nrec := s.fld (b + 6) 2
  let npro := s.fld (b + 12) 2
  let nepi := s.fld (b + 14) 2
  let trip := s.fld (b + 8) 4
  let n := if s.fld (b + 5) 1 = 0 then trip else 1
  let e := s.fld b 4
  let pro := b + 32 + 48 * ns
  decide (off + 32 ≤ size) && decide (off + s.fsfLen b ≤ size) && decide (e < o.nsym) && s.fld (o.symAt e + 4) 2 == idx && s.fld (o.symAt e + 8) 8 == off && decide (1 ≤ ns ∧ ns ≤ 24)
    && decide (s.fld (b + 5) 1 ≤ 39) && decide (1 ≤ nrec ∧ nrec ≤ 256) && decide (npro ≤ 1024) && decide (nepi ≤ 1024)
    && s.zeros (b + 16) 16
    && (upFrom 0 ns).all (fun k => s.fsfStreamOk o c slot (fsfIters n) (b + 32 + 48 * k) && s.fsfAdvOk (b + 32 + 48 * k) n)
    && (upFrom 0 npro).all (fun k => s.fsfSlotOk (pro + 8 * k))
    && (upFrom 0 nrec).all (fun k => s.fsfRecOk cls ns (pro + 8 * npro + 8 * k) k)
    && (upFrom 0 nepi).all fun k => s.fsfSlotOk (pro + 8 * (npro + nrec + k))

/-- The section header (Table 5-7) and every strand record. -/
def State.fsfSectOk (s : State) (o : Obj) (cls : Cls) (c : Ctx) (slot idx : Nat) (x : Sect) : Bool :=
  let a := o.addr + x.foff
  let n := s.fld (a + 4) 2
  decide (32 ≤ x.size) && s.fld a 4 == 0x31465346 && decide (1 ≤ n) && s.zeros (a + 6) 26
    && (s.fsfStrands a n 32).all fun e => s.fsfStrandOk o cls c slot idx a e.1 x.size

/-! ### Translation -/

/-- What a strand record says of its native text: the prologue and epilogue words, MAJ and FN6 of each operation record, and whether
the body may run (R88, R89). -/
structure FsfPlan where
  pro : List (BitVec 48)
  epi : List (BitVec 48)
  recs : List (Nat × Nat)
  runs : Bool

/-- Read what a strand record at an address says of its text. -/
def State.fsfPlan (s : State) (b : Nat) : FsfPlan :=
  let pro := b + 32 + 48 * s.fld (b + 4) 1
  let npro := s.fld (b + 12) 2
  let nrec := s.fld (b + 6) 2
  let word := fun a => BitVec.ofNat 48 (s.fld a 6)
  { pro := (upFrom 0 npro).map fun k => word (pro + 8 * k)
    epi := (upFrom 0 (s.fld (b + 14) 2)).map fun k => word (pro + 8 * (npro + nrec + k))
    recs := (upFrom 0 nrec).map fun k => (s.fld (pro + 8 * (npro + k)) 1, s.fld (pro + 8 * (npro + k) + 1) 1)
    runs := s.fld (b + 5) 1 != 0 || s.fld (b + 8) 4 != 0 }

/-- The words of a text that are left when the words of a list, in order and HOLD apart, have been found among them: none when one is
missing. -/
def leftOver : List (BitVec 48) → List (BitVec 48) → Option (List (BitVec 48))
  | [], ws => some ws
  | _ :: _, [] => none
  | p :: r, w :: ws => if w >>> 4 = p >>> 4 then leftOver r ws else (leftOver (p :: r) ws).map (w :: ·)

/-- The scalar register that a sequencer word outside the slots' MAJ values writes: a link or a handle field.
DESIGN CHOICE (notes/assumptions/22.md). -/
def linkDest (w : BitVec 48) : Option Nat :=
  match decode w with
  | .ok (.jal _ d _) => some d.toNat
  | .ok (.jalr _ d _ _) => some d.toNat
  | .ok (.hget _ d _ _) => some d.toNat
  | _ => none

/-- A word of the translator's own (R88, R89): a sequencer word writes x40 to x55 only, and an engine word other than a copy has the
MAJ of an operation record. DESIGN CHOICE (notes/assumptions/22.md). -/
def ownWord (recs : List (Nat × Nat)) (w : BitVec 48) : Bool :=
  let maj := (w.extractLsb' 42 6).toNat
  let free := fun (d : Option Nat) => d.all fun d => d == 0 || decide (40 ≤ d ∧ d ≤ 55)
  if 0x20 ≤ maj ∧ maj ≤ 0x36 then maj == 0x30 || recs.any fun r => r.1 == maj
  else if [0x01, 0x02, 0x03, 0x04, 0x05, 0x06, 0x07, 0x08, 0x0A, 0x0B, 0x19].contains maj then free (slotRegs w maj).head?
  else free (linkDest w)

/-- A word performs an operation record (Table 5-10): it has its MAJ and FN6, but that a copy may be a chained one (R89).
DESIGN CHOICE (notes/assumptions/22.md). -/
def performsRec (r : Nat × Nat) (w : BitVec 48) : Bool :=
  (w.extractLsb' 42 6).toNat == r.1 && (r.1 == 0x30 || (w.extractLsb' 32 6).toNat == r.2)

/-- Native text of one strand for a class (R87 to R89): words that decode and whose units the class has; the prologue words in order,
the translator's own, then the epilogue words in order and END, prefixes and HOLD apart; and a word of every operation record's MAJ and
FN6 when the body may run. What the text does with the records' tiles is the translator's part of the free value. DESIGN CHOICE (notes/assumptions/22.md). -/
def nativeText (cls : Cls) (p : FsfPlan) (text : List Byte) : Bool :=
  let ws := (upFrom 0 (text.length / 6)).map fun k => wordOfBytes ((text.drop (6 * k)).take 6)
  let body := (ws.filter fun w => !isPrefixWord w).dropLast
  let own := (leftOver p.pro (body.take (body.length - p.epi.length))).getD []
  text.length % 6 == 0
    && ws.all (fun w => unitPresent cls w && (match decode w with | .ok i => i.wf && !i.isEvent | .error _ => false))
    && (match ws.getLast?.map decode with | some (.ok (.endStrand _)) => true | _ => false)
    && ((body.drop (body.length - p.epi.length)).map fun w : BitVec 48 => w >>> 4) == (p.epi.map fun w : BitVec 48 => w >>> 4)
    && (leftOver p.pro (body.take (body.length - p.epi.length))).isSome && own.all (ownWord p.recs)
    && (!p.runs || p.recs.all fun r => own.any (performsRec r))

/-- The texts of a section's strands, each on a 48-byte boundary: (record offset, text offset, text). -/
def layTexts : List (Nat × List Byte) → Nat → List (Nat × Nat × List Byte)
  | [], _ => []
  | (off, t) :: r, at_ => (off, at_, t) :: layTexts r (upTo (at_ + t.length) 48)

/-- Bytes with zeros up to a length. -/
def padTo (n : Nat) (b : List Byte) : List Byte := b ++ List.replicate (n - b.length) 0

/-- The bytes of a section's text. -/
def joinTexts (l : List (Nat × Nat × List Byte)) : List Byte := l.foldl (fun acc e => padTo e.2.1 acc ++ e.2.2) []

/-- Translate one text section for a slot of its class (R87, R88): the text padded to SIZE, and where each record's text
went. -/
def State.translateSect (s : State) (key : BitVec 256) (o : Obj) (c : Ctx) (slot idx : Nat) (x : Sect) : Option (List Byte × FsfMap) :=
  let cls := slotCls slot
  let emask := (s.fw.map FirmwareInfo.emask).getD 0
  let a := o.addr + x.foff
  if !s.fsfSectOk o cls c slot idx x then none
  else
    ((s.fsfStrands a (s.fld (a + 4) 2) 32).mapM fun e =>
      ((Config.fsfText key (clsCode cls) s.stepping.toNat emask idx e.1).filter (nativeText cls (s.fsfPlan (a + e.1)))).map fun t => (e.1, t)).bind fun l =>
      let laid := layTexts l 0
      let text := joinTexts laid
      if x.size < text.length then none else some (padTo x.size text, laid.map fun e => (idx, e.1, e.2.1))

/-- The image of a class in the translation cache: its text sections in order (R90). A hit supplies what fresh translation
does. -/
def State.cacheText (s : State) (key : BitVec 256) (cls : Cls) (image : List Byte) : State :=
  let emask := (s.fw.map FirmwareInfo.emask).getD 0
  if s.cache.any fun e => e.key == key && e.cls == cls && e.step == s.stepping && e.emask == emask then s
  else { s with cache := s.cache ++ [{ key := key, cls := cls, step := s.stepping, emask := emask, image := image }] }

/-- The digest of an object, which the translation cache knows it by (R90). -/
def State.objKey (s : State) (o : Obj) : BitVec 256 := BitVec.ofNat 256 (beNat (sha256 (s.devBytes o.addr o.len)))

/-- The entries of the translation cache that an object of a launch uses (R90): those of the bound classes that it has text for. -/
def State.cacheKeys (s : State) (slots : List Nat) (o : Obj) : List (BitVec 256 × Cls × Word) :=
  if !bitOf o.flags 0 then []
  else ([Cls.md, .vd, .bd, .gd, .sd].filter fun k =>
      slots.any (fun n => slotCls n == k) && o.sects.any fun x => x.kind == 1 && x.cls == clsCode k).map fun k =>
    (s.objKey o, k, (s.fw.map FirmwareInfo.emask).getD 0)

/-- Translate the text sections of one object for the classes that are bound. -/
def State.translateObj (s : State) (c : Ctx) (slots : List Nat) (o : Obj) : State × Option (Obj × FsfMap) :=
  if !bitOf o.flags 0 then (s, some (o, []))
  else
    let key := s.objKey o
    let todo := (List.zip (upFrom 0 o.sects.length) o.sects).filterMap fun e =>
      if e.2.kind = 1 then (slots.find? fun n => clsCode (slotCls n) == e.2.cls).map fun n => (e.1, e.2, n) else none
    match todo.mapM fun e => (s.translateSect key o c e.2.2 e.1 e.2.1).map fun t => (e.2.1, slotCls e.2.2, t) with
    | none => (s, none)
    | some l =>
      let s := l.foldl (fun t e => { t with mem := wrMems t.mem (o.ipa + e.1.ioff) e.2.2.1 }) s
      let s := [Cls.md, .vd, .bd, .gd, .sd].foldl (fun t k =>
        match l.filter fun e => e.2.1 == k with
        | [] => t
        | l => t.cacheText key k (l.flatMap fun e => e.2.2.1)) s
      (s, some (o, l.flatMap fun e => e.2.2.2))

/-- Translate every FSF object of a launch in launch order (R87). DESIGN CHOICE (notes/assumptions/22.md). -/
def State.translateAll (s : State) (c : Ctx) (slots : List Nat) : List Obj → State × Option (List (Obj × FsfMap))
  | [] => (s, some [])
  | o :: r =>
    match s.translateObj c slots o with
    | (s, none) => (s, none)
    | (s, some e) =>
      match s.translateAll c slots r with
      | (s, none) => (s, none)
      | (s, some l) => (s, some (e :: l))

/-- Every ENTRY of a primary FSF object names a strand record (R88). -/
def State.entriesMapped (s : State) (objs : List (Obj × FsfMap)) (entries : List Nat) : Bool :=
  match objs with
  | [] => true
  | (o, m) :: _ =>
    !bitOf o.flags 0 || entries.all fun i =>
      m.any fun e => e.1 == s.fld (o.symAt i + 4) 2 && e.2.1 == s.fld (o.symAt i + 8) 8

end Sys2Proof.Machine
end

