-- ==== Sys2Proof/Machine/Launch.lean ====
section
/-! DEFINITION. Launching work: the launch record's rules, loading, and starting strands (R69 to R72, R75, R76, R79 to R81,
R84 to R92, R138, R170, R248, R339 to R341). -/

namespace Sys2Proof.Machine

/-! ### The launch record (Table 4-3) -/

/-- A LEVEL entry (R72). -/
structure Level where
  domain : Nat
  scope : Nat
  count : Nat
  deriving DecidableEq, Repr

/-- A VDIE entry (Table 4-3). -/
structure VdieEnt where
  cls : Nat
  cells : Nat
  slot : Nat
  entry : Nat
  deriving DecidableEq, Repr

/-- A launch record. -/
structure LaunchRec where
  mode : Nat
  world : Nat
  nlevel : Nat
  nvdie : Nat
  objaddr : Nat
  base : Nat
  stag : Nat
  prio : Nat
  pace : List Nat
  xlist : Nat
  maplist : Nat
  nmap : Nat
  nxobj : Nat
  levels : List Level
  ctx0 : Ctx
  ctx1 : Ctx
  cb : List (Nat × Nat)
  vdies : List VdieEnt
  deriving DecidableEq, Repr

/-- Read a CTX entry. -/
def State.readCtx (s : State) (a : Nat) : Ctx :=
  { sprow0 := s.fld a 2, sprows := s.fld (a + 2) 2, ftile0 := s.fld (a + 4) 4, ftiles := s.fld (a + 8) 2
    sem0 := s.fld (a + 10) 2, semn := s.fld (a + 12) 2, spg0 := s.fld (a + 14) 1, spgn := s.fld (a + 15) 1 }

/-- Read a launch record. -/
def State.readRec (s : State) (a : Nat) : LaunchRec :=
  { mode := s.fld (a + 4) 1, world := s.fld (a + 5) 1, nlevel := s.fld (a + 6) 1, nvdie := s.fld (a + 7) 1
    objaddr := s.fld (a + 8) 8, base := s.fld (a + 16) 8, stag := s.fld (a + 24) 1, prio := s.fld (a + 25) 1
    pace := (upFrom 0 6).map fun k => s.fld (a + 28 + 2 * k) 2
    xlist := s.fld (a + 40) 8, maplist := s.fld (a + 48) 8, nmap := s.fld (a + 56) 2, nxobj := s.fld (a + 58) 1
    levels := (upFrom 0 (s.fld (a + 6) 1)).map fun k =>
      { domain := s.fld (a + 64 + 8 * k) 1, scope := s.fld (a + 65 + 8 * k) 1, count := s.fld (a + 68 + 8 * k) 4 }
    ctx0 := s.readCtx (a + 128), ctx1 := s.readCtx (a + 144)
    cb := (upFrom 0 4).map fun k => (s.fld (a + 160 + 8 * k) 4, s.fld (a + 164 + 8 * k) 4)
    vdies := (upFrom 0 (s.fld (a + 7) 1)).map fun k =>
      { cls := s.fld (a + 192 + 16 * k) 1, cells := s.fld (a + 193 + 16 * k) 1, slot := s.fld (a + 194 + 16 * k) 1
        entry := s.fld (a + 196 + 16 * k) 4 } }

/-- An address of the record: 64-byte aligned, with `n` bytes inside HBM. -/
def State.recAddr (s : State) (a n : Nat) : Bool := a % 64 == 0 && decide (a + n ≤ s.hbmTop)

/-- The form of the record itself: step 2.1 of R75. -/
def State.recForm (s : State) (a : Nat) : Bool :=
  let r := s.readRec a
  s.recAddr a 192 && s.fld a 4 == 0x314C4B53 && decide (1 ≤ r.nlevel ∧ r.nlevel ≤ 8) && decide (1 ≤ r.nvdie ∧ r.nvdie ≤ 20)
    && decide (a + 192 + 16 * r.nvdie ≤ s.hbmTop) && decide (r.nxobj ≤ 15) && decide (r.nmap ≤ 4096)
    && decide (r.mode < 4) && decide (r.world < 2) && decide (r.prio < 2) && s.zeros (a + 26) 2 && s.zeros (a + 59) 5
    && (upFrom 0 8).all (fun k => if k < r.nlevel then s.zeros (a + 66 + 8 * k) 2 else s.zeros (a + 64 + 8 * k) 8)
    && (upFrom 0 r.nvdie).all (fun k => s.zeros (a + 195 + 16 * k) 1 && s.zeros (a + 200 + 16 * k) 8)
    && s.recAddr r.objaddr 64
    && (if r.nxobj = 0 then r.xlist == 0 else s.recAddr r.xlist (16 * r.nxobj))
    && (if r.nmap = 0 then r.maplist == 0 else s.recAddr r.maplist (32 * r.nmap))

/-! ### Rules that depend on the objects: step 2.4 of R75 -/

/-- The hierarchy rules of R72. -/
def LaunchRec.levelsOk (r : LaunchRec) : Bool :=
  let prod := fun lo hi => ((r.levels.filter fun l => decide (lo ≤ l.domain ∧ l.domain ≤ hi)).map Level.count).foldl (· * ·) 1
  r.levels.all (fun l => decide (l.domain ≤ 5) && decide (l.scope ≤ 4) && decide (1 ≤ l.count))
    && (List.zip r.levels r.levels.tail).all (fun p => decide (p.1.domain ≤ p.2.domain) && decide (p.2.scope ≤ p.1.scope))
    && (r.levels.getLast?.map Level.domain) == some 5
    && prod 1 3 == r.nvdie
    && r.vdies.all fun v =>
      match clsOf v.cls with
      | some c => decide (1 ≤ v.cells) && decide (v.cells ≤ prod 4 5) && decide (v.cells ≤ clsCells c)
      | none => false

/-- The most cells of any VDIE entry. -/
def LaunchRec.maxCells (r : LaunchRec) : Nat := (r.vdies.map VdieEnt.cells).foldl max 0

/-- The fewest tiles of the bound classes that have fleeting memory, none when no class has (R72). -/
def LaunchRec.tileLimit (r : LaunchRec) : Option Nat :=
  leastNat ((r.vdies.filterMap fun v => clsOf v.cls).map clsTiles |>.filter (0 < ·))

/-- The limits of R72 on one context. -/
def LaunchRec.ctxOk (r : LaunchRec) (c : Ctx) : Bool :=
  (c.sprows == 0 || decide (c.sprow0 + c.sprows ≤ 512))
    && (c.semn == 0 || decide (c.sem0 + r.maxCells * c.semn ≤ 4096))
    && (c.spgn == 0 || decide (c.spg0 + c.spgn ≤ 62))
    && (c.ftiles == 0 || (match r.tileLimit with | some n => decide (c.ftile0 + c.ftiles ≤ n) | none => true))

/-- The two contexts' ranges of each kind are disjoint (R72). -/
def LaunchRec.ctxDisjoint (r : LaunchRec) : Bool :=
  let a := r.ctx0
  let b := r.ctx1
  !rangesMeet a.sprow0 a.sprows b.sprow0 b.sprows && !rangesMeet a.spg0 a.spgn b.spg0 b.spgn
    && !rangesMeet a.sem0 (r.maxCells * a.semn) b.sem0 (r.maxCells * b.semn)
    && (r.tileLimit.isNone || !rangesMeet a.ftile0 a.ftiles b.ftile0 b.ftiles)

/-- The commit buffers of R72 and R16. -/
def State.cbOk (s : State) (r : LaunchRec) : Bool :=
  r.cb.zipIdx.all fun p => decide (p.1.1 + p.1.2 ≤ 65536) && (p.1.2 == 0 || s.dmix.getLsbD (13 + p.2))

/-- ENTRY names a global symbol in a text section of the VDIE's CLASS (R72). -/
def State.entryOk (s : State) (o : Obj) (v : VdieEnt) : Bool :=
  decide (v.entry < o.nsym) && s.fld (o.symAt v.entry + 6) 1 == 1
    && (match o.sects[s.fld (o.symAt v.entry + 4) 2]? with | some x => x.kind == 1 && x.cls == v.cls | none => false)

/-- The load bases and images of R69, R340 and R341. -/
def State.basesOk (s : State) (objs : List Obj) : Bool :=
  let b0 := (objs.head?.map Obj.base).getD 0
  objs.all (fun o => o.base % 65536 == 0 && decide (o.base + o.img ≤ 2 ^ 54) && decide (o.ipa + o.img ≤ s.hbmTop)
      && (o.base % 48 == b0 % 48))
    && allPairs (fun p q => !rangesMeet p.base p.img q.base q.img && !rangesMeet p.ipa p.img q.ipa q.img
      && !rangesMeet p.ipa p.img q.addr (q.len + 400) && !rangesMeet q.ipa q.img p.addr (p.len + 400)) objs

/-- Read the mapping list (R340). -/
def State.readMap (s : State) (r : LaunchRec) : List MapEnt :=
  (upFrom 0 r.nmap).map fun k =>
    let a := r.maplist + 32 * k
    { va := s.fld a 8, pa := s.fld (a + 8) 8, size := s.fld (a + 16) 8, attr := s.fld (a + 24) 2 }

/-- A physical range lies in one range of R155: in HBM, in host memory, or in the windows of slots that are fitted (R16). An offset of
such a window that Table 9-5 does not list is accepted: what maps it makes no access (R156). DESIGN CHOICE (notes/assumptions/21.md). -/
def State.rangeMapped (s : State) (a n : Nat) : Bool :=
  decide (a + n ≤ s.hbmTop) || (decide (0x800000000000 ≤ a) && decide (a + n ≤ 2 ^ 48))
    || (decide (0x00F000000000 ≤ a) && decide (a + n ≤ 0x00F000000000 + 21 * 2 ^ 32)
      && (upFrom ((a - 0x00F000000000) / 2 ^ 32) ((a + n - 1) / 2 ^ 32 - a / 2 ^ 32 + 1)).all fun k => s.fitted.getLsbD k)

/-- The rules of R340 on one mapping list entry. The manual lists neither a VDIE of a WIN entry at or above NVDIE nor a virtual range
that ends above 2^54 as an error: the model takes both for one. DESIGN CHOICE (notes/assumptions/21.md). -/
def State.mapEntOk (s : State) (r : LaunchRec) (e : MapEnt) : Bool :=
  e.va % 65536 == 0 && e.pa % 65536 == 0 && e.size % 65536 == 0 && decide (e.va + e.size ≤ 2 ^ 54)
    && bitsOf e.attr 13 3 == 0 && bitsOf e.attr 2 2 != 3 && !(bitOf e.attr 1 && !bitOf e.attr 0)
    && !(bitOf e.attr 5 && bitOf e.attr 6)
    && (if bitOf e.attr 7 then decide (bitsOf e.attr 8 5 < r.nvdie) && decide (e.pa + e.size ≤ 2 ^ 32)
        else s.rangeMapped e.pa e.size)

/-- The rules of R340 on the mapping list. -/
def State.mapsOk (s : State) (r : LaunchRec) (objs : List Obj) : Bool :=
  let l := s.readMap r
  (upFrom 0 r.nmap).all (fun k => s.zeros (r.maplist + 32 * k + 26) 6) && l.all (s.mapEntOk r)
    && allPairs (fun e f => !rangesMeet e.va e.size f.va f.size) l
    && l.all fun e => objs.all fun o => !rangesMeet e.va e.size o.base o.img

/-- A placement table with fewer entries than NVDIE (R85). -/
def Obj.placeShort (o : Obj) (n : Nat) : Bool := match o.sect 8 with | some x => decide (x.size < 64 * n) | none => true

/-- A range of a priority launch lies within the running launch's shadow range (R81); `n` is its own length. -/
def within (a n b m : Nat) : Bool := n == 0 || (decide (b ≤ a) && decide (a + n ≤ b + m))

/-- The rules of R81 that need no slot. -/
def LaunchRec.prioOk (r : LaunchRec) (run : Launch) : Bool :=
  let a := r.ctx0
  let b := run.ctx1
  r.ctx1 == {} && within a.sprow0 a.sprows b.sprow0 b.sprows
    && (r.tileLimit.isNone || within a.ftile0 a.ftiles b.ftile0 b.ftiles) && within a.spg0 a.spgn b.spg0 b.spgn
    && !(b.sprows == 0 && b.ftiles == 0 && b.semn == 0 && b.spgn == 0)

/-- The semaphores of a priority launch on a slot lie within the running launch's shadow range there (R81). -/
def prioSemsOk (a : Ctx) (cells : Nat) (run : Launch) (slot : Nat) : Bool :=
  within a.sem0 (cells * a.semn) run.ctx1.sem0 ((((run.vdies.find? fun v => v.slot = slot).map VDie.cells).getD 0) * run.ctx1.semn)

/-! ### The plan of a launch -/

/-- What steps 2.1 to 2.4 of R75 and the binding decide, before anything is written. -/
structure Plan where
  record : LaunchRec
  objs : List Obj
  slots : List Nat
  deriving Repr

/-- The objects of a launch, in launch order (R341). -/
def State.launchObjs (s : State) (r : LaunchRec) : Option (List Obj) :=
  ((r.objaddr, r.base) :: (upFrom 0 r.nxobj).map fun k => (s.fld (r.xlist + 16 * k) 8, s.fld (r.xlist + 16 * k + 8) 8)).mapM
    fun p => s.readObj p.1 p.2

/-- The world rule of R72 and R341. -/
def LaunchRec.worldOk (r : LaunchRec) (signed : List (Obj × Nat)) : Bool :=
  r.world == 0 || signed.all fun p => bitOf p.1.flags 1 && p.2 == 0

/-- The virtual dies that the entries ask for. -/
def LaunchRec.wanted (r : LaunchRec) : List VDie :=
  r.vdies.map fun v => { cls := (clsOf v.cls).getD .md, cells := v.cells, want := v.slot, slot := 0 }

/-- An error without an index. -/
def err (code : Nat) : Nat × Nat := (code, noIdx)

/-- Steps 2.1 to 2.4 of R75, and the binding of R79 to R81. An object without the COMPMASK bit is error 0x01, by R64 and step 2.3,
where R341 says 0x04 of a further one; a priority entry with more CELLS than the running launch has on its slot is accepted,
since no rule checks it. A launch that waits for its re-run counts as running (R75, R81). The manual gives no order between step 1 of
R79 and the fenced BD of R158: a record that fails both gets 0x05, before the 0x04 of its slots.
DESIGN CHOICE (notes/assumptions/21.md). -/
def State.planLaunch (s : State) (a : Nat) : Except (Nat × Nat) Plan := do
  let r := s.readRec a
  need (err 4) (s.recForm a)
  let objs ← match s.launchObjs r with | some l => .ok l | none => .error (err 2)
  need (err 2) (objs.all fun o => (s.signer o).isSome)
  need (err 1) (objs.all s.objOk && (match objs with | o :: _ => s.placeTableOk o (r.vdies.map VdieEnt.cells) | [] => true))
  let signed := objs.map fun o => (o, (s.signer o).getD 0)
  need (err 3) (r.worldOk signed)
  need (err 4) (r.levelsOk && r.ctxOk r.ctx0 && r.ctxOk r.ctx1 && r.ctxDisjoint && s.cbOk r && s.basesOk objs && s.mapsOk r objs)
  need (err 4) ((upFrom 0 r.nxobj).all fun k => s.fld (r.xlist + 16 * k) 8 % 64 == 0)
  need (err 4) (match objs with | o :: _ => r.vdies.all (s.entryOk o) && !o.placeShort r.nvdie | [] => false)
  let running := s.main.filter fun l => l.started || l.rerunAt.isSome
  let run := running.getD {}
  need (err 4) (r.prio == 0 || running.isNone || r.prioOk run)
  need (err 5) (r.cb.zipIdx.all fun p => p.1.2 == 0 || s.good (13 + p.2))
  need (err 5) (r.prio == 0 || running.isSome)
  let only := if r.prio = 1 then some (run.vdies.map VDie.slot) else none
  match s.place (r.ctx0.high || r.ctx1.high) only r.wanted with
  | .error e => .error (err e)
  | .ok slots =>
    need (err 4) (r.prio == 0 || (List.zip r.vdies slots).all fun p => prioSemsOk r.ctx0 p.1.cells run p.2)
    .ok { record := r, objs := objs, slots := slots }

/-! ### Loading -/

/-- The slice records of one virtual die (R86). -/
def State.putSlices (s : State) (o : Obj) (k : Nat) (v : VdieEnt) : State :=
  let e := s.readPlace (o.tab 8 + 64 * k)
  if e.perm.isEmpty then s
  else (upFrom 0 v.cells).foldl (fun t c =>
    { t with mem := wrMems t.mem (o.ipa + e.slices + 32 * c) (sliceRecord e.trip e.perm v.cells c) }) s

/-- The first external symbol that nothing defines fails the launch (R66); so does a symbol that is not external and whose SECT names no
section. SECT 0xFFFF alone, whatever BIND says, makes a symbol external. DESIGN CHOICE (notes/assumptions/21.md). -/
def State.symsOk (s : State) (objs : List (Obj × FsfMap)) : Bool :=
  (upFrom 0 objs.length).all fun me =>
    match objs[me]? with
    | none => true
    | some (o, _) => (upFrom 0 o.nsym).all fun i => (s.symAddr objs me i).isSome

/-- The pages of an object's image that hold text, as physical ranges (R92). -/
def Obj.textPages (o : Obj) : List (Nat × Nat) :=
  (o.sects.filter fun x => x.kind == 1 && decide (0 < x.size)).map fun x =>
    (o.ipa + x.pages.1 * 65536, (x.pages.2 - x.pages.1) * 65536)

/-- The text sections of an object: class, first virtual address, size. -/
def Obj.texts (o : Obj) : List (Cls × Word × Nat) :=
  (o.sects.filter fun x => x.kind == 1).map fun x => ((clsOf x.cls).getD .md, BitVec.ofNat 64 (o.base + x.ioff), x.size)

/-- The pages of an object's image that carry DIGEST, as physical ranges (R327). -/
def Obj.digestPages (o : Obj) : List (Nat × Nat) :=
  ((upFrom 0 (o.img / 65536)).filter fun p => match o.pageBits p with | some b => bitOf b 11 | none => false).map
    fun p => (o.ipa + p * 65536, 65536)

/-- The physical ranges of the secure world that a launch of WORLD 1 adds (R339). -/
def Obj.secureRanges (o : Obj) : List (Nat × Nat) := [(o.addr, o.len + 400), (o.ipa, o.img)]

/-- The launch that a plan makes, its page tables apart. -/
def Plan.launch (p : Plan) (emask : Word) (entries : List Word) (maps : List MapEnt) (root : Nat)
    (cached : List (BitVec 256 × Cls × Word)) : Launch :=
  let r := p.record
  let differ := p.objs.any fun o => !bitOf o.flags 0 && BitVec.ofNat 64 o.emask != emask
  { lock := bitOf r.mode 0 || differ, det := bitOf r.mode 1, forced := !bitOf r.mode 0 && differ, secure := r.world == 1
    origin := BitVec.ofNat 64 ((p.objs.head?.map Obj.base).getD 0)
    vdies := (List.zip (List.zip r.wanted p.slots) entries).map fun e => { e.1.1 with slot := e.1.2, entry := e.2 }
    ctx0 := r.ctx0, ctx1 := r.ctx1, cb := r.cb, pace := r.pace, stagSlot := r.stag, root := root
    text := p.objs.flatMap Obj.texts, locked := p.objs.flatMap Obj.textPages
    wins := maps.filter fun e => bitOf e.attr 7, cached := cached
    secureRanges := if r.world = 1 then p.objs.flatMap Obj.secureRanges else []
    digestRanges := p.objs.flatMap Obj.digestPages
      ++ (maps.filter fun e => bitOf e.attr 6).map fun e => (e.phys p.slots, e.size) }

/-- What a launch maps: the images and the mapping list (R340). -/
def Plan.sources (p : Plan) (maps : List MapEnt) : List MapSrc :=
  p.objs.map (fun o => { va := o.base, pa := o.ipa, pages := o.img / 65536, bits := o.pageBits : MapSrc })
    ++ maps.map fun e => e.src p.slots

/-- Where the management core builds the tables of a launch: the main launch's and a priority launch's lie apart.
DEDUCED (notes/assumptions/31.md). -/
def State.tableRoot (s : State) (prio : Bool) : Nat := (s.fw.map coreBase).getD 0 + (if prio then 2 ^ 30 else 0)

/-- Build the page tables of a launch, with the SEC bits of the world of each page (R339, R340). -/
def State.mapLaunch (s : State) (prio : Bool) (p : Plan) : State :=
  let maps := s.readMap p.record
  let root := s.tableRoot prio
  let extra := if p.record.world = 1 then p.objs.flatMap Obj.secureRanges else []
  let t := buildTables (clearRange s.mem root (2 ^ 30)) root
    ((p.sources maps).map fun m => m.withWorld fun a => s.allSecure extra a 65536)
  { s with mem := t.1 }

/-- Load the objects of a plan (R69, R86, R87, R138, R340): images, slices, FSF text, symbols, relocation, page tables. The
state keeps what was written when a step fails. DESIGN CHOICE (notes/assumptions/21.md). -/
def State.loadPlan (s : State) (prio : Bool) (p : Plan) : State × Except (Nat × Nat) Launch :=
  let s := p.objs.foldl State.loadObj s
  let s := match p.objs with
    | o :: _ => (List.zip (upFrom 0 p.record.nvdie) p.record.vdies).foldl (fun (t : State) (e : Nat × VdieEnt) => t.putSlices o e.1 e.2) s
    | [] => s
  match s.translateAll p.record.ctx0 p.slots p.objs with
  | (s, none) => (s, .error (err 0x0B))
  | (s, some objs) =>
    if !s.symsOk objs then (s, .error (err 6))
    else
      let entries := p.record.vdies.map fun (v : VdieEnt) => (s.symAddr objs 0 v.entry).getD 0
      if !(s.entriesMapped objs (p.record.vdies.map VdieEnt.entry)) then (s, .error (err 0x0B))
      else
        let emask := (s.fw.map FirmwareInfo.emask).getD 0
        let cached := p.objs.flatMap (s.cacheKeys p.slots)
        match relocAll objs objs.length 0 s with
        | (s, some (e, i)) => (s, .error (e, i))
        | (s, none) =>
          (s.mapLaunch prio p, .ok (p.launch emask (entries.map (BitVec.ofNat 64)) (s.readMap p.record) (s.tableRoot prio) cached))

/-! ### Starting strands -/

/-- The strands of a launch at their start (R57, R84, R101): pc at ENTRY, SEMBASE from the context, everything else zero.
DESIGN CHOICE (notes/assumptions/4.md). -/
def Launch.strands (l : Launch) (prio out : Bool) (slot : Nat) : List Strand :=
  l.vdies.zipIdx.flatMap fun v =>
    (upFrom 0 v.1.cells).map fun c =>
      { prio := prio, vdie := v.2, cell := c, status := .running, out := out, pc := v.1.entry, slot := slot
        sembase := BitVec.ofNat 12 (l.ctx0.sem0 + c * l.ctx0.semn) : Strand }

/-- What the loader sets in the dies before the strands start: births and semaphores (R170, R248). The inbox registers keep
what writers have left in them (R57). -/
def State.prepareDies (s : State) (l : Launch) : State :=
  l.vdies.foldl (fun t v =>
    let t := (t.setBirths v.slot l.ctx0 none).setBirths v.slot l.ctx1 none
    (t.clearSems v.slot l.ctx0 v.cells).clearSems v.slot l.ctx1 v.cells) s

/-- Start the strands of the main launch at this tick, its L0 (R18, R75 step 4, R317).
DESIGN CHOICE (notes/assumptions/21.md). -/
def State.startMain (s : State) (l : Launch) : State :=
  let s := s.prepareDies l
  let s := { s with main := some { l with l0 := s.z0, started := true }, others := s.others ++ l.strands false false s.z0 }
  let s := (l.vdies.zipIdx.flatMap fun v => (upFrom 0 4).map fun k => (v.1.slot, k)).foldl (fun t e => t.railUpdate e.1 e.2) s
  ((s.modJob false fun r => { r with lerr := 0, lerrIdx := noIdx }).recordImage false).setJob false 2

/-- A loaded priority launch waits, swapped out, for its cells (R315). Where a strand shares its cell with the running launch, its inbox
registers lie in the shadow bank, and start at 0 there: R57 leaves open whether that bank still holds what the remote writers of an
earlier priority launch wrote. On any other cell they are those of the cell, which keep what has been written.
DESIGN CHOICE (notes/assumptions/1.md). DESIGN CHOICE (notes/assumptions/21.md). -/
def State.startPrio (s : State) (l : Launch) : State :=
  let s := { s.prepareDies l with prioL := some { l with out := true } }
  let cs : List Strand := (l.strands true true s.z0).map fun c => { c with inboxOut := s.sharesCell c }
  let s := { s with others := s.others ++ cs }
  (s.modJob true fun r => { r with lerr := 0, lerrIdx := noIdx }).setJob true 2

/-! ### LAUNCH -/

/-- PRIO of the record at an address (R75). -/
def State.recPrio (s : State) (a : Nat) : Bool := bitOf (s.fld (a + 25) 1) 0

/-- A LAUNCH write from slot 19's link reaches the core in this tick (R75). -/
def State.firstLink (s : State) : Bool :=
  s.launchAt == s.z0 + 1
    || s.inputs.any fun e => decide (e.1 ≤ s.z0)
      && (match e.2 with | .launch _ 19 => true | .hostRegisterWrite off _ => off == 0x010 | _ => false)

/-- The conditions under which R75 accepts a LAUNCH write: JOB is 0, 3, 4 or 5, or 2 for a priority launch; never while a
priority launch is present. R75's first condition alone would accept a write while PRI is 1 and JOB, which then describes the
priority launch, is 3 or 5: R76 keeps that launch present, and the model discards the write.
DESIGN CHOICE (notes/assumptions/21.md). -/
def State.mayLaunch (s : State) (a : Nat) : Bool :=
  s.ready && !s.pri && ([0, 3, 4, 5].contains s.regs.job || (s.regs.job == 2 && s.recPrio a))

/-- A failed load of the main launch (R75 step 3). -/
def State.failMain (s : State) (e : Nat × Nat) : State := (s.modJob false fun r => { r with lerr := e.1, lerrIdx := e.2 }).setJob false 4

/-- A failed load of a priority launch (R76): PFAIL, the error in LERR and LERRIDX, and the pre-empted launch runs on. -/
def State.failPrio (s : State) (e : Nat × Nat) : State :=
  s.signal { s with pri := false, pfail := true, aside := none, regs := { s.aside.getD {} with lerr := e.1, lerrIdx := e.2 } }

/-- An accepted main launch (R75). -/
def State.launchMain (s : State) (a : Nat) : State :=
  let s := (s.dropLaunch false).applyHealth
  let s := { s with regs := { job := s.regs.job } }.setJob false 1
  match s.planLaunch a with
  | .error e => s.failMain e
  | .ok p =>
    match s.loadPlan false p with
    | (s, .error e) => s.failMain e
    | (s, .ok l) => s.startMain l

/-- An accepted priority launch (R75, R76). The error of an earlier priority launch that failed is kept aside no longer. -/
def State.launchPrio (s : State) (a : Nat) : State :=
  let kept := if s.regs.job = 2 then { s.regs with lerr := 0, lerrIdx := noIdx } else s.regs
  let s := s.signal { s with pri := true, aside := some kept, regs := { job := 1 } }
  match s.planLaunch a with
  | .error e => s.failPrio e
  | .ok p =>
    match s.loadPlan true p with
    | (s, .error e) => s.failPrio e
    | (s, .ok l) => s.startPrio l

/-- LAUNCH (R74 to R76, R78): a write of a launch record's address, from the link of slot 19 or 20. One before READY is an access that
finds no register, and no accepted launch: it sets NRACC and LDROP.
DESIGN CHOICE (notes/assumptions/21.md). -/
def execLaunch (addr : BitVec 48) (link : Nat) (s : State) : Host.Outcome State Fault Refusal :=
  .next (
    if !s.ready then { s with nracc := true, ldrop := true }
    else if link ≠ 19 ∧ s.firstLink then { s with ldrop := true }
    else
      let s := if link = 19 then { s with launchAt := s.z0 + 1 } else s
      if !s.mayLaunch addr.toNat then { s with ldrop := true }
      else if s.recPrio addr.toNat then { s with launchAddr := addr }.launchPrio addr.toNat
      else { s with launchAddr := addr }.launchMain addr.toNat)

end Sys2Proof.Machine
end

