-- ==== Sys2Proof/Machine/Swap.lean ====
section
/-! DEFINITION. Pre-emption and re-run (R76, R83, R314 to R318, R328). -/

namespace Sys2Proof.Machine

/-! ### Swaps -/

/-- Ticks a swap takes (R315). -/
def swapTicks : Nat := 48

/-- A running word stands at a step boundary with no write of its earlier steps outstanding (R105), or is a CWAIT, which waits for
copies that do. DEDUCED (notes/assumptions/26.md). -/
def Running.rests (w : Running) : Bool :=
  (w.halts && w.outs.isEmpty && w.wait == 0) || (match w.word.instr with | .cwait _ _ => true | _ => false)

/-- A running LOCK context stands at word and step boundaries (R315): its indivisible words and sequencer operations have
completed, no trap is being taken, and no rendezvous has been decided. -/
def State.mainStopped (s : State) : Bool :=
  (s.launchD false).rdv == .none &&
    (s.strandsOf false).all fun c =>
      c.status != .trapping && c.status != .restoring
        && c.pend.all (fun p => match p.act with | .fence _ => true | _ => false) && c.running.all Running.rests

/-- The tick at which the swap of a waiting priority launch starts, when it has come (R315): after a committing rendezvous in
SCHED mode, when every cell has stopped in LOCK mode; at once when the running launch has retired, or had aborted before the priority
launch came. After an abort that found it waiting it waits on, in either mode, for the next committing rendezvous (R318).
DEDUCED (notes/assumptions/26.md). -/
def State.swapDue (s : State) : Bool :=
  let l := s.launchD false
  s.prioWaits && !l.swapHeld &&
    (if s.main.isNone || (!l.started && l.rerunAt.isNone) then true
     else if l.lock then l.started && s.mainStopped
     else match (s.launchD true).swapAt with | some t => decide (t ≤ s.z0) | none => false)

/-- A LOCK pre-emption of an RPT unit after its first repetition records the unit's first word and the repetition (R56).
DEDUCED (notes/assumptions/26.md). -/
def Strand.notePause (c : Strand) : Strand :=
  match c.pfx with
  | some p =>
    if p.rpt.isSome && c.rep != 0 then
      { c with tpc := p.first, tcause := (c.tcause &&& 0xC0FF#16) ||| (BitVec.ofNat 16 (c.rep % 64) <<< 8) }
    else c
  | none => c

/-- Swap a launch's contexts out: the inbox registers go into the shadow bank where another context comes in (R314). -/
def State.swapOut (s : State) (prio : Bool) : State :=
  (s.modStrands prio fun c =>
    let c := if s.sharesCell c then { s.withInbox c with inboxOut := true } else c
    { (if (s.launchD prio).lock then c.notePause else c) with out := true }).modLaunch prio fun l => { l with out := true }

/-- Swap a launch's contexts in, with the next issue of its strands at a tick. -/
def State.swapIn (s : State) (prio : Bool) (slot : Nat) : State :=
  let s := ((s.inboxBack prio).modStrands prio fun c => { c with out := false, slot := max c.slot slot }).modLaunch prio fun l => { l with out := false }
  ((s.launchD prio).vdies.flatMap fun v => (upFrom 0 4).map fun k => (v.slot, k)).foldl (fun (t : State) e => t.railUpdate e.1 e.2) s

/-- PRIORITY_LAUNCH_SWAP_IN (R315, R317): the running contexts go out, and the priority launch starts 48 ticks on, where its
LTICK and its first base are 0; its restart images are recorded again there. DEDUCED (notes/assumptions/26.md). -/
def execPriorityLaunchSwapIn (s : State) : Host.Outcome State Fault Refusal :=
  .next (
    if !s.swapDue then s
    else
      let at_ := s.z0 + swapTicks
      let s := (s.swapOut false).swapIn true at_
      (s.modLaunch true fun l => { l with l0 := at_, base := 0, started := true, swapAt := none }).recordImage true)

/-- The swap back of a retired priority launch has ended (R315). -/
def State.swapBackDue (s : State) : Bool :=
  match s.prioL with
  | some p => !p.started && !p.out && (match p.swapAt with | some t => decide (t + swapTicks ≤ s.z0) | none => false)
  | none => false

/-- Move a launch to a new binding, the pages that follow its dies with it (R83, R172, R316, R340). -/
def State.moveDies (s : State) (prio : Bool) (l' : Launch) : State :=
  (s.rebind prio l').remap prio ((s.launchD prio).vdies.map VDie.slot)

/-- The tick that ends is the last before a priority launch's strands start: their restart images are recorded (R317). -/
def State.imageStart (s : State) : State :=
  if s.prioL.any fun p => p.runs && p.l0 == s.z0 + 1 then s.recordImage true else s

/-- A launch that the present health leaves without a slot fails with error 0x05 (R14, R80, R158): the main launch goes, and a priority
launch swaps back with PFAIL. DESIGN CHOICE (notes/assumptions/37.md). -/
def State.unplaced (s : State) (prio : Bool) : State :=
  if prio then
    ({ s with pfail := true } : State).modLaunch true (fun l => { l with rerunAt := none, started := false, swapAt := some s.z0 })
      |>.modJob true (fun r => { r with lerr := 5, lerrIdx := noIdx }) |>.setJob true 4
  else (s.dropLaunch false).failMain (err 5)

/-- PRIORITY_LAUNCH_SWAP_BACK (R76, R315, R316): the priority launch leaves, the pre-empted launch resumes at this tick, and
PRI falls. In SCHED mode the base of its next superstep is its LTICK now; in LOCK mode it goes on where it stopped. A die that
health has taken away moves, and the launch restarts its superstep from the restart image, with what its strands did in it forgotten;
an error of a die stands. DEDUCED (notes/assumptions/26.md). -/
def execPriorityLaunchSwapBack (s : State) : Host.Outcome State Fault Refusal :=
  .next (
    if !s.swapBackDue then s
    else
      let s := s.dropLaunch true
      let s := s.signal { s with pri := false, regs := s.aside.getD {}, aside := none }
      let l := s.launchD false
      let s := if l.lock then s else s.modLaunch false fun l => { l with base := s.z0 - l.l0 }
      match s.rebound none l with
      | none => s.unplaced false
      | some l' =>
      if (movedDies l l').isEmpty then s.swapIn false s.z0
      else if !l.started then (s.moveDies false l').swapIn false s.z0
      else
        let s := { s with
          held := s.held.filter fun e => !heldOf false e, segs := s.segs.filter fun g => g.prio
          atoms := s.atoms.filter fun a => a.prio }
        let s := (s.dropSessions false).moveDies false l'
        let s := s.modLaunch false fun l => { l with
          out := false, dmix := none, base := s.z0 - l.l0, checked := false, lates := l.lates.filter Late.dieLevel
          image := l.image.map fun c => { c with out := false } }
        s.loadImage false false s.z0)

/-! ### Re-run -/

/-- The launch that the re-run register describes: the priority launch while PRI is 1 (R76), but the main launch where its abort keeps
the priority launch waiting for its re-run (R318). DESIGN CHOICE (notes/assumptions/41.md). -/
def State.rerunPrio (s : State) : Bool := s.pri && !(s.prioWaits && (s.launchD false).swapHeld)

/-- R328 accepts a re-run request with this BASE. -/
def State.rerunOk (s : State) (base : Nat) : Bool :=
  let r := s.jobRegs s.rerunPrio
  r.job == 5 && !r.sow && r.cause != 0x12 && decide (s.z0 - (s.launchD s.rerunPrio).l0 + 2048 ≤ base)

/-- The slots that a launch may be rebound to: a priority launch keeps to those of the launch it pre-empts, where there is one
(R81, R83). -/
def State.rerunSlots (s : State) (prio : Bool) : Option (List Nat) :=
  let l := s.launchD false
  if prio && s.main.isSome then some (((s.rebound none l).getD l).vdies.map VDie.slot) else none

/-- Rebind a launch to the present health (R83, R328). -/
def State.settleBinding (s : State) (prio : Bool) : State :=
  match s.rebound (s.rerunSlots prio) (s.launchD prio) with
  | none => s.unplaced prio
  | some l' => s.moveDies prio l'

/-- A priority launch that waits keeps to the slots of a main launch that has been rebound, or fails to load where they no longer do for
it (R76, R81, R83). -/
def State.settleWaiting (s : State) : State :=
  if !(s.pri && s.prioWaits) then s
  else match s.rebound (s.rerunSlots true) (s.launchD true) with
    | none => (s.dropLaunch true).failPrio (err 5)
    | some l' => let t := s.moveDies true l'; t.modStrands true fun c => { c with inboxOut := t.sharesCell c }

/-- A LOCK launch that stands pre-empted within a superstep keeps the DMIX that its strands have seen until that superstep ends (R13):
R314 saves every CSR of a swapped-out context. DESIGN CHOICE (notes/assumptions/41.md). -/
def State.keepDmix (s : State) : State :=
  s.modLaunch false fun l => if l.lock && l.started && l.out then { l with dmix := some (l.dmix.getD s.dmix) } else l

/-- Step 1 of R328 (R13, R83): the management core applies the health changes that wait, and rebinds. The launch that a priority
launch's re-run leaves pre-empted is rebound when it swaps back (R316), and sees the DMIX of before until its superstep ends.
DESIGN CHOICE (notes/assumptions/41.md). -/
def State.renewBinding (s : State) (prio : Bool) : State :=
  let s := s.keepDmix.applyHealth.settleBinding prio
  if prio then s else s.settleWaiting

/-- RERUN_REQUEST (R78, R328): a write to 0x038. An accepted one applies health and rebinds at once. DEDUCED (notes/assumptions/26.md).
DESIGN CHOICE (notes/assumptions/41.md). -/
def execRerunRequest (value : BitVec 64) (s : State) : Host.Outcome State Fault Refusal :=
  let base := (value.extractLsb' 0 48).toNat
  let w1c := value.getLsbD 48
  let p := s.rerunPrio
  .next (
    if !s.ready then { s with nracc := true }
    else if s.rerunOk base then
      let s := s.modJob p fun r => { r with base := base, refused := r.refused && !w1c }
      ((s.modLaunch p fun l => { l with rerunAt := some (l.l0 + base) }).setJob p 2).renewBinding p
    else s.modJob p fun r => { r with refused := true })

/-- An accepted re-run is due. -/
def State.rerunDue (s : State) (prio : Bool) : Bool :=
  match s.launchOf prio with | some l => l.rerunAt.any (· ≤ s.z0) | none => false

/-- The steps of R328 for one launch: the health and binding of what has failed since the request, semaphores, restart images, and the
start at BASE. DESIGN CHOICE (notes/assumptions/41.md). -/
def State.rerun (s : State) (prio : Bool) : State :=
  let s := s.renewBinding prio
  if (s.launchD prio).rerunAt.isNone then s
  else
  let l := s.launchD prio
  let s := l.vdies.foldl (fun (t : State) v => (t.clearSems v.slot l.ctx0 v.cells).clearSems v.slot l.ctx1 v.cells) s
  let s := s.modLaunch prio fun l => { l with rerunAt := none, base := s.z0 - l.l0, started := true, staggers := [] }
  s.loadImage prio true s.z0

/-- RERUN_START (R328): an accepted re-run starts at its BASE. DEDUCED (notes/assumptions/26.md). -/
def execRerunStart (s : State) : Host.Outcome State Fault Refusal :=
  .next (
    if s.rerunDue true then s.rerun true
    else if s.rerunDue false then s.rerun false
    else s)

end Sys2Proof.Machine
end

