-- ==== Sys2Proof/Machine/Power.lean ====
section
/-! DEFINITION. The power controller: demands, control intervals and rail steps (R19, R331 to R335, Table 25-2). -/

namespace Sys2Proof.Machine

/-- Ticks of a control interval (R333). -/
def controlInterval : Nat := 8192

/-- The codes of the throttle demands that stand. -/
def throttleCodes (l : List Demand) : List Nat := (l.filter fun d => d.kind != 2).map Demand.code

/-- The period code of an interval (R333): the longest period demanded, else the boost code, else 64. -/
def periodCode (l : List Demand) : Nat :=
  match throttleCodes l with
  | [] => ((l.filter fun d => d.kind == 2).getLast?.map Demand.code).getD 64
  | a :: r => (a :: r).foldl max 0

/-- The base rail that a throttle asks for: a current-limit throttle's before a thermal one's (R333). -/
def throttleRail (l : List Demand) : Option Nat :=
  ((l.find? fun d => d.kind == 0).orElse fun _ => l.find? fun d => d.kind == 1).map Demand.rail

/-- Δ of R334 at a period code, in mW: 150 W × (interval duration / 100 µs), where an interval at code 64 lasts 8192 ticks of
600 MHz. DESIGN CHOICE (notes/assumptions/40.md). -/
def drawDelta (code : Nat) : Nat := 320 * code

/-- The draw of an interval within Δ of the interval before it (R334). DESIGN CHOICE (notes/assumptions/40.md). -/
def holdDraw (prev delta w : Nat) : Nat := min (max w (prev - delta)) (prev + delta)

/-- The smallest throttle code that keeps the rise of an interval's draw within Δ; the longest period when none does (R334).
DESIGN CHOICE (notes/assumptions/40.md). -/
def rampCode (n prev : Nat) : Nat :=
  ((upFrom 65 64).find? fun c => decide (Config.workDraw n c ≤ prev + drawDelta c)).getD 128

/-- The draw of the interval that ends at a boundary (R334): that of the first interval, which no boundary begins, is its work's at its
period code. DESIGN CHOICE (notes/assumptions/40.md). -/
def State.lastDraw (s : State) : Nat := s.power.draw.getD (Config.workDraw s.power.interval s.power.kcode)

/-- The demands that stand at the first tick of an interval (R333, R334): what has arrived, and the current-limit demand of the ramp
rule when the work would raise the draw by more than Δ. DESIGN CHOICE (notes/assumptions/40.md). -/
def State.standing (s : State) (n : Nat) : List Demand :=
  let l := s.power.demands
  let k := periodCode l
  if Config.workDraw n k ≤ s.lastDraw + drawDelta k then l
  else l ++ [{ kind := 0, slot := 0, code := rampCode n s.lastDraw, rail := Config.rampRail n }]

/-- The highest base level: the SRAM rail + 87.5 mV, which leaves room for the step (R331). -/
def baseTop : Nat := 1350

/-- A cluster's base level in an interval (R331, R333): what a throttle asks for, or the controller's choice, from the SRAM rail
- 250 mV to the SRAM rail + 87.5 mV. DESIGN CHOICE (notes/assumptions/40.md). -/
def baseLevel (rail : Option Nat) (n key : Nat) : Nat :=
  match rail with | some r => min r baseTop | none => Config.baseRail n key % (baseTop + 1)

/-- CONTROL_INTERVAL_BOUNDARY (R19, R331, R333, R334): at a multiple of 8192 ticks the period, the base levels and the draw of the
interval are fixed from the demands that stand, basking fills a fall of more than Δ, and the steps that no cell requests fall.
DEDUCED (notes/assumptions/27.md). DESIGN CHOICE (notes/assumptions/40.md). -/
def execControlIntervalBoundary (s : State) : Host.Outcome State Fault Refusal :=
  .next (
    if s.z0 % controlInterval ≠ 0 then s
    else
      let n := s.z0 / controlInterval
      let l := s.standing n
      let k := periodCode l
      let w := Config.workDraw n k
      { s with power := { s.power with
          kcode := k, clt := l.any (fun d => d.kind == 0), tht := l.any (fun d => d.kind == 1)
          boost := (throttleCodes l).isEmpty && l.any (fun d => d.kind == 2), bask := s.power.basking
          basking := decide (w + drawDelta k < s.lastDraw), draw := some (holdDraw s.lastDraw (drawDelta k) w)
          rail := throttleRail l, bases := (upFrom 0 84).map (baseLevel (throttleRail l) n), demands := [], interval := n
          stands := s.power.stands.filter fun k => s.clusterRequested (k / 4) (k % 4) } })

/-! ### Basking (R335, R336) -/

/-- A context that stands in a logical cell of a slot. -/
def State.standsIn (s : State) (e : Nat × Nat) (c : Strand) : Bool := c.status != .idle && !c.out && s.slotOf c == e.1 && c.cell == e.2

/-- The matrix and vector engines of healthy dies that have no dispatched word, by slot and logical cell (R335). -/
def State.idleEngines (s : State) : List (Nat × Nat) :=
  ((upFrom 0 21).filter fun n => s.good n && (slotCls n == .md || slotCls n == .vd)).flatMap fun n =>
    ((upFrom 0 (clsCells (slotCls n))).map fun k => (n, k)).filter fun e => !s.allStrands.any fun c =>
      s.standsIn e c && c.running.any fun r => r.word.queue == (if slotCls n == .md then 0 else 1)

/-- A cell prefers basking for its class (R336): the context that stands there does; a cell without one has no preference bit. -/
def State.prefersBask (s : State) (e : Nat × Nat) : Bool := s.allStrands.any fun c => s.standsIn e c && c.bask

/-- The engines that bask at this tick (R335): idle ones, first those whose cell prefers it, the others only when those do not suffice.
How many it takes is a free value, and basking has no other effect. DESIGN CHOICE (notes/assumptions/40.md). -/
def State.baskers (s : State) : List (Nat × Nat) :=
  if !s.power.basking then []
  else (s.idleEngines.filter s.prefersBask ++ s.idleEngines.filter fun e => !s.prefersBask e).take
    (Config.baskEngines s.power.interval s.z0)

/-- Record a demand for the next interval, when it names a code of its kind (R333). -/
def State.demand (s : State) (d : Demand) : State :=
  if (if d.kind = 2 then decide (56 ≤ d.code ∧ d.code ≤ 63) else decide (65 ≤ d.code ∧ d.code ≤ 128)) then
    { s with power := { s.power with demands := s.power.demands ++ [d] } }
  else s

/-- CURRENT_LIMIT_DEMAND (R333, R334). DEDUCED (notes/assumptions/27.md). -/
def execCurrentLimitDemand (slot code rail : Nat) (s : State) : Host.Outcome State Fault Refusal :=
  .next (s.demand { kind := 0, slot := slot, code := code, rail := rail })

/-- THERMAL_DEMAND (R333). DEDUCED (notes/assumptions/27.md). -/
def execThermalDemand (slot code rail : Nat) (s : State) : Host.Outcome State Fault Refusal :=
  .next (s.demand { kind := 1, slot := slot, code := code, rail := rail })

/-- BOOST_DEMAND (R333). DEDUCED (notes/assumptions/27.md). -/
def execBoostDemand (code : Nat) (s : State) : Host.Outcome State Fault Refusal :=
  .next (s.demand { kind := 2, slot := 0, code := code, rail := 0 })

end Sys2Proof.Machine
end

