-- ==== Sys2Proof/Machine/Package.lean ====
section
/-! DEFINITION. Package reset, firmware, the host's registers and the accesses that come through BAR2 and the die windows
(R13, R18, R74 to R78, R90, R92, R155 to R158, R339). -/

namespace Sys2Proof.Machine

/-! ### Reset and firmware -/

/-- PACKAGE_RESET (R8, R18, R78): the package is as after reset. The bytes of memory stay; events that have not arrived count
their ticks from the reset on; the translation cache is empty. DESIGN CHOICE (notes/assumptions/1.md). DEDUCED (notes/assumptions/36.md).
DESIGN CHOICE (notes/assumptions/4.md). -/
def execPackageReset (s : State) : Host.Outcome State Fault Refusal :=
  .next { State.reset with mem := s.mem, free := s.free, comp := s.comp, stepping := s.stepping, inputs := s.inputs.map fun e => (e.1 - s.z0, e.2), reads := s.reads.map fun e => (e.1 - s.z0, e.2) }

/-- The slots whose stacked stores SSGOOD reports, from bit 42 on (Table 1-3). -/
def stackSlots : List Nat := upFrom 0 13 ++ [17, 18]

/-- DMIX as the management core fills it (R12, R15, R82): FIT as the composition fits the slots, GOOD and SSGOOD only where FIT,
COMP as fused, reserved bits zero, and dies with too many failed cells retired. DEDUCED (notes/assumptions/31.md). -/
def State.fillDmix (s : State) (fw : FirmwareInfo) : Word :=
  let fit := s.fitted
  let good := (fw.dmix >>> 21) &&& fit
  let ss := stackSlots.foldl (fun m n => if fit.getLsbD n then m ||| (1#64 <<< ssBit n) else m) 0
  (fw.badCells.foldl noteCell (fit ||| (good <<< 21) ||| (fw.dmix &&& ss) ||| (s.comp.setWidth 64 <<< 57), [])).1

/-- FIRMWARE_READY (R13, R78): the management core has authenticated its firmware, fills DMIX and raises READY.
DEDUCED (notes/assumptions/31.md). -/
def execFirmwareReady (fw : FirmwareInfo) (s : State) : Host.Outcome State Fault Refusal :=
  .next (if s.ready then s else { s with fw := some fw, dmix := s.fillDmix fw, ready := true })

/-- FIRMWARE_UPDATE (R90): exactly the entries of the translation cache that were built under another EMASK go, each once every
launch that uses it has retired. -/
def execFirmwareUpdate (emask : BitVec 64) (s : State) : Host.Outcome State Fault Refusal :=
  .next (match s.fw with
    | none => s
    | some fw =>
      let cache := s.cache.map fun e => if e.emask = emask then e else { e with stale := true }
      { s with fw := some { fw with emask := emask }, cache := cache }.settleCache)

/-! ### The host's registers -/

/-- STATUS (Table 4-4). -/
def State.statusReg (s : State) : Nat :=
  s.ready.toNat + s.nracc.toNat * 2 + s.ldrop.toNat * 4 + s.regs.job % 16 * 2 ^ 4 + s.regs.lerr % 256 * 2 ^ 8
    + s.regs.lerrIdx % 65536 * 2 ^ 16 + s.pri.toNat * 2 ^ 32 + s.pfail.toNat * 2 ^ 33

/-- IDENT (Table 4-4): PART, COMP and STEP. -/
def State.identReg (s : State) : Nat :=
  0x0A20 + s.comp.toNat * 2 ^ 16 + s.stepping.toNat * 2 ^ 20

/-- A host register (Tables 4-4, 21-1, 22-6, 24-1 and 25-2), whether or not READY is 1. -/
def State.hostReg (s : State) (off : Nat) : Word :=
  let r := s.regs
  BitVec.ofNat 64 (match off with
    | 0x000 => s.identReg
    | 0x008 => s.statusReg
    | 0x010 => s.launchAddr.toNat
    | 0x018 => r.ssdone % 2 ^ 32 + r.cmark % 2 ^ 32 * 2 ^ 32
    | 0x020 => r.cause % 256 + r.rvdie % 32 * 2 ^ 8 + r.rslot % 32 * 2 ^ 13 + r.rcell % 16 * 2 ^ 18 + r.ssidx % 2 ^ 32 * 2 ^ 32
    | 0x028 => r.detail.toNat
    | 0x030 => r.late % 2 ^ 20
    | 0x038 => let r := s.jobRegs s.rerunPrio; r.base % 2 ^ 48 + r.refused.toNat * 2 ^ 48 + r.sow.toNat * 2 ^ 49
    | 0x040 => bitsOf r.digest.toNat 0 64
    | 0x048 => bitsOf r.digest.toNat 64 64
    | 0x050 => bitsOf r.digest.toNat 128 64
    | 0x058 => bitsOf r.digest.toNat 192 64
    | 0x060 => s.power.kcode % 256 + s.power.clt.toNat * 2 ^ 8 + s.power.tht.toNat * 2 ^ 9 + s.power.boost.toNat * 2 ^ 10
        + s.power.bask.toNat * 2 ^ 11
    | _ => 0)

/-- Registers that answer before READY (R78). -/
def earlyReg (off : Nat) : Bool := off == 0x000 || off == 0x008

/-- A host read of a BAR0 doubleword (R74, R78): the value, and what the read leaves. -/
def State.hostRead (s : State) (off : Nat) : Word × State :=
  if s.ready || earlyReg off then (s.hostReg off, s) else (0, { s with nracc := true })

/-- A write to STATUS clears the W1C bits it writes as 1 (Table 4-4). -/
def State.writeStatus (s : State) (v : BitVec 64) : State :=
  { s with nracc := s.nracc && !v.getLsbD 1, ldrop := s.ldrop && !v.getLsbD 2, pfail := s.pfail && !v.getLsbD 33 }

/-- HOST_REGISTER_WRITE (R74 to R76, R78, R328): a host write of a BAR0 doubleword. Every register but STATUS, LAUNCH and
0x038 is read-only. DEDUCED (notes/assumptions/28.md). -/
def execHostRegisterWrite (off : BitVec 12) (value : BitVec 64) (s : State) : Host.Outcome State Fault Refusal :=
  if off = 0x010 then execLaunch (value.extractLsb' 0 48) 19 s
  else if !s.ready && !earlyReg off.toNat then .next { s with nracc := true }
  else if off = 0x008 then .next (s.writeStatus value)
  else if off = 0x038 then execRerunRequest value s
  else .next s

/-! ### Memory from outside a strand -/

/-- One committed byte as an access from outside a strand reads it (R155, R163). -/
def State.outByte (s : State) (a : Nat) : Byte :=
  if !s.answers a then 0
  else match s.placeOf a with
    | .tile n t _ => if s.liveAt (tileKey n t) s.z0 then rdMem s.mem a else 0
    | _ => rdMem s.mem a

/-- Write one byte from outside a strand: what makes no access is discarded, and the semaphore pages are read-only
(R155, Table 9-5). `slot` is the writer's. -/
def State.outWrite1 (slot : Nat) (s : State) (a : Nat) (b : Byte) : State :=
  if !s.answers a then s
  else match s.placeOf a with
    | .sync _ o => if o < 62 * 4096 then { s with mem := wrMem s.mem a b } else s
    | .unmapped => s
    | .inbox _ _ _ => s.inboxWrite slot 0 a [b]
    | _ => { s with mem := wrMem s.mem a b }

/-- Write consecutive bytes from outside a strand. -/
def State.outWrites (slot : Nat) (s : State) (a : Nat) : List Byte → State
  | [] => s
  | b :: r => State.outWrites slot (State.outWrite1 slot s a b) (a + 1) r

/-- The tiles that a write of `n` bytes reaches: slot, tile, and the nibbles it writes there (R165, R166). -/
def State.outTiles (s : State) (a n : Nat) : List (Nat × Nat × BitVec 8192) :=
  (upFrom (a / 4096) ((a + n + 4095) / 4096 - a / 4096)).filterMap fun p =>
    let lo := max a (p * 4096)
    let hi := min (a + n) (p * 4096 + 4096)
    match s.placeOf lo with
    | .tile slot t off => if s.answers lo && decide (lo < hi) then some (slot, t, byteMask off (hi - lo)) else none
    | _ => none

/-- A write from outside a strand: its bytes, and a session of its own on each tile it reaches.
DEDUCED (notes/assumptions/28.md). -/
def State.outWrite (slot : Nat) (s : State) (a : Nat) (data : List Byte) : State :=
  (s.outTiles a data.length).foldl (fun t e => t.sessOwn (tileKey e.1 e.2.1) e.2.2) (State.outWrites slot s a data)

/-- An access from outside a strand that its banks have served waits for the busy window of a tile (R162, R167), or a write for another
writer's session (R167). DESIGN CHOICE (notes/assumptions/38.md). -/
def State.outWaits (s : State) (write : Bool) (a n : Nat) : Bool :=
  (s.outTiles a n).any fun e => if write then !s.tileOpen (tileKey e.1 e.2.1) else s.tileBusy (tileKey e.1 e.2.1)

/-- Make an access from outside a strand at this tick. -/
def State.outAccess (slot : Nat) (s : State) (write : Bool) (a : Nat) (data : List Byte) : State :=
  if write then State.outWrite slot s a data else { s with readData := (upFrom a data.length).map s.outByte }

/-- Some byte of a range meets a condition. -/
def anyByte (f : Nat → Bool) (a n : Nat) : Bool := (upFrom a n).any f

/-- HOST_BAR2_ACCESS (R74, R77, R78, R92, R339): before READY it is refused with NRACC; the firewall refuses what reaches the
secure world, and a write of locked text, and AER reports it. A read leaves its bytes in readData; the length of `data` is
the length of the access. DEDUCED (notes/assumptions/28.md). -/
def execHostBar2Access (write : Bool) (link : Nat) (addr : BitVec 48) (data : List (BitVec 8)) (s : State) :
    Host.Outcome State Fault Refusal :=
  let a := addr.toNat
  let n := data.length
  let zeros := List.replicate n (0 : Byte)
  .next (
    if !s.ready then (if write then { s with nracc := true } else { s with nracc := true, readData := zeros })
    else if anyByte s.secureByte a n || (write && anyByte s.lockedByte a n) then
      (if write then { s with aer := s.aer + 1 } else { s with aer := s.aer + 1, readData := zeros })
    else if s.outWaits write a n then { s with windows := s.windows ++ [(s.z0 + 1, .hostBar2Access write link addr data)] }
    else State.outAccess link s write a data)

/-- An address lies in the die windows (R155). -/
def inWindows (a : Nat) : Bool := decide (0x00F000000000 ≤ a) && decide (a < 0x00F000000000 + 21 * 2 ^ 32)

/-- Some tile that a read of `n` bytes reaches reads as expired (R164). -/
def State.outExpired (s : State) (a n : Nat) : Bool := (s.outTiles a n).any fun e => !s.liveAt (tileKey e.1 e.2.1) s.z0

/-- DIE_WINDOW_ACCESS (R155 to R158): an access from a die in slot `fromSlot` through a die window, which tries again at the next
tick where it waits. What makes no access reads zero or is discarded, and raises a bus error in a strand of the die that makes it:
the focused one where it is that die's. A read of an expired tile sets EXP there (R164). DEDUCED (notes/assumptions/28.md). -/
def execDieWindowAccess (write : Bool) (fromSlot : Nat) (addr : BitVec 48) (data : List (BitVec 8)) (s : State) :
    Host.Outcome State Fault Refusal :=
  let a := addr.toNat
  let n := data.length
  .next (
    if !inWindows a then s
    else if s.outWaits write a n then { s with windows := s.windows ++ [(s.z0 + 1, .dieWindowAccess write fromSlot addr data)] }
    else
      let by_ := fun c : Strand => c.status != .idle && !c.out && ((s.launchD c.prio).vd c.vdie).slot == fromSlot
      let t := State.outAccess fromSlot s write a data
      let t := if !write && s.outExpired a n then t.asStrand by_ (·.orExp 1) else t
      if anyByte (fun k => !s.answers k) a n then t.asStrand by_ (busError (0#16 ++ addr)) else t)

end Sys2Proof.Machine
end

