-- ==== Sys2Proof/Machine/Queues.lean ====
section
/-! DEFINITION. Dispatch from the six engine queues (R98 to R107, R200, R207, R227, R260, R280, R282). -/

namespace Sys2Proof.Machine

/-- The head word of a queue (R99). -/
def Strand.headOf (c : Strand) (q : Nat) : Option QWord := c.queue.find? fun w => w.queue == q

/-- (b) of R100: the pace since the last dispatch. `lastDisp` holds that tick plus one. -/
def State.paced (s : State) (q : Nat) : Bool :=
  let d := sget 0 s.cur.lastDisp q
  d == 0 || decide (d - 1 + max 1 (s.launch.pace.getD q 0) ≤ s.z0)

/-- (d) of R100: a port serves one word from its dispatch to its completion (R104), so no running word, of this queue or
another, names a port of the word, and no port word holds one. DEDUCED (notes/assumptions/12.md). -/
def State.portsFree (s : State) (w : QWord) : Bool :=
  w.ports.all fun p =>
    !(s.cur.running.any fun r => r.word.ports.any fun o => o.1 == p.1)
      && !(s.cur.pend.any fun o => o.port == some p.1 && decide (o.seq < w.seq))

/-- An LPUSH: a cell's link engine runs one at a time (R188). -/
def isPush (i : Instr) : Bool := match i with | .lpush _ _ _ => true | _ => false

/-- (e) of R100: the engine accepts the word, fences and the rail apart (R182, R184, R185, R188, R198, R227, R260, R262).
DEDUCED (notes/assumptions/16.md). -/
def State.engineFree (s : State) (w : QWord) : Bool :=
  let tick := decide (sget 0 s.cur.accept w.queue ≤ s.z0)
    && s.cur.running.all fun r => r.word.queue != w.queue || r.accept.any fun a => decide (a + s.stepped.toNat ≤ r.wt)
  match w.queue with
  | 1 => tick && (match vecForm w.instr with | some f => f.accepts s | none => true)
  | 2 =>
    !(s.cur.running.any fun r => match r.word.instr with | .cwait _ _ => true | _ => false)
      && (match w.instr with | .cpy _ _ _ _ => s.copyAccepts | .cpym _ _ _ _ => s.copyAccepts | _ => true)
  | 3 => !(isPush w.instr && s.cur.running.any fun r => isPush r.word.instr)
  | 5 => tick && s.spAccepts w
  | _ => tick

/-- The copy that the word is chained to has not completed (R183). -/
def Strand.chained (c : Strand) (w : QWord) : Bool :=
  match w.chain with
  | some k => c.queue.any (fun o => o.seq == k) || c.running.any fun r => r.word.seq == k
  | none => false

/-- Everything but its await and the waits that make a die late: (a), (b), (d) and (e) of R100. -/
def State.mayDispatch (s : State) (w : QWord) : Bool :=
  decide (w.enq + 1 ≤ s.z0) && s.paced w.queue && s.portsFree w && s.engineFree w && !s.cur.chained w

/-- A fence that the word follows has not completed (R280). -/
def State.fenceHolds (s : State) (w : QWord) : Bool :=
  s.cur.fences.any fun f => decide (f.seq < w.seq) && f.suc &&& classesOf w.instr != 0

/-- An earlier SO access of the agent has not been performed (R282). -/
def State.soHolds (s : State) (w : QWord) : Bool :=
  w.so && (s.cur.pend.any (fun p => p.so && decide (p.seq < w.seq))
    || s.cur.queue.any (fun o => o.so && decide (o.seq < w.seq))
    || s.cur.running.any fun r => r.word.so && decide (r.word.seq < w.seq))

/-- A K-step word's rail: the step of every member's cluster stands (R207). -/
def State.railUp (s : State) (cells : List Nat) : Bool := cells.all fun c => s.railStands s.slotNo (s.cluster s.slotNo c)

/-- The await of an engine word at dispatch (R102, R103). -/
def State.awaitWord (s : State) (w : QWord) : Option State :=
  match w.sw with | none => some s | some n => s.takeSem s.slotNo n

/-- Remember since when the head waits for its semaphore (R102). -/
def State.headSince (s : State) (w : QWord) : State :=
  s.modCur fun c => { c with queue := c.queue.map fun o => if o.seq = w.seq then { o with since := some (o.since.getD s.z0) } else o }

/-- Take a word out of its queue. -/
def State.popWord (s : State) (w : QWord) : State :=
  s.modCur fun c => { c with queue := c.queue.filter fun o => o.seq != w.seq }

/-- After a dispatch: its tick for R100 (b). -/
def State.noteDispatch (s : State) (w : QWord) : State :=
  s.modCur fun c => { c with
    lastDisp := sset 0 c.lastDisp w.queue (s.z0 + 1), polled := sset 0 c.polled w.queue (2 * (s.z0 + 1)) }

/-- Words that dispatch after the engine steps of their tick take their own at once. -/
def State.catchUp (s : State) (ws : List WordId) : State := if s.stepped then s.lateSteps ws else s

/-- What dispatching a word does, by its entry. DESIGN CHOICE (notes/assumptions/5.md). -/
def dispatchWord (w : QWord) (s : State) : State :=
  match vecForm w.instr, mForm w.instr, s.spPass w.instr with
  | some f, _, _ => dispVector f w s
  | none, some f, _ => dispMma [(s.cur.cell, w, f)] s
  | none, none, some p => dispPass w p s
  | none, none, none =>
    match w.instr with
    | .cpy _ _ _ c => dispCopy w c s
    | .cpym _ _ _ c => dispCopy w c s
    | .close _ => dispClose w s
    | .cwait _ _ => dispCwait w s
    | .frenew _ _ c => dispFrenew w c s
    | .flife _ _ _ => dispQuery w s
    | .fchk _ _ _ => dispQuery w s
    | .fbirth _ _ _ => dispQuery w s
    | .gath _ _ _ _ c => dispGather .gath w c s
    | .scat _ _ _ _ c => dispGather .scat w c s
    | .scatadd _ _ _ _ c => dispGather .scatadd w c s
    | .mdrain _ _ _ d => dispMdrain w d.toNat s
    | .mzero _ bank => dispMzero w bank.toNat s
    | .msum _ _ _ f gm _ => dispMsum w f.toNat (gm.toNat + 1) s
    | .mscale _ d => dispMscale w d.toNat s
    | .mmode _ _ => dispMmode w s
    | .mstat _ d => dispMstat w d.toNat s
    | .spmode _ fp mx goff => dispSpmode w fp mx goff s
    | .spshape _ shape _ => dispTable w 0 shape.toNat 8 s
    | .splist _ list _ => dispTable w 1 list.toNat 64 s
    | .spld _ _ d => dispSpld w d.toNat s
    | .spldCvt _ _ d => dispSpld w d.toNat s
    | .spst _ _ d => dispSpst w d.toNat false s
    | .spstCvt _ _ d => dispSpst w d.toNat true s
    | .spsync _ _ _ => dispSpsync w s
    | .spclr _ n d => dispSpclr w (n.toNat + 1) d.toNat s
    | _ => dispLink w s

/-- Dispatch the head word of the focused strand's queue, when it may. A K-step word whose rail is missing marks the die late also while
its await is unsatisfied: R207 gives no order between the two waits. DESIGN CHOICE (notes/assumptions/7.md). -/
def loneDispatch (w : QWord) (s : State) : State :=
  if !s.mayDispatch w then s
  else if s.fenceHolds w || s.soHolds w || (isKStep w.instr && !s.railUp [s.cur.cell]) then s.lateWait
  else match s.awaitWord w with
    | none => s.headSince w
    | some t => ((dispatchWord w (t.popWord w)).noteDispatch w).catchUp [(s.cur.who, w.seq)]

/-- The head cooperative word of each member of a group (R200), none when some member has none that may dispatch: one whose GROUP
is 00 has no cooperative word. -/
def State.groupHeads (s : State) (cells : List Nat) : Option (List (Nat × QWord × MForm)) :=
  cells.mapM fun k =>
    let t := s.toCell k
    if t.cur.cell != k || t.cur.vdie != s.cur.vdie || t.cur.prio != s.cur.prio || mGroup t.cur.mmode == 0 then none
    else match t.cur.headOf 0 with
      | none => none
      | some w =>
        match mForm w.instr with
        | none => none
        | some f => if t.mayDispatch w then some (k, w, f) else none

/-- Every member's await at once (R200): none unless each is satisfied. -/
def groupAwaits : List (Nat × QWord × MForm) → State → Option State
  | [], s => some s
  | c :: r, s => (s.awaitWord c.2.1).bind (groupAwaits r)

/-- Members whose awaits do not hold remember since when they wait (R102). -/
def groupSince (heads : List (Nat × QWord × MForm)) (s : State) : State :=
  heads.foldl (fun t c => t.asCell c.1 fun u => if (u.awaitWord c.2.1).isNone then u.headSince c.2.1 else u) s

/-- Take the members' words out of their queues, or note their dispatch. -/
def eachMember (heads : List (Nat × QWord × MForm)) (f : State → QWord → State) (s : State) : State :=
  heads.foldl (fun t c => t.asCell c.1 fun u => f u c.2.1) s

/-- The members whose head words a fence or an earlier SO access holds (R280, R282). -/
def State.groupHeld (s : State) (heads : List (Nat × QWord × MForm)) : List (Nat × QWord × MForm) :=
  heads.filter fun c => let t := s.toCell c.1; t.fenceHolds c.2.1 || t.soHolds c.2.1

/-- Dispatch the head words of a group together (R200): words that disagree are discarded.
DESIGN CHOICE (notes/assumptions/8.md). DESIGN CHOICE (notes/assumptions/7.md). -/
def groupDispatch (cells : List Nat) (s : State) : State :=
  match s.groupHeads cells with
  | none => s
  | some heads =>
    if !(s.groupHeld heads).isEmpty then eachMember (s.groupHeld heads) (fun t _ => t.lateWait) s
    else if !s.railUp cells then s.lateWait
    else match groupAwaits heads s with
      | none => groupSince heads s
      | some t =>
        if mmaAgree heads t then
          (eachMember heads State.noteDispatch (dispMma heads (eachMember heads State.popWord t))).catchUp
            (heads.map fun c => ((s.cur.prio, s.cur.vdie, c.1), c.2.1.seq))
        else eachMember heads (fun u _ => u.railSettle) (mmaDiscard heads (eachMember heads State.noteDispatch (eachMember heads State.popWord s)))

/-- ENGINE_DISPATCH (R100): the queue tries to dispatch its head word at this tick.
DESIGN CHOICE (notes/assumptions/5.md, 7.md). -/
def execEngineDispatch (queue : Nat) (s : State) : Host.Outcome State Fault Refusal :=
  .next (
    let s := s.poll queue
    match s.cur.headOf queue with
    | none => s
    | some w =>
      if isKStep w.instr && mGroup s.cur.mmode != 0 then groupDispatch (groupCells (mGroup s.cur.mmode) s.cur.cell) s
      else loneDispatch w s)

end Sys2Proof.Machine
end

