-- ==== Sys2Proof/Machine/Dispatch.lean ====
section
/-! DEFINITION. The meaning of every row of the opcode table: one arm for each constructor of Instr. -/

namespace Sys2Proof.Machine

/-- The meaning of an instruction or event. -/
def exec (i : Instr) (s : State) : Host.Outcome State Fault Refusal :=
  match i with
  | .atTick imm => Sys2Proof.Machine.execAtTick imm s
  | .rpt count stepD stepA stepB => Sys2Proof.Machine.execRpt count stepD stepA stepB s
  | .add g d a b => Sys2Proof.Machine.execAdd g d a b s
  | .sub g d a b => Sys2Proof.Machine.execSub g d a b s
  | .and g d a b => Sys2Proof.Machine.execAnd g d a b s
  | .or g d a b => Sys2Proof.Machine.execOr g d a b s
  | .xor g d a b => Sys2Proof.Machine.execXor g d a b s
  | .andn g d a b => Sys2Proof.Machine.execAndn g d a b s
  | .sll g d a b => Sys2Proof.Machine.execSll g d a b s
  | .srl g d a b => Sys2Proof.Machine.execSrl g d a b s
  | .sra g d a b => Sys2Proof.Machine.execSra g d a b s
  | .slt g d a b => Sys2Proof.Machine.execSlt g d a b s
  | .sltu g d a b => Sys2Proof.Machine.execSltu g d a b s
  | .min g d a b => Sys2Proof.Machine.execMin g d a b s
  | .max g d a b => Sys2Proof.Machine.execMax g d a b s
  | .minu g d a b => Sys2Proof.Machine.execMinu g d a b s
  | .maxu g d a b => Sys2Proof.Machine.execMaxu g d a b s
  | .clz g d a => Sys2Proof.Machine.execClz g d a s
  | .ctz g d a => Sys2Proof.Machine.execCtz g d a s
  | .popc g d a => Sys2Proof.Machine.execPopc g d a s
  | .sel g d a b c => Sys2Proof.Machine.execSel g d a b c s
  | .addi g d a imm => Sys2Proof.Machine.execAddi g d a imm s
  | .andi g d a imm => Sys2Proof.Machine.execAndi g d a imm s
  | .ori g d a imm => Sys2Proof.Machine.execOri g d a imm s
  | .xori g d a imm => Sys2Proof.Machine.execXori g d a imm s
  | .slli g d a imm => Sys2Proof.Machine.execSlli g d a imm s
  | .srli g d a imm => Sys2Proof.Machine.execSrli g d a imm s
  | .srai g d a imm => Sys2Proof.Machine.execSrai g d a imm s
  | .slti g d a imm => Sys2Proof.Machine.execSlti g d a imm s
  | .addhi g d a imm => Sys2Proof.Machine.execAddhi g d a imm s
  | .addpch g d imm => Sys2Proof.Machine.execAddpch g d imm s
  | .movhi g d a imm => Sys2Proof.Machine.execMovhi g d a imm s
  | .cmpEq g d a b => Sys2Proof.Machine.execCmpEq g d a b s
  | .cmpNe g d a b => Sys2Proof.Machine.execCmpNe g d a b s
  | .cmpLt g d a b => Sys2Proof.Machine.execCmpLt g d a b s
  | .cmpGe g d a b => Sys2Proof.Machine.execCmpGe g d a b s
  | .cmpLtu g d a b => Sys2Proof.Machine.execCmpLtu g d a b s
  | .cmpGeu g d a b => Sys2Proof.Machine.execCmpGeu g d a b s
  | .cmpTst g d a b => Sys2Proof.Machine.execCmpTst g d a b s
  | .cmpNtst g d a b => Sys2Proof.Machine.execCmpNtst g d a b s
  | .pand g d a b => Sys2Proof.Machine.execPand g d a b s
  | .por g d a b => Sys2Proof.Machine.execPor g d a b s
  | .pxor g d a b => Sys2Proof.Machine.execPxor g d a b s
  | .pandn g d a b => Sys2Proof.Machine.execPandn g d a b s
  | .pnot g d a => Sys2Proof.Machine.execPnot g d a s
  | .prd g d => Sys2Proof.Machine.execPrd g d s
  | .pwr g a => Sys2Proof.Machine.execPwr g a s
  | .mul g d a b => Sys2Proof.Machine.execMul g d a b s
  | .mulw g d a b => Sys2Proof.Machine.execMulw g d a b s
  | .mulwu g d a b => Sys2Proof.Machine.execMulwu g d a b s
  | .mulwsu g d a b => Sys2Proof.Machine.execMulwsu g d a b s
  | .div g d a b => Sys2Proof.Machine.execDiv g d a b s
  | .divu g d a b => Sys2Proof.Machine.execDivu g d a b s
  | .divrem g d a b => Sys2Proof.Machine.execDivrem g d a b s
  | .divremu g d a b => Sys2Proof.Machine.execDivremu g d a b s
  | .ld g d a sz ord imm => Sys2Proof.Machine.execLd g d a sz ord imm s
  | .ldu g d a sz ord imm => Sys2Proof.Machine.execLdu g d a sz ord imm s
  | .st g d a sz ord imm => Sys2Proof.Machine.execSt g d a sz ord imm s
  | .ldx g d a b sz => Sys2Proof.Machine.execLdx g d a b sz s
  | .ldxu g d a b sz => Sys2Proof.Machine.execLdxu g d a b sz s
  | .stx g a b c sz => Sys2Proof.Machine.execStx g a b c sz s
  | .csrr g d csr => Sys2Proof.Machine.execCsrr g d csr s
  | .csrw g d a csr => Sys2Proof.Machine.execCsrw g d a csr s
  | .csrs g d a csr => Sys2Proof.Machine.execCsrs g d a csr s
  | .csrc g d a csr => Sys2Proof.Machine.execCsrc g d a csr s
  | .beq g a b off => Sys2Proof.Machine.execBeq g a b off s
  | .bne g a b off => Sys2Proof.Machine.execBne g a b off s
  | .blt g a b off => Sys2Proof.Machine.execBlt g a b off s
  | .bge g a b off => Sys2Proof.Machine.execBge g a b off s
  | .bltu g a b off => Sys2Proof.Machine.execBltu g a b off s
  | .bgeu g a b off => Sys2Proof.Machine.execBgeu g a b off s
  | .bra g off => Sys2Proof.Machine.execBra g off s
  | .jal g d imm => Sys2Proof.Machine.execJal g d imm s
  | .jalr g d a imm => Sys2Proof.Machine.execJalr g d a imm s
  | .ret g a => Sys2Proof.Machine.execRet g a s
  | .nop g => Sys2Proof.Machine.execNop g s
  | .loop g n a => Sys2Proof.Machine.execLoop g n a s
  | .endStrand g => Sys2Proof.Machine.execEndStrand g s
  | .halt g a => Sys2Proof.Machine.execHalt g a s
  | .trap g code => Sys2Proof.Machine.execTrap g code s
  | .eret g => Sys2Proof.Machine.execEret g s
  | .hget g d a fld => Sys2Proof.Machine.execHget g d a fld s
  | .hset g d a fld => Sys2Proof.Machine.execHset g d a fld s
  | .hadd g d a fld => Sys2Proof.Machine.execHadd g d a fld s
  | .hcpy g d a => Sys2Proof.Machine.execHcpy g d a s
  | .hclr g d => Sys2Proof.Machine.execHclr g d s
  | .hld g d a ord imm => Sys2Proof.Machine.execHld g d a ord imm s
  | .hst g d a ord imm => Sys2Proof.Machine.execHst g d a ord imm s
  | .pbind t d a => Sys2Proof.Machine.execPbind t d a s
  | .psave t d a => Sys2Proof.Machine.execPsave t d a s
  | .prest t d a => Sys2Proof.Machine.execPrest t d a s
  | .punbind t d => Sys2Proof.Machine.execPunbind t d s
  | .seminit t n => Sys2Proof.Machine.execSeminit t n s
  | .semwait t d => Sys2Proof.Machine.execSemwait t d s
  | .sempost t n => Sys2Proof.Machine.execSempost t n s
  | .semrot t k => Sys2Proof.Machine.execSemrot t k s
  | .semtest t d n => Sys2Proof.Machine.execSemtest t d n s
  | .zst g d a imm => Sys2Proof.Machine.execZst g d a imm s
  | .cpy t d a c => Sys2Proof.Machine.execCpy t d a c s
  | .cpym t d a c => Sys2Proof.Machine.execCpym t d a c s
  | .close t => Sys2Proof.Machine.execClose t s
  | .cwait t n => Sys2Proof.Machine.execCwait t n s
  | .lctxR t ctx b c => Sys2Proof.Machine.execLctxR t ctx b c s
  | .lctxS t ctx c => Sys2Proof.Machine.execLctxS t ctx c s
  | .lopen t ctx b c => Sys2Proof.Machine.execLopen t ctx b c s
  | .lpush t ctx b => Sys2Proof.Machine.execLpush t ctx b s
  | .lclose t ctx => Sys2Proof.Machine.execLclose t ctx s
  | .lstat t ctx b => Sys2Proof.Machine.execLstat t ctx b s
  | .gath t d a b c => Sys2Proof.Machine.execGath t d a b c s
  | .scat t d a b c => Sys2Proof.Machine.execScat t d a b c s
  | .scatadd t d a b c => Sys2Proof.Machine.execScatadd t d a b c s
  | .frenew t a c => Sys2Proof.Machine.execFrenew t a c s
  | .flife t d a => Sys2Proof.Machine.execFlife t d a s
  | .fchk t d a => Sys2Proof.Machine.execFchk t d a s
  | .fbirth t d a => Sys2Proof.Machine.execFbirth t d a s
  | .mma t bank init fa ga fb gb => Sys2Proof.Machine.execMma t bank init fa ga fb gb s
  | .mmaw t bank init w fa ga fb gb => Sys2Proof.Machine.execMmaw t bank init w fa ga fb gb s
  | .mdrain t bank zero d => Sys2Proof.Machine.execMdrain t bank zero d s
  | .mzero t bank => Sys2Proof.Machine.execMzero t bank s
  | .msum t bank side f gm c => Sys2Proof.Machine.execMsum t bank side f gm c s
  | .mscale t d => Sys2Proof.Machine.execMscale t d s
  | .mmode t c => Sys2Proof.Machine.execMmode t c s
  | .mstat t d => Sys2Proof.Machine.execMstat t d s
  | .mrailUp g => Sys2Proof.Machine.execMrailUp g s
  | .mrailDn g => Sys2Proof.Machine.execMrailDn g s
  | .vadd t d a b => Sys2Proof.Machine.execVadd t d a b s
  | .vsub t d a b => Sys2Proof.Machine.execVsub t d a b s
  | .vmul t d a b => Sys2Proof.Machine.execVmul t d a b s
  | .vmin t d a b => Sys2Proof.Machine.execVmin t d a b s
  | .vmax t d a b => Sys2Proof.Machine.execVmax t d a b s
  | .vqadd t d a b => Sys2Proof.Machine.execVqadd t d a b s
  | .vqsub t d a b => Sys2Proof.Machine.execVqsub t d a b s
  | .vqmul t d a b => Sys2Proof.Machine.execVqmul t d a b s
  | .vfma t d a b c => Sys2Proof.Machine.execVfma t d a b c s
  | .vfms t d a b c => Sys2Proof.Machine.execVfms t d a b c s
  | .vfnma t d a b c => Sys2Proof.Machine.execVfnma t d a b c s
  | .vabs t d a => Sys2Proof.Machine.execVabs t d a s
  | .vneg t d a => Sys2Proof.Machine.execVneg t d a s
  | .vmov t d a => Sys2Proof.Machine.execVmov t d a s
  | .vadds t d a c => Sys2Proof.Machine.execVadds t d a c s
  | .vmuls t d a c => Sys2Proof.Machine.execVmuls t d a c s
  | .vaxpb t d a b c => Sys2Proof.Machine.execVaxpb t d a b c s
  | .vand t d a b => Sys2Proof.Machine.execVand t d a b s
  | .vor t d a b => Sys2Proof.Machine.execVor t d a b s
  | .vxor t d a b => Sys2Proof.Machine.execVxor t d a b s
  | .vandn t d a b => Sys2Proof.Machine.execVandn t d a b s
  | .vshl t d a c => Sys2Proof.Machine.execVshl t d a c s
  | .vshr t d a c => Sys2Proof.Machine.execVshr t d a c s
  | .vcmpEq t d a b => Sys2Proof.Machine.execVcmpEq t d a b s
  | .vcmpNe t d a b => Sys2Proof.Machine.execVcmpNe t d a b s
  | .vcmpLt t d a b => Sys2Proof.Machine.execVcmpLt t d a b s
  | .vcmpLe t d a b => Sys2Proof.Machine.execVcmpLe t d a b s
  | .vcmpGt t d a b => Sys2Proof.Machine.execVcmpGt t d a b s
  | .vcmpGe t d a b => Sys2Proof.Machine.execVcmpGe t d a b s
  | .vsel t d a b c => Sys2Proof.Machine.execVsel t d a b c s
  | .vcvt t d a sat rm => Sys2Proof.Machine.execVcvt t d a sat rm s
  | .vquant t d a c => Sys2Proof.Machine.execVquant t d a c s
  | .vdequant t d a => Sys2Proof.Machine.execVdequant t d a s
  | .vredAdd t d a => Sys2Proof.Machine.execVredAdd t d a s
  | .vredMax t d a => Sys2Proof.Machine.execVredMax t d a s
  | .vredMin t d a => Sys2Proof.Machine.execVredMin t d a s
  | .vredxAdd t d a => Sys2Proof.Machine.execVredxAdd t d a s
  | .vredxMax t d a => Sys2Proof.Machine.execVredxMax t d a s
  | .vredxMin t d a => Sys2Proof.Machine.execVredxMin t d a s
  | .vscanAdd t d a => Sys2Proof.Machine.execVscanAdd t d a s
  | .vscanMax t d a => Sys2Proof.Machine.execVscanMax t d a s
  | .vscanMin t d a => Sys2Proof.Machine.execVscanMin t d a s
  | .vtopk t d b a c => Sys2Proof.Machine.execVtopk t d b a c s
  | .vexp2 t d a => Sys2Proof.Machine.execVexp2 t d a s
  | .vlog2 t d a => Sys2Proof.Machine.execVlog2 t d a s
  | .vrcp t d a => Sys2Proof.Machine.execVrcp t d a s
  | .vrsqrt t d a => Sys2Proof.Machine.execVrsqrt t d a s
  | .vtanh t d a => Sys2Proof.Machine.execVtanh t d a s
  | .vperm t d a b => Sys2Proof.Machine.execVperm t d a b s
  | .vsplat t d c => Sys2Proof.Machine.execVsplat t d c s
  | .viota t d c => Sys2Proof.Machine.execViota t d c s
  | .vextr t d a c => Sys2Proof.Machine.execVextr t d a c s
  | .vrandU t d b c => Sys2Proof.Machine.execVrandU t d b c s
  | .vrandB t d b c => Sys2Proof.Machine.execVrandB t d b c s
  | .spup g shape list dest => Sys2Proof.Machine.execSpup g shape list dest s
  | .spdn g shape list dest => Sys2Proof.Machine.execSpdn g shape list dest s
  | .spmode g fp mx goff => Sys2Proof.Machine.execSpmode g fp mx goff s
  | .spshape g shape h => Sys2Proof.Machine.execSpshape g shape h s
  | .splist g list h => Sys2Proof.Machine.execSplist g list h s
  | .spld g h dest => Sys2Proof.Machine.execSpld g h dest s
  | .spldCvt g h dest => Sys2Proof.Machine.execSpldCvt g h dest s
  | .spst g h dest => Sys2Proof.Machine.execSpst g h dest s
  | .spstCvt g h dest => Sys2Proof.Machine.execSpstCvt g h dest s
  | .spnorm g shape list dest => Sys2Proof.Machine.execSpnorm g shape list dest s
  | .spsync g sw sr => Sys2Proof.Machine.execSpsync g sw sr s
  | .spclr g n dest => Sys2Proof.Machine.execSpclr g n dest s
  | .fence g scope pre suc => Sys2Proof.Machine.execFence g scope pre suc s
  | .rdv g tick => Sys2Proof.Machine.execRdv g tick s
  | .ssend g => Sys2Proof.Machine.execSsend g s
  | .commit g tick => Sys2Proof.Machine.execCommit g tick s
  | .foldadd g d a sz ord imm => Sys2Proof.Machine.execFoldadd g d a sz ord imm s
  | .foldand g d a sz ord imm => Sys2Proof.Machine.execFoldand g d a sz ord imm s
  | .foldor g d a sz ord imm => Sys2Proof.Machine.execFoldor g d a sz ord imm s
  | .foldxor g d a sz ord imm => Sys2Proof.Machine.execFoldxor g d a sz ord imm s
  | .foldmin g d a sz ord imm => Sys2Proof.Machine.execFoldmin g d a sz ord imm s
  | .foldmax g d a sz ord imm => Sys2Proof.Machine.execFoldmax g d a sz ord imm s
  | .foldminu g d a sz ord imm => Sys2Proof.Machine.execFoldminu g d a sz ord imm s
  | .foldmaxu g d a sz ord imm => Sys2Proof.Machine.execFoldmaxu g d a sz ord imm s
  | .foldfadd g d a sz ord imm => Sys2Proof.Machine.execFoldfadd g d a sz ord imm s
  | .foldfmin g d a sz ord imm => Sys2Proof.Machine.execFoldfmin g d a sz ord imm s
  | .foldfmax g d a sz ord imm => Sys2Proof.Machine.execFoldfmax g d a sz ord imm s
  | .takeadd g d a sz ord imm => Sys2Proof.Machine.execTakeadd g d a sz ord imm s
  | .takeand g d a sz ord imm => Sys2Proof.Machine.execTakeand g d a sz ord imm s
  | .takeor g d a sz ord imm => Sys2Proof.Machine.execTakeor g d a sz ord imm s
  | .takexor g d a sz ord imm => Sys2Proof.Machine.execTakexor g d a sz ord imm s
  | .takemin g d a sz ord imm => Sys2Proof.Machine.execTakemin g d a sz ord imm s
  | .takemax g d a sz ord imm => Sys2Proof.Machine.execTakemax g d a sz ord imm s
  | .takeminu g d a sz ord imm => Sys2Proof.Machine.execTakeminu g d a sz ord imm s
  | .takemaxu g d a sz ord imm => Sys2Proof.Machine.execTakemaxu g d a sz ord imm s
  | .takefadd g d a sz ord imm => Sys2Proof.Machine.execTakefadd g d a sz ord imm s
  | .trade g d a sz ord imm => Sys2Proof.Machine.execTrade g d a sz ord imm s
  | .ctrade g d a sz ord imm => Sys2Proof.Machine.execCtrade g d a sz ord imm s
  | .baskPref g mask => Sys2Proof.Machine.execBaskPref g mask s
  | .railStepStands slot cluster => Sys2Proof.Machine.execRailStepStands slot cluster s
  | .syncEngineAtomicApply slot => Sys2Proof.Machine.execSyncEngineAtomicApply slot s
  | .engineDispatch queue => Sys2Proof.Machine.execEngineDispatch queue s
  | .engineWordCompletion seq => Sys2Proof.Machine.execEngineWordCompletion seq s
  | .blockFetchComplete => Sys2Proof.Machine.execBlockFetchComplete s
  | .trapEntry => Sys2Proof.Machine.execTrapEntry s
  | .linkSegmentLanding seg => Sys2Proof.Machine.execLinkSegmentLanding seg s
  | .linkSegmentAdmit seg => Sys2Proof.Machine.execLinkSegmentAdmit seg s
  | .dieWindowAccess wr fromSlot addr data => Sys2Proof.Machine.execDieWindowAccess wr fromSlot addr data s
  | .tileExpiry slot tile => Sys2Proof.Machine.execTileExpiry slot tile s
  | .tileBusyWindowEnd slot tile => Sys2Proof.Machine.execTileBusyWindowEnd slot tile s
  | .rendezvousCheck prio => Sys2Proof.Machine.execRendezvousCheck prio s
  | .rendezvousCommit prio => Sys2Proof.Machine.execRendezvousCommit prio s
  | .lockRendezvous prio => Sys2Proof.Machine.execLockRendezvous prio s
  | .superstepAbort prio => Sys2Proof.Machine.execSuperstepAbort prio s
  | .uncorrectableMemoryError slot addr retire cell => Sys2Proof.Machine.execUncorrectableMemoryError slot addr retire cell s
  | .linkFailure slotA slotB => Sys2Proof.Machine.execLinkFailure slotA slotB s
  | .jobRetirement prio => Sys2Proof.Machine.execJobRetirement prio s
  | .launch addr link => Sys2Proof.Machine.execLaunch addr link s
  | .priorityLaunchSwapIn => Sys2Proof.Machine.execPriorityLaunchSwapIn s
  | .priorityLaunchSwapBack => Sys2Proof.Machine.execPriorityLaunchSwapBack s
  | .rerunRequest value => Sys2Proof.Machine.execRerunRequest value s
  | .rerunStart => Sys2Proof.Machine.execRerunStart s
  | .hostBar2Access wr link addr data => Sys2Proof.Machine.execHostBar2Access wr link addr data s
  | .hostRegisterWrite off value => Sys2Proof.Machine.execHostRegisterWrite off value s
  | .packageReset => Sys2Proof.Machine.execPackageReset s
  | .firmwareReady fw => Sys2Proof.Machine.execFirmwareReady fw s
  | .firmwareUpdate emask => Sys2Proof.Machine.execFirmwareUpdate emask s
  | .controlIntervalBoundary => Sys2Proof.Machine.execControlIntervalBoundary s
  | .currentLimitDemand slot code rail => Sys2Proof.Machine.execCurrentLimitDemand slot code rail s
  | .thermalDemand slot code rail => Sys2Proof.Machine.execThermalDemand slot code rail s
  | .stagger => Sys2Proof.Machine.execStagger s
  | .scalarAccessCompletion => Sys2Proof.Machine.execScalarAccessCompletion s
  | .boostDemand code => Sys2Proof.Machine.execBoostDemand code s
  | .hostStopsTheJob prio => Sys2Proof.Machine.execHostStopsTheJob prio s

end Sys2Proof.Machine
end

