-- ==== Sys2Proof/Machine/Tick.lean ====
section
/-! DEFINITION. What happens next: the order of the events, issues and dispatches of one tick, and the end of a tick
(R93, R97 to R103, R133, R157, R165, R297, R298). -/

namespace Sys2Proof.Machine

/-- What the package does next. -/
inductive Todo where
  /-- An event, on a strand when it concerns one: launch context, virtual die and cell. -/
  | event (who : Option (Bool × Nat × Nat)) (i : Instr)
  /-- The next external event that has arrived. -/
  | input
  /-- The next host read of BAR0 that has arrived. -/
  | read
  /-- A strand issues its next word. -/
  | issue (who : Bool × Nat × Nat)
  /-- The engine steps of this tick. -/
  | serve
  /-- Nothing is left to do in this tick. -/
  | endTick
  deriving DecidableEq, Repr

/-- Lists of numbers in lexicographic order. -/
def lexLe : List Nat → List Nat → Bool
  | [], _ => true
  | _ :: _, [] => false
  | a :: r, b :: t => decide (a < b) || (a == b && lexLe r t)

/-- The strands of the package by slot, then logical cell (R157). -/
def State.ordered (s : State) : List Strand :=
  sortBy (fun a b => lexLe [s.slotOf a, a.cell, a.prio.toNat] [s.slotOf b, b.cell, b.prio.toNat])
    (s.allStrands.filter fun c => c.status != .idle)

/-! ### Events of the package -/

/-- A control interval begins (R333). -/
def State.intervalDue (s : State) : Bool := s.z0 % controlInterval == 0 && s.power.interval != s.z0 / controlInterval

/-- What a launch's rendezvous decided for a tick that has come (R297, R298, R329). -/
def State.rdvDue (s : State) (prio : Bool) : Option Instr :=
  match (s.launchD prio).rdv with
  | .abort t => if t ≤ s.z0 then some (.superstepAbort prio) else none
  | .commit t => if t ≤ s.z0 then some (if s.allOver prio then .jobRetirement prio else .rendezvousCommit prio) else none
  | .none => none

/-- The package's own events that are due, first to last. -/
def State.packageDue (s : State) : Option Instr :=
  if s.intervalDue then some .controlIntervalBoundary
  else match s.rdvDue true, s.rdvDue false with
    | some i, _ => some i
    | none, some i => some i
    | none, none =>
      if s.swapBackDue then some .priorityLaunchSwapBack
      else if s.swapDue then some .priorityLaunchSwapIn
      else if s.rerunDue true || s.rerunDue false then some .rerunStart
      else none

/-- An external event other than an access has arrived. -/
def State.inputDue (s : State) : Bool := s.inputs.any fun e => decide (e.1 ≤ s.z0) && !isWindow e.2

/-- Rails, tiles, links and sync engines (R165 to R167, R189, R190, R218, R290).
DESIGN CHOICE (notes/assumptions/8.md). -/
def State.unitDue (s : State) : Option Instr :=
  match s.power.due.find? fun e => decide (e.2 ≤ s.z0) with
  | some e => some (.railStepStands (e.1 / 4) (e.1 % 4))
  | none =>
  match s.busyTiles.find? fun x => decide (x.until_ < s.z0) with
  | some x => some (.tileBusyWindowEnd (x.key / 2 ^ 20) (x.key % 2 ^ 20))
  | none =>
  match s.segs.find? fun g => g.due == some s.z0 && s.landReady g with
  | some g => some (.linkSegmentLanding g.id)
  | none =>
  match s.admitNext with
  | some g => some (.linkSegmentAdmit g.id)
  | none => (s.atoms.find? s.atomDue).map fun a => .syncEngineAtomicApply a.slot

/-! ### Events of a strand -/

/-- A completion or trap entry of the focused strand that is due (R92, R96, R103, R306). -/
def State.ownDue (s : State) : Option Instr :=
  let c := s.cur
  if c.fetching.any fun f => decide (f.2 ≤ s.z0) then some .blockFetchComplete
  else if c.pend.any s.pendReady then some .scalarAccessCompletion
  else match c.running.find? s.engineDone with
    | some r => some (.engineWordCompletion r.word.seq)
    | none =>
      if (c.status == .trapping && c.trap.isSome && c.drained) || (c.status == .running && !c.asyncs.isEmpty) then some .trapEntry
      else none

/-- The first strand, by slot and cell, with an event due; of those of a swapped-out context, only the end of a fetch (R92).
DESIGN CHOICE (notes/assumptions/8.md). -/
def State.strandDue (s : State) : List Strand → Option Todo
  | [] => none
  | c :: r =>
    match (s.focusWho c.who).ownDue with
    | some i => if c.out && i != .blockFetchComplete then s.strandDue r else some (.event (some c.who) i)
    | none => s.strandDue r

/-! ### Issues and dispatches -/

/-- A strand's cell may issue and dispatch. -/
def State.active (s : State) (c : Strand) : Bool :=
  !c.out && (s.launchD c.prio).runs && !s.stopping c.prio

/-- The word to issue: that at the pc, with the fields of the repetition stepped (R56); none when a step leaves its field. -/
def State.unitWord (s : State) (w : BitVec 48) : Option (BitVec 48) :=
  match s.cur.pfx.bind Pfx.rpt with
  | some r => rptWord w r s.cur.rep
  | none => some w

/-- The semaphore that the focused strand's next unit awaits, with that unit (R103). -/
def State.unitAwait (s : State) : Option (Nat × Instr) :=
  match (s.fetchWord s.cur.pc).bind s.unitWord with
  | none => none
  | some w =>
    match decode w with
    | .ok i =>
      let maj := majOf i
      if maj = 0x12 ∨ maj = 0x14 then
        match s.resolveSem ((encode i).extractLsb' 10 6) with | .sem n => some (n, i) | _ => none
      else none
    | .error _ => none

/-- The semaphore that the focused strand's unit waits for, with the predicate of a SEMWAIT (R133). -/
def State.waitsOn (s : State) : Option (Nat × Instr) := if s.cur.since.isSome then s.unitAwait else none

/-- A head word's place among the awaiters of its semaphore (R102): the longest wait first, then slot and cell, then the sequencer before
queues 0 to 5. -/
def State.awaitRank (s : State) (slot cell q : Nat) (w : QWord) : List Nat := [w.since.getD s.z0, slot, cell, q + 1]

/-- The places of those that await a semaphore of a die and may be granted it now, the cooperative words of a group apart. -/
def State.rivals (s : State) (slot sem : Nat) (group : List (Bool × Nat × Nat)) : List (List Nat) :=
  (s.ordered.filter fun c => s.slotOf c == slot && s.active c).flatMap fun c =>
    let t := s.focusWho c.who
    (if c.status = .running ∧ c.slot ≤ s.z0 ∧ s.polls c 6 ∧ t.unitAwait.any (fun e => e.1 == sem) then
      [[c.since.getD s.z0, slot, c.cell, 0]] else [])
    ++ (upFrom 0 6).filterMap fun q =>
      match c.headOf q with
      | some w =>
        if w.sw = some sem ∧ s.polls c q ∧ t.mayDispatch w ∧ ¬(q = 0 ∧ group.contains c.who) then some (s.awaitRank slot c.cell q w)
        else none
      | none => none

/-- The last of some places. -/
def lastRank : List (List Nat) → List Nat := fun l => l.foldl (fun a b => if lexLe a b then b else a) []

/-- The first of some places. -/
def bestRank : List (List Nat) → List Nat
  | [] => []
  | a :: r => r.foldl (fun a b => if lexLe a b then a else b) a

/-- The place at which the members of a group are granted their awaits together (R102, R200): that of the member which has waited
longest when, for each member's semaphore, the count also suffices for every other that has waited longer than that member; else that
of the member which has waited least. A group no member of which awaits comes first.
DESIGN CHOICE (notes/assumptions/8.md). -/
def State.groupRank (s : State) (slot : Nat) (heads : List (Nat × QWord × MForm)) : List Nat :=
  let mine := heads.filterMap fun h => h.2.1.sw.map fun n => (n, s.awaitRank slot h.1 0 h.2.1)
  let group := heads.map fun h => (s.cur.prio, s.cur.vdie, h.1)
  if mine.isEmpty then [0, s.z0, slot, s.cur.cell, 1]
  else if mine.all fun m =>
      decide ((mine.filter fun o => o.1 == m.1).length + ((s.rivals slot m.1 group).filter fun r => lexLe r m.2).length
        ≤ s.semCount slot m.1) then 1 :: bestRank (mine.map Prod.snd)
  else 1 :: lastRank (mine.map Prod.snd)

/-- The rank of a head word's try. -/
def State.headRank (s : State) (c : Strand) (q : Nat) (w : QWord) : List Nat :=
  let slot := s.slotOf c
  let lone := w.sw.isSome.toNat :: s.awaitRank slot c.cell q w
  if isKStep w.instr && mGroup c.mmode != 0 then
    let t := s.focusWho c.who
    match t.groupHeads (groupCells (mGroup c.mmode) c.cell) with
    | some heads => t.groupRank slot heads
    | none => lone
  else lone

/-- The semaphores of a die whose awaiters have tried in the first half of this tick and still wait, with their places (R102): what
completes with the engine steps may let them go on. DESIGN CHOICE (notes/assumptions/8.md). -/
def State.lagging (s : State) (slot : Nat) : List (Nat × List Nat) :=
  if s.stepped then []
  else (s.ordered.filter fun c => s.slotOf c == slot && s.active c).flatMap fun c =>
    (if c.status = .running ∧ c.slot ≤ s.z0 ∧ s.polls c 6 = false then
      ((s.focusWho c.who).unitAwait.map fun e => (e.1, [c.since.getD s.z0, slot, c.cell, 0])).toList else [])
    ++ (upFrom 0 6).filterMap fun q =>
      (c.headOf q).bind fun w =>
        if w.enq < s.z0 ∧ s.polls c q = false then w.sw.map fun n => (n, s.awaitRank slot c.cell q w) else none

/-- A count of a semaphore goes to another awaiter first, which tries again in the second half of this tick (R102, R107).
DESIGN CHOICE (notes/assumptions/8.md). -/
def yields (lag : List (Nat × List Nat)) (sem : Nat) (place : List Nat) : Bool :=
  lag.any fun a => a.1 == sem && lexLe a.2 place && a.2 != place

/-- A head word, with those of its group, leaves the counts that it awaits to others for the first half of this tick.
DESIGN CHOICE (notes/assumptions/8.md). -/
def State.headYields (s : State) (lag : List (Nat × List Nat)) (c : Strand) (q : Nat) (w : QWord) : Bool :=
  let slot := s.slotOf c
  !lag.isEmpty &&
    (if isKStep w.instr && mGroup c.mmode != 0 then
      ((s.focusWho c.who).groupHeads (groupCells (mGroup c.mmode) c.cell)).any fun heads => heads.any fun h =>
        h.2.1.sw.any fun n => yields (lag.filter fun a => !heads.any fun o => a.2 == s.awaitRank slot o.1 0 o.2.1) n (s.awaitRank slot h.1 0 h.2.1)
    else w.sw.any fun n => yields lag n (s.awaitRank slot c.cell q w))

/-- The issue and the dispatches that a strand's cell may try in this tick, with their rank: heads that await no semaphore
first, so that a fault at dispatch finds the word boundary of its own tick (Table 22-5); then the longest wait, then slot and
cell, then the sequencer before queues 0 to 5 (R102). One that awaits a count tries for it only after the engine steps of the tick,
where another with an earlier place has not been able to take it before them. DESIGN CHOICE (notes/assumptions/8.md). -/
def State.tries (s : State) (c : Strand) : List (List Nat × Todo) :=
  if !s.active c then []
  else
    let slot := s.slotOf c
    let lag := s.lagging slot
    let place := [c.since.getD s.z0, slot, c.cell, 0]
    (if c.status = .running ∧ c.slot ≤ s.z0 ∧ s.polls c 6
        ∧ !(!lag.isEmpty && (s.focusWho c.who).unitAwait.any fun e => yields lag e.1 place) then [(1 :: place, Todo.issue c.who)] else [])
    ++ (upFrom 0 6).filterMap fun q =>
      match c.headOf q with
      | some w =>
        if w.enq < s.z0 ∧ s.polls c q ∧ !s.headYields lag c q w then
          some (s.headRank c q w, Todo.event (some c.who) (.engineDispatch q))
        else none
      | none => none

/-- The first of some tries by rank. -/
def firstTry : List (List Nat × Todo) → Option (List Nat × Todo)
  | [] => none
  | a :: r => match firstTry r with | some b => if lexLe a.1 b.1 then some a else some b | none => some a

/-! ### Rendezvous -/

/-- K has come for a launch in SCHED mode (R297, R329). -/
def State.checkDue (s : State) (prio : Bool) : Bool :=
  match s.launchOf prio with
  | none => false
  | some l =>
    !l.lock && l.runs && !l.checked &&
      (match leastNat (s.named prio) with
        | some T => decide (T ≤ s.z0 - l.l0 + Config.commitLead)
        | none => s.allOver prio)

/-- Every participant of a LOCK rendezvous has arrived, or a die-level error ends the superstep (R298, R310).
DEDUCED (notes/assumptions/25.md). -/
def State.lockDue (s : State) (prio : Bool) : Bool :=
  match s.launchOf prio with
  | none => false
  | some l =>
    l.lock && l.started && (l.errAbort.isSome
      || (l.runs && l.rdv == .none && l.errAt.isNone && !(s.strandsOf prio).isEmpty && (s.strandsOf prio).all s.arrived))

/-- Rendezvous checks that are due. -/
def State.checksDue (s : State) : Option Instr :=
  if s.checkDue true then some (.rendezvousCheck true)
  else if s.checkDue false then some (.rendezvousCheck false)
  else if s.lockDue true then some (.lockRendezvous true)
  else if s.lockDue false then some (.lockRendezvous false)
  else none

/-- What the package does next: its own events, what arrives from outside, its units, completions, then issues and
dispatches, then the engine steps and what completes with them, then the rendezvous checks, and at last the end of the tick. DESIGN CHOICE (notes/assumptions/8.md). -/
def State.due (s : State) : Todo :=
  match s.packageDue with
  | some i => .event none i
  | none =>
  if s.inputDue then .input
  else if s.reads.any fun e => decide (e.1 ≤ s.z0) then .read
  else match s.unitDue with
  | some i => .event none i
  | none =>
  let l := s.ordered
  match s.strandDue l with
  | some t => t
  | none =>
  match firstTry (l.flatMap s.tries) with
  | some t => t.2
  | none =>
  if !s.stepped then .serve
  else match s.checksDue with
  | some i => .event none i
  | none => .endTick

/-! ### Issuing -/

/-- A word that does not decode: a prefix whose reserved fields are not zero joins the unit that it makes illegal (R54); for any
other word, a reserved MAJ first, then an absent unit, then an illegal word (R52). DEDUCED (notes/assumptions/9.md). -/
def State.undecoded (s : State) (w : BitVec 48) : State :=
  if isPrefixWord w then
    s.addPrefix w false (if (w.extractLsb' 32 6).toNat = 0 then some (w.extractLsb' 4 28) else none)
      (if (w.extractLsb' 32 6).toNat = 0 then none else some { count := 0, stepD := 0, stepA := 0, stepB := 0 })
  else if (match decode w with | .error .reservedMajor => true | _ => false) then s.precise Cause.illegal (0#16 ++ w)
  else if unitPresent s.vd.cls w then s.precise Cause.illegal (s.cur.illegalValue w)
  else s.precise Cause.absent (0#16 ++ w)

/-- Text that cannot be fetched traps when its unit would issue (R93): at its AT target where that lies ahead (R55).
DEDUCED (notes/assumptions/11.md). -/
def State.fetchTrap (s : State) (cause : Nat) (tval : Word) : State :=
  match s.atTarget with
  | some t => if s.z0 < t then s.modCur fun c => { c with slot := t } else s.precise cause tval
  | none => s.precise cause tval

/-- Issue the word at the focused strand's pc (R52, R92, R93): a block that is not resident holds the unit, text that cannot
be fetched then traps when the unit would issue, a word that does not decode traps, and so does an RPT unit, resumed at a later
repetition, with any repetition that is illegal (R56); any other word does what its entry says. The fetch of a strand's first unit
starts here too, at the unit's planned slot: R92 names only the unit before it. DEDUCED (notes/assumptions/11.md). -/
def State.issueNext (s : State) : Host.Outcome State Fault Refusal :=
  if !s.resident (s.blockOf s.cur.pc) then .next s.startFetch.awaitBlock
  else match s.fetchFails s.cur.pc with
    | some (c, v) => .next (s.fetchTrap c v)
    | none =>
      match s.fetchWord s.cur.pc with
      | none => .next (s.fetchTrap Cause.translation s.cur.pc)
      | some w =>
        if s.cur.rep != 0 && !s.cur.rptFits w then .next (s.undecoded w)
        else match s.unitWord w with
          | none => .next (s.undecoded w)
          | some v =>
            match decode v with
            | .ok i => exec i s
            | .error _ => .next (s.undecoded v)

/-! ### External events -/

/-- The events that come from outside the model's own progress. -/
def isInput : Instr → Bool
  | .launch _ _ => true | .hostBar2Access _ _ _ _ => true | .hostRegisterWrite _ _ => true | .rerunRequest _ => true
  | .packageReset => true | .firmwareReady _ => true | .firmwareUpdate _ => true | .currentLimitDemand _ _ _ => true
  | .thermalDemand _ _ _ => true | .boostDemand _ => true | .stagger => true | .uncorrectableMemoryError _ _ _ _ => true
  | .linkFailure _ _ => true | .hostStopsTheJob _ => true | .dieWindowAccess _ _ _ _ => true
  | _ => false

/-- Take the first event that has arrived and that is no access. -/
def takeInput (z0 : Nat) : List (Nat × Instr) → Option (Instr × List (Nat × Instr))
  | [] => none
  | e :: r => if e.1 ≤ z0 ∧ !isWindow e.2 then some (e.2, r) else (takeInput z0 r).map fun p => (p.1, e :: p.2)

/-- The first arrived event takes place. Anything that is no external event is dropped. -/
def State.doInput (s : State) : Host.Outcome State Fault Refusal :=
  match takeInput s.z0 s.inputs with
  | none => .next s
  | some (i, r) => if isInput i then exec i { s with inputs := r } else .next { s with inputs := r }

/-- The first host read of BAR0 that has arrived takes place (R74, R78): readData holds its eight bytes.
DEDUCED (notes/assumptions/28.md). -/
def State.doRead (s : State) : State :=
  match s.reads.find? fun e => decide (e.1 ≤ s.z0) with
  | none => s
  | some e => let x := { s with reads := s.reads.erase e }.hostRead e.2; { x.2 with readData := leBytes 8 x.1.toNat }

/-! ### The end of a tick -/

/-- SEMTESTs of this tick take their sample, after the awaits and before any SEMINIT or raise (R136). -/
def State.sampleTests (s : State) : State :=
  s.mapStrands fun c => { c with pend := c.pend.map fun p =>
    match p.act with
    | .test k sem n => { p with act := .pred k (decide (n ≤ s.semCount (s.slotOf c) sem)) }
    | _ => p }

/-- Release a waiting unit of the sequencer: it issues now as if granted, and a SEMWAIT writes 1 (R133, R134). -/
def State.releaseUnit (s : State) (slot sem : Nat) (w : Bool × Nat × Nat) : State :=
  let t := s.focusWho w
  match t.waitsOn with
  | some (n, i) =>
    if n = sem then
      match exec i (t.setSem slot sem 1) with
      | .next u => match i with | .semwait _ d => u.setP d.toNat true | _ => u
      | _ => s
    else s
  | none => s

/-- Release the waiting head of a queue: it no longer awaits, and dispatches now when nothing else holds it (R133). -/
def State.releaseHead (s : State) (sem : Nat) (w : Bool × Nat × Nat) (q : Nat) : State :=
  let t := s.focusWho w
  match t.cur.headOf q with
  | some h =>
    if h.since.isSome && h.sw == some sem then
      let t := t.modCur fun c => { c with queue := c.queue.map fun o => if o.seq = h.seq then { o with sw := none } else o }
      match execEngineDispatch q t with | .next u => u | _ => t
    else s
  | none => s

/-- A SEMINIT takes effect (R133 step 2): every word that waits on the semaphore is released, and the count becomes n. -/
def applyInit (r : Raise) (s : State) : State :=
  let near := s.ordered.filter fun c => s.slotOf c == r.slot && s.active c
  let s := near.foldl (fun t c => if c.status = .running then t.releaseUnit r.slot r.sem c.who else t) s
  let s := near.foldl (fun t c => (upFrom 0 6).foldl (fun t q => t.releaseHead r.sem c.who q) t) s
  s.setSem r.slot r.sem r.n

/-- A raise takes effect (R102, R133 step 3): the count saturates, and SOVF of the raising strand is set when it does. -/
def applyRaise (r : Raise) (s : State) : State :=
  let n := s.semCount r.slot r.sem + r.n
  let t := s.setSem r.slot r.sem (min n 0xFFFF)
  if n ≤ 0xFFFF then t
  else t.mapStrands fun c => if c.is r.prio r.vdie r.cell then { c with sovf := true } else c

/-- Settle the semaphores of this tick (R133): SEMINITs in ascending LSTRAND, then raises. -/
def State.settleSems (s : State) : State :=
  let rank := fun (r : Raise) => [lstrandOf (s.launchD r.prio) r.vdie r.cell, r.prio.toNat]
  let inits := sortBy (fun a b => lexLe (rank a) (rank b)) (s.raises.filter Raise.init)
  let posts := s.raises.filter fun r => !r.init
  let s := inits.foldl (fun t r => applyInit r t) { s with raises := [] }
  posts.foldl (fun t r => applyRaise r t) s

/-! ### The engine steps of a tick -/

/-- An access from outside a strand writes. -/
def windowWrites : Instr → Bool
  | .hostBar2Access wr _ _ _ => wr | .dieWindowAccess wr _ _ _ => wr
  | _ => false

/-- The writes or the reads through the die windows and BAR2 that come through a slot and that their banks have served (R142).
DESIGN CHOICE (notes/assumptions/38.md). -/
def State.windowsNow (writes : Bool) (n : Nat) (s : State) : State :=
  let now := fun e : Nat × Instr => decide (e.1 ≤ s.z0) && comesThrough n e.2 && windowWrites e.2 == writes
  (s.windows.filter now).foldl (fun t e => match exec e.2 t with | .next u => u | _ => t)
    { s with windows := s.windows.filter fun e => !now e }

/-- What is made between the engines' planned writes and their reads: the cells' scalar stores of fleeting memory; what is written
through the die windows, by writer slot, then cell, each cell's engine words before its scalar stores, and after the cells of a slot
what comes from outside a strand; the ends of the sessions of link landings; then, so that they see every session that ends at this
tick, the reads from outside and the scalar loads of fleeting memory (R142, R162, R165, R167, R168).
DESIGN CHOICE (notes/assumptions/8.md). DESIGN CHOICE (notes/assumptions/5.md). -/
def State.amidEngines (l : List Strand) (ws : List WordId) (s : State) : State :=
  let far := ws.filter fun i => (s.runOf i).any fun r => r.w.writesNow
  let s := s.tileScalars .ownStores l
  let s := (upFrom 0 21).foldl (fun (s : State) n =>
    ((l.filter fun c => s.slotOf c == n).foldl (fun (s : State) c =>
      let s := s.onWords (far.filter fun i => i.1 == c.who) fun r => r.writeDue (fun r o => r.foreign o) (r.w.outs.length + 1)
      s.tileScalars .farStores [c]) s).windowsNow true n) s
  ((upFrom 0 21).foldl (fun (s : State) n => s.windowsNow false n) s.closeLandings).tileScalars .loads l

/-- The engine steps of this tick, with what words that dispatch after them access. -/
def State.serveWith (s : State) (late : List Promise) : State :=
  { s with promised := [] }.engineTick State.pendOpen (State.amidEngines s.ordered) late s.ordered

/-- Writes of inbox registers through the die windows stand over local writes of the same tick, the last by ascending writer slot
and cell over the others (R57, R157). DESIGN CHOICE (notes/assumptions/8.md). -/
def State.settleInboxes (s : State) : State :=
  (sortBy (fun (a b : InboxWrite) => lexLe [a.slot, a.cell] [b.slot, b.cell]) s.inboxes).foldl
    (fun (t : State) e => { t with mem := wrMems t.mem e.addr e.bytes }) { s with inboxes := [] }

/-- The end of a tick (R18, R57, R133, R136): the chorus counts on.
DESIGN CHOICE (notes/assumptions/8.md). DEDUCED (notes/assumptions/30.md). -/
def State.endTick (s : State) : State :=
  let s := s.sampleTests.settleSems.settleInboxes.imageStart
  { s with z0 := s.z0 + 1, ended := [], promised := [] }

/-- Do what is due, but for the engine steps of a tick. -/
def State.performNext (s : State) : Todo → Host.Outcome State Fault Refusal
  | .event none i => exec i s
  | .event (some w) i => exec i (s.focusWho w)
  | .input => s.doInput
  | .read => .next s.doRead
  | .issue w => (s.focusWho w).issueNext
  | .serve => .next s
  | .endTick => .next s.endTick

/-! ### Words that dispatch after the engine steps of their tick -/

/-- What follows the engine steps of this tick, up to the semaphores at its end. -/
def State.restOfTick : Nat → State → State
  | 0, s => s
  | n + 1, s =>
    match s.due with
    | .endTick => s.sampleTests.settleSems
    | t => match s.performNext t with | .next u => State.restOfTick n u | _ => s

/-- More than the events of one tick. -/
def tickEvents : Nat := 65536

/-- A word that waits in a queue may dispatch at this tick. -/
def State.headsWait (s : State) : Bool := s.ordered.any fun c => s.active c && c.queue.any fun w => decide (w.enq < s.z0)

/-- The word of an access has dispatched. -/
def State.dispatched (s : State) (e : Promise) : Bool :=
  s.allStrands.any fun c => c.who == e.who && c.running.any fun r => r.word.seq == e.seq

/-- The engine steps of this tick (R142). A word that dispatches after them, once what it waits for has come in this tick, makes its
first accesses at this tick too: they are found by running the tick on, and the banks then serve the tick again with each at its port's
place, unless the words would not dispatch then, for waiting on an access that those put off.
DESIGN CHOICE (notes/assumptions/38.md). -/
def State.serve (s : State) : State :=
  let t := s.serveWith []
  if !s.headsWait then t
  else
    let late := (t.restOfTick tickEvents).promised
    if late.isEmpty then t
    else
      let u := s.serveWith late
      if late.all (u.restOfTick tickEvents).dispatched then u else t

/-- Do what is due. -/
def State.perform (s : State) (t : Todo) : Host.Outcome State Fault Refusal :=
  match t with
  | .serve => .next s.serve
  | t => s.performNext t

end Sys2Proof.Machine
end

