-- ==== Sys2Proof/Machine/Fetch.lean ====
section
/-! DEFINITION. A machine that is about to issue one given word: a launch with one strand whose text holds it. -/

namespace Sys2Proof.Machine

/-- Where the placed text lies, as a virtual and as a physical address. -/
def placedText : Nat := 0x40000

/-- The page tables of the placed launch: root, second and third level, and the page of the text as EX and RC (Table 9-4). -/
def placedTables (m : Memory) : Memory :=
  let m := wrMems m 0x10000 (leBytes 8 (1 + 0x20000))
  let m := wrMems m 0x20000 (leBytes 8 (1 + 0x30000))
  wrMems m (0x30000 + 8 * 4) (leBytes 8 (3 + 16 + 128 + placedText))

/-- The class and slot whose cells have a word's unit. -/
def placedDie (w : BitVec 48) : Cls × Nat :=
  if unitPresent .md w then (.md, 0) else if unitPresent .vd w then (.vd, 9) else (.gd, 17)

/-- The launch that runs the placed word: LOCK mode, one cell of one die, started at this tick (R71).
DESIGN CHOICE (notes/assumptions/20.md). -/
def placedLaunch (s : State) (w : BitVec 48) : Launch :=
  { lock := true, l0 := s.z0, origin := BitVec.ofNat 64 placedText, root := 0x10000, started := true
    vdies := [{ cls := (placedDie w).1, cells := 1, want := 0xFF, slot := (placedDie w).2, entry := BitVec.ofNat 64 placedText }]
    ctx0 := { sprow0 := 0, sprows := 256, ftile0 := 0, ftiles := 8192, sem0 := 0, semn := 32, spg0 := 0, spgn := 8 }
    cb := [(0, 4096), (0, 4096), (0, 4096), (0, 4096)]
    text := [((placedDie w).1, BitVec.ofNat 64 placedText, 48)] }

/-- Place a word as the next one that a strand issues. Every slot is fitted and healthy, as on an A20 (Table 1-3).
DESIGN CHOICE (notes/assumptions/20.md). -/
def State.placeWord (s : State) (w : BitVec 48) : State :=
  { s with
    dmix := 0x03FFFFFFFFFFFFFF, inputs := [], others := []
    mem := wrMems (placedTables s.mem) placedText (leBytes 6 w.toNat)
    main := some (placedLaunch s w)
    cur := { status := .running, pc := BitVec.ofNat 64 placedText, slot := s.z0 } }

end Sys2Proof.Machine
end

