-- ==== Sys2Proof/Machine/Step.lean ====
section
/-! DEFINITION. One step of the package, and a state that fetches a given word next. -/

namespace Sys2Proof.Machine

/-- One step: what is due next happens (R97 to R100). -/
def step (s : State) : Host.Outcome State Fault Refusal := s.perform s.due

/-- `s` with the word whose bits are `w` as the next word that a strand issues, and all that this takes: a launch in LOCK mode
with one strand of a class that has the word's unit, whose text holds the word (notes/assumptions/20.md). -/
def State.withFetchWord (s : State) (nbits w : Nat) : State := s.placeWord (BitVec.ofNat 48 (w % 2 ^ min nbits 48))

end Sys2Proof.Machine
end

