-- ==== Sys2Proof/Safety.lean ====
section
/-! DEFINITION. The vocabulary of claims: when a word issues, what the manual's tables say each word does, and what a word
leaves alone. The rows restate the manual's tables; the machine does not use them. -/

namespace Sys2Proof.Machine

/-! ### When a word issues -/

/-- The state in which a unit's operands are read: the count of free values has moved on, and a passed AT target has made
the die late (R55). -/
def State.started (s : State) : State :=
  match s.atTarget with
  | some t => if t < s.z0 then s.begun.lateIssue else s.begun
  | none => s.begun

/-- The word issues at this tick with its guard true (R52 to R55, R95, R97): a strand runs, the cell has the word's unit, the
operands are well formed, the AT target is not in the future, and no hazard of its registers, its queue or a fence holds
it. -/
abbrev Issues (i : Instr) (u : Use) (s : State) : Prop :=
  s.cur.status = .running ∧ unitPresent s.vd.cls (encode i) = true ∧ s.legal i = true
    ∧ s.atTarget.all (fun t => decide (t ≤ s.z0)) = true
    ∧ (!s.started.sched && (guardReg (wordCtl i).pg).any s.started.lockBusy) = false
    ∧ s.started.guard (wordCtl i).pg = true ∧ s.started.hazard u = false

/-- The HOLD field of a word (R45). -/
def holdOf (i : Instr) : Nat := (wordCtl i).hold.toNat

/-- A prefix: AT or RPT (R54). -/
def isPrefixUnit : Instr → Bool
  | .atTick _ | .rpt _ _ _ _ => true
  | _ => false

/-! ### What a word leaves alone -/

/-- The bytes of a cell's inbox that hold registers x56 to x63 of a list (R57). -/
def inboxBytes (s : State) (xs : List Nat) (a : Nat) : Prop :=
  ∃ k ∈ xs, 56 ≤ k ∧ inboxBase s.slotNo s.cur.cell + 8 * (k - 56) ≤ a ∧ a < inboxBase s.slotNo s.cur.cell + 8 * (k - 56) + 8

/-- The registers of the focused strand that survive from `s` to `t`, but for listed scalar registers, predicates, handles
and ports; the flags, the semaphore CSRs, and the registers of the matrix, vector and sum-product engines all survive. -/
structure SameRegs (xs ps hs qs : List Nat) (s t : State) : Prop where
  x : ∀ k, k < 64 → k ∉ xs → t.getX k = s.getX k
  p : ∀ k, k < 8 → k ∉ ps → t.getP k = s.getP k
  h : ∀ k, k ∉ hs → t.getH k = s.getH k
  q : ∀ k, k ∉ qs → t.getQ k = s.getQ k
  arith : t.cur.arith = s.cur.arith
  expf : t.cur.expf = s.cur.expf
  sem : (t.cur.sembase, t.cur.semdepth, t.cur.sovf, t.cur.semrot) = (s.cur.sembase, s.cur.semdepth, s.cur.sovf, s.cur.semrot)
  matrix : (t.cur.mmode, t.cur.scale, t.cur.railReq, t.cur.bask) = (s.cur.mmode, s.cur.scale, s.cur.railReq, s.cur.bask)
  sump : (t.cur.spmode, t.cur.v, t.cur.shapes, t.cur.lists) = (s.cur.spmode, s.cur.v, s.cur.shapes, s.cur.lists)

/-- The trap registers survive (Table 3-4). -/
structure SameTrap (s t : State) : Prop where
  tvec : t.cur.tvec = s.cur.tvec
  tpc : t.cur.tpc = s.cur.tpc
  tcause : t.cur.tcause = s.cur.tcause
  tval : t.cur.tval = s.cur.tval

/-- Every byte of memory survives but those that `w` names, and so does every write held for commit. -/
structure SameMem (w : Nat → Prop) (s t : State) : Prop where
  mem : ∀ a, ¬ w a → rdMem t.mem a = rdMem s.mem a
  held : t.held = s.held

/-! ### Scalar words (chapter 7) -/

/-- A word that writes one scalar register: its register, the registers it reads, and the value (R109 to R113, R121, R175). -/
structure XRow where
  d : BitVec 6
  reads : List Nat
  val : State → Word
  /-- The CSR that it reads. -/
  csr : Option Nat := none

/-- The registers of such a word. -/
def XRow.use (r : XRow) : Use := { reads := r.reads, writes := [r.d.toNat], csr := r.csr }

/-- Two scalar operands. -/
def XRow.two (d a b : BitVec 6) (f : Word → Word → Word) : XRow :=
  { d := d, reads := [a.toNat, b.toNat], val := fun s => f (s.rx a.toNat) (s.rx b.toNat) }

/-- One scalar operand. -/
def XRow.one (d a : BitVec 6) (f : Word → Word) : XRow := { d := d, reads := [a.toNat], val := fun s => f (s.rx a.toNat) }

/-- Table 7-1. -/
def aluRow : Instr → Option XRow
  | .add _ d a b => some (.two d a b fun x y => x + y)
  | .sub _ d a b => some (.two d a b fun x y => x - y)
  | .and _ d a b => some (.two d a b fun x y => x &&& y)
  | .or _ d a b => some (.two d a b fun x y => x ||| y)
  | .xor _ d a b => some (.two d a b fun x y => x ^^^ y)
  | .andn _ d a b => some (.two d a b fun x y => x &&& ~~~y)
  | .sll _ d a b => some (.two d a b fun x y => x <<< (y.extractLsb' 0 6).toNat)
  | .srl _ d a b => some (.two d a b fun x y => x >>> (y.extractLsb' 0 6).toNat)
  | .sra _ d a b => some (.two d a b fun x y => x.sshiftRight (y.extractLsb' 0 6).toNat)
  | .slt _ d a b => some (.two d a b fun x y => if x.toInt < y.toInt then 1 else 0)
  | .sltu _ d a b => some (.two d a b fun x y => if x.toNat < y.toNat then 1 else 0)
  | .min _ d a b => some (.two d a b fun x y => if x.toInt < y.toInt then x else y)
  | .max _ d a b => some (.two d a b fun x y => if x.toInt < y.toInt then y else x)
  | .minu _ d a b => some (.two d a b fun x y => if x.toNat < y.toNat then x else y)
  | .maxu _ d a b => some (.two d a b fun x y => if x.toNat < y.toNat then y else x)
  | .clz _ d a => some (.one d a clz64)
  | .ctz _ d a => some (.one d a ctz64)
  | .popc _ d a => some (.one d a popc64)
  | .sel _ d a b c => some
      { d := d, reads := [a.toNat, b.toNat, regP c.toNat]
        val := fun s => if s.rp c.toNat then s.rx a.toNat else s.rx b.toNat }
  | _ => none

/-- Table 7-2 and R111. -/
def immRow : Instr → Option XRow
  | .addi _ d a imm => some (.one d a fun x => x + imm.signExtend 64)
  | .andi _ d a imm => some (.one d a fun x => x &&& imm.signExtend 64)
  | .ori _ d a imm => some (.one d a fun x => x ||| imm.signExtend 64)
  | .xori _ d a imm => some (.one d a fun x => x ^^^ imm.signExtend 64)
  | .slli _ d a imm => some (.one d a fun x => x <<< (imm.extractLsb' 0 6).toNat)
  | .srli _ d a imm => some (.one d a fun x => x >>> (imm.extractLsb' 0 6).toNat)
  | .srai _ d a imm => some (.one d a fun x => x.sshiftRight (imm.extractLsb' 0 6).toNat)
  | .slti _ d a imm => some (.one d a fun x => if x.toInt < imm.toInt then 1 else 0)
  | .addhi _ d a imm => some (.one d a fun x => x + (imm.signExtend 64 <<< 12))
  | .addpch _ d imm => some { d := d, reads := [], val := fun s => s.cur.pc + (imm.signExtend 64 <<< 12) }
  | .movhi _ d a imm => some (.one d a fun x => x + (imm.signExtend 64 <<< 32))
  | _ => none

/-- PRD, CSRR and HGET: a predicate mask, a CSR (R121) or a handle field (R175) into a scalar register. -/
def getRow : Instr → Option XRow
  | .prd _ d => some
      { d := d, reads := [regP 1, regP 2, regP 3, regP 4, regP 5, regP 6, regP 7]
        val := fun s => (if s.rp 7 then 128 else 0) + (if s.rp 6 then 64 else 0) + (if s.rp 5 then 32 else 0)
          + (if s.rp 4 then 16 else 0) + (if s.rp 3 then 8 else 0) + (if s.rp 2 then 4 else 0) + (if s.rp 1 then 2 else 0) + 1 }
  | .csrr _ d csr => some { d := d, reads := [], val := fun s => s.csr csr.toNat, csr := some csr.toNat }
  | .hget _ d a fld => some
      { d := d, reads := [regH a.toNat]
        val := fun s =>
          let v := hGet (s.rh a.toNat) fld.toNat
          if fld = 7 ∨ fld = 8 ∨ fld = 9 then (BitVec.ofNat 32 v).signExtend 64 else BitVec.ofNat 64 v }
  | _ => none

/-- A word that writes one predicate (R112, R113). -/
structure PRow where
  d : BitVec 6
  reads : List Nat
  val : State → Bool

/-- The registers of such a word. -/
def PRow.use (r : PRow) : Use := { reads := r.reads, writes := [regP r.d.toNat] }

/-- A comparison of two scalars. -/
def PRow.cmp (d a b : BitVec 6) (f : Word → Word → Bool) : PRow :=
  { d := d, reads := [a.toNat, b.toNat], val := fun s => f (s.rx a.toNat) (s.rx b.toNat) }

/-- A function of two predicates. -/
def PRow.log (d a b : BitVec 6) (f : Bool → Bool → Bool) : PRow :=
  { d := d, reads := [regP a.toNat, regP b.toNat], val := fun s => f (s.rp a.toNat) (s.rp b.toNat) }

/-- Tables 7-3 and 7-4. -/
def predRow : Instr → Option PRow
  | .cmpEq _ d a b => some (.cmp d a b fun x y => decide (x = y))
  | .cmpNe _ d a b => some (.cmp d a b fun x y => decide (x ≠ y))
  | .cmpLt _ d a b => some (.cmp d a b fun x y => decide (x.toInt < y.toInt))
  | .cmpGe _ d a b => some (.cmp d a b fun x y => decide (y.toInt ≤ x.toInt))
  | .cmpLtu _ d a b => some (.cmp d a b fun x y => decide (x.toNat < y.toNat))
  | .cmpGeu _ d a b => some (.cmp d a b fun x y => decide (y.toNat ≤ x.toNat))
  | .cmpTst _ d a b => some (.cmp d a b fun x y => decide (x &&& y ≠ 0))
  | .cmpNtst _ d a b => some (.cmp d a b fun x y => decide (x &&& y = 0))
  | .pand _ d a b => some (.log d a b fun x y => x && y)
  | .por _ d a b => some (.log d a b fun x y => x || y)
  | .pxor _ d a b => some (.log d a b fun x y => xor x y)
  | .pandn _ d a b => some (.log d a b fun x y => x && !y)
  | .pnot _ d a => some { d := d, reads := [regP a.toNat], val := fun s => !s.rp a.toNat }
  | _ => none

/-- A multiply or a divide: the bound, its operands, and the registers it writes with their values (Table 7-5). -/
structure MRow where
  lat : Nat
  a : BitVec 6
  b : BitVec 6
  dests : List Nat
  vals : Word → Word → List Word

/-- The registers of such a word. -/
def MRow.use (r : MRow) : Use := { reads := [r.a.toNat, r.b.toNat], writes := r.dests }

/-- What it writes at its bound. -/
def MRow.results (r : MRow) (s : State) : List (Nat × Word) := r.dests.zip (r.vals (s.rx r.a.toNat) (s.rx r.b.toNat))

/-- The quotient and the remainder of a signed division (R114). -/
def quotRem (x y : Word) : Word × Word :=
  if y.toInt = 0 then (0, x)
  else if x.toInt = -2 ^ 63 ∧ y.toInt = -1 then (x, 0)
  else (BitVec.ofInt 64 (x.toInt.tdiv y.toInt), BitVec.ofInt 64 (x.toInt.tmod y.toInt))

/-- The quotient and the remainder of an unsigned division (R114). -/
def quotRemU (x y : Word) : Word × Word :=
  if y.toNat = 0 then (0, x) else (BitVec.ofNat 64 (x.toNat / y.toNat), BitVec.ofNat 64 (x.toNat % y.toNat))

/-- The low and the high 64 bits of a product. -/
def loHi (p : Int) : List Word := [BitVec.ofInt 64 p, BitVec.ofInt 64 (p / 2 ^ 64)]

/-- Table 7-5. -/
def mulRow : Instr → Option MRow
  | .mul _ d a b => some ⟨3, a, b, [d.toNat], fun x y => [BitVec.ofNat 64 (x.toNat * y.toNat)]⟩
  | .mulw _ d a b => some ⟨3, a, b, [d.toNat, d.toNat + 1], fun x y => loHi (x.toInt * y.toInt)⟩
  | .mulwu _ d a b => some ⟨3, a, b, [d.toNat, d.toNat + 1], fun x y => loHi (x.toNat * y.toNat)⟩
  | .mulwsu _ d a b => some ⟨3, a, b, [d.toNat, d.toNat + 1], fun x y => loHi (x.toInt * y.toNat)⟩
  | .div _ d a b => some ⟨18, a, b, [d.toNat], fun x y => [(quotRem x y).1]⟩
  | .divu _ d a b => some ⟨18, a, b, [d.toNat], fun x y => [(quotRemU x y).1]⟩
  | .divrem _ d a b => some ⟨18, a, b, [d.toNat, d.toNat + 1], fun x y => [(quotRem x y).1, (quotRem x y).2]⟩
  | .divremu _ d a b => some ⟨18, a, b, [d.toNat, d.toNat + 1], fun x y => [(quotRemU x y).1, (quotRemU x y).2]⟩
  | _ => none

/-- A word that has issued with results due later: each register is busy until the bound, and the writes wait among the
outstanding operations (R96, R97). -/
def State.resultsDue (s : State) (lat : Nat) (l : List (Nat × Word)) : State :=
  (l.foldl (fun t r => t.setBusy r.1 (some (s.z0 + lat)) (some (s.z0 + lat))) s).pendOp (s.z0 + lat) (.regs l)

/-- A load (R117, R120, R176). -/
structure LRow where
  reads : List Nat
  reg : Nat
  dst : LoadDst
  bytes : Nat
  acq : Bool
  ea : State → Word

/-- The registers of a load. -/
def LRow.use (r : LRow) : Use := { reads := r.reads, writes := [r.reg], sr := true }

/-- The loads: EA is x[A] + sext(IMM12), or x[A] + (x[B] << SZ) (R115, R120). -/
def loadRow : Instr → Option LRow
  | .ld _ d a sz ord imm => some
      ⟨[a.toNat], d.toNat, .x d.toNat (2 ^ sz.toNat) true, 2 ^ sz.toNat, ord.getLsbD 0, fun s => s.rx a.toNat + imm.signExtend 64⟩
  | .ldu _ d a sz ord imm => some
      ⟨[a.toNat], d.toNat, .x d.toNat (2 ^ sz.toNat) false, 2 ^ sz.toNat, ord.getLsbD 0, fun s => s.rx a.toNat + imm.signExtend 64⟩
  | .ldx _ d a b sz => some
      ⟨[a.toNat, b.toNat], d.toNat, .x d.toNat (2 ^ sz.toNat) true, 2 ^ sz.toNat, false,
        fun s => s.rx a.toNat + (s.rx b.toNat <<< sz.toNat)⟩
  | .ldxu _ d a b sz => some
      ⟨[a.toNat, b.toNat], d.toNat, .x d.toNat (2 ^ sz.toNat) false, 2 ^ sz.toNat, false,
        fun s => s.rx a.toNat + (s.rx b.toNat <<< sz.toNat)⟩
  | .hld _ d a ord imm => some
      ⟨[a.toNat], regH d.toNat, .h d.toNat, 32, ord.getLsbD 0, fun s => s.rx a.toNat + imm.signExtend 64⟩
  | _ => none

/-- A store (R118, R120, R137, R176). -/
structure SRow where
  reads : List Nat
  need : Need
  bytes : Nat
  rel : Bool
  ea : State → Word
  data : State → List Byte
  /-- What taking its value changes: the counts of z6 take in the errors corrected since (Table 7-11). -/
  sample : State → State

/-- The registers of a store. -/
def SRow.use (r : SRow) : Use := { reads := r.reads, sw := true }

/-- The stores: the low bytes of a register, lowest address first (R2, R118). -/
def storeRow : Instr → Option SRow
  | .st _ d a sz ord imm => some
      ⟨[d.toNat, a.toNat], { wr := true }, 2 ^ sz.toNat, ord.getLsbD 1, fun s => s.rx a.toNat + imm.signExtend 64,
        fun s => leBytes (2 ^ sz.toNat) (s.rx d.toNat).toNat, id⟩
  | .stx _ a b c sz => some
      ⟨[a.toNat, b.toNat, c.toNat], { wr := true }, 2 ^ sz.toNat, false, fun s => s.rx a.toNat + (s.rx b.toNat <<< sz.toNat),
        fun s => leBytes (2 ^ sz.toNat) (s.rx c.toNat).toNat, id⟩
  | .hst _ d a ord imm => some
      ⟨[a.toNat, regH d.toNat], { wr := true }, 32, ord.getLsbD 1, fun s => s.rx a.toNat + imm.signExtend 64,
        fun s => leBytes 32 (s.rh d.toNat).toNat, id⟩
  | .zst _ d a imm => some
      ⟨[a.toNat], { wr := true, zst := true }, 8, false, fun s => s.rx a.toNat + imm.signExtend 64,
        fun s => leBytes 8 (s.getZ d.toNat).toNat, fun s => if d.toNat = 6 then s.countErrs else s⟩
  | _ => none

/-- A CSR word that writes: the operation, and its fields (R121). -/
def csrRow : Instr → Option (CsrOp × BitVec 6 × BitVec 6 × BitVec 12)
  | .csrw _ d a csr => some (.write, d, a, csr)
  | .csrs _ d a csr => some (.set, d, a, csr)
  | .csrc _ d a csr => some (.clear, d, a, csr)
  | _ => none

/-- A conditional branch: its operands, its offset in words, and its condition (Table 7-7). -/
structure BRow where
  a : BitVec 6
  b : BitVec 6
  off : BitVec 18
  cond : Word → Word → Bool

/-- The conditional branches (R122). -/
def branchRow : Instr → Option BRow
  | .beq _ a b off => some ⟨a, b, off, fun x y => decide (x = y)⟩
  | .bne _ a b off => some ⟨a, b, off, fun x y => decide (x ≠ y)⟩
  | .blt _ a b off => some ⟨a, b, off, fun x y => decide (x.toInt < y.toInt)⟩
  | .bge _ a b off => some ⟨a, b, off, fun x y => decide (y.toInt ≤ x.toInt)⟩
  | .bltu _ a b off => some ⟨a, b, off, fun x y => decide (x.toNat < y.toNat)⟩
  | .bgeu _ a b off => some ⟨a, b, off, fun x y => decide (y.toNat ≤ x.toNat)⟩
  | _ => none

/-- A word that writes one handle register (R175). -/
structure HRow where
  d : BitVec 6
  reads : List Nat
  val : State → HRec

/-- The registers of such a word. -/
def HRow.use (r : HRow) : Use := { reads := r.reads, writes := [regH r.d.toNat] }

/-- HSET, HADD, HCPY and HCLR (R175). -/
def handleRow : Instr → Option HRow
  | .hset _ d a fld => some
      ⟨d, [a.toNat, regH d.toNat], fun s => hSet (s.rh d.toNat) fld.toNat (s.rx a.toNat).toNat⟩
  | .hadd _ d a fld => some
      ⟨d, [a.toNat, regH d.toNat], fun s => hSet (s.rh d.toNat) fld.toNat (hGet (s.rh d.toNat) fld.toNat + (s.rx a.toNat).toNat)⟩
  | .hcpy _ d a => some ⟨d, [regH a.toNat], fun s => s.rh a.toNat⟩
  | .hclr _ d => some ⟨d, [], fun _ => 0⟩
  | _ => none

/-! ### Atomics (Tables 21-4 and 21-5) -/

/-- The form of an atomic word: its FN4, and whether it returns the old word. -/
def atomRow : Instr → Option AtomForm
  | .foldadd _ d a sz ord imm => some ⟨0, false, d, a, sz, ord, imm⟩
  | .foldand _ d a sz ord imm => some ⟨1, false, d, a, sz, ord, imm⟩
  | .foldor _ d a sz ord imm => some ⟨2, false, d, a, sz, ord, imm⟩
  | .foldxor _ d a sz ord imm => some ⟨3, false, d, a, sz, ord, imm⟩
  | .foldmin _ d a sz ord imm => some ⟨4, false, d, a, sz, ord, imm⟩
  | .foldmax _ d a sz ord imm => some ⟨5, false, d, a, sz, ord, imm⟩
  | .foldminu _ d a sz ord imm => some ⟨6, false, d, a, sz, ord, imm⟩
  | .foldmaxu _ d a sz ord imm => some ⟨7, false, d, a, sz, ord, imm⟩
  | .foldfadd _ d a sz ord imm => some ⟨8, false, d, a, sz, ord, imm⟩
  | .foldfmin _ d a sz ord imm => some ⟨9, false, d, a, sz, ord, imm⟩
  | .foldfmax _ d a sz ord imm => some ⟨10, false, d, a, sz, ord, imm⟩
  | .takeadd _ d a sz ord imm => some ⟨0, true, d, a, sz, ord, imm⟩
  | .takeand _ d a sz ord imm => some ⟨1, true, d, a, sz, ord, imm⟩
  | .takeor _ d a sz ord imm => some ⟨2, true, d, a, sz, ord, imm⟩
  | .takexor _ d a sz ord imm => some ⟨3, true, d, a, sz, ord, imm⟩
  | .takemin _ d a sz ord imm => some ⟨4, true, d, a, sz, ord, imm⟩
  | .takemax _ d a sz ord imm => some ⟨5, true, d, a, sz, ord, imm⟩
  | .takeminu _ d a sz ord imm => some ⟨6, true, d, a, sz, ord, imm⟩
  | .takemaxu _ d a sz ord imm => some ⟨7, true, d, a, sz, ord, imm⟩
  | .takefadd _ d a sz ord imm => some ⟨8, true, d, a, sz, ord, imm⟩
  | .trade _ d a sz ord imm => some ⟨9, true, d, a, sz, ord, imm⟩
  | .ctrade _ d a sz ord imm => some ⟨10, true, d, a, sz, ord, imm⟩
  | _ => none

/-! ### Engine words -/

/-- The semaphore fields of an engine word, and what it names and checks at enqueue (R99, R342). -/
def engSpec : Instr → Option (TCtl × EngSpec)
  | .cpy t d a c => some (t, copySpec (.cpy t d a c) false d a c)
  | .cpym t d a c => some (t, copySpec (.cpym t d a c) true d a c)
  | .close t => some (t, plainSpec 2 (.close t) [])
  | .cwait t n => some (t, plainSpec 2 (.cwait t n) [])
  | .lctxR t ctx b c => some (t, lctxRSpec (.lctxR t ctx b c) b c)
  | .lctxS t ctx c => some (t, lctxSSpec (.lctxS t ctx c) c)
  | .lopen t ctx b c => some (t, lopenSpec (.lopen t ctx b c) b c)
  | .lpush t ctx b => some (t, lpushSpec (.lpush t ctx b) b)
  | .lclose t ctx => some (t, plainSpec 3 (.lclose t ctx) [])
  | .lstat t ctx b => some (t, plainSpec 3 (.lstat t ctx b) [b.toNat])
  | .gath t d a b c => some (t, gatherSpec (.gath t d a b c) .gath d a b c)
  | .scat t d a b c => some (t, gatherSpec (.scat t d a b c) .scat d a b c)
  | .scatadd t d a b c => some (t, gatherSpec (.scatadd t d a b c) .scatadd d a b c)
  | .frenew t a c => some (t, fleetSpec (.frenew t a c) a (predDests c))
  | .flife t d a => some (t, fleetSpec (.flife t d a) a [d.toNat])
  | .fchk t d a => some (t, fleetSpec (.fchk t d a) a [regP d.toNat])
  | .fbirth t d a => some (t, fleetSpec (.fbirth t d a) a [d.toNat])
  | .mma t bank init fa ga fb gb => some (t, mmaSpec (.mma t bank init fa ga fb gb) (mmaForm bank init fa ga fb gb) bank)
  | .mmaw t bank init w fa ga fb gb =>
    some (t, mmaSpec (.mmaw t bank init w fa ga fb gb) { mmaForm bank init fa ga fb gb with drain := some w.toNat } bank)
  | .mdrain t bank zero d => some (t, mdrainSpec (.mdrain t bank zero d) bank d)
  | .mzero t bank => some (t, bankSpec (.mzero t bank) bank)
  | .msum t bank side f gm c => some (t, msumSpec (.msum t bank side f gm c) bank side f gm c)
  | .mscale t d => some (t, mscaleSpec (.mscale t d) d)
  | .mmode t c => some (t, mmodeSpec (.mmode t c) c)
  | .mstat t d => some (t, plainSpec 0 (.mstat t d) [d.toNat])
  | .vadd t d a b => some (t, vecSpec (vf2 (.bin .add) d a b))
  | .vsub t d a b => some (t, vecSpec (vf2 (.bin .sub) d a b))
  | .vmul t d a b => some (t, vecSpec (vf2 (.bin .mul) d a b))
  | .vmin t d a b => some (t, vecSpec (vf2 (.bin .min) d a b))
  | .vmax t d a b => some (t, vecSpec (vf2 (.bin .max) d a b))
  | .vqadd t d a b => some (t, vecSpec (vf2 (.sat .add) d a b))
  | .vqsub t d a b => some (t, vecSpec (vf2 (.sat .sub) d a b))
  | .vqmul t d a b => some (t, vecSpec (vf2 (.sat .mul) d a b))
  | .vfma t d a b c => some (t, vecSpec (vf3 (.fma false false) d a b c))
  | .vfms t d a b c => some (t, vecSpec (vf3 (.fma false true) d a b c))
  | .vfnma t d a b c => some (t, vecSpec (vf3 (.fma true false) d a b c))
  | .vabs t d a => some (t, vecSpec (vf1 .abs d a))
  | .vneg t d a => some (t, vecSpec (vf1 .neg d a))
  | .vmov t d a => some (t, vecSpec (vf1 .mov d a))
  | .vadds t d a c => some (t, vecSpec (vfS .adds d a c))
  | .vmuls t d a c => some (t, vecSpec (vfS .muls d a c))
  | .vaxpb t d a b c =>
    some (t, vecSpec { kind := .axpb, dst := [d.toNat], src := [a.toNat], xs := [(2, b.toNat), (3, c.toNat)] })
  | .vand t d a b => some (t, vecSpec (vf2 (.bit .and) d a b))
  | .vor t d a b => some (t, vecSpec (vf2 (.bit .or) d a b))
  | .vxor t d a b => some (t, vecSpec (vf2 (.bit .xor) d a b))
  | .vandn t d a b => some (t, vecSpec (vf2 (.bit .andn) d a b))
  | .vshl t d a c => some (t, vecSpec (vfS .shl d a c))
  | .vshr t d a c => some (t, vecSpec (vfS .shr d a c))
  | .vcmpEq t d a b => some (t, vecSpec (vf2 (.cmp .eq) d a b))
  | .vcmpNe t d a b => some (t, vecSpec (vf2 (.cmp .ne) d a b))
  | .vcmpLt t d a b => some (t, vecSpec (vf2 (.cmp .lt) d a b))
  | .vcmpLe t d a b => some (t, vecSpec (vf2 (.cmp .le) d a b))
  | .vcmpGt t d a b => some (t, vecSpec (vf2 (.cmp .gt) d a b))
  | .vcmpGe t d a b => some (t, vecSpec (vf2 (.cmp .ge) d a b))
  | .vsel t d a b c => some (t, vecSpec (vf3 .sel d a b c))
  | .vcvt t d a sat rm => some (t, vecSpec (vf1 (.cvt rm (sat == 1#1)) d a))
  | .vquant t d a c => some (t, vecSpec (vfS .quant d a c))
  | .vdequant t d a => some (t, vecSpec (vf1 .dequant d a))
  | .vredAdd t d a => some (t, vecSpec (vf1 (.red .add) d a))
  | .vredMax t d a => some (t, vecSpec (vf1 (.red .max) d a))
  | .vredMin t d a => some (t, vecSpec (vf1 (.red .min) d a))
  | .vredxAdd t d a => some (t, vecSpec (vfX (.redx .add) d a))
  | .vredxMax t d a => some (t, vecSpec (vfX (.redx .max) d a))
  | .vredxMin t d a => some (t, vecSpec (vfX (.redx .min) d a))
  | .vscanAdd t d a => some (t, vecSpec (vf1 (.scan .add) d a))
  | .vscanMax t d a => some (t, vecSpec (vf1 (.scan .max) d a))
  | .vscanMin t d a => some (t, vecSpec (vf1 (.scan .min) d a))
  | .vtopk t d b a c =>
    some (t, vecSpec { kind := .topk, dst := [d.toNat, b.toNat], src := [a.toNat], xs := [(3, c.toNat)] })
  | .vexp2 t d a => some (t, vecSpec (vf1 (.spec .exp2) d a))
  | .vlog2 t d a => some (t, vecSpec (vf1 (.spec .log2) d a))
  | .vrcp t d a => some (t, vecSpec (vf1 (.spec .rcp) d a))
  | .vrsqrt t d a => some (t, vecSpec (vf1 (.spec .rsqrt) d a))
  | .vtanh t d a => some (t, vecSpec (vf1 (.spec .tanh) d a))
  | .vperm t d a b => some (t, vecSpec (vf2 .perm d a b))
  | .vsplat t d c => some (t, vecSpec { kind := .splat, dst := [d.toNat], src := [], xs := [(3, c.toNat)] })
  | .viota t d c => some (t, vecSpec { kind := .iota, dst := [d.toNat], src := [], xs := [(3, c.toNat)] })
  | .vextr t d a c =>
    some (t, vecSpec { kind := .extr, dst := [], src := [a.toNat], xs := [(3, c.toNat)], xd := some d.toNat })
  | .vrandU t d b c =>
    some (t, vecSpec { kind := .randU, dst := [d.toNat], src := [], xs := [(2, b.toNat), (3, c.toNat)] })
  | .vrandB t d b c =>
    some (t, vecSpec { kind := .randB, dst := [d.toNat], src := [], xs := [(2, b.toNat), (3, c.toNat)] })
  | .spup g shape list dest => some (noSem g, spPlain (.spup g shape list dest))
  | .spdn g shape list dest => some (noSem g, spPlain (.spdn g shape list dest))
  | .spmode g fp mx goff => some (noSem g, spPlain (.spmode g fp mx goff))
  | .spshape g shape h =>
    some (noSem g, spMem (.spshape g shape h) h false (spTableCheck [0x0F, 0x00] 8 shape.toNat 256 h.toNat))
  | .splist g list h => some (noSem g, spMem (.splist g list h) h false (spTableCheck [0x00] 64 list.toNat 1024 h.toNat))
  | .spld g h dest =>
    some (noSem g, spMem (.spld g h dest) h false (spMoveCheck (.spld g h dest) [0x01, 0x0E, 0x04] false h.toNat))
  | .spldCvt g h dest =>
    some (noSem g, spMem (.spldCvt g h dest) h false (spMoveCheck (.spldCvt g h dest) [0x01] false h.toNat))
  | .spst g h dest =>
    some (noSem g, spMem (.spst g h dest) h true (spMoveCheck (.spst g h dest) [0x01, 0x0E, 0x04] true h.toNat))
  | .spstCvt g h dest =>
    some (noSem g, spMem (.spstCvt g h dest) h true (spMoveCheck (.spstCvt g h dest) [0x01] true h.toNat))
  | .spnorm g shape list dest => some (noSem g, spPlain (.spnorm g shape list dest))
  | .spsync g sw sr => some ({ pg := g.pg, hold := g.hold, sw := sw, sr := sr }, (spPlain (.spsync g sw sr)))
  | .spclr g n dest => some (noSem g, spPlain (.spclr g n dest))
  | _ => none

/-! ### Semaphores -/

/-- What a semaphore field names (R48): 0 none, k from 1 to 31 the semaphore SEMBASE + k - 1, and k from 32 to 63 the one of the rotating
form, while DEPTH is 1 to 32. -/
def State.semNumber (s : State) (k : Nat) : Option Nat :=
  if k = 0 then none
  else if k < 32 then some (s.cur.sembase.toNat + k - 1)
  else some (s.cur.sembase.toNat + 31 + (k - 32 + s.cur.semrot.toNat) % s.cur.semdepth.toNat)

/-- A semaphore lies outside the strand's allocation (R48, R132). -/
def State.semOutside (s : State) (n : Nat) : Prop := n < s.ctx.sem0 ∨ s.ctx.sem0 + s.vd.cells * s.ctx.semn ≤ n

/-- A T-format word that the sequencer executes passes the checks of its semaphores (R48) and is granted its await (R103): the
semaphore it awaits, the one it raises, and the state after the await. -/
abbrev Granted (i : Instr) (t : TCtl) (sw sr : Option Nat) (s u : State) : Prop :=
  s.started.semFields t (encode i) = .ok (sw, sr) ∧ s.started.awaitSeq sw = some u

/-! ### Cooperative groups -/

/-- The head words of the cells of a group, each a K-step word that may dispatch in a member that stands in its cell with its GROUP
set (R200). -/
structure GroupReady (cells : List Nat) (heads : List (Nat × QWord × MForm)) (s : State) : Prop where
  cells : heads.map Prod.fst = cells
  stands : ∀ c ∈ heads, (s.toCell c.1).cur.is s.cur.prio s.cur.vdie c.1 = true ∧ (s.toCell c.1).cur.out = false
  group : ∀ c ∈ heads, mGroup (s.toCell c.1).cur.mmode ≠ 0
  head : ∀ c ∈ heads, (s.toCell c.1).cur.headOf 0 = some c.2.1 ∧ mForm c.2.1.instr = some c.2.2
  ready : ∀ c ∈ heads, (s.toCell c.1).mayDispatch c.2.1 = true

/-- What the words of a group must agree in (R200): the operand pair, EXT0 and EXT2, the bank, MMAW or MMA, and the GROUP. -/
def State.groupKey (s : State) (c : Nat × QWord × MForm) : List Nat :=
  let t := s.toCell c.1
  [hFmt (t.portRec c.2.2.fa), hFmt (t.portRec c.2.2.fb), hExt (t.portRec c.2.2.fa) 0, hExt (t.portRec c.2.2.fa) 2, c.2.2.bank,
    c.2.2.drain.isSome.toNat, mGroup t.cur.mmode]

/-! ### Commit -/

/-- The byte that a commit leaves at a physical address: the held byte of the highest VDIE of the launch, which stands last, or
what memory holds (R285, R325). -/
def State.committedByte (s : State) (prio : Bool) (a : Nat) : Byte :=
  match (s.held.filter fun e => heldOf prio e && e.1 % 2 ^ 48 == a && e.2.isSome).getLast? with
  | some (_, some b) => b
  | _ => rdMem s.mem a

/-! ### What the engines move and compute -/

/-- The value of a number; a NaN and an infinity count as 0. -/
def Num.rat : Num → ℚ
  | .fin neg m e => (if neg then -(m : ℚ) else (m : ℚ)) * (2 : ℚ) ^ e
  | _ => 0

/-- The low or the high nibble of a byte. -/
def nibOf (b : Byte) (hi : Bool) : Nat := if hi then b.toNat / 16 else b.toNat % 16

/-- Where nibble d of element e of a sweep lies: the address of its byte, and whether it is the high nibble there (R144, R179). Every
element of a broadcast run is element 0. -/
def nibAt (h : HRec) (e d : Nat) : Int × Bool :=
  let n := (if hBcast h 0 then 0 else e % copyRun h * elemNibs (hFmt h)) + d
  (hRunAddr h (e / copyRun h) + ((n / 2 : Nat) : Int), n % 2 == 1)

/-- The nibble that masked bytes at an address write at `a`: none where they write none. -/
def nibIn (at_ : Int) (data : List (Byte × Nat)) (a : Int) (hi : Bool) : Option Nat :=
  if a < at_ ∨ at_ + data.length ≤ a then none
  else
    let d := data.getD (a - at_).toNat (0, 0)
    if (if hi then decide (2 ≤ d.2) else d.2 % 2 == 1) then some (nibOf d.1 hi) else none

/-- A planned write gives a nibble of its space a value. -/
def Out.writes (o : Out) (a : Int) (hi : Bool) (v : Nat) : Prop := nibIn o.addr o.data a hi = some v

/-- The i-th number of `k` nibbles among nibbles, lowest first. -/
def nibNum (k : Nat) (l : List Nat) (i : Nat) : Nat := ((List.range k).map fun j => l.getD (k * i + j) 0 * 16 ^ j).sum

/-- The lane operation of an elementwise vector word, from the values of its source fields in field order: its destination's and its
first source's FMT, and the scalars of its fields B and C (Table 15-4, R231 to R235, R242). -/
def laneRow (fd fa : Nat) (xb xc : Word) : VKind → Option (List Nat → Nat × BitVec 8)
  | .bin op => some fun l => binLane op fd (l.getD 0 0) (l.getD 1 0)
  | .sat op => some fun l => satLane op fd (l.getD 0 0) (l.getD 1 0)
  | .fma n m => some fun l => fmaLane n m fd (l.getD 0 0) (l.getD 1 0) (l.getD 2 0)
  | .abs => some fun l => absLane fd (l.getD 0 0)
  | .neg => some fun l => negLane fd (l.getD 0 0)
  | .mov => if fmtBlock fd then none else some fun l => (l.getD 0 0, 0)
  | .adds => some fun l => binLane .add fd (l.getD 0 0) (scalarIn fd xc)
  | .muls => some fun l => binLane .mul fd (l.getD 0 0) (scalarIn fd xc)
  | .axpb => some fun l => fmaLane false false fd (l.getD 0 0) (scalarIn fd xb) (scalarIn fd xc)
  | .bit op => some fun l => bitLane op fd (l.getD 0 0) (l.getD 1 0)
  | .shl => some fun l => shlLane xc.toNat fd (l.getD 0 0)
  | .shr => some fun l => shrLane xc.toNat fd (l.getD 0 0)
  | .cmp c => some fun l => (if condHolds c (elemVal fa (l.getD 0 0)) (elemVal fa (l.getD 1 0)) then 1 else 0, 0)
  | .sel => some fun l => (if l.getD 2 0 ≠ 0 then l.getD 0 0 else l.getD 1 0, 0)
  | .cvt rm st => some fun l => cvtLane fd fa (Rnd.ofBits rm) st (l.getD 0 0)
  | .spec fn => (ffmtOf fd).map fun g => fun l => fn.code g (l.getD 0 0)
  | _ => none

/-- The random value of a lane (R43), with 32-bit numbers. -/
def randRow (key counter lane : Nat) : Nat :=
  let z := (key % 2 ^ 32 ^^^ (counter + lane) % 2 ^ 32) * 0x2C1B3C6D % 2 ^ 32
  let z := (z ^^^ z / 2 ^ 15) * 0x297A2D39 % 2 ^ 32
  z ^^^ z / 2 ^ 16

/-- What the fills write into lane k of sweep vector j, from the scalars of their fields B and C (R244, R246). -/
def fillRow (fd : Nat) (xb xc : Word) : VKind → Option (Nat → Nat → Nat)
  | .splat => some fun _ _ => scalarIn fd xc
  | .iota => some fun j k => (xc.toNat + j * fmtLanes fd + k) % 2 ^ fmtBits fd
  | .randU => some fun j k =>
      (fF32.encode .rne false (.fin false (randRow xb.toNat xc.toNat (j * 128 + k) / 256) (-24))).1
  | .randB => some fun j k => randRow xb.toNat xc.toNat (j * 128 + k)
  | _ => none

/-- The product of two LNS6 codes, in units of 2^-29 of its scales (R26). -/
def lnsProduct (x : Lane × Lane) : Int :=
  let a := x.1.1 % 64
  let b := x.2.1 % 64
  let s := a % 32 + b % 32
  if a = 0x20 ∨ b = 0x20 then 0
  else (if a / 32 = b / 32 then 1 else -1) * ((([0x8000, 0x9838, 0xB505, 0xD745].getD (s % 4) 0) * 2 ^ (s / 4) : Nat) : Int)

/-- The flush of an FP32 result of the matrix engine (R23, R38): a subnormal becomes zero with its sign, with UF and NX. -/
def flushRow (x : Nat × BitVec 8) : Nat × BitVec 8 :=
  if (fF32.decode x.1).rat ≠ 0 ∧ |(fF32.decode x.1).rat| * 2 ^ 126 < 1 then
    (if x.1 < 2 ^ 31 then 0 else 2 ^ 31, x.2 ||| flagUF ||| flagNX)
  else (x.1, x.2 &&& ~~~flagUF)

/-- The ticks from the last pop of a step to its push (Table 15-4, R242). -/
def laneDelay : VKind → Nat
  | .spec _ => 23
  | _ => 4

/-- The value of a present node of the upward pass from those of its children (R256). -/
def upRow (e : SpEnv) (val : Nat → Nat) (i : Nat) : Nat × BitVec 8 :=
  let fp := spFp e.mode
  let w := e.reg (spWReg e.ls i)
  let weighted := spKind e.sh i == 3 && !spMax e.mode
  let one := fun c => if weighted then spMul fp w (val c) else (spKeep fp (val c), 0)
  if spKind e.sh i = 0 then one (2 * i)
  else if !spPresent e.sh (2 * i + 1) then one (2 * i)
  else if !spPresent e.sh (2 * i) then one (2 * i + 1)
  else if spKind e.sh i = 1 then spAdd fp (val (2 * i)) (val (2 * i + 1))
  else if spKind e.sh i = 2 then spMul fp (val (2 * i)) (val (2 * i + 1))
  else if spMax e.mode then
    (spKeep fp (if spLeftMax fp (val (2 * i)) (val (2 * i + 1)) then val (2 * i) else val (2 * i + 1)), 0)
  else spWsum fp w (val (2 * i)) (val (2 * i + 1))

/-- The value of a child or sibling as the downward pass reads it: a leaf's register, or a node's save register (R258). -/
def spRead (e : SpEnv) (p : Nat) : Nat := if 16 ≤ p then e.reg (spLeafReg e.ls (p - 16)) else e.reg (spSaveReg e.ls p)

/-- The gradients that a node gives to its left and right child (R258): none for a child that it does not reach. -/
def downRow (e : SpEnv) (i g : Nat) : Option (Nat × BitVec 8) × Option (Nat × BitVec 8) :=
  let fp := spFp e.mode
  let w := e.reg (spWReg e.ls i)
  let x := if spKind e.sh i == 3 && !spMax e.mode then spMul fp g w else (g, 0)
  if spKind e.sh i = 0 then (some x, none)
  else if !spPresent e.sh (2 * i + 1) then (some x, none)
  else if !spPresent e.sh (2 * i) then (none, some x)
  else if spKind e.sh i = 1 then (some (g, 0), some (g, 0))
  else if spKind e.sh i = 2 then (some (spMul fp g (spRead e (2 * i + 1))), some (spMul fp g (spRead e (2 * i))))
  else if spMax e.mode then
    (if spLeftMax fp (spRead e (2 * i)) (spRead e (2 * i + 1)) then (some (g, 0), none) else (none, some (g, 0)))
  else (some x, some x)

/-! ### Bounds of a strand's state -/

/-- A strand's loop stacks hold at most two entries (R127), and each of its queues at most 16 words (R99). -/
structure Strand.Bounded (c : Strand) : Prop where
  loops : c.loops.length ≤ 2
  saved : c.savedLoops.length ≤ 2
  queues : ∀ q, c.queueLen q ≤ 16

/-- Every strand of the package is so, and every restart image. -/
structure State.Bounded (s : State) : Prop where
  strands : ∀ c ∈ s.allStrands, c.Bounded
  images : ∀ prio l, s.launchOf prio = some l → ∀ c ∈ l.image, c.Bounded

/-! ### Canonical memory -/

/-- Memory is in its canonical form: rising addresses, and no byte listed that reads as an unlisted one does. -/
def State.MemOk (s : State) : Prop := Memory.wf s.mem = true

end Sys2Proof.Machine
end

