-- ==== Sys2Proof/Certificates/Slice0/Obligations.lean ====
section
/-! DEFINITION. The statements for the provers. Each names the rules of spec/ that it formalises; OBLIGATIONS.json lists them. -/

open Sys2Proof Sys2Proof.Machine

/-! ### Words and their encoding -/

/-- Words that the manual writes out in hexadecimal decode to the instructions it writes beside them (the examples of R110,
R114, R127, R134, R210, R220, R263 and R299, and of the scalar loads, copies, fences and atomics). -/
def Obligations.ExampleWordsDecode : Prop :=
  decode 0x0802_4000_0050#48 = .ok (.addi ⟨0, 0⟩ 9 0 5)
    ∧ decode 0x1C00_1C72_0002#48 = .ok (.mul ⟨0, 2⟩ 7 7 8)
    ∧ decode 0x3C01_0090_0000#48 = .ok (.loop ⟨0, 0⟩ 0 9)
    ∧ decode 0x2000_8170_0000#48 = .ok (.ld ⟨0, 0⟩ 8 5 3 0 0)
    ∧ decode 0x3D03_0090_0000#48 = .ok (.halt ⟨4, 0⟩ 9)
    ∧ decode 0x5001_1000_0C00#48 = .ok (.semwait ⟨0, 0, 3, 0⟩ 1)
    ∧ decode 0xC000_9800_0830#48 = .ok (.cpy ⟨0, 0, 2, 3⟩ 9 8 0)
    ∧ decode 0x8422_0123_0000#48 = .ok (.mmaw ⟨0, 0, 0, 0⟩ 0 1 8 0 1 2 3)
    ∧ decode 0xA008_4012_0000#48 = .ok (.vfma ⟨0, 0, 0, 0⟩ 4 0 1 2)
    ∧ decode 0xE407_0503_3840#48 = .ok (.spnorm ⟨0, 0⟩ 5 12 900)
    ∧ decode 0x5400_8000_40A0#48 = .ok (.fence ⟨0, 0⟩ 2 0x00A 0x001)
    ∧ decode 0x5802_004E_2000#48 = .ok (.commit ⟨0, 0⟩ 20000)
    ∧ decode 0x6428_A1B7_0000#48 = .ok (.ctrade ⟨0, 0⟩ 10 6 3 7 0)
    ∧ decode 0xFC00_0000_0280#48 = .ok (.atTick 40)

/-- Decode and encode agree (R45, R46, R51): the word of every well-formed instruction that is no event decodes to it, with
every operand at every value that the encoding admits. -/
def Obligations.DecodeUndoesEncode : Prop :=
  ∀ i : Instr, i.isEvent = false → i.wf = true → decode (encode i) = .ok i

/-- Every word has one meaning (R51): a word that decodes is the word of the instruction it decodes to, which is well formed
and no event. -/
def Obligations.EncodeUndoesDecode : Prop :=
  ∀ (w : BitVec 48) (i : Instr), decode w = .ok i → encode i = w ∧ i.wf = true ∧ i.isEvent = false

/-! ### Issue -/

/-- A step runs the decoded instruction: when a strand's issue is what is due, its text can be fetched and is resident, and the
word at its pc, stepped by an RPT prefix, decodes to i, the step is the meaning of i on that strand. An RPT unit that ERET resumes at a
later repetition issues so when every repetition of it decodes, and is an illegal word otherwise (R56, WordChecksTrap). -/
def Obligations.StepRunsDecoded : Prop :=
  ∀ (s : State) (who : Bool × Nat × Nat) (w v : BitVec 48) (i : Instr),
    s.due = .issue who →
    (s.focusWho who).fetchFails (s.focusWho who).cur.pc = none →
    (s.focusWho who).resident ((s.focusWho who).blockOf (s.focusWho who).cur.pc) = true →
    (s.focusWho who).fetchWord (s.focusWho who).cur.pc = some w →
    ((s.focusWho who).cur.rep = 0 ∨ (s.focusWho who).cur.rptFits w = true) →
    (s.focusWho who).unitWord w = some v →
    decode v = .ok i →
    step s = exec i (s.focusWho who)

/-- The checks of R52. A word that does not decode is an illegal word, unless the cell lacks its unit (checks 1 to 3): the step takes a
precise trap whose TPC is the unit's first word. An RPT unit that is resumed at a later repetition is an illegal word as a whole when some repetition of it does not
decode, and nothing of it issues (R56). A prefix whose fields are not those of R54 joins its unit, which is then an illegal
one: its checks come at the word that the prefixes govern. A word whose unit the cell's die does not have traps with its 48 bits as the
value, before any check of its operands (check 2); then a word with an invalid register value, a BASK.PREF with the bit of the class
that the die lacks (R336), and a word that its prefixes may not govern are illegal words (check 3), whatever the guard.
Where the manual leaves a point of it open, it states the model's choice (notes/assumptions/9.md). -/
def Obligations.WordChecksTrap : Prop :=
  (∀ (s : State) (who : Bool × Nat × Nat) (w v : BitVec 48) (e : DecodeError),
    s.due = .issue who →
    (s.focusWho who).fetchFails (s.focusWho who).cur.pc = none →
    (s.focusWho who).resident ((s.focusWho who).blockOf (s.focusWho who).cur.pc) = true →
    (s.focusWho who).fetchWord (s.focusWho who).cur.pc = some w →
    ((s.focusWho who).cur.rep = 0 ∨ (s.focusWho who).cur.rptFits w = true) →
    (s.focusWho who).unitWord w = some v →
    decode v = .error e →
    (isPrefixWord v = false → ∃ code tval rep,
      step s = .next (takeTrap { code := code, tval := tval, tpc := some (s.focusWho who).cur.unitPc, rep := rep } (s.focusWho who))
        ∧ (unitPresent (s.focusWho who).vd.cls v = true → code = Cause.illegal)
        ∧ (unitPresent (s.focusWho who).vd.cls v = false → code = Cause.absent ∧ tval = 0#16 ++ v))
    ∧ (isPrefixWord v = true → ∃ u p, step s = .next u ∧ u.cur.pfx = some p ∧ p.bad = true
        ∧ p.first = (s.focusWho who).cur.unitPc ∧ u.cur.pc = (s.focusWho who).cur.pc + 6
        ∧ SameRegs [] [] [] [] (s.focusWho who) u ∧ SameMem (fun _ => False) (s.focusWho who) u))
  ∧ (∀ (s : State) (who : Bool × Nat × Nat) (w : BitVec 48),
    s.due = .issue who →
    (s.focusWho who).fetchFails (s.focusWho who).cur.pc = none →
    (s.focusWho who).resident ((s.focusWho who).blockOf (s.focusWho who).cur.pc) = true →
    (s.focusWho who).fetchWord (s.focusWho who).cur.pc = some w →
    (s.focusWho who).cur.rep ≠ 0 → (s.focusWho who).cur.rptFits w = false →
    isPrefixWord w = false → unitPresent (s.focusWho who).vd.cls w = true →
    ∃ tval rep, step s = .next (takeTrap
      { code := Cause.illegal, tval := tval, tpc := some (s.focusWho who).cur.unitPc, rep := rep } (s.focusWho who)))
  ∧ (∀ (i : Instr) (s : State), i.isEvent = false → isPrefixUnit i = false → s.cur.status = .running →
    unitPresent s.vd.cls (encode i) = false →
    ∃ rep, exec i s =
      .next (takeTrap { code := Cause.absent, tval := 0#16 ++ encode i, tpc := some s.cur.unitPc, rep := rep } s.begun))
  ∧ (∀ (i : Instr) (s : State), i.isEvent = false → isPrefixUnit i = false → s.cur.status = .running →
    unitPresent s.vd.cls (encode i) = true → (i.wf = false ∨ fitsClass s.vd.cls i = false ∨ s.cur.pfxOk (encode i) = false) →
    ∃ rep, exec i s =
      .next (takeTrap { code := Cause.illegal, tval := s.cur.illegalValue (encode i), tpc := some s.cur.unitPc, rep := rep } s.begun))
  ∧ ∀ (g : Ctl) (mask : BitVec 2) (cls : Cls),
    fitsClass cls (.baskPref g mask) = false ↔ mask.getLsbD (if cls = .md then 1 else 0) = true

/-- A word whose guard is false is squashed (R53): it writes no register and no memory, awaits and raises nothing, enqueues nothing
and takes no trap; the strand goes on to the next unit, whose planned slot the word's HOLD has moved in SCHED mode. A unit whose AT
target lies in the future issues no sooner (R55): it waits, and nothing else changes. -/
def Obligations.AtAndGuard : Prop :=
  (∀ (i : Instr) (s : State), i.isEvent = false → isPrefixUnit i = false → s.cur.status = .running →
    unitPresent s.vd.cls (encode i) = true → s.legal i = true →
    s.atTarget.all (fun t => decide (t ≤ s.z0)) = true →
    (!s.started.sched && (guardReg (wordCtl i).pg).any s.started.lockBusy) = false →
    s.started.guard (wordCtl i).pg = false →
    ∃ t, exec i s = .next t ∧ SameRegs [] [] [] [] s t ∧ SameTrap s t ∧ SameMem (fun _ => False) s t
      ∧ t.cur.queue = s.cur.queue ∧ t.cur.pend = s.cur.pend ∧ t.raises = s.raises ∧ t.cur.status = .running
      ∧ t.cur.slot = s.z0 + 1 + (if s.sched then holdOf i else 0))
  ∧ (∀ (i : Instr) (s : State) (t : Nat), i.isEvent = false → isPrefixUnit i = false → s.cur.status = .running →
    unitPresent s.vd.cls (encode i) = true → s.legal i = true → s.atTarget = some t → s.z0 < t →
    exec i s = .next (s.begun.modCur fun c => { c with slot := t }))

/-- Where the next unit lies. After a unit that transfers nowhere and has no repetition left (R127): each entry of the loop stack whose
body ends here and which has no repetition left is popped, and the search goes on outward; where the entry that is then on top ends here,
the next unit is the first word of its body, and its count falls by one; otherwise it is the next word. While an RPT unit has
repetitions left: the same word, and AT no longer times it (R56). After a taken transfer: the target, with the entries popped, from the
top, whose bodies do not hold it. The planned slot is the tick after, moved on by HOLD in SCHED mode only (R54, R97, R125). -/
def Obligations.NextUnit : Prop :=
  (∀ (s : State) (hold : Nat),
    (∀ p r, s.cur.pfx = some p → p.rpt = some r → r.count.toNat ≤ s.cur.rep) →
    (∃ out rest, s.cur.loops = out ++ rest ∧ (∀ e ∈ out, e.last = s.cur.pc ∧ e.remaining ≤ 1)
      ∧ ((∃ e r, rest = e :: r ∧ e.last = s.cur.pc ∧ 1 < e.remaining ∧ (s.advance hold).cur.pc = e.first
            ∧ (s.advance hold).cur.loops = { e with remaining := e.remaining - 1 } :: r)
          ∨ ((∀ e r, rest = e :: r → e.last ≠ s.cur.pc) ∧ (s.advance hold).cur.pc = s.cur.pc + 6
            ∧ (s.advance hold).cur.loops = rest)))
      ∧ (s.advance hold).cur.pfx = none ∧ (s.advance hold).cur.rep = 0
      ∧ (s.advance hold).cur.slot = s.z0 + 1 + (if s.sched then hold else 0))
  ∧ (∀ (s : State) (hold : Nat) (p : Pfx) (r : RptPfx), s.cur.pfx = some p → p.rpt = some r →
    s.cur.rep < r.count.toNat →
    (s.advance hold).cur.pc = s.cur.pc ∧ (s.advance hold).cur.rep = s.cur.rep + 1
      ∧ (s.advance hold).cur.loops = s.cur.loops
      ∧ (s.advance hold).cur.pfx = some { p with atTick := none }
      ∧ (s.advance hold).cur.slot = s.z0 + 1 + (if s.sched then hold else 0))
  ∧ (∀ (s : State) (hold : Nat) (target : Word),
    (s.transfer hold target).cur.pc = target
      ∧ (∃ out, s.cur.loops = out ++ (s.transfer hold target).cur.loops
          ∧ (∀ e ∈ out, ¬(e.first.toNat ≤ target.toNat ∧ target.toNat ≤ e.last.toNat))
          ∧ ∀ e r, (s.transfer hold target).cur.loops = e :: r → e.first.toNat ≤ target.toNat ∧ target.toNat ≤ e.last.toNat)
      ∧ (s.transfer hold target).cur.pfx = none ∧ (s.transfer hold target).cur.rep = 0
      ∧ (s.transfer hold target).cur.slot = s.z0 + 1 + (if s.sched then hold else 0))

/-! ### Scalar words -/

/-- A register keeps what is written to it and no other changes (R57): the scalar registers, of which x0 reads zero and keeps nothing
and x56 to x63 lie in memory while the context is in, and the predicates, of which p0 reads true and keeps nothing. -/
def Obligations.RegisterFiles : Prop :=
  ((∀ s : State, s.getX 0 = 0) ∧ (∀ (s : State) (v : Word), s.setX 0 v = s)
    ∧ ∀ (s : State) (k j : Nat) (v : Word), k ≠ 0 → k < 64 → j < 64 →
        (s.setX k v).getX j = if j = k then v else s.getX j)
  ∧ ((∀ s : State, s.getP 0 = true) ∧ (∀ (s : State) (v : Bool), s.setP 0 v = s)
    ∧ ∀ (s : State) (k j : Nat) (v : Bool), k ≠ 0 → k < 8 → j < 8 →
        (s.setP k v).getP j = if j = k then v else s.getP j)

/-- The words that write one scalar register complete: x[D] receives what Table 7-1, Table 7-2 and R111 give; for PRD the predicate
mask with bit 0 set, for CSRR the CSR's value (R121), for HGET the handle field with the strides sign-extended and every other field
zero-extended (R175). CLZ, CTZ and POPC count what R109 says: the leading zero bits, the trailing zero bits and the set bits, 64 for
the zeros of a zero word. -/
def Obligations.ScalarResultWords : Prop :=
  (∀ (i : Instr) (r : XRow) (s : State), aluRow i = some r → Issues i r.use s →
    exec i s = .next ((s.started.setX r.d.toNat (r.val s.started)).advance (holdOf i)))
  ∧ (∀ (i : Instr) (r : XRow) (s : State), immRow i = some r → Issues i r.use s →
    exec i s = .next ((s.started.setX r.d.toNat (r.val s.started)).advance (holdOf i)))
  ∧ (∀ (i : Instr) (r : XRow) (s : State), getRow i = some r → Issues i r.use s →
    exec i s = .next ((s.started.setX r.d.toNat (r.val s.started)).advance (holdOf i)))
  ∧ ∀ x : Word,
    (x = 0 → clz64 x = 64 ∧ ctz64 x = 64)
      ∧ (x ≠ 0 → 2 ^ (63 - (clz64 x).toNat) ≤ x.toNat ∧ x.toNat < 2 ^ (64 - (clz64 x).toNat) ∧ (clz64 x).toNat < 64)
      ∧ (x ≠ 0 → (ctz64 x).toNat < 64 ∧ x.getLsbD (ctz64 x).toNat = true ∧ x.toNat % 2 ^ (ctz64 x).toNat = 0)
      ∧ (popc64 x).toNat = ((List.range 64).filter fun k => x.getLsbD k).length

/-- The compares of Table 7-3 and the predicate words of Table 7-4 complete: p[D] receives the condition. PWR writes p1 to p7
from x[A]. -/
def Obligations.PredicateWords : Prop :=
  (∀ (i : Instr) (r : PRow) (s : State), predRow i = some r → Issues i r.use s →
    exec i s = .next ((s.started.setP r.d.toNat (r.val s.started)).advance (holdOf i)))
  ∧ ∀ (g : Ctl) (a : BitVec 6) (s : State),
      Issues (.pwr g a) { reads := [a.toNat], writes := [regP 1, regP 2, regP 3, regP 4, regP 5, regP 6, regP 7] } s →
      ∃ t, exec (.pwr g a) s = .next t ∧ SameRegs [] [1, 2, 3, 4, 5, 6, 7] [] [] s t
        ∧ ∀ k, 1 ≤ k → k < 8 → t.getP k = (s.started.rx a.toNat).getLsbD k

/-- The words of Table 7-5 complete their issue: the results, computed from the operands at issue, are due 3 ticks on for a multiply
and 18 ticks on for a divide, and until then their registers are busy. Division truncates towards zero, the remainder takes the sign
of the dividend, quotient × divisor + remainder is the dividend modulo 2^64, and a divisor of zero gives 0 and the dividend (R114).
Where the manual leaves a point of it open, it states the model's choice (notes/assumptions/6.md). -/
def Obligations.MultiplyDivideWords : Prop :=
  (∀ (i : Instr) (r : MRow) (s : State), mulRow i = some r → Issues i r.use s →
    exec i s = .next ((s.started.resultsDue r.lat (r.results s.started)).advance (holdOf i)))
  ∧ (∀ x y : Word,
    (y = 0 → quotRem x y = (0, x) ∧ quotRemU x y = (0, x))
      ∧ (y ≠ 0 → (quotRem x y).1 * y + (quotRem x y).2 = x ∧ (quotRemU x y).1 * y + (quotRemU x y).2 = x)
      ∧ (y ≠ 0 → ((quotRem x y).2).toInt.natAbs < y.toInt.natAbs ∧ ((quotRemU x y).2).toNat < y.toNat)
      ∧ (y ≠ 0 → 0 ≤ (quotRem x y).2.toInt * x.toInt)
      ∧ (x.toInt = -2 ^ 63 → y.toInt = -1 → quotRem x y = (x, 0)))

/-- What a word that writes one scalar register, one predicate or one handle leaves alone, on every path that gives a next
state: every other register, every flag, every CSR of the semaphores, all memory but the inbox bytes that are the register
itself, and, unless the word takes a trap of R52, the trap registers. A CSR word that takes no trap of R52 leaves alone every scalar
register but x[D], every predicate, handle and port, all memory but x[D]'s inbox bytes, and every CSR of Table 3-4 but the one it
names. -/
def Obligations.RegisterWordsFrame : Prop :=
  (∀ (i : Instr) (r : XRow) (s t : State), (aluRow i = some r ∨ immRow i = some r ∨ getRow i = some r) →
    exec i s = .next t →
    SameRegs [r.d.toNat] [] [] [] s t ∧ SameMem (inboxBytes s [r.d.toNat]) s t
      ∧ (unitPresent s.vd.cls (encode i) = true → s.legal i = true → SameTrap s t))
  ∧ (∀ (i : Instr) (r : PRow) (s t : State), predRow i = some r → exec i s = .next t →
    SameRegs [] [r.d.toNat] [] [] s t ∧ SameMem (fun _ => False) s t
      ∧ (unitPresent s.vd.cls (encode i) = true → s.legal i = true → SameTrap s t))
  ∧ (∀ (i : Instr) (r : HRow) (s t : State), handleRow i = some r → exec i s = .next t →
    SameRegs [] [] [r.d.toNat] [] s t ∧ SameMem (fun _ => False) s t
      ∧ (unitPresent s.vd.cls (encode i) = true → s.legal i = true → SameTrap s t))
  ∧ ∀ (i : Instr) (op : CsrOp) (d a : BitVec 6) (csr : BitVec 12) (s t : State), csrRow i = some (op, d, a, csr) →
    unitPresent s.vd.cls (encode i) = true → s.legal i = true → exec i s = .next t →
    (∀ k, k < 64 → k ≠ d.toNat → t.getX k = s.getX k) ∧ t.cur.p = s.cur.p ∧ t.cur.h = s.cur.h ∧ t.cur.q = s.cur.q
      ∧ SameMem (inboxBytes s [d.toNat]) s t ∧ (∀ n, n ≠ csr.toNat → t.csr n = s.csr n)

/-! ### Scalar memory words -/

/-- A load, an indexed load, HLD, a store, STX, HST or ZST that passes the checks of R115 and waits for no access completes its
issue: a load's destination is busy until the bound of Table 7-6 and its access has begun; a store's bytes, read at issue, are to be
performed within that bound. The operation that each leaves outstanding has the word's place in program order, the address that was
checked, the bytes or the destination, its path (Table 20-1), and a tick no later than issue + the bound; a load of fleeting memory is
made from issue + 2 on (R117); one that no die answers is to deliver zeros and a bus error at its bound (R155). The bounds are those of
Table 7-6, row by row. On every path that gives a next state, issuing changes no register, no flag and no byte of memory: what a load
delivers and what a store writes come with their completion.
Where the manual leaves a point of it open, it states the model's choice (notes/assumptions/3.md, 6.md). -/
def Obligations.ScalarAccessWords : Prop :=
  (∀ (i : Instr) (r : LRow) (s : State) (acc : Acc), loadRow i = some r → Issues i r.use s →
    s.started.checkEA { rd := true } r.bytes (r.ea s.started) = .ok acc →
    (acc.so && s.started.soPending) = false →
    exec i s = .next (((s.started.setBusy r.reg (some (s.z0 + s.started.scalarBound acc.phys)) none).startLoad acc r.bytes r.dst
      (r.acq && !acc.uo) (r.ea s.started)).advance (holdOf i)))
  ∧ (∀ (i : Instr) (r : SRow) (s : State) (acc : Acc), storeRow i = some r → Issues i r.use s →
    s.started.checkEA r.need r.bytes (r.ea s.started) = .ok acc →
    (acc.so && s.started.soPending) = false →
    exec i s = .next (((r.sample s.started).startStore acc (r.data (r.sample s.started)) (r.ea s.started)
      (rel := r.rel && !acc.uo)).advance (holdOf i)))
  ∧ (∀ (i : Instr) (r : LRow) (s t : State), loadRow i = some r → exec i s = .next t →
    SameRegs [] [] [] [] s t ∧ SameMem (fun _ => False) s t)
  ∧ (∀ (i : Instr) (r : SRow) (s t : State), storeRow i = some r → exec i s = .next t →
    SameRegs [] [] [] [] s t ∧ SameMem (fun _ => False) s t)
  ∧ (∀ (s : State) (acc : Acc) (n : Nat) (dst : LoadDst) (acq : Bool) (ea : Word),
    ∃ o, (s.startLoad acc n dst acq ea).cur.pend = s.cur.pend ++ [o] ∧ o.seq = s.cur.seq ∧ o.sr = true ∧ o.sw = false
      ∧ o.so = acc.so ∧ o.acq = acq ∧ (s.startLoad acc n dst acq ea).cur.seq = s.cur.seq + 1
      ∧ (acc.answers = true → o.act = .sample dst acc n (s.z0 + s.scalarBound acc.phys) ea
          ∧ o.due = (if s.inTile acc.phys then s.z0 + 2 else s.z0))
      ∧ (acc.answers = false → o.act = .loaded dst (List.replicate n 0) true ea ∧ o.due = s.z0 + s.scalarBound acc.phys))
  ∧ (∀ (s : State) (acc : Acc) (bytes : List Byte) (rel : Bool) (ea : Word),
    ∃ o, (s.startStore acc bytes ea (rel := rel)).cur.pend = s.cur.pend ++ [o] ∧ o.seq = s.cur.seq ∧ o.sr = false ∧ o.sw = true
      ∧ o.so = acc.so ∧ o.rel = rel ∧ (s.startStore acc bytes ea (rel := rel)).cur.seq = s.cur.seq + 1
      ∧ o.act = .store acc bytes ea ∧ o.due = s.z0 + s.scalarBound acc.phys)
  ∧ (∀ (s : State) (a : Nat),
    (s.answers a = false → s.scalarBound a = 12)
      ∧ (s.answers a = true →
          (∀ b, s.placeOf a = .hbm b → s.scalarBound a = 268) ∧ (∀ d, s.placeOf a = .host d → s.scalarBound a = 6000)
          ∧ (∀ n c o, s.placeOf a = .scratch n c o ∨ s.placeOf a = .acc n c o →
              s.scalarBound a = (if n ≠ s.slotNo then 2 * routeLat s.slotNo n + 12 else if c = s.cur.cell then 6 else 12))
          ∧ (∀ n k o, s.placeOf a = .tile n k o → s.scalarBound a = (if n ≠ s.slotNo then 2 * routeLat s.slotNo n + 12 else 10))
          ∧ (∀ n o, s.placeOf a = .sync n o → s.scalarBound a = (if n ≠ s.slotNo then 2 * routeLat s.slotNo n + 12 else 12))
          ∧ ∀ n c o, s.placeOf a = .inbox n c o →
              s.scalarBound a = (if n ≠ s.slotNo then 2 * routeLat s.slotNo n + 12 else 12)))
  ∧ ∀ a b : Nat,
    ((slotCls a = .bd ∨ slotCls b = .bd) → routeLat a b = 44)
      ∧ (slotCls a ≠ .bd → slotCls b ≠ .bd → routeLat a b = if adjacent a b then 20 else 36)

/-- A scalar access that fails a check of R115 traps: precise, with EA as the value; an address that is not a multiple of the
access size is a misalignment, before any other check. -/
def Obligations.AccessChecksTrap : Prop :=
  (∀ (i : Instr) (r : LRow) (s : State) (c : Nat), loadRow i = some r → Issues i r.use s →
    s.started.checkEA { rd := true } r.bytes (r.ea s.started) = .error c →
    exec i s = .next (s.started.precise c (r.ea s.started)))
  ∧ (∀ (i : Instr) (r : SRow) (s : State) (c : Nat), storeRow i = some r → Issues i r.use s →
    s.started.checkEA r.need r.bytes (r.ea s.started) = .error c →
    exec i s = .next (s.started.precise c (r.ea s.started)))
  ∧ ∀ (s : State) (need : Need) (n : Nat) (ea : Word), ea.toNat % n ≠ 0 → s.checkEA need n ea = .error Cause.misaligned

/-- SCALAR_ACCESS_COMPLETION performs the first operation that may take effect. Of a load that a die answered (R117, R176): x[D]
receives the bytes, little-endian, sign-extended or zero-extended as the word says, or HLD's h[D] its 256 bits, and no other register
and no memory but x[D]'s inbox bytes changes; one that no die answered delivers its zeros and raises a bus error with EA (R155). Of a
store into a scratchpad or an accumulator bank (R118), or through an SO page to HBM or host memory (R282), which marks the superstep:
the stored bytes stand at the access's physical address, and every other byte of memory and every register is as before. Into the inbox
registers of a cell whose strands are in: its bytes stand there (R57). Of a store to HBM or host memory whose page is not SO: it is held
for commit (R285); committed memory does not change, and the die that stored reads back its own bytes. A store that no die answers, or
to locked text (R92), writes nothing and raises a bus error with EA. -/
def Obligations.AccessCompletion : Prop :=
  (∀ (s : State) (p : PendOp), s.cur.pend.find? s.pendReady = some p → exec .scalarAccessCompletion s = .next (performPend p s))
  ∧ ((∀ (s : State) (p : PendOp) (d n : Nat) (sgn : Bool) (bytes : List Byte) (ea : Word),
    s.cur.pend.find? s.pendReady = some p → p.act = .loaded (.x d n sgn) bytes false ea → bytes.length = n → n ≤ 8 → d < 64 →
    ∃ t, exec .scalarAccessCompletion s = .next t
      ∧ (d ≠ 0 → t.getX d = if sgn then BitVec.ofInt 64 (toSInt (8 * n) (leNat bytes)) else BitVec.ofNat 64 (leNat bytes))
      ∧ SameRegs [d] [] [] [] s t ∧ SameMem (inboxBytes s [d]) s t ∧ SameTrap s t)
  ∧ (∀ (s : State) (p : PendOp) (d : Nat) (bytes : List Byte) (ea : Word),
    s.cur.pend.find? s.pendReady = some p → p.act = .loaded (.h d) bytes false ea →
    ∃ t, exec .scalarAccessCompletion s = .next t ∧ t.getH d = BitVec.ofNat 256 (leNat bytes)
      ∧ SameRegs [] [] [d] [] s t ∧ SameMem (fun _ => False) s t ∧ SameTrap s t)
  ∧ ∀ (s : State) (p : PendOp) (d n : Nat) (sgn : Bool) (bytes : List Byte) (ea : Word),
    s.cur.pend.find? s.pendReady = some p → p.act = .loaded (.x d n sgn) bytes true ea → bytes.length = n → n ≤ 8 → d < 64 →
    s.cur.status ≠ .ended → s.cur.status ≠ .stopped →
    ∃ t, exec .scalarAccessCompletion s = .next t
      ∧ (d ≠ 0 → t.getX d = if sgn then BitVec.ofInt 64 (toSInt (8 * n) (leNat bytes)) else BitVec.ofNat 64 (leNat bytes))
      ∧ t.cur.asyncs = s.cur.asyncs ++ [{ code := 0x0D, tval := ea, tpc := none }]
      ∧ SameRegs [d] [] [] [] s t ∧ SameMem (inboxBytes s [d]) s t)
  ∧ (∀ (s : State) (p : PendOp) (acc : Acc) (bytes : List Byte) (ea : Word) (n c o : Nat),
    s.cur.pend.find? s.pendReady = some p → p.act = .store acc bytes ea → s.refuses acc = false →
    (s.placeOf acc.phys = .scratch n c o ∨ s.placeOf acc.phys = .acc n c o) →
    ∃ t, exec .scalarAccessCompletion s = .next t
      ∧ (∀ k, k < bytes.length → rdMem t.mem (acc.phys + k) = bytes.getD k 0)
      ∧ SameMem (fun a => acc.phys ≤ a ∧ a < acc.phys + bytes.length) s t
      ∧ t.cur.x = s.cur.x ∧ t.cur.p = s.cur.p ∧ t.cur.h = s.cur.h ∧ t.cur.q = s.cur.q ∧ SameTrap s t)
  ∧ (∀ (s : State) (p : PendOp) (acc : Acc) (bytes : List Byte) (ea : Word),
    s.cur.pend.find? s.pendReady = some p → p.act = .store acc bytes ea → s.refuses acc = false → acc.so = true →
    (s.placeOf acc.phys).heldKind = true →
    ∃ t, exec .scalarAccessCompletion s = .next t
      ∧ (∀ k, k < bytes.length → rdMem t.mem (acc.phys + k) = bytes.getD k 0)
      ∧ SameMem (fun a => acc.phys ≤ a ∧ a < acc.phys + bytes.length) s t
      ∧ ∀ l, s.launchOf s.cur.prio = some l → (t.launchD s.cur.prio).soWritten = true)
  ∧ (∀ (s : State) (p : PendOp) (acc : Acc) (bytes : List Byte) (ea : Word) (n c o : Nat),
    s.cur.pend.find? s.pendReady = some p → p.act = .store acc bytes ea → s.refuses acc = false →
    s.placeOf acc.phys = .inbox n c o → (∀ x ∈ s.others, x.inboxOut = false) →
    ∃ t, exec .scalarAccessCompletion s = .next t
      ∧ (∀ k, k < bytes.length → rdMem t.mem (inboxBase n c + o + k) = bytes.getD k 0)
      ∧ SameMem (fun a => inboxBase n c + o ≤ a ∧ a < inboxBase n c + o + bytes.length) s t)
  ∧ (∀ (s : State) (p : PendOp) (acc : Acc) (bytes : List Byte) (ea : Word),
    s.cur.pend.find? s.pendReady = some p → p.act = .store acc bytes ea → s.refuses acc = false → acc.so = false →
    (s.placeOf acc.phys).heldKind = true → s.heldRoom acc.phys = true →
    ∃ t, exec .scalarAccessCompletion s = .next t ∧ t.mem = s.mem
      ∧ ∀ k, k < bytes.length → (t.placeOf (acc.phys + k)).heldKind = true → t.rdByte (acc.phys + k) = bytes.getD k 0)
  ∧ ∀ (s : State) (p : PendOp) (acc : Acc) (bytes : List Byte) (ea : Word),
    s.cur.pend.find? s.pendReady = some p → p.act = .store acc bytes ea → s.refuses acc = true →
    s.cur.status ≠ .ended → s.cur.status ≠ .stopped →
    ∃ t, exec .scalarAccessCompletion s = .next t ∧ t.cur.asyncs = s.cur.asyncs ++ [{ code := 0x0D, tval := ea, tpc := none }]
      ∧ SameMem (fun _ => False) s t ∧ SameRegs [] [] [] [] s t

/-- What a load reads and what a store does in fleeting memory (R117, R118, R162 to R166, R285). A load reads the bytes at its address:
the writes that its own die holds for commit first, in HBM and host memory, else the bytes that stand there; an expired tile reads
zeros, and sets EXPFLAG; where no die answers it reads zeros. What it has read is to be delivered at its bound, and nothing else changes.
A store into a tile that no session holds and that no other write of this tick has rewritten is a session of its own: its bytes stand,
the other bytes of the tile stay when the tile is live and are zero when it is not, the tile's birth is this tick, no byte outside the
tile changes, and the store completes 8 ticks on, when the partial rewrite is over. -/
def Obligations.AccessSampling : Prop :=
  (∀ (s : State) (p : PendOp) (dst : LoadDst) (acc : Acc) (n done : Nat) (ea : Word), p ∈ s.cur.pend →
    p.act = .sample dst acc n done ea →
    (∃ o ∈ (performPend p s).cur.pend, o.seq = p.seq ∧ o.due = done ∧ o.act = .loaded dst (s.readAt acc.phys n).1 false ea)
      ∧ (performPend p s).cur.expf = s.cur.expf ||| (if (s.readAt acc.phys n).2 then 1 else 0)
      ∧ (performPend p s).mem = s.mem ∧ (performPend p s).held = s.held ∧ (performPend p s).cur.x = s.cur.x
      ∧ (performPend p s).cur.p = s.cur.p ∧ (performPend p s).cur.h = s.cur.h ∧ (performPend p s).cur.q = s.cur.q
      ∧ (performPend p s).cur.arith = s.cur.arith)
  ∧ (∀ (s : State) (a n : Nat),
    ((s.readAt a n).1.length = n)
      ∧ (s.answers a = false → (s.readAt a n).2 = false ∧ ∀ b ∈ (s.readAt a n).1, b = 0)
      ∧ (s.answers a = true → ∀ slot t o, s.placeOf a = .tile slot t o → s.liveAt (tileKey slot t) s.z0 = false →
          (s.readAt a n).2 = true ∧ ∀ b ∈ (s.readAt a n).1, b = 0)
      ∧ (s.answers a = true → (∀ slot t o, s.placeOf a = .tile slot t o → s.liveAt (tileKey slot t) s.z0 = true) →
          (s.readAt a n).2 = false ∧ ∀ k, k < n → (s.readAt a n).1.getD k 0 = s.rdByte (a + k)))
  ∧ (∀ (s : State) (a : Nat),
    (∀ b, (s.placeOf a).heldKind = true → sget none s.held (heldKey s.cur.prio s.cur.vdie a) = some b → s.rdByte a = b)
      ∧ ((s.placeOf a).heldKind = true → sget none s.held (heldKey s.cur.prio s.cur.vdie a) = none → s.rdByte a = rdMem s.mem a)
      ∧ ((s.placeOf a).heldKind = false → s.rdByte a = rdMem s.mem a))
  ∧ ∀ (s : State) (p : PendOp) (acc : Acc) (bytes : List Byte) (ea : Word) (n t o : Nat), s.MemOk → p ∈ s.cur.pend →
    p.act = .store acc bytes ea → s.refuses acc = false → s.placeOf acc.phys = .tile n t o → o + bytes.length ≤ 4096 → bytes.length < 4096 →
    s.sessOn (tileKey n t) = none → s.endedOn (tileKey n t) = none →
    (∀ k, k < bytes.length → rdMem (performPend p s).mem (tileBase n + t * 4096 + o + k) = bytes.getD k 0)
      ∧ (∀ k, k < 4096 → (k < o ∨ o + bytes.length ≤ k) →
          rdMem (performPend p s).mem (tileBase n + t * 4096 + k) =
            if s.liveAt (tileKey n t) s.z0 then rdMem s.mem (tileBase n + t * 4096 + k) else 0)
      ∧ SameMem (fun a => tileBase n + t * 4096 ≤ a ∧ a < tileBase n + t * 4096 + 4096) s (performPend p s)
      ∧ sget none (performPend p s).births (tileKey n t) = some (s.z0 : Int)
      ∧ ∃ x ∈ (performPend p s).cur.pend, x.seq = p.seq ∧ x.act = .port ∧ x.due = s.z0 + 8

/-! ### CSR words -/

/-- CSRW, CSRS and CSRC complete (R121): x[D] receives the CSR's value at issue, and the CSR takes the new value, but for flags
that were set at this very tick (R37, R164). The new value is made bit by bit: a read-write bit takes the operation, a W1C bit clears
where CSRW or CSRC has a 1 and CSRS changes none, and every other bit keeps its value. The read-write bits are those of TVEC, TPC,
TCAUSE, TVAL, SEMBASE, SEMDEPTH and SEMROT and the enables of ARITHFLAG; the W1C bits are the flags of ARITHFLAG and EXPFLAG and SOVF
of SEMDEPTH; every other CSR has neither (Tables 2-8, 3-4, 6-4 to 6-6, 10-2 and 22-1 to 22-4). -/
def Obligations.CsrWriteWords : Prop :=
  (∀ (i : Instr) (op : CsrOp) (d a : BitVec 6) (csr : BitVec 12) (s : State), csrRow i = some (op, d, a, csr) →
    Issues i { reads := [a.toNat], writes := [d.toNat], csr := some csr.toNat } s →
    exec i s = .next (((s.started.putCsr csr.toNat
      (csrNew op csr.toNat (s.started.csr csr.toNat) (s.started.rx a.toNat) ||| s.started.freshFlags csr.toNat)).setX d.toNat
        (s.started.csr csr.toNat)).advance (holdOf i)))
  ∧ (∀ (op : CsrOp) (n : Nat) (old v : Word) (k : Nat), k < 64 →
    ((csrRW n).getLsbD k = true → (csrW1C n).getLsbD k = false →
      (csrNew op n old v).getLsbD k = match op with
        | .write => v.getLsbD k
        | .set => old.getLsbD k || v.getLsbD k
        | .clear => old.getLsbD k && !v.getLsbD k)
    ∧ ((csrRW n).getLsbD k = false → (csrW1C n).getLsbD k = true →
      (csrNew op n old v).getLsbD k = match op with
        | .write => old.getLsbD k && !v.getLsbD k
        | .set => old.getLsbD k
        | .clear => old.getLsbD k && !v.getLsbD k)
    ∧ ((csrRW n).getLsbD k = false → (csrW1C n).getLsbD k = false → (csrNew op n old v).getLsbD k = old.getLsbD k))
  ∧ (∀ (n k : Nat), k < 64 →
    ((csrRW n).getLsbD k = true ↔
        (n = 0x008 ∧ (k < 54 ∨ k = 63)) ∨ n = 0x009 ∨ (n = 0x00A ∧ k < 16) ∨ n = 0x00B ∨ (n = 0x018 ∧ 8 ≤ k ∧ k < 16)
          ∨ (n = 0x020 ∧ k < 12) ∨ (n = 0x021 ∧ k < 6) ∨ (n = 0x022 ∧ k < 5))
      ∧ ((csrW1C n).getLsbD k = true ↔ (n = 0x018 ∧ k < 8) ∨ (n = 0x019 ∧ k < 2) ∨ (n = 0x021 ∧ k = 8)))
  ∧ (∀ (s : State) (n : Nat) (v : Word) (k : Nat), k < 64 → ((csrRW n).getLsbD k = true ∨ (csrW1C n).getLsbD k = true) →
    ((s.putCsr n v).csr n).getLsbD k = v.getLsbD k)
  ∧ ∀ (s : State) (n k : Nat), k < 64 →
    ((s.freshFlags n).getLsbD k = true ↔
      s.cur.setTick = s.z0 ∧ ((n = 0x018 ∧ k < 8 ∧ s.cur.setBits.getLsbD k = true)
        ∨ (n = 0x019 ∧ k < 2 ∧ s.cur.setBits.getLsbD (8 + k) = true)))

/-- What the CSRs of Table 3-4 read. MODE: the launch's LOCK, DET and FORCED bits. WORLD, EMASK, the trap registers, LTICK from the
launch's start tick (R18). VDIE: the virtual die's index, class and rebindings (Table 5-1). LCELL, LSTRAND: the strand's cell, and its
number over the launch. DMIX. CAPSS: the bytes of the cell's scratchpad, and bit 32 with a stacked store (Table 1-2). FLRET: the
retention, the guard and the tile size, zero on BD and SD (Table 10-1). ARITHFLAG, EXPFLAG. SEMBASE, SEMDEPTH with SOVF in bit 8,
SEMROT. PACE0 to PACE5 of the launch record. PINCNT: the pages that the cell's words pin, and the words that pin one (Table 9-3). -/
def Obligations.CsrValues : Prop :=
  (∀ s : State, (s.csr 0x000).toNat < 8 ∧ (s.csr 0x000).getLsbD 0 = s.launch.lock ∧ (s.csr 0x000).getLsbD 1 = s.launch.det
      ∧ (s.csr 0x000).getLsbD 2 = s.launch.forced ∧ s.csr 0x001 = (if s.launch.secure then 1 else 0)
      ∧ (∀ f, s.fw = some f → s.csr 0x002 = f.emask))
  ∧ (∀ s : State, s.csr 0x008 = s.cur.tvec ∧ s.csr 0x009 = s.cur.tpc ∧ s.csr 0x00A = s.cur.tcause.setWidth 64
      ∧ s.csr 0x00B = s.cur.tval ∧ s.csr 0x010 = BitVec.ofNat 64 (s.z0 - s.launch.l0))
  ∧ (∀ s : State, s.cur.vdie < 32 → s.vd.bindGen < 256 →
      ((s.csr 0x011).extractLsb' 0 5).toNat = s.cur.vdie ∧ ((s.csr 0x011).extractLsb' 16 8).toNat = s.vd.bindGen
        ∧ ((s.csr 0x011).extractLsb' 8 3).toNat = (match s.vd.cls with | .md => 1 | .vd => 2 | .bd => 3 | .gd => 4 | .sd => 5)
        ∧ (s.csr 0x011).extractLsb' 5 3 = 0 ∧ (s.csr 0x011).extractLsb' 11 5 = 0 ∧ (s.csr 0x011).extractLsb' 24 40 = 0)
  ∧ (∀ s : State, s.csr 0x012 = BitVec.ofNat 64 s.cur.cell
      ∧ s.csr 0x013 = BitVec.ofNat 64 (((s.launch.vdies.take s.cur.vdie).map VDie.cells).sum + s.cur.cell) ∧ s.csr 0x014 = s.seenDmix)
  ∧ (∀ s : State, s.csr 0x015 = (match slotCls s.slotNo with
        | .bd | .sd => 0
        | _ => if s.seenDmix.getLsbD (ssBit s.slotNo) then 0x1_0030_0000 else 0x18_0000))
  ∧ (∀ s : State, s.csr 0x016 = (match s.vd.cls with | .bd | .sd => 0 | _ => 0x0C08_0010_0000))
  ∧ (∀ s : State, s.csr 0x018 = s.cur.arith.setWidth 64 ∧ s.csr 0x019 = s.cur.expf.setWidth 64
      ∧ s.csr 0x020 = s.cur.sembase.setWidth 64 ∧ (s.csr 0x021).extractLsb' 0 6 = s.cur.semdepth
      ∧ (s.csr 0x021).getLsbD 8 = s.cur.sovf ∧ (s.csr 0x021).extractLsb' 6 2 = 0 ∧ (s.csr 0x021).extractLsb' 9 55 = 0
      ∧ s.csr 0x022 = s.cur.semrot.setWidth 64)
  ∧ (∀ (s : State) (k : Nat), k < 6 → s.csr (0x028 + k) = BitVec.ofNat 64 (s.launch.pace.getD k 0))
  ∧ ∀ s : State, ((s.cur.queue ++ s.cur.running.map Running.word).map QWord.pins).sum < 2 ^ 14 →
      ((s.cur.queue ++ s.cur.running.map Running.word).filter fun w => w.pins != 0).length < 2 ^ 7 →
      ((s.csr 0x030).extractLsb' 0 14).toNat = ((s.cur.queue ++ s.cur.running.map Running.word).map QWord.pins).sum
        ∧ ((s.csr 0x030).extractLsb' 16 7).toNat
            = ((s.cur.queue ++ s.cur.running.map Running.word).filter fun w => w.pins != 0).length

/-! ### Control flow -/

/-- A conditional branch completes (R122): it transfers to PC + 6 × sext(OFF18) when its condition holds on the operands at
issue, and goes on to the next word otherwise. BRA, JAL, JALR and RET complete (R122 to R124): BRA and JAL transfer to PC + 6 × the
offset, JALR and RET to x[A] plus the immediate when that is word-aligned, and JAL and JALR leave PC + 6 in x[D]. JALR and RET to a
target that is not word-aligned raise a misalignment, and change no register. -/
def Obligations.BranchAndJumpWords : Prop :=
  (∀ (i : Instr) (r : BRow) (s : State), branchRow i = some r → Issues i { reads := [r.a.toNat, r.b.toNat] } s →
    exec i s = .next (
      if r.cond (s.started.rx r.a.toNat) (s.started.rx r.b.toNat) then
        s.started.transfer (holdOf i) (s.cur.pc + 6 * r.off.signExtend 64)
      else s.started.advance (holdOf i)))
  ∧ ((∀ (g : Ctl) (off : BitVec 18) (s : State), Issues (.bra g off) {} s →
    exec (.bra g off) s = .next (s.started.transfer (holdOf (.bra g off)) (s.cur.pc + 6 * off.signExtend 64)))
  ∧ (∀ (g : Ctl) (d : BitVec 6) (imm : BitVec 28) (s : State), Issues (.jal g d imm) { writes := [d.toNat] } s →
    exec (.jal g d imm) s = .next ((s.started.setX d.toNat (s.cur.pc + 6)).transfer (holdOf (.jal g d imm))
      (s.cur.pc + 6 * imm.signExtend 64)))
  ∧ (∀ (g : Ctl) (d a : BitVec 6) (imm : BitVec 20) (s : State),
    Issues (.jalr g d a imm) { reads := [a.toNat], writes := [d.toNat] } s →
    s.started.aligned (s.started.rx a.toNat + imm.signExtend 64) = true →
    exec (.jalr g d a imm) s = .next ((s.started.setX d.toNat (s.cur.pc + 6)).transfer (holdOf (.jalr g d a imm))
      (s.started.rx a.toNat + imm.signExtend 64)))
  ∧ ∀ (g : Ctl) (a : BitVec 6) (s : State), Issues (.ret g a) { reads := [a.toNat], writes := [0] } s →
    s.started.aligned (s.started.rx a.toNat) = true →
    exec (.ret g a) s = .next (s.started.transfer (holdOf (.ret g a)) (s.started.rx a.toNat)))
  ∧ ((∀ (g : Ctl) (d a : BitVec 6) (imm : BitVec 20) (s : State),
    Issues (.jalr g d a imm) { reads := [a.toNat], writes := [d.toNat] } s →
    s.started.aligned (s.started.rx a.toNat + imm.signExtend 64) = false →
    ∃ t, exec (.jalr g d a imm) s = .next t
      ∧ t = s.started.precise Cause.misaligned (s.started.rx a.toNat + imm.signExtend 64) ∧ SameRegs [] [] [] [] s t)
  ∧ ∀ (g : Ctl) (a : BitVec 6) (s : State), Issues (.ret g a) { reads := [a.toNat], writes := [0] } s →
    s.started.aligned (s.started.rx a.toNat) = false →
    ∃ t, exec (.ret g a) s = .next t ∧ t = s.started.precise Cause.misaligned (s.started.rx a.toNat)
      ∧ SameRegs [] [] [] [] s t)

/-- NOP completes and only advances (R126). LOOP completes (R127): a count of 0 passes over the body; otherwise the body is pushed
with its count, when fewer than two entries stand and the last word is no prefix; LOOP on a full stack, or with a prefix as the last word
of its body, is an illegal word. Passing over is sequential flow over the body, each word as if its guard were false: an entry that ends
within the body goes back while it has repetitions left, and is popped otherwise; a matrix word clears the chain latch (R183); a word
that cannot be fetched (R93) or that the checks of R52 turn down traps. The next unit's slot follows the LOOP word.
How the body is passed over is the model's reading (notes/assumptions/9.md). -/
def Obligations.NopAndLoop : Prop :=
  (∀ (g : Ctl) (s : State), Issues (.nop g) {} s → exec (.nop g) s = .next (s.started.advance (holdOf (.nop g))))
  ∧ (∀ (g : Ctl) (n a : BitVec 6) (s : State), Issues (.loop g n a) { reads := [a.toNat] } s →
    s.started.rx a.toNat = 0 →
    (∀ k, k ≤ n.toNat → ∃ w i, s.started.fetchWord (s.cur.pc + 6 * BitVec.ofNat 64 (k + 1)) = some w ∧ isPrefixWord w = false
      ∧ s.started.fetchFails (s.cur.pc + 6 * BitVec.ofNat 64 (k + 1)) = none ∧ decode w = .ok i ∧ i.wf = true ∧ unitPresent s.vd.cls w = true ∧ fitsClass s.vd.cls i = true) →
    ((∀ e r, s.cur.loops = e :: r → ∀ k, k ≤ n.toNat + 1 → e.last ≠ s.cur.pc + 6 * BitVec.ofNat 64 k) →
      ∃ t, exec (.loop g n a) s = .next t ∧ t.cur.pc = s.cur.pc + 6 * BitVec.ofNat 64 (n.toNat + 2) ∧ t.cur.loops = s.cur.loops
        ∧ t.cur.status = .running ∧ t.cur.pfx = none ∧ t.cur.slot = s.z0 + 1 + (if s.sched then holdOf (.loop g n a) else 0)
        ∧ (∀ k w i, k ≤ n.toNat → s.started.fetchWord (s.cur.pc + 6 * BitVec.ofNat 64 (k + 1)) = some w → decode w = .ok i →
            0x20 ≤ majOf i → majOf i ≤ 0x23 → t.cur.chain = none)
        ∧ SameRegs [] [] [] [] s t ∧ SameMem (fun _ => False) s t)
    ∧ (∀ e j, s.cur.loops = [e] → j ≤ n.toNat → e.last = s.cur.pc + 6 * BitVec.ofNat 64 (j + 1) → e.remaining ≤ 1 →
      ∃ t, exec (.loop g n a) s = .next t ∧ t.cur.pc = s.cur.pc + 6 * BitVec.ofNat 64 (n.toNat + 2) ∧ t.cur.loops = [])
    ∧ ∀ e r j, s.cur.loops = e :: r → j ≤ n.toNat → e.last = s.cur.pc + 6 * BitVec.ofNat 64 (j + 1) → 1 < e.remaining →
      e.first ≠ e.last + 6 →
      ∃ t, exec (.loop g n a) s = .next t ∧ t.cur.pc = e.first ∧ t.cur.loops = { e with remaining := e.remaining - 1 } :: r
        ∧ t.cur.slot = s.z0 + 1 + (if s.sched then holdOf (.loop g n a) else 0)
        ∧ SameRegs [] [] [] [] s t ∧ SameMem (fun _ => False) s t)
  ∧ (∀ (g : Ctl) (n a : BitVec 6) (c : Nat) (v : Word) (s : State),
    Issues (.loop g n a) { reads := [a.toNat] } s → s.started.rx a.toNat = 0 → s.cur.loops = [] →
    (s.started.fetchFails (s.cur.pc + 6) = some (c, v)
      ∨ s.started.fetchFails (s.cur.pc + 6) = none ∧ ∃ w, s.started.fetchWord (s.cur.pc + 6) = some w ∧ isPrefixWord w = false
          ∧ (s.started.modCur fun c => { c with pfx := none }).unitFault w = some (c, v)) →
    ∃ u, exec (.loop g n a) s = .next (takeTrap { code := c, tval := v, tpc := some (s.cur.pc + 6) } u)
      ∧ u.cur.pc = s.cur.pc + 6 ∧ SameRegs [] [] [] [] s u ∧ SameMem (fun _ => False) s u ∧ SameTrap s u)
  ∧ (∀ (g : Ctl) (n a : BitVec 6) (s : State), Issues (.loop g n a) { reads := [a.toNat] } s →
    s.started.rx a.toNat ≠ 0 → s.cur.loops.length < 2 →
    (s.started.fetchWord (s.cur.pc + 6 * BitVec.ofNat 64 (n.toNat + 1))).any isPrefixWord = false →
    ∃ t, exec (.loop g n a) s = .next t ∧ t.cur.pc = s.cur.pc + 6
      ∧ t.cur.loops = { first := s.cur.pc + 6, last := s.cur.pc + 6 * BitVec.ofNat 64 (n.toNat + 1)
                        remaining := (s.started.rx a.toNat).toNat } :: s.cur.loops
      ∧ SameRegs [] [] [] [] s t ∧ SameMem (fun _ => False) s t)
  ∧ (∀ (g : Ctl) (n a : BitVec 6) (s : State), Issues (.loop g n a) { reads := [a.toNat] } s →
    s.started.rx a.toNat ≠ 0 → s.cur.loops.length = 2 →
    exec (.loop g n a) s = .next (s.started.precise Cause.illegal (0#16 ++ encode (.loop g n a))))
  ∧ ∀ (g : Ctl) (n a : BitVec 6) (w : BitVec 48) (s : State), Issues (.loop g n a) { reads := [a.toNat] } s →
    s.started.rx a.toNat ≠ 0 → s.started.fetchWord (s.cur.pc + 6 * BitVec.ofNat 64 (n.toNat + 1)) = some w → isPrefixWord w = true →
    exec (.loop g n a) s = .next (s.started.precise Cause.illegal (0#16 ++ encode (.loop g n a)))

/-- END ends the strand and HALT stops it (R128, R129): the sequencer issues nothing further. Its registers, the CSRs of Table 3-4,
its queues, running words, outstanding operations and loops, memory and the trap registers stay, so that what is outstanding still
completes, and HALT's x[A] is the value that its die's late event carries. -/
def Obligations.EndAndHalt : Prop :=
  (∀ (g : Ctl) (s : State), Issues (.endStrand g) {} s →
    ∃ t, exec (.endStrand g) s = .next t ∧ t.cur.status = .ended ∧ SameRegs [] [] [] [] s t
      ∧ t.cur.queue = s.cur.queue ∧ t.cur.running = s.cur.running ∧ t.cur.pend = s.cur.pend ∧ t.cur.loops = s.cur.loops
      ∧ SameMem (fun _ => False) s t ∧ SameTrap s t)
  ∧ ∀ (g : Ctl) (a : BitVec 6) (s : State), Issues (.halt g a) { reads := [a.toNat] } s →
    ∃ t, exec (.halt g a) s = .next t ∧ t.cur.status = .stopped ∧ SameRegs [] [] [] [] s t ∧ SameMem (fun _ => False) s t
      ∧ t.cur.queue = s.cur.queue ∧ t.cur.running = s.cur.running ∧ t.cur.pend = s.cur.pend ∧ t.cur.loops = s.cur.loops
      ∧ SameTrap s t
      ∧ (∀ l, s.started.launchOf s.cur.prio = some l → (∀ e ∈ l.lates, e.vdie ≠ s.cur.vdie) →
          ∃ l' e, t.launchOf s.cur.prio = some l' ∧ e ∈ l'.lates ∧ e.vdie = s.cur.vdie ∧ e.cause = 0x12
            ∧ e.detail = s.started.rx a.toNat ∧ e.tick = s.z0)

/-! ### Traps -/

/-- TRAP raises the software trap (R130): its cause is 0x0E, TPC is the address after the word and TVAL is its code. When it has a
handler and nothing is outstanding, the handler runs with these, the loop stack saved and emptied. In SCHED mode the die is late. -/
def Obligations.TrapWord : Prop :=
  (∀ (g : Ctl) (code : BitVec 12) (s : State), Issues (.trap g code) {} s →
    exec (.trap g code) s = .next (takeTrap { code := 0x0E, tval := 0#52 ++ code, tpc := some (s.cur.pc + 6) } s.started))
  ∧ (∀ (g : Ctl) (code : BitVec 12) (s : State), Issues (.trap g code) {} s → s.cur.drained = true →
    s.unhandled { code := 0x0E, tval := 0#52 ++ code, tpc := some (s.cur.pc + 6) } = false →
    ∃ t, exec (.trap g code) s = .next t ∧ t.cur.pc = s.cur.handler ∧ t.cur.tpc = s.cur.pc + 6 ∧ t.cur.tval = 0#52 ++ code
      ∧ t.cur.tcause.extractLsb' 0 8 = 0x0E ∧ t.cur.savedLoops = s.cur.loops ∧ t.cur.loops = []
      ∧ SameRegs [] [] [] [] s t ∧ SameMem (fun _ => False) s t)
  ∧ ∀ (g : Ctl) (code : BitVec 12) (l : Launch) (s : State), Issues (.trap g code) {} s → s.sched = true →
    s.launchOf s.cur.prio = some l →
    ∃ t l', exec (.trap g code) s = .next t ∧ t.launchOf s.cur.prio = some l' ∧ ∃ e ∈ l'.lates, e.vdie = s.cur.vdie

/-- Taking a trap (R306, R308). One that has a handler, with nothing outstanding: TPC, TCAUSE with HND set, and TVAL are written, the loop
stack is saved and emptied, and the strand goes to TVEC.ADDR with its first unit four ticks on; with something outstanding it waits for
that first, and nothing else of the strand changes. One that enters no handler stops the strand: TVEC.EN 0, HND 1, a handler address
that is not word-aligned, and a world violation of a non-secure strand each make it so; its registers are written all the same, with
TVAL 0 for that world violation, unless END or HALT has issued. TRAP_ENTRY (R306, R321): a strand that was draining enters its handler
once nothing is outstanding, and a running strand takes the first asynchronous cause that waits, with ASYNC set and TPC the next
unit's address. No other register and no memory changes in any of these.
What an unhandled trap writes is the model's reading (notes/assumptions/10.md). -/
def Obligations.TrapEntry : Prop :=
  (∀ (tr : TrapRec) (s : State), s.unhandled tr = false → s.cur.drained = true →
    (takeTrap tr s).cur.status = .running ∧ (takeTrap tr s).cur.pc = s.cur.handler
      ∧ (takeTrap tr s).cur.slot = s.z0 + 4
      ∧ (takeTrap tr s).cur.tpc = tr.tpc.getD s.cur.unitPc
      ∧ (takeTrap tr s).cur.tval = tr.tval
      ∧ ((takeTrap tr s).cur.tcause.extractLsb' 0 8).toNat = tr.code % 256
      ∧ (takeTrap tr s).cur.tcause.getLsbD 15 = true
      ∧ (takeTrap tr s).cur.tcause.getLsbD 14 = tr.tpc.isNone
      ∧ (takeTrap tr s).cur.savedLoops = s.cur.loops ∧ (takeTrap tr s).cur.loops = []
      ∧ (takeTrap tr s).cur.tvec = s.cur.tvec
      ∧ SameRegs [] [] [] [] s (takeTrap tr s) ∧ SameMem (fun _ => False) s (takeTrap tr s))
  ∧ (∀ (tr : TrapRec) (s : State), s.unhandled tr = false → s.cur.drained = false →
    (takeTrap tr s).cur = { s.cur with status := .trapping, trap := some tr } ∧ SameMem (fun _ => False) s (takeTrap tr s))
  ∧ (∀ (tr : TrapRec) (s : State),
    (s.unhandled tr = true ↔
      s.cur.tvec.getLsbD 63 = false ∨ s.cur.tcause.getLsbD 15 = true ∨ s.aligned s.cur.handler = false
        ∨ s.cur.status = .ended ∨ s.cur.status = .stopped ∨ (tr.code = 0x08 ∧ s.launch.secure = false)))
  ∧ (∀ (tr : TrapRec) (s : State), s.unhandled tr = true →
    (takeTrap tr s).cur.status = .stopped ∧ (takeTrap tr s).cur.tvec = s.cur.tvec ∧ SameRegs [] [] [] [] s (takeTrap tr s)
      ∧ SameMem (fun _ => False) s (takeTrap tr s)
      ∧ (s.cur.status = .ended ∨ s.cur.status = .stopped → SameTrap s (takeTrap tr s))
      ∧ (s.cur.status ≠ .ended → s.cur.status ≠ .stopped →
          (takeTrap tr s).cur.tpc = tr.tpc.getD s.cur.unitPc
            ∧ (takeTrap tr s).cur.tval = (if tr.code = 0x08 ∧ s.launch.secure = false then 0 else tr.tval)
            ∧ ((takeTrap tr s).cur.tcause.extractLsb' 0 8).toNat = tr.code % 256
            ∧ (takeTrap tr s).cur.tcause.getLsbD 15 = true ∧ (takeTrap tr s).cur.tcause.getLsbD 14 = tr.tpc.isNone
            ∧ (takeTrap tr s).cur.savedLoops = s.cur.loops ∧ (takeTrap tr s).cur.loops = []))
  ∧ (∀ (s : State) (tr : TrapRec), s.cur.status = .trapping → s.cur.trap = some tr → s.cur.drained = true →
    exec .trapEntry s = .next (enterTrap tr s))
  ∧ (∀ (s : State) (tr : TrapRec) (r : List TrapRec), s.cur.status = .running → s.cur.asyncs = tr :: r → s.cur.drained = true →
    s.unhandled tr = false → tr.tpc = none →
    ∃ t, exec .trapEntry s = .next t ∧ t.cur.asyncs = r ∧ t.cur.pc = s.cur.handler ∧ t.cur.tpc = s.cur.unitPc
      ∧ t.cur.tval = tr.tval ∧ t.cur.tcause.getLsbD 14 = true ∧ t.cur.tcause.getLsbD 15 = true
      ∧ SameRegs [] [] [] [] s t ∧ SameMem (fun _ => False) s t)
  ∧ ∀ (s : State) (tr : TrapRec) (r : List TrapRec), s.cur.status = .running → s.cur.asyncs = tr :: r → s.unhandled tr = true →
    tr.tpc = none →
    ∃ t, exec .trapEntry s = .next t ∧ t.cur.status = .stopped ∧ t.cur.tpc = s.cur.unitPc
      ∧ t.cur.tval = (if tr.code = 0x08 ∧ s.launch.secure = false then 0 else tr.tval)
      ∧ t.cur.tcause.getLsbD 14 = true ∧ t.cur.tcause.getLsbD 15 = true
      ∧ SameRegs [] [] [] [] s t ∧ SameMem (fun _ => False) s t

/-- ERET completes when TPC is word-aligned (R131, R307): the loop stack is the saved one, HND is 0 and the rest of TCAUSE stays, the
strand is at TPC at the repetition that TCAUSE holds, and its slot is the issue tick + 1 + HOLD. A TPC that is not word-aligned
raises a misalignment. Entering any trap saves the loop stack, whatever was saved before, and empties it. Returning undoes entering:
after a trap with a precise TPC is entered and left at once, the strand is at the trap's TPC with the loop stack it had, HND 0, and
every register and all memory as before. -/
def Obligations.EretWord : Prop :=
  ((∀ (g : Ctl) (s : State), Issues (.eret g) {} s → s.started.aligned s.cur.tpc = true →
    ∃ t, exec (.eret g) s = .next t ∧ t.cur.pc = s.cur.tpc ∧ t.cur.loops = s.cur.savedLoops
      ∧ t.cur.tcause.getLsbD 15 = false ∧ t.cur.tcause.extractLsb' 0 15 = s.cur.tcause.extractLsb' 0 15
      ∧ t.cur.rep = (s.cur.tcause.extractLsb' 8 6).toNat
      ∧ t.cur.slot = s.z0 + 1 + (if s.sched then holdOf (.eret g) else 0)
      ∧ t.cur.tpc = s.cur.tpc ∧ t.cur.tval = s.cur.tval ∧ t.cur.tvec = s.cur.tvec
      ∧ SameRegs [] [] [] [] s t ∧ SameMem (fun _ => False) s t)
  ∧ ∀ (g : Ctl) (s : State), Issues (.eret g) {} s → s.started.aligned s.cur.tpc = false →
    exec (.eret g) s = .next (s.started.precise Cause.misaligned s.cur.tpc))
  ∧ (∀ (tr : TrapRec) (s : State),
    (enterTrap tr s).cur.savedLoops = s.cur.loops ∧ (enterTrap tr s).cur.loops = []
      ∧ (enterTrap tr s).cur.tpc = tr.tpc.getD s.cur.unitPc)
  ∧ (∀ (tr : TrapRec) (s : State) (pc : Word), tr.tpc = some pc → tr.rep < 64 →
    (returnFromTrap 0 (enterTrap tr s)).cur.pc = pc ∧ (returnFromTrap 0 (enterTrap tr s)).cur.loops = s.cur.loops
      ∧ (returnFromTrap 0 (enterTrap tr s)).cur.rep = tr.rep
      ∧ (returnFromTrap 0 (enterTrap tr s)).cur.hnd = false
      ∧ SameRegs [] [] [] [] s (returnFromTrap 0 (enterTrap tr s))
      ∧ SameMem (fun _ => False) s (returnFromTrap 0 (enterTrap tr s)))

/-- AT and RPT complete, in every running strand and whatever the fields hold (R54 to R56): a prefix joins the unit being issued, takes
no slot of its own, and goes on to the next word. AT alone sets the unit's target, base + IMM28; RPT alone or after an AT gives the
unit its count and its steps. A second AT, AT after RPT, or a second RPT makes the unit an illegal word, reported with the unit's
first word when the word that the prefixes govern issues.
Where the manual leaves a point of it open, it states the model's choice (notes/assumptions/9.md). -/
def Obligations.PrefixWords : Prop :=
  (∀ (imm : BitVec 28) (s : State), s.cur.status = .running →
    ∃ t p, exec (.atTick imm) s = .next t ∧ t.cur.pc = s.cur.pc + 6 ∧ t.cur.slot = s.cur.slot ∧ t.cur.status = .running
      ∧ t.cur.pfx = some p ∧ p.first = s.cur.unitPc ∧ SameRegs [] [] [] [] s t ∧ SameMem (fun _ => False) s t ∧ SameTrap s t
      ∧ (s.cur.pfx = none → p.bad = false ∧ p.rpt = none ∧ p.word = encode (.atTick imm)
          ∧ t.atTarget = some (s.launch.l0 + s.launch.base + imm.toNat))
      ∧ (s.cur.pfx ≠ none → p.bad = true))
  ∧ (∀ (c : BitVec 6) (d a b : BitVec 3) (s : State), s.cur.status = .running →
    ∃ t p, exec (.rpt c d a b) s = .next t ∧ t.cur.pc = s.cur.pc + 6 ∧ t.cur.slot = s.cur.slot ∧ t.cur.status = .running
      ∧ t.cur.pfx = some p ∧ p.first = s.cur.unitPc ∧ t.cur.rep = s.cur.rep ∧ SameRegs [] [] [] [] s t
      ∧ SameMem (fun _ => False) s t ∧ SameTrap s t
      ∧ (s.cur.pfx = none → p.bad = false ∧ p.atTick = none ∧ p.rpt = some ⟨c, d, a, b⟩ ∧ p.word = encode (.rpt c d a b))
      ∧ (∀ o, s.cur.pfx = some o → o.rpt = none → p.bad = o.bad ∧ p.rpt = some ⟨c, d, a, b⟩ ∧ p.word = o.word
          ∧ (s.cur.rep = 0 → p.atTick = o.atTick))
      ∧ (∀ o, s.cur.pfx = some o → o.rpt ≠ none → p.bad = true))
  ∧ ∀ (i : Instr) (s : State) (p : Pfx), i.isEvent = false → isPrefixUnit i = false → s.cur.status = .running →
    unitPresent s.vd.cls (encode i) = true → s.cur.pfx = some p → p.bad = true →
    ∃ rep, exec i s =
      .next (takeTrap { code := Cause.illegal, tval := 0#16 ++ p.word, tpc := some p.first, rep := rep } s.begun)

/-! ### Handles, ports and semaphores -/

/-- HSET, HADD, HCPY and HCLR complete: h[D] receives the record of R175. A field of a record keeps what HSET puts into it, and every
other field keeps its value (Table 11-2). -/
def Obligations.HandleWords : Prop :=
  (∀ (i : Instr) (r : HRow) (s : State), handleRow i = some r → Issues i r.use s →
    exec i s = .next ((s.started.setH r.d.toNat (r.val s.started)).advance (holdOf i)))
  ∧ (∀ (h : HRec) (f g v : Nat), f < 12 → g < 12 →
    hGet (hSet h f v) g = if g = f then v % 2 ^ (hField f).2 else hGet h g)

/-- The port words complete (R177): PBIND binds q[D] to the record of h[A] at its first vector, PUNBIND unbinds it, PSAVE starts
to write the port's image and leaves the port as it is, and PREST starts to read one while the strand issues nothing: the 64 bytes at
the handle's base, or zeros and a bus error where no die answers. When the bytes have been read the port is what they describe, or they
are no image and PREST is an illegal word that has changed nothing. A port image
restores the port it was made of, and the image of an unbound port restores an unbound one (R178). -/
def Obligations.PortWords : Prop :=
  (∀ (t : TCtl) (d a : BitVec 4) (sw sr : Option Nat) (s v : State), Issues (.pbind t d a) { reads := [regH a.toNat] } s →
    Granted (.pbind t d a) t sw sr s v → hBad (s.started.rh a.toNat) = false → hNV (s.started.rh a.toNat) ≠ 0 →
    s.started.portBusy d.toNat = false →
    ∃ u, exec (.pbind t d a) s = .next u ∧ u.getQ d.toNat = { hrec := s.started.rh a.toNat, vidx := 0, bound := true }
      ∧ (∃ o ∈ u.cur.pend, o.act = .port ∧ o.port = some d.toNat ∧ o.sem = sr ∧ o.due = s.z0 + 1)
      ∧ SameRegs [] [] [] [d.toNat] v u ∧ SameMem (fun _ => False) v u)
  ∧ (∀ (t : TCtl) (d : BitVec 4) (sw sr : Option Nat) (s v : State), Issues (.punbind t d) {} s →
    Granted (.punbind t d) t sw sr s v → s.started.portBusy d.toNat = false →
    ∃ u, exec (.punbind t d) s = .next u ∧ u.getQ d.toNat = {}
      ∧ (∃ o ∈ u.cur.pend, o.act = .port ∧ o.port = some d.toNat ∧ o.sem = sr ∧ o.due = s.z0 + 1)
      ∧ SameRegs [] [] [] [d.toNat] v u ∧ SameMem (fun _ => False) v u)
  ∧ (∀ (t : TCtl) (d a : BitVec 4) (sw sr : Option Nat) (acc : Acc) (s v : State),
    Issues (.psave t d a) { reads := [regH a.toNat], sw := true } s → Granted (.psave t d a) t sw sr s v →
    hBad (s.started.rh a.toNat) = false → imageCheck a { wr := true } (.psave t d a) s.started = none →
    s.started.portBusy d.toNat = false → (imageSo a { wr := true } s.started && s.started.soPending) = false →
    v.imageAcc (v.rh a.toNat) { wr := true } = .ok acc →
    ∃ u, exec (.psave t d a) s = .next u
      ∧ (∃ o ∈ u.cur.pend, o.act = .store acc (portImage (v.getQ d.toNat)) (BitVec.ofNat 64 (hBase (v.rh a.toNat)))
          ∧ o.port = some d.toNat ∧ o.sem = sr)
      ∧ SameRegs [] [] [] [] v u ∧ SameMem (fun _ => False) v u)
  ∧ (∀ (t : TCtl) (d a : BitVec 4) (sw sr : Option Nat) (acc : Acc) (s v : State),
    Issues (.prest t d a) { reads := [regH a.toNat], sr := true } s → Granted (.prest t d a) t sw sr s v →
    hBad (s.started.rh a.toNat) = false → imageCheck a { rd := true } (.prest t d a) s.started = none →
    s.started.portBusy d.toNat = false → (imageSo a { rd := true } s.started && s.started.soPending) = false →
    v.imageAcc (v.rh a.toNat) { rd := true } = .ok acc →
    ∃ u, exec (.prest t d a) s = .next u ∧ u.cur.status = .restoring
      ∧ (∃ o ∈ u.cur.pend, o.port = some d.toNat ∧ o.sem = sr
          ∧ o.act = if acc.answers = true then
              .sample (.port d.toNat (encode (.prest t d a))) acc 64 (v.z0 + v.scalarBound acc.phys)
                (BitVec.ofNat 64 (hBase (v.rh a.toNat)))
            else .loaded (.port d.toNat (encode (.prest t d a))) (List.replicate 64 0) true
              (BitVec.ofNat 64 (hBase (v.rh a.toNat))))
      ∧ SameRegs [] [] [] [] v u ∧ SameMem (fun _ => False) v u)
  ∧ (∀ (p : PendOp) (q : Nat) (w : BitVec 48) (bytes : List Byte) (ea : Word) (s : State),
    s.cur.pend.find? s.pendReady = some p → p.act = .loaded (.port q w) bytes false ea → q < 16 →
    (∀ pt, imagePort bytes = some pt →
        ∃ u, exec .scalarAccessCompletion s = .next u ∧ u.getQ q = pt ∧ u.cur.status = .running
          ∧ (∀ k, p.sem = some k → ∃ o ∈ u.cur.pend, o.act = .raise k 1 ∧ o.due = s.z0)
          ∧ SameRegs [] [] [] [q] s u ∧ SameMem (fun _ => False) s u)
      ∧ (imagePort bytes = none →
          ∃ u rep, exec .scalarAccessCompletion s =
              .next (takeTrap { code := Cause.illegal, tval := 0#16 ++ w, tpc := some s.cur.unitPc, rep := rep } u)
            ∧ (∀ o ∈ u.cur.pend, o.seq ≠ p.seq) ∧ SameRegs [] [] [] [] s u ∧ SameMem (fun _ => False) s u))
  ∧ (∀ p : Port, p.bound = true → hBad p.hrec = false → p.vidx < hNV p.hrec → imagePort (portImage p) = some p)
  ∧ ∀ p : Port, p.bound = false → imagePort (portImage p) = some {}

/-- The semaphore words complete: SEMINIT sets a count two ticks on at the earliest (R132), SEMWAIT consumes its await and writes 0
to p[D] and SEMPOST adds n two ticks on (R134), SEMROT rotates ROT by k when DEPTH is 1 to 32, and words already issued keep what they
name (R135), and SEMTEST writes its comparison two ticks on and traps in DET mode (R136). The fields SW and SR name what R48 says, by the CSRs of the
moment: a rotating field while DEPTH is 0 or above 32 is an illegal word, a semaphore outside the allocation a privilege violation, SW
before SR.
Where SEMTEST's trap of DET mode stands among the others is the model's reading (notes/assumptions/9.md). -/
def Obligations.SemaphoreWords : Prop :=
  (∀ (t : TCtl) (n : BitVec 16) (sw sr : Option Nat) (s v : State), Issues (.seminit t n) {} s →
    Granted (.seminit t n) t sw sr s v →
    ∃ u, exec (.seminit t n) s = .next u
      ∧ (∃ o ∈ u.cur.pend, o.act = .seminit (sr.getD 0) n.toNat ∧ o.due = s.z0 + 2)
      ∧ SameRegs [] [] [] [] v u ∧ SameMem (fun _ => False) v u)
  ∧ (∀ (t : TCtl) (d : BitVec 4) (sw sr : Option Nat) (s v : State), Issues (.semwait t d) { writes := [regP d.toNat] } s →
    Granted (.semwait t d) t sw sr s v →
    ∃ u, exec (.semwait t d) s = .next u ∧ (d.toNat ≠ 0 → d.toNat < 8 → u.getP d.toNat = false)
      ∧ (∀ k, sr = some k → ∃ o ∈ u.cur.pend, o.act = .raise k 1 ∧ o.due = s.z0 + 1)
      ∧ SameRegs [] [d.toNat] [] [] v u ∧ SameMem (fun _ => False) v u)
  ∧ (∀ (t : TCtl) (n : BitVec 16) (sw : Option Nat) (k : Nat) (s v : State), Issues (.sempost t n) {} s →
    Granted (.sempost t n) t sw (some k) s v →
    ∃ u, exec (.sempost t n) s = .next u ∧ (∃ o ∈ u.cur.pend, o.act = .raise k n.toNat ∧ o.due = s.z0 + 2)
      ∧ SameRegs [] [] [] [] v u ∧ SameMem (fun _ => False) v u)
  ∧ (∀ (t : TCtl) (k : BitVec 5) (s : State), Issues (.semrot t k) {} s →
    ∃ u, exec (.semrot t k) s = .next u
      ∧ u.cur.semrot.toNat = (if 1 ≤ s.cur.semdepth.toNat ∧ s.cur.semdepth.toNat ≤ 32
          then (s.cur.semrot.toNat + k.toNat) % s.cur.semdepth.toNat else s.cur.semrot.toNat)
      ∧ u.cur.sembase = s.cur.sembase ∧ u.cur.semdepth = s.cur.semdepth ∧ u.cur.sovf = s.cur.sovf
      ∧ u.cur.queue = s.cur.queue ∧ u.cur.running = s.cur.running ∧ u.cur.pend = s.cur.pend
      ∧ (∀ j, u.getX j = s.getX j) ∧ u.cur.p = s.cur.p ∧ SameMem (fun _ => False) s u)
  ∧ (∀ (t : TCtl) (d : BitVec 4) (n : BitVec 12) (sw sr : Option Nat) (s : State),
    Issues (.semtest t d n) { writes := [regP d.toNat] } s →
    s.started.semFields t (encode (.semtest t d n)) = .ok (sw, sr) → s.launch.det = false →
    ∃ u, exec (.semtest t d n) s = .next u
      ∧ (∃ o ∈ u.cur.pend, o.act = .test d.toNat (sr.getD 0) n.toNat ∧ o.due = s.z0 + 2)
      ∧ SameRegs [] [] [] [] s u ∧ SameMem (fun _ => False) s u)
  ∧ (∀ (t : TCtl) (d : BitVec 4) (n : BitVec 12) (sw sr : Option Nat) (s : State),
    Issues (.semtest t d n) { writes := [regP d.toNat] } s →
    s.started.semFields t (encode (.semtest t d n)) = .ok (sw, sr) → s.launch.det = true →
    exec (.semtest t d n) s = .next (s.started.precise Cause.detAtomic s.cur.pc))
  ∧ (∀ (i : Instr) (t : TCtl) (d : BitVec 4) (m : BitVec 16) (n : BitVec 12) (use : Use) (c : Nat) (v : Word) (s : State),
    (i = .seminit t m ∧ use = {} ∨ i = .semwait t d ∧ use = { writes := [regP d.toNat] } ∨ i = .sempost t m ∧ use = {}
      ∨ i = .semtest t d n ∧ use = { writes := [regP d.toNat] }) →
    Issues i use s → s.started.semFields t (encode i) = .error (c, v) → exec i s = .next (s.started.precise c v))
  ∧ ∀ (t : TCtl) (w : BitVec 48) (s : State),
    ((32 ≤ t.sw.toNat ∨ 32 ≤ t.sr.toNat) ∧ (s.cur.semdepth.toNat = 0 ∨ 32 < s.cur.semdepth.toNat) →
        s.semFields t w = .error (0x00, 0#16 ++ w))
      ∧ ((t.sw.toNat < 32 ∧ t.sr.toNat < 32 ∨ 1 ≤ s.cur.semdepth.toNat ∧ s.cur.semdepth.toNat ≤ 32) →
          (∀ n, s.semNumber t.sw.toNat = some n → s.semOutside n → s.semFields t w = .error (Cause.privilege, BitVec.ofNat 64 n))
          ∧ ((∀ n, s.semNumber t.sw.toNat = some n → ¬ s.semOutside n) →
              (∀ n, s.semNumber t.sr.toNat = some n → s.semOutside n →
                s.semFields t w = .error (Cause.privilege, BitVec.ofNat 64 n))
              ∧ ((∀ n, s.semNumber t.sr.toNat = some n → ¬ s.semOutside n) →
                  s.semFields t w = .ok (s.semNumber t.sw.toNat, s.semNumber t.sr.toNat))))

/-- The counts of semaphores (R102, R133). A count is at most 65535. An await is granted exactly when the count is at least 1, and takes
1; with a count of 0 a SEMWAIT holds its strand. A raise adds its number, the count stays at 65535 when it would pass it, and SOVF of
the raising strand is set then. No other semaphore changes by an await or by a raise. At the end of a tick SEMTEST samples its count,
before what SEMINITs and raises do in it (R136); a SEMINIT sets the count to n, SEMINITs of one semaphore act in ascending LSTRAND,
and then the raises add (R133). A SEMINIT releases what waits for its semaphore: a SEMWAIT issues and writes 1, and the head of a queue awaits it no
longer and dispatches when nothing else holds it.
That the tick's end is where they meet is the model's form (notes/assumptions/8.md, 30.md). -/
def Obligations.SemaphoreCounts : Prop :=
  (∀ (s : State) (slot n : Nat), s.semCount slot n ≤ 0xFFFF)
  ∧ (∀ (s : State) (n : Nat), 1 ≤ s.semCount s.slotNo n →
    ∃ u, s.awaitSeq (some n) = some u ∧ u.semCount s.slotNo n = s.semCount s.slotNo n - 1
      ∧ (∀ slot k, n < 4096 → k < 4096 → (slot ≠ s.slotNo ∨ k ≠ n) → u.semCount slot k = s.semCount slot k)
      ∧ u.cur = s.cur)
  ∧ (∀ (s : State) (n : Nat), s.semCount s.slotNo n = 0 → s.awaitSeq (some n) = none)
  ∧ (∀ (t : TCtl) (d : BitVec 4) (n : Nat) (sr : Option Nat) (s : State), Issues (.semwait t d) { writes := [regP d.toNat] } s →
    s.started.semFields t (encode (.semwait t d)) = .ok (some n, sr) → s.started.semCount s.started.slotNo n = 0 →
    exec (.semwait t d) s = .next s.started.waitSince.stall)
  ∧ (∀ (s : State) (r : Raise), (applyRaise r s).semCount r.slot r.sem = min (s.semCount r.slot r.sem + r.n) 0xFFFF)
  ∧ (∀ (s : State) (r : Raise), s.cur.is r.prio r.vdie r.cell = true →
    ((applyRaise r s).cur.sovf = true ↔ s.cur.sovf = true ∨ 0xFFFF < s.semCount r.slot r.sem + r.n))
  ∧ (∀ (s : State) (r : Raise) (slot n : Nat), r.sem < 4096 → n < 4096 → (slot ≠ r.slot ∨ n ≠ r.sem) →
    (applyRaise r s).semCount slot n = s.semCount slot n)
  ∧ (∀ (s : State) (p : PendOp) (d sem n : Nat), p ∈ s.cur.pend → p.act = .test d sem n →
    s.sampleTests.mem = s.mem
      ∧ { p with act := .pred d (decide (n ≤ s.semCount (s.slotOf s.cur) sem)) } ∈ s.sampleTests.cur.pend
      ∧ ((∀ r ∈ s.raises, r.init = false) →
          { p with act := .pred d (decide (n ≤ s.semCount (s.slotOf s.cur) sem)) } ∈ s.endTick.cur.pend))
  ∧ (∀ (s : State) (r : Raise), r.n ≤ 0xFFFF → (applyInit r s).semCount r.slot r.sem = r.n)
  ∧ (∀ (s : State) (a b : Raise), s.raises = [a, b] ∨ s.raises = [b, a] → a.slot = b.slot → a.sem = b.sem → a.init = true →
    a.n ≤ 0xFFFF → b.n ≤ 0xFFFF →
    (b.init = false → s.settleSems.semCount a.slot a.sem = min (a.n + b.n) 0xFFFF)
      ∧ (b.init = true → a.prio = b.prio →
          lstrandOf (s.launchD a.prio) a.vdie a.cell < lstrandOf (s.launchD a.prio) b.vdie b.cell →
          s.settleSems.semCount a.slot a.sem = b.n))
  ∧ (∀ (t : TCtl) (d : BitVec 4) (sr : Option Nat) (who : Bool × Nat × Nat) (slot sem : Nat) (s T v : State),
    T = (s.focusWho who).setSem slot sem 1 → (s.focusWho who).waitsOn = some (sem, .semwait t d) →
    Issues (.semwait t d) { writes := [regP d.toNat] } T → Granted (.semwait t d) t (some sem) sr T v →
    (d.toNat ≠ 0 → d.toNat < 8 → (s.releaseUnit slot sem who).getP d.toNat = true)
      ∧ (∀ k, sr = some k → ∃ o ∈ (s.releaseUnit slot sem who).cur.pend, o.act = .raise k 1)
      ∧ SameRegs [] [d.toNat] [] [] v (s.releaseUnit slot sem who) ∧ SameMem (fun _ => False) v (s.releaseUnit slot sem who))
  ∧ ∀ (h : QWord) (who : Bool × Nat × Nat) (sem q : Nat) (s : State), (s.focusWho who).cur.headOf q = some h →
    h.since.isSome = true → h.sw = some sem →
    ∃ T, T.mem = s.mem ∧ T.cur.headOf q = some { h with sw := none }
      ∧ T.cur.queue.map QWord.seq = (s.focusWho who).cur.queue.map QWord.seq
      ∧ exec (.engineDispatch q) T = .next (s.releaseHead sem who q)

/-! ### Fences, rendezvous words, rails and atomics -/

/-- FENCE, SSEND, RDV and COMMIT complete. A fence stands until it completes, one tick on at the earliest, and does not hold issue
(R280, R294). SSEND ends the compute phase at its first issue (R300). RDV and COMMIT name base + tick, imply SSEND, and the strand
issues nothing further in the superstep (R297, R299). -/
def Obligations.FenceAndMeetWords : Prop :=
  (∀ (g : Ctl) (scope : BitVec 6) (pre suc : BitVec 10) (s : State), Issues (.fence g scope pre suc) {} s →
    ∃ u, exec (.fence g scope pre suc) s = .next u
      ∧ u.cur.fences = s.cur.fences ++ [{ seq := s.cur.seq, suc := suc, scope := scope.toNat }]
      ∧ (∃ o ∈ u.cur.pend, o.act = .fence pre ∧ o.seq = s.cur.seq ∧ o.due = s.z0 + 1)
      ∧ u.cur.status = .running ∧ SameRegs [] [] [] [] s u ∧ SameMem (fun _ => False) s u)
  ∧ (∀ (g : Ctl) (s : State), Issues (.ssend g) {} s →
    ∃ u, exec (.ssend g) s = .next u ∧ u.cur.ssend = some (s.cur.ssend.getD s.z0) ∧ u.cur.status = .running
      ∧ SameRegs [] [] [] [] s u ∧ SameMem (fun _ => False) s u)
  ∧ (∀ (g : Ctl) (tick : BitVec 24) (s : State), Issues (.rdv g tick) {} s →
    ∃ u, exec (.rdv g tick) s = .next u ∧ u.cur.status = .waiting
      ∧ u.cur.rdv = some (s.launch.base + tick.toNat, false, s.z0) ∧ u.cur.ssend = some (s.cur.ssend.getD s.z0)
      ∧ SameRegs [] [] [] [] s u ∧ SameMem (fun _ => False) s u)
  ∧ ∀ (g : Ctl) (tick : BitVec 24) (s : State), Issues (.commit g tick) {} s →
    ∃ u, exec (.commit g tick) s = .next u ∧ u.cur.status = .waiting
      ∧ u.cur.rdv = some (s.launch.base + tick.toNat, true, s.z0) ∧ u.cur.ssend = some (s.cur.ssend.getD s.z0)
      ∧ SameRegs [] [] [] [] s u ∧ SameMem (fun _ => False) s u

/-- BASK.PREF and MRAIL complete. BASK.PREF writes the bit of its own die class, and is an illegal word when the other bit is 1, whatever
its guard (R52, R336). MRAIL.UP requests the rail, whose step is due within 2048 ticks when it neither stands nor is due already; with
the request up already it changes nothing. MRAIL.DN takes the request back, at once when no K-step word before it is outstanding, and
else it waits among the strand's downs (R218).
The tick within the 2048 is a free value of the model (notes/assumptions/3.md). -/
def Obligations.PowerWords : Prop :=
  (∀ (g : Ctl) (mask : BitVec 2) (s : State), Issues (.baskPref g mask) {} s →
    ∃ u, exec (.baskPref g mask) s = .next u
      ∧ u.cur.bask = (if s.started.vd.cls = .md then mask.getLsbD 0 else mask.getLsbD 1)
      ∧ (∀ k, u.getX k = s.getX k) ∧ u.cur.p = s.cur.p ∧ u.cur.mmode = s.cur.mmode ∧ SameMem (fun _ => False) s u)
  ∧ (∀ (g : Ctl) (mask : BitVec 2) (s : State), s.cur.status = .running → s.cur.pfx = none →
    unitPresent s.vd.cls (encode (.baskPref g mask)) = true →
    (if s.vd.cls = .md then mask.getLsbD 1 else mask.getLsbD 0) = true →
    exec (.baskPref g mask) s = .next (takeTrap
      { code := Cause.illegal, tval := 0#16 ++ encode (.baskPref g mask), tpc := some s.cur.pc } s.begun))
  ∧ (∀ (g : Ctl) (s : State), Issues (.mrailUp g) {} s → s.cur.railReq = true →
    exec (.mrailUp g) s = .next (s.started.advance (holdOf (.mrailUp g)))
      ∧ (s.started.advance (holdOf (.mrailUp g))).power = s.power
      ∧ (s.started.advance (holdOf (.mrailUp g))).cur.railReq = true
      ∧ (s.started.advance (holdOf (.mrailUp g))).cur.railDn = s.cur.railDn)
  ∧ (∀ (g : Ctl) (s : State), Issues (.mrailUp g) {} s → s.cur.railReq = false → s.cur.out = false →
    ∃ u, exec (.mrailUp g) s = .next u ∧ u.cur.railReq = true
      ∧ (s.power.stands.contains (s.slotNo * 4 + s.cluster s.slotNo s.cur.cell) = false →
          sget 0 s.power.due (s.slotNo * 4 + s.cluster s.slotNo s.cur.cell) = 0 →
          s.z0 < sget 0 u.power.due (s.slotNo * 4 + s.cluster s.slotNo s.cur.cell)
            ∧ sget 0 u.power.due (s.slotNo * 4 + s.cluster s.slotNo s.cur.cell) ≤ s.z0 + 2048)
      ∧ (∀ k, u.getX k = s.getX k) ∧ u.cur.mmode = s.cur.mmode ∧ SameMem (fun _ => False) s u)
  ∧ (∀ (g : Ctl) (s : State), Issues (.mrailDn g) {} s → s.cur.kstepsBefore s.cur.seq = false →
    ∃ u, exec (.mrailDn g) s = .next u ∧ u.cur.railReq = false ∧ u.cur.railDn = s.cur.railDn
      ∧ (∀ k, u.getX k = s.getX k) ∧ SameMem (fun _ => False) s u)
  ∧ ∀ (g : Ctl) (s : State), Issues (.mrailDn g) {} s → s.cur.kstepsBefore s.cur.seq = true →
    ∃ u, exec (.mrailDn g) s = .next u ∧ u.cur.railReq = s.cur.railReq ∧ u.cur.railDn = s.cur.railDn ++ [s.cur.seq]
      ∧ (∀ k, u.getX k = s.getX k) ∧ SameMem (fun _ => False) s u

/-- An atomic word completes its issue (R290, R301): one that passes the checks of R115 and waits for no access is on its way to the
sync engine of its page's die. In DET mode a value-returning or floating-point form traps (R291), and a failed check traps with EA.
On every path that gives a next state, issuing an atomic changes no register, no flag and no byte of memory. -/
def Obligations.AtomicWords : Prop :=
  (∀ (i : Instr) (f : AtomForm) (acc : Acc) (s : State), atomRow i = some f → Issues i f.uses s →
    (s.launch.det && (f.takes || atomFp f.op f.takes)) = false →
    s.started.checkEA atomNeed (2 ^ f.sz.toNat) (s.started.rx f.a.toNat + f.imm.signExtend 64) = .ok acc →
    (acc.so && s.started.soPending) = false → acc.answers = true →
    ∃ u, exec i s = .next u
      ∧ u.atoms = s.atoms ++ [s.started.atomOf f acc]
      ∧ (∃ o ∈ u.cur.pend, o.seq = s.cur.seq ∧ o.act = .atomic ∧ o.sr = true ∧ o.sw = true))
  ∧ (∀ (i : Instr) (f : AtomForm) (s : State), atomRow i = some f → Issues i f.uses s →
    s.launch.det = true → (f.takes || atomFp f.op f.takes) = true →
    exec i s = .next (s.started.precise Cause.detAtomic s.cur.pc))
  ∧ (∀ (i : Instr) (f : AtomForm) (c : Nat) (s : State), atomRow i = some f → Issues i f.uses s →
    (s.launch.det && (f.takes || atomFp f.op f.takes)) = false →
    s.started.checkEA atomNeed (2 ^ f.sz.toNat) (s.started.rx f.a.toNat + f.imm.signExtend 64) = .error c →
    exec i s = .next (s.started.precise c (s.started.rx f.a.toNat + f.imm.signExtend 64)))
  ∧ ∀ (i : Instr) (f : AtomForm) (s u : State), atomRow i = some f → exec i s = .next u →
    SameRegs [] [] [] [] s u ∧ SameMem (fun _ => False) s u

/-- SYNC_ENGINE_ATOMIC_APPLY (R290, R302, R303, R305): the one atomic that has reached a sync engine is applied. Its word takes the new
value and no other byte changes, and its strand is to complete it with the old word, or with none for a fold form; one through an SO page
marks its superstep (R282). Of two value-returning or floating-point atomics on one word, the second is held to the next tick. What the
integer forms make of a word of any width is that of Tables 21-4 and 21-5, on words as bit vectors.
That an atomic completes no sooner than its bound, and the order in which a sync engine takes the atomics of one word, are the model's
readings (notes/assumptions/6.md, 29.md). -/
def Obligations.AtomicApply : Prop :=
  (∀ (slot : Nat) (a : Atom) (o : PendOp) (s : State), s.atoms = [a] → a.slot = slot → s.atomDue a = true →
    s.cur.is a.prio a.vdie a.cell = true → o ∈ s.cur.pend → o.seq = a.seq →
    ∃ u, exec (.syncEngineAtomicApply slot) s = .next u ∧ u.atoms = []
      ∧ rdMems u.mem a.phys a.bytes = leBytes a.bytes
          (atomNew a.op a.takes (8 * a.bytes) (leNat (rdMems s.mem a.phys a.bytes)) a.a.toNat a.b.toNat).1
      ∧ SameMem (fun k => a.phys ≤ k ∧ k < a.phys + a.bytes) s u
      ∧ (a.so = true → ∀ l, s.launchOf a.prio = some l → (u.launchD a.prio).soWritten = true)
      ∧ ∃ o' ∈ u.cur.pend, o'.seq = a.seq ∧ a.bound ≤ o'.due ∧ ∃ flags,
          o'.act = .applied (if a.takes then [(a.d, atomOld a.op (8 * a.bytes) (leNat (rdMems s.mem a.phys a.bytes)))] else [])
            flags a.pc)
  ∧ (∀ (slot : Nat) (a b : Atom) (s : State), s.atoms = [a, b] → a.slot = slot → b.slot = slot → s.atomDue a = true →
    s.atomDue b = true → a.before b = true → a.single = true → b.single = true → a.phys = b.phys → 0 < a.bytes → 0 < b.bytes →
    ∃ u, exec (.syncEngineAtomicApply slot) s = .next u ∧ u.atoms = [{ b with held := true, arrive := s.z0 + 1 }])
  ∧ ∀ (w : Nat) (m a b : BitVec w) (takes : Bool), 0 < w →
    (atomNew 0 takes w m.toNat a.toNat b.toNat).1 = (m + a).toNat
      ∧ (atomNew 1 takes w m.toNat a.toNat b.toNat).1 = (m &&& a).toNat
      ∧ (atomNew 2 takes w m.toNat a.toNat b.toNat).1 = (m ||| a).toNat
      ∧ (atomNew 3 takes w m.toNat a.toNat b.toNat).1 = (m ^^^ a).toNat
      ∧ (atomNew 4 takes w m.toNat a.toNat b.toNat).1 = (if a.slt m then a else m).toNat
      ∧ (atomNew 5 takes w m.toNat a.toNat b.toNat).1 = (if m.slt a then a else m).toNat
      ∧ (atomNew 6 takes w m.toNat a.toNat b.toNat).1 = (if a.ult m then a else m).toNat
      ∧ (atomNew 7 takes w m.toNat a.toNat b.toNat).1 = (if m.ult a then a else m).toNat
      ∧ (atomNew 9 true w m.toNat a.toNat b.toNat).1 = a.toNat
      ∧ (atomNew 10 true w m.toNat a.toNat b.toNat).1 = (if m = a then b else m).toNat

/-! ### Engine words -/

/-- An engine word that passes the checks of R342 completes its issue: it is the last word of its queue, with its operands as they
were read, and no register and no byte of memory changes (R99). A failed check traps with the value that the check gives, and a word
whose queue holds 16 words is held (R95, R98). -/
def Obligations.EngineWords : Prop :=
  (∀ (i : Instr) (t : TCtl) (e : EngSpec) (sw sr : Option Nat) (pins : Nat) (so : Bool) (s : State), engSpec i = some (t, e) →
    Issues i e.uses s → s.started.enqCheck i t e = .ok ((sw, sr), pins, so) →
    ∃ u, exec i s = .next u ∧ u.cur.queue = s.cur.queue ++ [s.started.qword i e sw sr pins so]
      ∧ u.cur.running = s.cur.running ∧ SameRegs [] [] [] [] s u ∧ SameMem (fun _ => False) s u ∧ SameTrap s u)
  ∧ (∀ (i : Instr) (t : TCtl) (e : EngSpec) (c : Nat) (v : Word) (s : State), engSpec i = some (t, e) →
    Issues i e.uses s → s.started.enqCheck i t e = .error (c, v) →
    exec i s = .next (s.started.precise c v))
  ∧ ∀ (i : Instr) (t : TCtl) (e : EngSpec) (s : State), engSpec i = some (t, e) → s.cur.status = .running →
    unitPresent s.vd.cls (encode i) = true → s.legal i = true → s.atTarget = none →
    (!s.started.sched && (guardReg (wordCtl i).pg).any s.started.lockBusy) = false →
    s.started.guard (wordCtl i).pg = true → 16 ≤ s.cur.queueLen e.queue →
    exec i s = .next s.started.stall

/-- The checks of R342 in their order: an illegal semaphore field first, then the records and ports that the word names, then the
word's own checks, then the allocation of its semaphores, then its own privilege checks, then its operands in field order (alignment,
the space, translation), then a check that follows them, and at last the pin limits: 2048 entries for an operand, 8192 for the cell. The
word that passes them all pins what its operands need. Of an operand: a misaligned one reports its BASE (R144); SPACE 11 where the entry
does not allow it is an illegal word; an operand of the cell's own spaces reports the lowest byte outside the space, then the lowest byte
outside the context's share (R72, R149).
Where R342 leaves the order of two checks open, it states the model's reading (notes/assumptions/15.md). -/
def Obligations.EngineCheckOrder : Prop :=
  (∀ (i : Instr) (t : TCtl) (e : EngSpec) (v : Word) (s : State), s.semFields t (encode i) = .error (Cause.illegal, v) →
    s.enqCheck i t e = .error (Cause.illegal, v))
  ∧ (∀ (i : Instr) (t : TCtl) (e : EngSpec) (x : Nat × Word) (s : State),
    (∀ v, s.semFields t (encode i) ≠ .error (Cause.illegal, v)) → s.checkNamed e.portTval e.named = some x →
    s.enqCheck i t e = .error x)
  ∧ (∀ (i : Instr) (t : TCtl) (e : EngSpec) (x : Nat × Word) (s : State),
    (∀ v, s.semFields t (encode i) ≠ .error (Cause.illegal, v)) → s.checkNamed e.portTval e.named = none → e.own s = some x →
    s.enqCheck i t e = .error x)
  ∧ (∀ (i : Instr) (t : TCtl) (e : EngSpec) (x : Nat × Word) (s : State),
    s.semFields t (encode i) = .error x → s.checkNamed e.portTval e.named = none → e.own s = none →
    s.enqCheck i t e = .error x)
  ∧ (∀ (i : Instr) (t : TCtl) (e : EngSpec) (ss : Option Nat × Option Nat) (s : State),
    s.semFields t (encode i) = .ok ss → s.checkNamed e.portTval e.named = none → e.own s = none →
    (∀ x, e.priv s = some x → s.enqCheck i t e = .error x)
    ∧ (e.priv s = none →
      (∀ x, s.checkOpnds i (e.opnds s) = .error x → s.enqCheck i t e = .error x)
      ∧ ∀ ns so, s.checkOpnds i (e.opnds s) = .ok (ns, so) →
        (∀ x, e.after s = some x → s.enqCheck i t e = .error x)
        ∧ (e.after s = none → ((∃ k ∈ ns, 2048 < k) ∨ 8192 < s.cellPins + ns.sum) →
            s.enqCheck i t e = .error (Cause.pinLimit, BitVec.ofNat 64 ns.sum))
        ∧ (e.after s = none → (∀ k ∈ ns, k ≤ 2048) → s.cellPins + ns.sum ≤ 8192 → s.enqCheck i t e = .ok (ss, ns.sum, so))))
  ∧ (∀ (i : Instr) (l m : List Opnd) (o : Opnd) (x : Nat × Word) (s : State),
    (∀ p ∈ l, ∃ y, s.checkOpnd i p = .ok y) → s.checkOpnd i o = .error x → s.checkOpnds i (l ++ o :: m) = .error x)
  ∧ (∀ (i : Instr) (l : List Opnd) (s : State), (∀ p ∈ l, ∃ y, s.checkOpnd i p = .ok y) →
    ∃ ns so, s.checkOpnds i l = .ok (ns, so) ∧ ns.length = l.length)
  ∧ (∀ (i : Instr) (t : TCtl) (e : EngSpec) (s : State), engSpec i = some (t, e) →
    ((e.opnds s).map Opnd.fld).Pairwise (· ≤ ·))
  ∧ ∀ (i : Instr) (o : Opnd) (s : State),
    (hMisaligned o.h = true → s.checkOpnd i o = .error (Cause.misaligned, BitVec.ofNat 64 (hBase o.h)))
      ∧ (hMisaligned o.h = false → hSpace o.h = 3 → o.far = false → s.checkOpnd i o = .error (Cause.illegal, 0#16 ++ encode i))
      ∧ (hMisaligned o.h = false → hSpace o.h = 1 →
          (∀ a, lowestOutside o.ranges 0 (s.capss s.slotNo) = some a →
            s.checkOpnd i o = .error (Cause.translation, BitVec.ofInt 64 a))
          ∧ ∀ a, lowestOutside o.ranges 0 (s.capss s.slotNo) = none →
            lowestOutside o.ranges ((s.ctx.sprow0 * 6144 : Nat) : Int) (((s.ctx.sprow0 + s.ctx.sprows) * 6144 : Nat) : Int) = some a →
            s.checkOpnd i o = .error (Cause.privilege, BitVec.ofInt 64 a))
      ∧ (hMisaligned o.h = false → hSpace o.h = 2 →
          (∀ a, lowestOutside o.ranges 0 ((clsTiles s.vd.cls * 4096 : Nat) : Int) = some a →
            s.checkOpnd i o = .error (Cause.translation, BitVec.ofInt 64 a))
          ∧ ∀ a, lowestOutside o.ranges 0 ((clsTiles s.vd.cls * 4096 : Nat) : Int) = none →
            lowestOutside o.ranges ((s.ctx.ftile0 * 4096 : Nat) : Int) (((s.ctx.ftile0 + s.ctx.ftiles) * 4096 : Nat) : Int) = some a →
            s.checkOpnd i o = .error (Cause.privilege, BitVec.ofInt 64 a))

/-- ENGINE_DISPATCH (R100, R102, R103): the head word of a queue dispatches when the conditions of R100 hold, no fence, SO access or
rail holds it and its await is granted; it leaves the queue and does what its entry says, with the engine steps of the tick when those
are over. One that must wait stays where it is, whatever it waits for, and an empty queue does nothing. The K-step words of a group wait
for each other. When every member's may dispatch, nothing holds one, the rails stand and every await is granted, they dispatch at one tick
with one schedule; when they then disagree, none has an effect and each member takes an illegal word with the address of its word (R200).
Where the manual leaves a point of it open, it states the model's choice (notes/assumptions/5.md, 7.md, 8.md, 18.md). -/
def Obligations.EngineDispatch : Prop :=
  (∀ (q : Nat) (w : QWord) (s v : State), (s.poll q).cur.headOf q = some w →
    (isKStep w.instr && mGroup s.cur.mmode != 0) = false → (s.poll q).mayDispatch w = true →
    ((s.poll q).fenceHolds w || (s.poll q).soHolds w || (isKStep w.instr && !(s.poll q).railUp [s.cur.cell])) = false →
    (s.poll q).awaitWord w = some v →
    exec (.engineDispatch q) s = .next (((dispatchWord w (v.popWord w)).noteDispatch w).catchUp [(s.cur.who, w.seq)]))
  ∧ (∀ (q : Nat) (w : QWord) (s : State), (s.poll q).cur.headOf q = some w →
    (isKStep w.instr && mGroup s.cur.mmode != 0) = false → (s.poll q).mayDispatch w = false →
    ∃ u, exec (.engineDispatch q) s = .next u ∧ u.cur.queue = s.cur.queue ∧ u.cur.running = s.cur.running
      ∧ SameRegs [] [] [] [] s u ∧ SameMem (fun _ => False) s u)
  ∧ (∀ (q : Nat) (w : QWord) (s : State), (s.poll q).cur.headOf q = some w →
    (isKStep w.instr && mGroup s.cur.mmode != 0) = false → (s.poll q).mayDispatch w = true →
    (((s.poll q).fenceHolds w || (s.poll q).soHolds w || (isKStep w.instr && !(s.poll q).railUp [s.cur.cell])) = true
      ∨ (s.poll q).awaitWord w = none) →
    ∃ u, exec (.engineDispatch q) s = .next u ∧ u.cur.queue.map QWord.seq = s.cur.queue.map QWord.seq ∧ u.cur.running = s.cur.running
      ∧ SameRegs [] [] [] [] s u ∧ SameMem (fun _ => False) s u)
  ∧ (∀ (q : Nat) (s : State), s.cur.headOf q = none →
    ∃ u, exec (.engineDispatch q) s = .next u ∧ u.cur.queue = s.cur.queue ∧ SameRegs [] [] [] [] s u
      ∧ SameMem (fun _ => False) s u)
  ∧ (∀ (t : TCtl) (e : EngSpec) (w : QWord) (s : State), engSpec w.instr = some (t, e) → mForm w.instr = none →
    s.spPass w.instr = none → ∃ r ∈ (dispatchWord w s).cur.running, r.word = w)
  ∧ (∀ (q k : Nat) (w : QWord) (s T u : State), T = s.poll q → T.cur.headOf q = some w → isKStep w.instr = true →
    mGroup s.cur.mmode ≠ 0 → k ∈ groupCells (mGroup s.cur.mmode) s.cur.cell → u = T.toCell k →
    (u.cur.is s.cur.prio s.cur.vdie k = false ∨ mGroup u.cur.mmode = 0 ∨ u.cur.headOf 0 = none
      ∨ ∃ h, u.cur.headOf 0 = some h ∧ (mForm h.instr = none ∨ u.mayDispatch h = false)) → u.cur.status ≠ .idle →
    exec (.engineDispatch q) s = .next T)
  ∧ (∀ (q : Nat) (w : QWord) (cells : List Nat) (heads : List (Nat × QWord × MForm)) (s T : State), T = s.poll q →
    T.cur.headOf q = some w → isKStep w.instr = true → mGroup s.cur.mmode ≠ 0 →
    cells = groupCells (mGroup s.cur.mmode) s.cur.cell → GroupReady cells heads T →
    (((∃ c ∈ heads, ((T.toCell c.1).fenceHolds c.2.1 || (T.toCell c.1).soHolds c.2.1) = true) ∨ T.railUp cells = false
        ∨ groupAwaits heads T = none) →
      ∃ u, exec (.engineDispatch q) s = .next u ∧ u.mem = s.mem)
    ∧ ∀ t, (∀ c ∈ heads, ((T.toCell c.1).fenceHolds c.2.1 || (T.toCell c.1).soHolds c.2.1) = false) → T.railUp cells = true →
      groupAwaits heads T = some t →
      ((∀ c ∈ heads, ∀ d ∈ heads, t.groupKey c = t.groupKey d) →
          exec (.engineDispatch q) s =
            .next ((eachMember heads State.noteDispatch (dispMma heads (eachMember heads State.popWord t))).catchUp
              (heads.map fun c => ((s.cur.prio, s.cur.vdie, c.1), c.2.1.seq))))
      ∧ ((∃ c ∈ heads, ∃ d ∈ heads, t.groupKey c ≠ t.groupKey d) → s.cur.out = false → s.cur.status ≠ .idle →
          ∃ u, exec (.engineDispatch q) s = .next u ∧ u.mem = s.mem
            ∧ ∀ c ∈ heads, (T.toCell c.1).cur.status ≠ .ended → (T.toCell c.1).cur.status ≠ .stopped →
              ∃ d ∈ u.allStrands, d.is s.cur.prio s.cur.vdie c.1 = true ∧ (∀ x ∈ d.queue, x.seq ≠ c.2.1.seq)
                ∧ d.running = (T.toCell c.1).cur.running
                ∧ { code := Cause.illegal, tval := c.2.1.pc, tpc := none } ∈ d.asyncs))
  ∧ ∀ (heads : List (Nat × QWord × MForm)) (c0 : Nat × QWord × MForm) (k : PairKind) (kel : Nat) (s : State),
    c0 ∈ heads → s.cur.out = false → s.cur.status ≠ .idle →
    (∀ c ∈ heads, (s.toCell c.1).cur.is s.cur.prio s.cur.vdie c.1 = true ∧ (s.toCell c.1).cur.out = false) →
    (∀ c ∈ heads, s.groupKey c = s.groupKey c0) →
    pairOf2 (hFmt ((s.toCell c0.1).portRec c0.2.2.fa)) (hFmt ((s.toCell c0.1).portRec c0.2.2.fb)) = some (k, kel) →
    ∃ R, ∀ c ∈ heads, (∀ p ∈ c.2.2.ports, hExt ((s.toCell c.1).portRec p) 1 ≤ R)
      ∧ ∃ d ∈ (dispMma heads s).allStrands, d.is s.cur.prio s.cur.vdie c.1 = true
        ∧ ∃ r ∈ d.running, r.word = c.2.1 ∧ r.disp = s.z0
          ∧ r.st.plan = (chunkTimes R (ceilDiv (hExt ((s.toCell c0.1).portRec c0.2.2.fa) 0) kel * kTicks k (mGroup s.cur.mmode))
              (hExt ((s.toCell c0.1).portRec c0.2.2.fa) 2) 0 0 0 0).1

/-- What some words do when they dispatch, and when they complete: MZERO zeroes its bank and nothing else (R213), MMODE writes the mode
state (R216), SPMODE the mode of the sum-product engine (R264), CLOSE closes the open batch (R184), MSTAT is to return the mode state in
its low bits (R217), FCHK tells whether some tile of its extent has expired, FLIFE and FBIRTH return the least life and birth of its
tiles (R169), and SPCLR is to zero its registers (R269). CWAIT closes the open batch and completes, at a later tick than its dispatch, once at
most n batches are outstanding (R185), and SPSYNC once no earlier word of its queue is (R268). LCTX sets its context up at its
completion, with position 0 and no window (R186). LOPEN's window is that of the base and its length, from the second tick after its
dispatch on, and opens nothing on a context that receives nothing (R187). LCLOSE clears the setup and keeps the counts, and LSTAT returns what Table 11-6 says of the
context at its dispatch (R191).
That an effect on memory comes at the dispatch tick is the model's choice (notes/assumptions/5.md). -/
def Obligations.DispatchEffects : Prop :=
  (∀ (t : TCtl) (bank : BitVec 1) (w : QWord) (s : State), w.instr = .mzero t bank →
    (∀ k, k < 0x8000 → rdMem (dispatchWord w s).mem (s.accBase bank.toNat + k) = 0)
      ∧ SameMem (fun a => s.accBase bank.toNat ≤ a ∧ a < s.accBase bank.toNat + 0x8000) s (dispatchWord w s))
  ∧ (∀ (t : TCtl) (c : BitVec 4) (w : QWord) (s : State), w.instr = .mmode t c →
    (dispatchWord w s).cur.mmode = (w.xv 3).extractLsb' 0 6)
  ∧ (∀ (g : Ctl) (fp mx : BitVec 1) (goff : BitVec 10) (w : QWord) (s : State), w.instr = .spmode g fp mx goff →
    (dispatchWord w s).cur.spmode = goff ++ mx ++ fp)
  ∧ (∀ (t : TCtl) (w : QWord) (s : State), w.instr = .close t → (dispatchWord w s).cur.batchOpen = false)
  ∧ (∀ (t : TCtl) (d : BitVec 4) (w : QWord) (s : State), w.instr = .mstat t d →
    ∃ r ∈ (dispatchWord w s).cur.running, r.word = w ∧ ∃ v : Word, r.xres = some (d.toNat, v)
      ∧ v.extractLsb' 0 6 = s.cur.mmode)
  ∧ (∀ (t : TCtl) (d a : BitVec 4) (w : QWord) (s : State), w.instr = .fchk t d a →
    ∃ r ∈ (dispatchWord w s).cur.running, r.word = w ∧ ∃ v : Bool, r.pres = some (d.toNat, v)
      ∧ (v = true ↔ ∃ k ∈ tilesOf (w.rec_ 1), s.liveAt (tileKey s.slotNo k) s.z0 = false))
  ∧ (∀ (g : Ctl) (n d : BitVec 10) (w : QWord) (s : State), w.instr = .spclr g n d →
    ∃ r ∈ (dispatchWord w s).cur.running, r.word = w
      ∧ r.tables = (List.range (n.toNat + 1)).map fun k => (2, (d.toNat + k) % 1024, 0))
  ∧ (∀ (t : TCtl) (d a : BitVec 4) (w : QWord) (s : State) (life : Nat → Int), w.instr = .flife t d a ∨ w.instr = .fbirth t d a →
    life = (fun k => if w.instr = .flife t d a then max 0 (s.birthZ (tileKey s.slotNo k) + 2 ^ 20 - s.z0)
      else s.birthZ (tileKey s.slotNo k) - s.launch.l0) →
    ∃ r ∈ (dispatchWord w s).cur.running, r.word = w ∧ ∃ m : Int, r.xres = some (d.toNat, BitVec.ofInt 64 m)
      ∧ (tilesOf (w.rec_ 1) = [] → m = if w.instr = .flife t d a then 0 else 0x7FFFFFFFFFFFFFFF)
      ∧ (∀ k ∈ tilesOf (w.rec_ 1), m ≤ life k) ∧ (tilesOf (w.rec_ 1) ≠ [] → ∃ k ∈ tilesOf (w.rec_ 1), m = life k))
  ∧ (∀ (s : State) (key : Nat) (b : Int), sget none s.births key = some b → s.birthZ key = b)
  ∧ (∀ (t : TCtl) (ctx : BitVec 8) (b c : BitVec 4) (n : Nat) (w : QWord) (s : State),
    (w.instr = .lctxR t ctx b c ∨ w.instr = .lctxS t ctx c ∨ w.instr = .lstat t ctx b) ∧ n = 4
      ∨ (w.instr = .lopen t ctx b c ∨ w.instr = .lclose t ctx) ∧ n = 1 →
    ∃ r ∈ (dispatchWord w s).cur.running, r.word = w ∧ r.disp = s.z0 ∧ r.comp = some n
      ∧ (w.instr = .lstat t ctx b → ∃ v : Word, r.xres = some (b.toNat, v)
          ∧ (s.findCtx s.cur.prio s.cur.vdie ctx.toNat = none → v = 0)
          ∧ ∀ x, s.findCtx s.cur.prio s.cur.vdie ctx.toNat = some x → x.cls < 4 → x.peer < 32 →
              v.getLsbD 0 = x.rx ∧ v.getLsbD 1 = x.tx ∧ v.getLsbD 2 = x.isOpen s.launch.lock (s.z0 - s.launch.l0)
              ∧ (v.extractLsb' 3 2).toNat = x.cls ∧ (v.extractLsb' 5 5).toNat = x.peer ∧ v.extractLsb' 10 6 = 0
              ∧ (v.extractLsb' 16 16).toNat = min x.landed 0xFFFF ∧ (v.extractLsb' 32 16).toNat = min x.miss 0xFFFF
              ∧ v.extractLsb' 48 16 = 0))
  ∧ (∀ (t : TCtl) (ctx : BitVec 8) (b c : BitVec 4) (r : Running) (s u : State), u = completeWord r s →
    (r.word.instr = .lctxR t ctx b c → u.findCtx s.cur.prio s.cur.vdie ctx.toNat = some
        { prio := s.cur.prio, vdie := s.cur.vdie, ctx := ctx.toNat, rx := true, tx := false
          cls := ((r.word.xv 3).extractLsb' 5 2).toNat, peer := ((r.word.xv 3).extractLsb' 0 5).toNat, hrec := r.word.rec_ 2
          cell := s.cur.cell, born := s.z0 })
      ∧ (r.word.instr = .lctxS t ctx c → u.findCtx s.cur.prio s.cur.vdie ctx.toNat = some
        { prio := s.cur.prio, vdie := s.cur.vdie, ctx := ctx.toNat, rx := false, tx := true
          cls := ((r.word.xv 3).extractLsb' 5 2).toNat, peer := ((r.word.xv 3).extractLsb' 0 5).toNat
          cell := s.cur.cell, born := s.z0 })
      ∧ ∀ x, s.findCtx s.cur.prio s.cur.vdie ctx.toNat = some x →
          (r.word.instr = .lclose t ctx → u.findCtx s.cur.prio s.cur.vdie ctx.toNat =
              some { x with rx := false, tx := false, cls := 0, peer := 0, win := none })
          ∧ (r.word.instr = .lopen t ctx b c → x.rx = false → u.findCtx s.cur.prio s.cur.vdie ctx.toNat = some x)
          ∧ (r.word.instr = .lopen t ctx b c → x.rx = true → ∃ y : LinkCtx,
              u.findCtx s.cur.prio s.cur.vdie ctx.toNat = some { x with win := y.win }
              ∧ (s.launch.lock = true → (y.isOpen true s.z0 = true ↔ r.word.xv 3 ≠ 0))
              ∧ (s.launch.lock = false → ∀ T, y.isOpen false T = true ↔
                  s.launch.base + (r.word.xv 2).toNat ≤ T ∧ T < s.launch.base + (r.word.xv 2).toNat + (r.word.xv 3).toNat
                    ∧ r.disp + 2 - s.launch.l0 ≤ T)))
  ∧ (∀ (x : LinkCtx) (lock : Bool) (T : Nat), x.isOpen lock T = true ↔ ∃ a b, x.win = some (a, b) ∧ (lock = true ∨ a ≤ T ∧ T ≤ b))
  ∧ (∀ (t : TCtl) (n : BitVec 4) (w : QWord) (s : State), w.instr = .cwait t n → (dispatchWord w s).cur.batchOpen = false
      ∧ ∃ r ∈ (dispatchWord w s).cur.running, r.word = w ∧ r.disp = s.z0 ∧ r.comp = none)
  ∧ (∀ (t : TCtl) (n : BitVec 4) (r : Running) (s : State), r.word.instr = .cwait t n → r.comp = none →
    ∃ l : List Nat, l.Nodup
      ∧ (∀ b, b ∈ l ↔ (∃ x ∈ s.cur.running, x.batch = some b) ∧ ¬ (b = s.cur.batch ∧ s.cur.batchOpen = true))
      ∧ (s.engineDone r = true ↔ r.disp < s.z0 ∧ l.length ≤ n.toNat))
  ∧ ∀ (g : Ctl) (sw sr : BitVec 6) (w : QWord) (r : Running) (s : State), w.instr = .spsync g sw sr →
    (∃ x ∈ (dispatchWord w s).cur.running, x.word = w ∧ x.disp = s.z0 ∧ x.comp = none)
      ∧ (r.word.instr = w.instr → r.comp = none →
          (s.engineDone r = true ↔ r.disp < s.z0 ∧ ∀ x ∈ s.cur.running, x.word.queue = 5 → r.word.seq ≤ x.word.seq))

/-- What the data-movement words move (R144, R179, R180, R188, R192, R193, R169). The reads of some elements of a sweep deliver their
nibbles in order, element by element, and the writes of nibbles into consecutive elements reach those elements' nibbles and nothing
else. CPY and CPYM move, segment by segment, the source's elements into the destination's of the same number, and the segments cover the
sweep. A push reads its segment and hands its bytes to the endpoint. A gather word pops an index vector and then moves one run at a
time: GATH from the row that an index names, zeros where it names none, SCAT into it, SCATADD the sums of the row and the run, element
by element, as 32-bit integers that wrap or as FP32. FRENEW gives a tile that is live with 8 ticks to spare a birth of its tick and
leaves one that is not, which sets RNF. A read of an engine delivers the bytes that stand, and zeros from an expired tile, which sets EXP,
and where no die answers, a bus error; a planned write that is made leaves its written nibbles and changes nothing else, committed memory
not at all where it is held for commit.
Where the manual leaves a point of it open, it states the model's choice (notes/assumptions/5.md, 12.md, 16.md, 17.md). -/
def Obligations.DataMovementEffects : Prop :=
  (∀ (h : HRec) (i m : Nat) (f : Int → Byte), (hBcast h 0 = false ∨ fmtBlock (hFmt h) = false) → 0 < copyRun h →
    spanGot h i m ((spanReqs h i m).map fun q => (List.range q.n).map fun k => f (q.addr + k)) =
        ((List.range m).flatMap fun j => (List.range (elemNibs (hFmt h))).map fun d =>
          nibOf (f (nibAt h (i + j) d).1) (nibAt h (i + j) d).2)
      ∧ ∀ q ∈ spanReqs h i m, q.space = hSpace h)
  ∧ (∀ (h : HRec) (t i m : Nat) (nibs : List Nat) (r : Run), hBcast h 0 = false → 0 < copyRun h → r.w.outs = [] →
    nibs.length = m * elemNibs (hFmt h) → (∀ v ∈ nibs, v < 16) →
    (∀ o ∈ (Run.outSpan h t (m + 1) r i nibs).w.outs, o.at_ = t + r.w.gap ∧ o.space = hSpace h)
      ∧ ∀ a hi v, (∃ o ∈ (Run.outSpan h t (m + 1) r i nibs).w.outs, o.writes a hi v) ↔
          ∃ j d, j < m ∧ d < elemNibs (hFmt h) ∧ nibAt h (i + j) d = (a, hi) ∧ nibs.getD (j * elemNibs (hFmt h) + d) 0 = v)
  ∧ (∀ (dst : HRec) (k : Nat), 512 * k < copyTotal dst → (copySeg dst 0).1 = 0
      ∧ (copySeg dst k).1 + (copySeg dst k).2 = if 512 * (k + 1) < copyTotal dst then (copySeg dst (k + 1)).1 else copyCount dst)
  ∧ (∀ (t : TCtl) (d a c : BitVec 4) (r : Run) (got : List (List Byte)) (dst src : HRec) (e : Nat × Nat),
    r.w.word.instr = .cpy t d a c ∨ r.w.word.instr = .cpym t d a c →
    dst = r.w.word.rec_ 0 → src = r.w.word.rec_ 1 → e = copySeg dst r.w.st.k →
    r.want = spanReqs src e.1 e.2 ∧ (r.take got).s.mem = r.s.mem
      ∧ (512 * (r.w.st.k + 1) < copyTotal dst → (r.take got).s = r.s) ∧ (r.take got).w.st.k = r.w.st.k + 1
      ∧ ∃ u, (r.take got).w.outs = (Run.outSpan dst u (e.2 + 1) r e.1 (spanGot src e.1 e.2 got)).w.outs)
  ∧ (∀ (t : TCtl) (ctx : BitVec 8) (b : BitVec 4) (r : Run) (got : List (List Byte)) (h : HRec) (e : Nat × Nat) (nibs : List Nat),
    r.w.word.instr = .lpush t ctx b → h = r.w.word.rec_ 2 → e = copySeg h r.w.st.k → nibs = spanGot h e.1 e.2 got →
    r.want = spanReqs h e.1 e.2 ∧ (r.take got).s.mem = r.s.mem ∧ (r.take got).w.st.k = r.w.st.k + 1
      ∧ ∃ g, (r.take got).s.segs = r.s.segs ++ [g] ∧ g.prio = r.s.cur.prio ∧ g.src = r.s.cur.vdie
          ∧ g.dst = r.w.st.res.getD 0 0 ∧ g.ctx = r.w.st.res.getD 1 0
          ∧ g.bytes = (List.range ((nibs.length + 1) / 2)).map fun k =>
              BitVec.ofNat 8 (nibs.getD (2 * k) 0 + 16 * nibs.getD (2 * k + 1) 0))
  ∧ (∀ (t : TCtl) (d a b c : BitVec 4) (r : Run) (got : List (List Byte)),
    (r.w.word.instr = .gath t d a b c →
        r.take got = gatherTake .gath b.toNat r got ∧ r.want = gatherWant .gath b.toNat r)
      ∧ (r.w.word.instr = .scat t d a b c →
        r.take got = gatherTake .scat b.toNat r got ∧ r.want = gatherWant .scat b.toNat r)
      ∧ (r.w.word.instr = .scatadd t d a b c →
        r.take got = gatherTake .scatadd b.toNat r got ∧ r.want = gatherWant .scatadd b.toNat r))
  ∧ (∀ (op : GatherOp) (q : Nat) (r : Run) (bytes : List Byte), r.w.popsIndex = true → copyRun (op.table r.w.word) ≠ 0 →
    gatherWant op q r = [r.popReq q]
      ∧ (gatherTake op q r [bytes]).w.st.buf = [(q, (popLanes (r.s.portRec q) (r.idx q) bytes).1)]
      ∧ (gatherTake op q r [bytes]).w.st.k = r.w.st.k ∧ (gatherTake op q r [bytes]).w.outs = r.w.outs
      ∧ (gatherTake op q r [bytes]).s = r.s)
  ∧ (∀ (table : HRec) (l : Option Lane) (k : Nat),
    rowOf table l = some k ↔ ∃ x, l = some x ∧ toSInt 32 x.1 = (k : Int) ∧ k < hExt table 1)
  ∧ (∀ (op : GatherOp) (q e w : Nat) (r u : Run) (got : List (List Byte)) (table dense : HRec) (row : Option Nat),
    table = op.table r.w.word → dense = op.dense r.w.word → e = copyRun table → w = elemNibs (hFmt table) →
    r.w.popsIndex = false → r.w.outs = [] → copyRun dense = e → elemNibs (hFmt dense) = w → 0 < e →
    row = rowOf table ((lanesOf r.w.st.buf q).getD (r.w.st.k % 128) none) → got.length = (gatherWant op q r).length →
    u = gatherTake op q r got →
    u.s = r.s ∧ u.w.st.k = r.w.st.k + 1
      ∧ (row = none → u.w.bad = true
          ∧ (op = .gath → ∃ t, u.w.outs = (Run.outSpan dense t (e + 1) r (r.w.st.k * e) (List.replicate (e * w) 0)).w.outs)
          ∧ (op ≠ .gath → u.w.outs = []))
      ∧ ∀ i, row = some i → u.w.bad = r.w.bad
          ∧ (op = .gath → gatherWant op q r = spanReqs table (i * e) e
              ∧ ∃ t, u.w.outs = (Run.outSpan dense t (e + 1) r (r.w.st.k * e) (spanGot table (i * e) e got)).w.outs)
          ∧ (op = .scat → gatherWant op q r = spanReqs dense (r.w.st.k * e) e
              ∧ ∃ t, u.w.outs = (Run.outSpan table t (e + 1) r (i * e) (spanGot dense (r.w.st.k * e) e got)).w.outs)
          ∧ (op = .scatadd → gatherWant op q r = spanReqs dense (r.w.st.k * e) e ++ spanReqs table (i * e) e
              ∧ ∃ z, z = addRuns (hFmt table) (spanGot table (i * e) e (got.drop 1)) (spanGot dense (r.w.st.k * e) e (got.take 1))
                ∧ u.w.flags = r.w.flags ||| z.2 ∧ ∃ t, u.w.outs = (Run.outSpan table t (e + 1) r (i * e) z.1).w.outs))
  ∧ (∀ (f n : Nat) (a b : List Nat), a.length = 8 * n → b.length = 8 * n →
    (addRuns f a b).1.length = 8 * n
      ∧ (∀ i, i < n → nibNum 8 (addRuns f a b).1 i =
          (if f = 0x01 then (f32Add (nibNum 8 a i) (nibNum 8 b i)).1 else nibNum 8 a i + nibNum 8 b i) % 2 ^ 32)
      ∧ (addRuns f a b).2 = (List.range n).foldl (fun fl i =>
          fl ||| (if f = 0x01 then (f32Add (nibNum 8 a i) (nibNum 8 b i)).2 else 0)) 0)
  ∧ (∀ (h : HRec) (t : Nat), t ∈ tilesOf h ↔
    ∃ r ∈ hSweep h, 0 < r.2 ∧ wrapAddr r.1 / 4096 ≤ t ∧ t ≤ (wrapAddr r.1 + r.2 - 1) / 4096)
  ∧ (∀ h : HRec, (tilesOf h).Pairwise (· < ·))
  ∧ (∀ (r u : Run) (key : Nat), renewTile r = some key → u = renewTake r →
    u.s.mem = r.s.mem ∧ u.w.st.k = r.w.st.k + 1
      ∧ ((r.s.z0 : Int) < r.s.birthZ key + 2 ^ 20 - 8 →
          sget none u.s.births key = some (r.s.z0 : Int) ∧ (∀ k, k ≠ key → sget none u.s.births k = sget none r.s.births k)
            ∧ u.w.rnf = r.w.rnf ∧ u.s.cur.expf = r.s.cur.expf)
      ∧ (r.s.birthZ key + 2 ^ 20 - 8 ≤ (r.s.z0 : Int) →
          u.s.births = r.s.births ∧ u.w.rnf = true ∧ u.s.cur.expf = r.s.cur.expf ||| 2))
  ∧ (∀ (p : Piece) (r : Run) (acc : Acc), acc = r.s.reach p.space p.addr →
    (acc.answers = true →
        (∀ key off, r.s.tileAt p.space p.addr = some (key, off) → r.s.liveAt key r.s.z0 = true) →
        r.readPiece p = (r, (List.range p.n).map fun k => r.s.rdByte (acc.phys + k)))
      ∧ (∀ key off, r.s.tileAt p.space p.addr = some (key, off) → r.s.liveAt key r.s.z0 = false →
          r.s.ownSess r.writer key = false →
          (r.readPiece p).2 = List.replicate p.n 0 ∧ (r.readPiece p).1.w.exp = true ∧ (r.readPiece p).1.s = r.s)
      ∧ (acc.answers = false →
          (r.readPiece p).2 = List.replicate p.n 0 ∧ (r.readPiece p).1.w.bus.isSome = true ∧ (r.readPiece p).1.s = r.s))
  ∧ (∀ (o : Out) (r : Run) (acc : Acc) (n c k : Nat), acc = r.s.reach o.space o.addr → r.w.torn = [] →
    r.s.refuses acc = false → r.s.placeOf acc.phys = .scratch n c k ∨ r.s.placeOf acc.phys = .acc n c k →
    (∀ m : Memory, (∀ b, b < acc.phys ∨ acc.phys + o.data.length ≤ b → rdMem m b = rdMem r.s.mem b) →
      ({ r.s with mem := m }).reach o.space o.addr = acc) →
    (∀ i hi, i < o.data.length → nibOf (rdMem (r.writeOut o).s.mem (acc.phys + i)) hi =
        (nibIn 0 o.data i hi).getD (nibOf (r.s.rdByte (acc.phys + i)) hi))
      ∧ SameMem (fun b => acc.phys ≤ b ∧ b < acc.phys + o.data.length) r.s (r.writeOut o).s)
  ∧ ∀ (o : Out) (r : Run) (acc : Acc), acc = r.s.reach o.space o.addr → r.w.torn = [] → r.s.refuses acc = false →
    (r.s.placeOf acc.phys).heldKind = true → acc.so = false → r.s.heldRoom acc.phys = true →
    (r.writeOut o).s.mem = r.s.mem
      ∧ ∀ i hi, i < o.data.length → (r.s.placeOf (acc.phys + i)).heldKind = true →
          nibOf ((r.writeOut o).s.rdByte (acc.phys + i)) hi = (nibIn 0 o.data i hi).getD (nibOf (r.s.rdByte (acc.phys + i)) hi)

/-- What the matrix words compute. The pops and K-steps of a word follow the recurrence of R198. An integer K-step adds the exact sum of
the products of its lanes to the INT32 element (R39), a floating one joins the exact sum to the FP32 element with the two roundings of
R38 and their flushes, NaNs and infinities, a weight-only one clamps its weights to BF16 first (R196), and one of LNS6 adds up the products of R26 in the units of
R40; a K-step of a word changes the elements below M and N, each from its old value, 0 with INIT at the first, and nothing else (R210).
An integer drain gives round((acc + BIAS) * MULT / 2^SHIFT), to nearest even, made non-negative under ReLU, plus ZPO, clamped (R206);
a floating one converts (acc + BIAS) * MULT. A drain pushes row m as the port's next vector, and clears the row with ZERO (R212). MSUM adds
up the active lanes of its rows, and takes z times the sum of its row from every element of a bank row, or of its column (R204, R214).
MSCALE takes 32 records of 16 bytes from each of its vectors, and at its completion they are the scale state (R215).
Where the manual leaves a point of it open, it states the model's choice (notes/assumptions/13.md, 14.md, 18.md). -/
def Obligations.MatrixEffects : Prop :=
  (∀ (R T n : Nat) (x : List (Nat × Nat × Nat) × Nat), x = chunkTimes R T n 0 0 0 0 → x.1.length = n
    ∧ (∀ j, j < n → (x.1.getD j (0, 0, 0)).1 = j)
    ∧ (0 < n → (x.1.getD 0 (0, 0, 0)).2 = (0, R))
    ∧ (∀ j, 0 < j → j < n →
        (x.1.getD j (0, 0, 0)).2.1 = max ((x.1.getD (j - 1) (0, 0, 0)).2.1 + R)
            (if j = 1 then 0 else (x.1.getD (j - 2) (0, 0, 0)).2.2 + T)
          ∧ (x.1.getD j (0, 0, 0)).2.2 = max ((x.1.getD j (0, 0, 0)).2.1 + R) ((x.1.getD (j - 1) (0, 0, 0)).2.2 + T))
    ∧ x.2 = if n = 0 then 0 else (x.1.getD (n - 1) (0, 0, 0)).2.2 + T)
  ∧ (∀ (fa fb old : Nat) (isat : Bool) (draw : Nat × Nat) (l : List (Lane × Lane)), fa ∈ [0x06, 0x07] → fb ∈ [0x06, 0x07] →
    (∀ x ∈ l, x.1.2 = 0 ∧ x.2.2 = 0) →
    kstep .int fa fb isat draw old l = joinInt isat old ((l.map fun x => intVal fa x.1.1 * intVal fb x.2.1).sum))
  ∧ (∀ (fa fb old : Nat) (isat : Bool) (draw : Nat × Nat) (l : List (Lane × Lane)),
    (∀ x ∈ l, (opNum fa x.1).isFin = true ∧ (opNum fb x.2).isFin = true) →
    ∃ v : Sys2Proof.Machine.Num, v.isFin = true ∧ v.rat = (l.map fun x => (opNum fa x.1).rat * (opNum fb x.2).rat).sum
      ∧ kstep .flt fa fb isat draw old l = joinF32 old (v, false))
  ∧ (∀ (fa fb old : Nat) (isat : Bool) (draw : Nat × Nat) (l : List (Lane × Lane)) (p : Lane × Lane → Sys2Proof.Machine.Num × Bool),
    p = (fun x => (opNum fa x.1).mul (opNum fb x.2)) →
    ((∃ x ∈ l, (p x).2 = true) ∨ ((∃ x ∈ l, (p x).1 = .inf false) ∧ ∃ x ∈ l, (p x).1 = .inf true) →
        kstep .flt fa fb isat draw old l = joinF32 old (.nan, true))
      ∧ ((∀ x ∈ l, (p x).2 = false) → (∀ n, ¬ ((∃ x ∈ l, (p x).1 = .inf n) ∧ ∃ x ∈ l, (p x).1 = .inf !n)) →
          ((∃ x ∈ l, (p x).1 = .nan) → kstep .flt fa fb isat draw old l = joinF32 old (.nan, false))
          ∧ ∀ n, (∀ x ∈ l, (p x).1 ≠ .nan) → (∃ x ∈ l, (p x).1 = .inf n) →
              kstep .flt fa fb isat draw old l = joinF32 old (.inf n, false)))
  ∧ (∀ (a b : Sys2Proof.Machine.Num) (n m : Bool) (k : Nat) (e : Int),
    (a.isNan = true ∨ b.isNan = true → a.mul b = (.nan, false))
      ∧ (a = .inf n → b = .inf m → a.mul b = (.inf (n != m), false))
      ∧ (a = .inf n ∧ b = .fin m k e ∨ a = .fin m k e ∧ b = .inf n →
          a.mul b = if k = 0 then (.nan, true) else (.inf (n != m), false)))
  ∧ (∀ (fa fb old : Nat) (isat : Bool) (draw : Nat × Nat) (l : List (Lane × Lane)),
    (∀ x ∈ l, (opNum fa x.1).isFin = true ∧ (weightNum fb x.2).1.isFin = true) →
    ∃ v : Sys2Proof.Machine.Num, v.isFin = true
      ∧ v.rat = (l.map fun x => (opNum fa x.1).rat * (weightNum fb x.2).1.rat).sum
      ∧ kstep .wgt fa fb isat draw old l = ((joinF32 old (v, false)).1,
          (joinF32 old (v, false)).2 ||| (if ∃ x ∈ l, (weightNum fb x.2).2 ≠ 0 then flagCLAMP else 0)))
  ∧ (∀ (f : Nat) (x : Lane) (n : Bool) (m : Nat) (e : Int) (v : Sys2Proof.Machine.Num) (top : ℚ), v = .fin n m e →
    elemVal f x.1 x.2 = v → top = (fBF16.decode fBF16.maxCode).rat →
    (top < |v.rat| → (weightNum f x).2 = flagCLAMP ∧ (weightNum f x).1.rat = if n then -top else top)
      ∧ (|v.rat| ≤ top → (weightNum f x).2 = 0
          ∧ (weightNum f x).1.rat = if |v.rat| * 2 ^ 126 < 1 then 0 else v.rat))
  ∧ (∀ (old : Nat) (v : Sys2Proof.Machine.Num) (inv : Bool) (c t : Nat × BitVec 8), c = fF32.encode .rne false v →
    t = flushRow (c.1, c.2 ||| if inv then flagNV else 0) →
    ∃ a : Nat × BitVec 8, joinF32 old (v, inv) = (a.1, t.2 ||| a.2)
      ∧ ((fF32.decode old).isFin = true → (fF32.decode t.1).isFin = true →
          ∃ w : Sys2Proof.Machine.Num, w.isFin = true ∧ w.rat = (fF32.decode old).rat + (fF32.decode t.1).rat
            ∧ a = flushRow (fF32.encode .rne false w))
      ∧ ((fF32.decode old).isNan = true ∨ (fF32.decode t.1).isNan = true → a = (fF32.nanCode, 0))
      ∧ ∀ n, (fF32.decode old = .inf n → fF32.decode t.1 = .inf !n → a = (fF32.nanCode, flagNV))
          ∧ (fF32.decode old = .inf n → (fF32.decode t.1).isFin = true ∨ fF32.decode t.1 = .inf n → a = fF32.encode .rne false (.inf n))
          ∧ ((fF32.decode old).isFin = true → fF32.decode t.1 = .inf n → a = fF32.encode .rne false (.inf n)))
  ∧ (∀ (fa fb old : Nat) (isat : Bool) (draw : Nat × Nat) (l : List (Lane × Lane)) (top : Int) (d : Lane × Lane → Int),
    (∀ x ∈ l, x.1.2 + x.2.2 ≤ top) → (∃ x ∈ l, x.1.2 + x.2.2 = top) → d = (fun x => top - (x.1.2 + x.2.2)) →
    ∃ (q : Lane × Lane → Int) (v : Sys2Proof.Machine.Num),
      (∀ x ∈ l, d x ≤ 9 → q x = lnsProduct x * 2 ^ (9 - d x).toNat)
      ∧ (∀ x ∈ l, 9 < d x → 2 * |lnsProduct x - q x * 2 ^ (d x - 9).toNat| ≤ 2 ^ (d x - 9).toNat
          ∧ (2 * |lnsProduct x - q x * 2 ^ (d x - 9).toNat| = 2 ^ (d x - 9).toNat → q x % 2 = 0))
      ∧ v.isFin = true ∧ v.rat = ((l.map q).sum : Int) * (2 : ℚ) ^ (top - 38)
      ∧ kstep .lns fa fb isat draw old l = ((joinF32 old (v, false)).1, (joinF32 old (v, false)).2
          ||| (if ∃ x ∈ l, 9 < d x ∧ lnsProduct x ≠ q x * 2 ^ (d x - 9).toNat then flagNX else 0)))
  ∧ (∀ (k : PairKind) (kel e steps j t : Nat) (f : MForm) (a b : List (Nat × List (Option Lane))) (r u : Run)
    (cut : List (Option Lane) → List (Option Lane)) (at_ : Nat → Nat → Nat) (res : Nat → Nat → Nat × BitVec 8),
    a.length ≤ 64 → b.length ≤ 128 → u = kstepAll k kel e f a b steps j t r →
    cut = (fun l => (l.drop (t * kel)).take (min kel (e - t * kel))) → at_ = (fun m c => r.s.accBase f.bank + 4 * (128 * m + c)) →
    res = (fun m c => kstep ((pairOf2 (a.getD m (0, [])).1 (b.getD c (0, [])).1).elim k Prod.fst) (a.getD m (0, [])).1
      (b.getD c (0, [])).1 (mIsat r.w.mode) (r.w.draw, ((j * steps + t) * 64 + m) * 128 + c)
      (if f.init = true ∧ j = 0 ∧ t = 0 then 0 else leNat (rdMems r.s.mem (at_ m c) 4))
      ((List.zip (cut (a.getD m (0, [])).2) (cut (b.getD c (0, [])).2)).filterMap fun x =>
        x.1.bind fun y => x.2.map fun z => (y, z))) →
    (∀ m c, m < a.length → c < b.length → leNat (rdMems u.s.mem (at_ m c) 4) = (res m c).1 % 2 ^ 32
        ∧ (res m c).2 &&& u.w.flags = (res m c).2)
      ∧ SameMem (fun x => ∃ m c, m < a.length ∧ c < b.length ∧ at_ m c ≤ x ∧ x < at_ m c + 4) r.s u.s)
  ∧ (∀ (fd acc : Nat) (mode : BitVec 6) (r : BitVec 128) (x : Int), fd ∈ [0x04, 0x05, 0x06, 0x07, 0x08] →
    x = (toSInt 32 acc + (r.extractLsb' 64 32).toInt) * (r.extractLsb' 0 32).toInt →
    ∃ q y : Int, 2 * |x - q * 2 ^ (r.extractLsb' 32 6).toNat| ≤ 2 ^ (r.extractLsb' 32 6).toNat
      ∧ (2 * |x - q * 2 ^ (r.extractLsb' 32 6).toNat| = 2 ^ (r.extractLsb' 32 6).toNat → q % 2 = 0)
      ∧ y = (if mode.getLsbD 3 then max q 0 else q) + (r.extractLsb' 96 16).toInt
      ∧ intVal fd (drainElem fd mode r acc).1 =
          max (if fd = 0x07 then 0 else -2 ^ (fmtBits fd - 1)) (min (if fd = 0x07 then 255 else 2 ^ (fmtBits fd - 1) - 1) y)
      ∧ (drainElem fd mode r acc).2 =
          (if intVal fd (drainElem fd mode r acc).1 = y then 0 else flagSAT ||| flagNX)
            ||| (if x = q * 2 ^ (r.extractLsb' 32 6).toNat then 0 else flagNX))
  ∧ (∀ (fd acc : Nat) (mode : BitVec 6) (r : BitVec 128) (y : ℚ), fd ∈ [0x01, 0x02, 0x03, 0x0A, 0x0B] →
    (fF32.decode acc).isFin = true → (fF32.decode (r.extractLsb' 64 32).toNat).isFin = true →
    (fF32.decode (r.extractLsb' 0 32).toNat).isFin = true →
    y = ((fF32.decode acc).rat + (fF32.decode (r.extractLsb' 64 32).toNat).rat) * (fF32.decode (r.extractLsb' 0 32).toNat).rat →
    ∃ v : Sys2Proof.Machine.Num, v.isFin = true ∧ v.rat = (if mode.getLsbD 3 then max y 0 else y)
      ∧ drainElem fd mode r acc = elemCode fd .rne (mode.getLsbD 5) v)
  ∧ (∀ (bank qd m : Nat) (zero : Bool) (r u : Run) (h : HRec) (res : Nat → Nat × BitVec 8), m < 64 → h = r.s.portRec qd →
    u = drainRow bank qd zero m r →
    res = (fun c => drainElem (hFmt h) r.w.mode (r.s.cur.scaleRec c) (leNat (rdMems r.s.mem (r.s.accBase bank + 4 * (128 * m + c)) 4))) →
    u.w.outs = (r.out r.w.time qd (hSpace h) (hVecAddr h (r.idx qd))
        (pushBytes h (r.idx qd) ((List.range (hExt h 0)).map fun c => some (res c).1))).w.outs
      ∧ sget 0 u.w.st.idx qd = nextVec h (r.idx qd) ∧ (∀ c, c < hExt h 0 → (res c).2 &&& u.w.flags = (res c).2)
      ∧ (∀ x, x < 512 → zero = true → rdMem u.s.mem (r.s.accBase bank + 512 * m + x) = 0)
      ∧ SameMem (fun x => zero = true ∧ r.s.accBase bank + 512 * m ≤ x ∧ x < r.s.accBase bank + 512 * m + 512) r.s u.s)
  ∧ (∀ (bank f g i : Nat) (sideB : Bool) (r u : Run) (got : List (List Byte)) (qs : List Nat),
    r.w.time < r.w.fig.rd * r.w.fig.rate → i = r.w.time % r.w.fig.rate →
    qs = (gang f g).filter (fun q => decide (i < hExt (r.s.portRec q) 1)) → got.length = qs.length →
    u = msumTake bank sideB f g r got →
    msumWant f g r = qs.map r.popReq ∧ u.s = r.s
      ∧ ∀ n k, n < qs.length → k = i * g + (qs.getD n 0 - f) → k < r.w.st.sums.length →
          u.w.st.sums.getD k 0 = r.w.st.sums.getD k 0 +
            rowSum (hFmt (r.s.portRec (qs.getD n 0))) (hExt (r.s.portRec (qs.getD n 0)) 0)
              (popLanes (r.s.portRec (qs.getD n 0)) (r.idx (qs.getD n 0)) (got.getD n [])).1)
  ∧ (∀ (fmt e : Nat) (l : List (Option Lane)),
    rowSum fmt e l = ((List.range e).map fun k => ((l.getD k none).map fun x => intVal fmt x.1).getD 0).sum)
  ∧ (∀ (bank : Nat) (sideB : Bool) (z : Int) (sums : List Int) (r u : Run) (at_ : Nat → Nat → Nat) (res : Nat → Nat → Nat × BitVec 8),
    sums.length ≤ (if sideB then 128 else 64) → u = msumCorrect bank sideB z sums r →
    at_ = (fun m c => r.s.accBase bank + 4 * (128 * m + c)) →
    res = (fun m c => joinInt (mIsat r.w.mode) (leNat (rdMems r.s.mem (at_ m c) 4)) (-(z * sums.getD (if sideB then c else m) 0))) →
    (∀ m c, m < (if sideB then 64 else sums.length) → c < (if sideB then sums.length else 128) →
        leNat (rdMems u.s.mem (at_ m c) 4) = (res m c).1 ∧ (res m c).2 &&& u.w.flags = (res m c).2)
      ∧ SameMem (fun x => ∃ m c, m < (if sideB then 64 else sums.length) ∧ c < (if sideB then sums.length else 128)
          ∧ at_ m c ≤ x ∧ x < at_ m c + 4) r.s u.s)
  ∧ (∀ (t : TCtl) (bank side : BitVec 1) (f gm c : BitVec 4) (r : Run) (got : List (List Byte)),
    r.w.word.instr = .msum t bank side f gm c → r.w.fig.rd * r.w.fig.rate ≤ r.w.time →
    (r.take got).s = (msumCorrect bank.toNat (side == 1) ((r.w.word.xv 3).extractLsb' 0 32).toInt r.w.st.sums r).s)
  ∧ (∀ (q : Nat) (r : Run) (b : List Byte) (old : List (Nat × BitVec 128)), hBcast (r.s.portRec q) 0 = false → r.w.scale = some old →
    (mscaleTake q r [b]).w.scale = some (old ++ (List.range 32).map fun i =>
        (32 * r.w.st.k + i, BitVec.ofNat 128 (leNat ((b.drop (16 * i)).take 16))))
      ∧ (mscaleTake q r [b]).w.st.k = r.w.st.k + 1 ∧ (mscaleTake q r [b]).s = r.s)
  ∧ ∀ (r : Running) (s : State) (l : List (Nat × BitVec 128)) (n : Nat) (v : BitVec 128), r.scale = some l →
    (l.map Prod.fst).Nodup → (n, v) ∈ l →
    (completeWord r s).cur.scaleRec n = v

/-- What the float formats and the elementwise vector words compute (R22, R34, R144, R145, R224, R229). A finite value converts to
FP32, BF16 or FP16 as the nearest code, of two equally near ones the even one, with NX exactly when it changes; one that rounds above the
largest finite value is infinity, with OF and NX. A NaN in any source gives the canonical NaN and no flag; infinity less infinity, and
zero times infinity, give it with NV; finite sources give the exact sum, difference, product, or product and sum, converted once, and the
minimum or maximum one of the two sources. The pop of a vector delivers its elements, and in the lanes past them what EDGE says. A step
of an elementwise word of equal widths pushes the next vector of its destination: each lane that is active in the destination and in
every source becomes the word's operation on the sources' lanes, and adds its flags; nothing else is written.
Where the manual leaves a point of it open, it states the model's choice (notes/assumptions/12.md, 13.md, 35.md). -/
def Obligations.FloatVectorEffects : Prop :=
  (∀ (g : FFmt) (v : Sys2Proof.Machine.Num) (c : Nat × BitVec 8), g ∈ [fF32, fBF16, fF16] → v.isFin = true →
    c = g.encode .rne false v →
    (c.2 &&& flagOF = 0 → (g.decode c.1).isFin = true
        ∧ (∀ k, (g.decode k).isFin = true → |v.rat - (g.decode c.1).rat| ≤ |v.rat - (g.decode k).rat|)
        ∧ (∀ k, (g.decode k).isFin = true → (g.decode k).rat ≠ (g.decode c.1).rat →
            |v.rat - (g.decode k).rat| = |v.rat - (g.decode c.1).rat| → c.1 % 2 = 0)
        ∧ (c.2 &&& flagNX = 0 ↔ (g.decode c.1).rat = v.rat))
      ∧ (c.2 &&& flagOF ≠ 0 → c.2 = flagOF ||| flagNX ∧ g.decode c.1 = .inf (decide (v.rat < 0))
          ∧ (g.decode g.maxCode).rat < |v.rat|))
  ∧ (∀ (op : Bin) (f a b : Nat) (g : FFmt), f ∈ [0x01, 0x02, 0x03] → ffmtOf f = some g →
    ((g.decode a).isNan = true ∨ (g.decode b).isNan = true → binLane op f a b = (g.nanCode, 0))
      ∧ ((g.decode a).isFin = true → (g.decode b).isFin = true →
          (op = .add → ∃ v, v.isFin = true ∧ v.rat = (g.decode a).rat + (g.decode b).rat ∧ binLane op f a b = g.encode .rne false v)
          ∧ (op = .sub → ∃ v, v.isFin = true ∧ v.rat = (g.decode a).rat - (g.decode b).rat ∧ binLane op f a b = g.encode .rne false v)
          ∧ (op = .mul → ∃ v, v.isFin = true ∧ v.rat = (g.decode a).rat * (g.decode b).rat ∧ binLane op f a b = g.encode .rne false v)
          ∧ (op = .min → (binLane op f a b = (a, 0) ∨ binLane op f a b = (b, 0))
              ∧ (g.decode (binLane op f a b).1).rat = min (g.decode a).rat (g.decode b).rat)
          ∧ (op = .max → (binLane op f a b = (a, 0) ∨ binLane op f a b = (b, 0))
              ∧ (g.decode (binLane op f a b).1).rat = max (g.decode a).rat (g.decode b).rat))
      ∧ (∀ n, g.decode a = .inf n →
          (op = .add → g.decode b = .inf !n → binLane op f a b = (g.nanCode, flagNV))
          ∧ (op = .sub → g.decode b = .inf n → binLane op f a b = (g.nanCode, flagNV))
          ∧ (op = .mul → (g.decode b).isFin = true → (g.decode b).rat = 0 → binLane op f a b = (g.nanCode, flagNV)))
      ∧ (∀ n, g.decode b = .inf n → op = .mul → (g.decode a).isFin = true → (g.decode a).rat = 0 →
          binLane op f a b = (g.nanCode, flagNV)))
  ∧ (∀ (negP negC : Bool) (f a b c : Nat) (g : FFmt), f ∈ [0x01, 0x02, 0x03] → ffmtOf f = some g →
    ((g.decode a).isNan = true ∨ (g.decode b).isNan = true ∨ (g.decode c).isNan = true → fmaLane negP negC f a b c = (g.nanCode, 0))
      ∧ ((g.decode a).isFin = true → (g.decode b).isFin = true → (g.decode c).isFin = true →
          ∃ v, v.isFin = true
            ∧ v.rat = (if negP then -1 else 1) * ((g.decode a).rat * (g.decode b).rat) + (if negC then -1 else 1) * (g.decode c).rat
            ∧ fmaLane negP negC f a b c = g.encode .rne false v)
      ∧ (∀ n, g.decode a = .inf n → (g.decode b).isFin = true → (g.decode b).rat = 0 → (g.decode c).isNan = false →
          fmaLane negP negC f a b c = (g.nanCode, flagNV)))
  ∧ (∀ (h : HRec) (v k : Nat) (bytes : List Byte) (x : Nat → Nat), fmtBlock (hFmt h) = false → hBcast h 0 = false →
    x = (fun k => let n := nibNum (elemNibs (hFmt h)) (bytes.flatMap fun b => [nibOf b false, nibOf b true]) k
                  if hFmt h = 0x0D then n % 64 else n) →
    (k < hVecLanes h v → (popLanes h v bytes).1.getD k none = some (x k, 0))
      ∧ (hVecLanes h v ≤ k → k < fmtLanes (hFmt h) →
          (hEdge h = 0 → (popLanes h v bytes).1.getD k none = none)
          ∧ (hEdge h = 1 → (popLanes h v bytes).1.getD k none = some (if hFmt h = 0x0D then 0x20 else 0, 0))
          ∧ (hEdge h = 2 → 0 < hVecLanes h v → (popLanes h v bytes).1.getD k none = some (x (hVecLanes h v - 1), 0))))
  ∧ ∀ (f : VForm) (r u : Run) (bytes : Nat → List Byte) (hd : HRec) (fa w : Nat) (op : List Nat → Nat × BitVec 8)
    (lanes : Nat → Option (List Nat)),
    hd = r.s.portRec (f.dst.headD 0) → fa = hFmt (r.s.portRec (f.src.headD 0)) → w = fmtStore (hFmt hd) / 4 →
    laneRow (hFmt hd) fa (r.w.word.xv 2) (r.w.word.xv 3) f.kind = some op →
    f.src ≠ [] → f.dst.headD 0 ∉ f.src → fmtBlock (hFmt hd) = false → (∀ q ∈ f.src, fmtBlock (hFmt (r.s.portRec q)) = false) →
    (∀ q ∈ f.src, fmtLanes (hFmt (r.s.portRec q)) = fmtLanes (hFmt hd)) →
    r.w.st.i = 0 → r.w.st.buf = [] → r.w.outs = [] → u = f.take r ((distinctPorts f.src).map bytes) →
    stepShape (r.s.portRec (f.src.headD 0)) hd r.w.st.k = (1, 1) →
    lanes = (fun k => f.src.mapM fun q =>
      ((popLanes (r.s.portRec q) (r.idx q) (bytes q)).1.getD k none).map Prod.fst) →
    f.want r = (distinctPorts f.src).map r.popReq ∧ u.s = r.s ∧ u.w.st.k = r.w.st.k + 1
      ∧ (∃ t, r.w.st.t + laneDelay f.kind ≤ t ∧ ∀ o ∈ u.w.outs, o.at_ = t + r.w.gap ∧ o.space = hSpace hd)
      ∧ (∀ k l, k < hVecLanes hd (r.idx (f.dst.headD 0)) → lanes k = some l → (op l).2 &&& u.w.flags = (op l).2)
      ∧ ∀ a hi v, (∃ o ∈ u.w.outs, o.writes a hi v) ↔
          ∃ k d l, k < hVecLanes hd (r.idx (f.dst.headD 0)) ∧ d < w ∧ lanes k = some l
            ∧ hVecAddr hd (r.idx (f.dst.headD 0)) + (((k * w + d) / 2 : Nat) : Int) = a ∧ ((k * w + d) % 2 == 1) = hi
            ∧ (op l).1 / 16 ^ d % 16 = v

/-- What the vector words compute that work on whole runs or fill. VRED, VREDX and VSCAN reduce the active lanes exactly and round once: a sum
of floats with NaN, infinities and the empty values of R41, a maximum or minimum one of the lanes, an integer result clamped with SAT. VSCAN's prefix is
the reduction of the lanes up to it, and carries across the vectors of a run. VTOPK's first k indices are distinct and in R241's order, with their values, and minus
infinity and 0xFFFF follow. VPERM gives a lane the data lane that its index names, or zero. VSPLAT, VIOTA and VRAND write the values of
R244 and R43, by the position in the sweep. VEXTR gives the lane it names, extended. VQUANT chooses the scale of R236 and writes the block of R32, each
element rounded once and clamped; VDEQUANT rounds an element's exact value once; a pop of a block delivers its elements and scale, or
zeros where its header is another's (R31). What each step pushes is these results, in the lanes that are active.
Where the manual leaves a point of it open, it states the model's choice (notes/assumptions/12.md, 13.md, 14.md, 35.md, 39.md). -/
def Obligations.VectorEntryEffects : Prop :=
  (∀ (k : Red) (fs fd : Nat) (g : FFmt) (l : List (Option Lane)) (vs : List Sys2Proof.Machine.Num) (c : Nat × BitVec 8),
    fs ∈ [0x01, 0x02, 0x03] → fd ∈ [0x01, 0x02, 0x03] → ffmtOf fd = some g →
    vs = l.filterMap (Option.map fun x => elemVal fs x.1) → c = (RedAcc.lanes k fs {} l).code k fd →
    (vs = [] → c = g.encode .rne false (match k with | .add => .fin false 0 0 | .max => .inf true | .min => .inf false))
      ∧ (k = .add → .inf false ∈ vs → .inf true ∈ vs → c = (g.nanCode, flagNV))
      ∧ (.nan ∈ vs → (k = .add → ∀ n, .inf n ∈ vs → .inf (!n) ∉ vs) → c = (g.nanCode, 0))
      ∧ (.nan ∉ vs →
          (k = .add → (∀ v ∈ vs, v.isFin = true) →
              ∃ v : Sys2Proof.Machine.Num, v.isFin = true ∧ v.rat = (vs.map Num.rat).sum ∧ c = g.encode .rne false v)
          ∧ (∀ n, k = .add → .inf n ∈ vs → .inf (!n) ∉ vs → c = g.encode .rne false (.inf n))
          ∧ (k = .max → vs ≠ [] → ∃ v ∈ vs, (∀ w ∈ vs, v.lt w = false) ∧ c = g.encode .rne false v)
          ∧ (k = .min → vs ≠ [] → ∃ v ∈ vs, (∀ w ∈ vs, w.lt v = false) ∧ c = g.encode .rne false v)))
  ∧ (∀ (k : Red) (fs fd : Nat) (l : List (Option Lane)) (xs : List Int) (c : Nat × BitVec 8) (x lo hi : Int),
    fs ∈ [0x04, 0x05, 0x06, 0x07, 0x0F] → fd ∈ [0x04, 0x05, 0x06, 0x07, 0x0F] →
    lo = (if fd = 0x07 then 0 else -2 ^ (fmtBits fd - 1)) → hi = (if fd = 0x07 then 255 else 2 ^ (fmtBits fd - 1) - 1) →
    xs = l.filterMap (Option.map fun x => intVal fs x.1) → c = (RedAcc.lanes k fs {} l).code k fd →
    (match k with
      | .add => x = xs.sum
      | .max => if xs = [] then x = lo else x ∈ xs ∧ ∀ y ∈ xs, y ≤ x
      | .min => if xs = [] then x = hi else x ∈ xs ∧ ∀ y ∈ xs, x ≤ y) →
    intVal fd c.1 = max lo (min hi x) ∧ c.2 = if intVal fd c.1 = x then 0 else flagSAT)
  ∧ (∀ (k : Red) (fd fs : Nat) (r : RedAcc) (l : List (Option Lane)) (y : List (Option Nat) × BitVec 8 × RedAcc),
    y = scanLanes k fd fs r l →
    y.1.length = l.length ∧ y.2.2 = r.lanes k fs l
      ∧ ∀ j, j < l.length →
          (l.getD j none = none → y.1.getD j none = none)
          ∧ ∀ x, l.getD j none = some x → y.1.getD j none = some ((r.lanes k fs (l.take (j + 1))).code k fd).1
              ∧ ((r.lanes k fs (l.take (j + 1))).code k fd).2 &&& y.2.1 = ((r.lanes k fs (l.take (j + 1))).code k fd).2)
  ∧ (∀ (h : HRec) (v : Nat) (vals : List (Option Nat)) (a : Int) (hi : Bool) (x : Nat), hBcast h 0 = false → fmtBlock (hFmt h) = false →
    (nibIn 0 (pushBytes h v vals) a hi = some x ↔
      ∃ k d c, k < hVecLanes h v ∧ vals.getD k none = some c ∧ d < fmtStore (hFmt h) / 4
        ∧ (((k * (fmtStore (hFmt h) / 4) + d) / 2 : Nat) : Int) = a ∧ ((k * (fmtStore (hFmt h) / 4) + d) % 2 == 1) = hi
        ∧ c / 16 ^ d % 16 = x))
  ∧ (∀ (f : VForm) (k : Red) (d a : Nat) (r u : Run) (bytes : List Byte) (hs hd : HRec) (acc : RedAcc) (c : Nat × BitVec 8)
    (res : List Nat), f.kind = .red k → f.dst = [d] → f.src = [a] → d ≠ a → hs = r.s.portRec a → hd = r.s.portRec d →
    u = f.take r [bytes] → acc = r.w.st.acc.lanes k (hFmt hs) (popLanes hs (r.idx a) bytes).1 → c = acc.code k (hFmt hd) →
    res = r.w.st.res ++ [c.1] →
    f.want r = [r.popReq a] ∧ u.s = r.s
      ∧ (r.w.st.i + 1 < hRunVecs hs → u.w.st.acc = acc ∧ u.w.st.res = r.w.st.res ∧ u.w.outs = r.w.outs)
      ∧ (hRunVecs hs ≤ r.w.st.i + 1 → u.w.st.acc = {} ∧ c.2 &&& u.w.flags = c.2
          ∧ (r.w.st.k + 1 < hRuns hs → res.length < hVecLanes hd (r.idx d) → u.w.st.res = res ∧ u.w.outs = r.w.outs)
          ∧ (hRuns hs ≤ r.w.st.k + 1 ∨ hVecLanes hd (r.idx d) ≤ res.length → u.w.st.res = []
              ∧ ∃ t, u.w.outs = (r.out t d (hSpace hd) (hVecAddr hd (r.idx d)) (pushBytes hd (r.idx d) (res.map some))).w.outs)))
  ∧ (∀ (f : VForm) (k : Red) (a : Nat) (r u : Run) (bytes : List Byte) (hs : HRec) (acc : RedAcc) (c : Nat × BitVec 8),
    f.kind = .redx k → f.src = [a] → hs = r.s.portRec a → u = f.take r [bytes] →
    acc = r.w.st.acc.lanes k (hFmt hs) (popLanes hs (r.idx a) bytes).1 →
    c = acc.code k (if fmtFloat (hFmt hs) then 0x01 else 0x0F) →
    f.want r = [r.popReq a] ∧ u.s = r.s ∧ u.w.outs = r.w.outs ∧ u.w.st.acc = acc
      ∧ (r.w.st.i + 1 < hNV hs → u.w.xres = r.w.xres)
      ∧ (hNV hs ≤ r.w.st.i + 1 → u.w.xres = r.w.xres.map (fun e => (e.1, BitVec.ofNat 64 c.1)) ∧ c.2 &&& u.w.flags = c.2))
  ∧ (∀ (f : VForm) (k : Red) (d a : Nat) (r u : Run) (bytes : List Byte) (hs hd : HRec) (y : List (Option Nat) × BitVec 8 × RedAcc),
    f.kind = .scan k → f.dst = [d] → f.src = [a] → d ≠ a → hs = r.s.portRec a → hd = r.s.portRec d → u = f.take r [bytes] →
    y = scanLanes k (hFmt hd) (hFmt hs) r.w.st.acc ((popLanes hs (r.idx a) bytes).1.take (hVecLanes hd (r.idx d))) →
    f.want r = [r.popReq a] ∧ u.s = r.s ∧ y.2.1 &&& u.w.flags = y.2.1
      ∧ u.w.st.acc = (if r.w.st.i + 1 < hRunVecs hs then y.2.2 else {})
      ∧ ∃ t, u.w.outs = (r.out t d (hSpace hd) (hVecAddr hd (r.idx d)) (pushBytes hd (r.idx d) y.1)).w.outs)
  ∧ (∀ (g : FFmt) (k : Nat) (els : List Nat) (y : List Nat × List Nat) (before : Nat → Nat → Prop), g ∈ [fF32, fBF16, fF16] →
    k ≤ els.length → y = topK g k els →
    before = (fun i j => let a := g.decode (els.getD i 0); let b := g.decode (els.getD j 0)
      (a.isNan = false ∧ (b.isNan = true ∨ b.lt a = true)) ∨ ((a.isNan = b.isNan ∧ (a.isNan = true ∨ a.eqv b = true)) ∧ i < j)) →
    y.1.length = els.length ∧ y.2.length = els.length ∧ (y.2.take k).Nodup ∧ (∀ i ∈ y.2.take k, i < els.length)
      ∧ (∀ n, n < k → y.1.getD n 0 =
          if (g.decode (els.getD (y.2.getD n 0) 0)).isNan then g.nanCode else els.getD (y.2.getD n 0) 0)
      ∧ (∀ m n, m < n → n < k → before (y.2.getD m 0) (y.2.getD n 0))
      ∧ (∀ n j, n < k → j < els.length → j ∉ y.2.take k → before (y.2.getD n 0) j)
      ∧ ∀ n, k ≤ n → n < els.length → g.decode (y.1.getD n 0) = .inf true ∧ y.2.getD n 0 = 0xFFFF)
  ∧ (∀ (f : VForm) (d b a : Nat) (g : FFmt) (r u : Run) (bytes : List Byte) (hs hd hb : HRec) (y : List Nat × List Nat),
    f.kind = .topk → f.dst = [d, b] → f.src = [a] → d ≠ a → b ≠ a → d ≠ b → hs = r.s.portRec a → hd = r.s.portRec d →
    hb = r.s.portRec b → ffmtOf (hFmt hd) = some g → hRunVecs hd = 1 → hRunVecs hb = 1 → u = f.take r [bytes] →
    y = topK g (r.w.word.xv 3).toNat
      (((lanesOf r.w.st.buf a ++ (popLanes hs (r.idx a) bytes).1).take (hExt hs 0)).map fun o => (o.getD (0, 0)).1) →
    f.want r = [r.popReq a] ∧ u.s = r.s
      ∧ (r.w.st.i + 1 < hRunVecs hs → u.w.outs = r.w.outs
          ∧ lanesOf u.w.st.buf a = lanesOf r.w.st.buf a ++ (popLanes hs (r.idx a) bytes).1)
      ∧ (hRunVecs hs ≤ r.w.st.i + 1 → ∃ t t', u.w.outs =
          ((r.out t d (hSpace hd) (hVecAddr hd (r.idx d)) (pushBytes hd (r.idx d) (y.1.map some))).out t' b (hSpace hb)
            (hVecAddr hb (r.idx b)) (pushBytes hb (r.idx b) (y.2.map some))).w.outs))
  ∧ (∀ (f : VForm) (a b : Nat) (r u : Run) (bytes : Nat → List Byte) (hd : HRec) (w : Nat) (lane : Nat → Nat → Option Lane) (res : Nat → Nat),
    f.kind = .perm → f.src = [a, b] → hd = r.s.portRec (f.dst.headD 0) → f.dst.headD 0 ∉ f.src → w = fmtStore (hFmt hd) / 4 →
    (∀ q ∈ f.dst.headD 0 :: f.src, fmtBlock (hFmt (r.s.portRec q)) = false ∧ fmtLanes (hFmt (r.s.portRec q)) = fmtLanes (hFmt hd)) →
    r.w.st.i = 0 → r.w.st.buf = [] → r.w.outs = [] → stepShape (r.s.portRec a) hd r.w.st.k = (1, 1) →
    u = f.take r ((distinctPorts f.src).map bytes) →
    lane = (fun q k => (popLanes (r.s.portRec q) (r.idx q) (bytes q)).1.getD k none) →
    res = (fun x => let i := intVal (hFmt (r.s.portRec b)) x
      if 0 ≤ i ∧ i < fmtLanes (hFmt hd) then ((lane a i.toNat).map Prod.fst).getD 0 else 0) →
    f.want r = (distinctPorts f.src).map r.popReq ∧ u.s = r.s ∧ u.w.flags = r.w.flags
      ∧ ∀ at_ hi v, (∃ o ∈ u.w.outs, o.writes at_ hi v) ↔
          ∃ k d x y, k < hVecLanes hd (r.idx (f.dst.headD 0)) ∧ d < w ∧ lane a k = some x ∧ lane b k = some y
            ∧ hVecAddr hd (r.idx (f.dst.headD 0)) + (((k * w + d) / 2 : Nat) : Int) = at_ ∧ ((k * w + d) % 2 == 1) = hi
            ∧ res y.1 / 16 ^ d % 16 = v)
  ∧ (∀ (f : VForm) (d : Nat) (r u : Run) (hd : HRec) (w : Nat) (val : Nat → Nat → Nat), f.dst = [d] → hd = r.s.portRec d →
    w = fmtStore (hFmt hd) / 4 → fillRow (hFmt hd) (r.w.word.xv 2) (r.w.word.xv 3) f.kind = some val → fmtBlock (hFmt hd) = false →
    hBcast hd 0 = false → r.w.outs = [] → u = f.take r [] →
    u.s = r.s ∧ u.w.flags = r.w.flags
      ∧ (∃ t, r.w.st.t + (if f.kind = .randU ∨ f.kind = .randB then 4 else 2) ≤ t
          ∧ ∀ o ∈ u.w.outs, o.at_ = t + r.w.gap ∧ o.space = hSpace hd)
      ∧ ∀ a hi v, (∃ o ∈ u.w.outs, o.writes a hi v) ↔
          ∃ k n, k < hVecLanes hd (r.idx d) ∧ n < w
            ∧ hVecAddr hd (r.idx d) + (((k * w + n) / 2 : Nat) : Int) = a ∧ ((k * w + n) % 2 == 1) = hi
            ∧ val (r.idx d) k / 16 ^ n % 16 = v)
  ∧ (∀ n : Nat, n < 2 ^ 24 → (fF32.decode (fF32.encode .rne false (.fin false n (-24))).1).rat = (n : ℚ) / 2 ^ 24)
  ∧ (∀ (f : VForm) (a : Nat) (r u : Run) (bytes : List Byte) (hs : HRec) (o : Option Lane) (v : Word), f.kind = .extr → f.src = [a] →
    hs = r.s.portRec a → u = f.take r [bytes] → o = (popLanes hs (r.idx a) bytes).1.getD (r.w.word.xv 3).toNat none →
    v = (match o with
      | none => 0
      | some x => if fmtInt (hFmt hs) then BitVec.ofInt 64 (intVal (hFmt hs) x.1) else BitVec.ofNat 64 x.1) →
    f.want r = [r.popReq a] ∧ u.s = r.s ∧ u.w.outs = r.w.outs ∧ u.w.xres = r.w.xres.map (fun e => (e.1, v)))
  ∧ (∀ (f : Nat) (fixed : Option Int) (l : List Sys2Proof.Machine.Num) (q : List Byte × BitVec 8) (w : Nat) (top : ℚ),
    f ∈ [0x86, 0x87, 0x88, 0x8A, 0x8B, 0x8C, 0x8D] → l.length = 48 → q = quantBlock f fixed l → w = fmtBits f →
    top = (if f = 0x86 then 127 else if f = 0x87 then 255 else if f = 0x88 then 7 else if f = 0x8A then 448
      else if f = 0x8B then 57344 else if f = 0x8C then 6 else 0xD745 / 2 ^ 15) →
    ∃ (sig : Int) (c : Nat → Nat × BitVec 8), q.1.length = 64 ∧ (q.1.getD 0 0).toNat = f ∧ q.1.getD 1 0 = BitVec.ofInt 8 sig
      ∧ (∀ s, fixed = some s → sig = s)
      ∧ (fixed = none → (∀ v ∈ l, v.rat = 0) → sig = 0)
      ∧ (∀ x ∈ l, fixed = none → x.rat ≠ 0 → (∀ v ∈ l, |v.rat| ≤ |x.rat|) →
          ∃ s : Int, |x.rat| ≤ top * (2 : ℚ) ^ s ∧ top * (2 : ℚ) ^ (s - 1) < |x.rat| ∧ sig = max (-128) (min 127 s))
      ∧ ∀ i v, i < 48 → l[i]? = some v →
          leNat (q.1.drop 2) / 2 ^ (w * i) % 2 ^ w = (c i).1 % 2 ^ w ∧ (c i).2 &&& q.2 = (c i).2
          ∧ (f = 0x8D → c i = toLns sig v)
          ∧ (f ≠ 0x8D → v.isFin = false → c i = elemCode (f % 128) .rne true v)
          ∧ (f ≠ 0x8D → v.isFin = true → ∃ x : Sys2Proof.Machine.Num, x.isFin = true ∧ x.rat = v.rat * (2 : ℚ) ^ (-sig)
              ∧ (c i).1 = (elemCode (f % 128) .rne true x).1
              ∧ (elemCode (f % 128) .rne true x).2 &&& (c i).2 = (elemCode (f % 128) .rne true x).2)
          ∧ (f = 0x87 → v.isFin = true → v.rat < 0 → (c i).1 = 0 ∧ (c i).2 &&& flagSAT = flagSAT))
  ∧ (∀ (f : Nat) (g : FFmt) (v : Sys2Proof.Machine.Num) (c : Nat × BitVec 8), f ∈ [0x0A, 0x0B, 0x0C] → ffmtOf f = some g →
    v.isFin = true → c = elemCode f .rne true v →
    (g.decode c.1).isFin = true
      ∧ (∀ k, (g.decode k).isFin = true → |v.rat - (g.decode c.1).rat| ≤ |v.rat - (g.decode k).rat|
          ∧ ((g.decode k).rat ≠ (g.decode c.1).rat → |v.rat - (g.decode k).rat| = |v.rat - (g.decode c.1).rat| → c.1 % 2 = 0))
      ∧ (c.2 &&& flagNX = 0 ↔ (g.decode c.1).rat = v.rat))
  ∧ (∀ (f : Nat) (v : Sys2Proof.Machine.Num) (c : Nat × BitVec 8), f ∈ [0x06, 0x07, 0x08] → v.isFin = true → c = elemCode f .rne true v →
    ∃ n : Int, 2 * |v.rat - n| ≤ 1 ∧ (2 * |v.rat - n| = 1 → n % 2 = 0)
      ∧ intVal f c.1 = max (if f = 0x07 then 0 else -2 ^ (fmtBits f - 1)) (min (if f = 0x07 then 255 else 2 ^ (fmtBits f - 1) - 1) n)
      ∧ (c.2 &&& flagSAT = 0 ↔ intVal f c.1 = n) ∧ (c.2 &&& flagNX = 0 ↔ (intVal f c.1 : ℚ) = v.rat))
  ∧ (∀ (fd fs : Nat) (g : FFmt) (els : List (Option Lane)) (a : Int) (hi : Bool) (v : Nat), fd ∈ [0x01, 0x02, 0x03] → ffmtOf fd = some g →
    (nibIn 0 (dequantVec fd fs els).1 a hi = some v ↔
      ∃ k d x, els.getD k none = some x ∧ d < fmtStore fd / 4 ∧ (((k * (fmtStore fd / 4) + d) / 2 : Nat) : Int) = a
        ∧ ((k * (fmtStore fd / 4) + d) % 2 == 1) = hi ∧ (g.encode .rne false (elemVal fs x.1 x.2)).1 / 16 ^ d % 16 = v)
      ∧ ∀ k x, els.getD k none = some x →
          (g.encode .rne false (elemVal fs x.1 x.2)).2 &&& (dequantVec fd fs els).2 = (g.encode .rne false (elemVal fs x.1 x.2)).2)
  ∧ (∀ (f b : Nat) (s : Int), f ∈ [0x86, 0x87, 0x88, 0x8A, 0x8B, 0x8C, 0x8D] → (elemVal (f % 128) b 0).isFin = true →
    (elemVal f b s).isFin = true ∧ (elemVal f b s).rat = (elemVal (f % 128) b 0).rat * (2 : ℚ) ^ s)
  ∧ (∀ (h : HRec) (v k w : Nat) (bytes : List Byte), hFmt h ∈ [0x86, 0x87, 0x88, 0x8A, 0x8B, 0x8C, 0x8D] → hBcast h 0 = false →
    hVecLanes h v % 48 = 0 → k < hVecLanes h v → w = fmtBits (hFmt h) →
    if (bytes.getD (64 * (k / 48)) 0).toNat = hFmt h then
      (popLanes h v bytes).1.getD k none =
        some (leNat ((bytes.drop (64 * (k / 48) + 2)).take 62) / 2 ^ (w * (k % 48)) % 2 ^ w, (bytes.getD (64 * (k / 48) + 1) 0).toInt)
    else (popLanes h v bytes).1.getD k none = some (if hFmt h = 0x8D then 0x20 else 0, 0) ∧ (popLanes h v bytes).2 = true)
  ∧ ∀ (f : VForm) (d a : Nat) (r u : Run) (bytes : List Byte) (hs hd : HRec) (els : List (Option Lane)) (y : List (Byte × Nat) × BitVec 8),
    f.kind = .quant ∨ f.kind = .dequant → f.dst = [d] → f.src = [a] → d ≠ a → hs = r.s.portRec a → hd = r.s.portRec d →
    hRunVecs hs = 1 → hRunVecs hd = 1 → hExt hs 0 = hExt hd 0 → r.w.st.i = 0 → r.w.st.buf = [] → u = f.take r [bytes] →
    els = (popLanes hs (r.idx a) bytes).1.take (hExt hd 0) →
    y = (if f.kind = .dequant then dequantVec (hFmt hd) (hFmt hs) els
      else quantVec (hFmt hd) (hFmt hs)
        (if (r.w.word.xv 3).getLsbD 8 then some ((r.w.word.xv 3).extractLsb' 0 8).toInt else none) els) →
    f.want r = [r.popReq a] ∧ u.s = r.s ∧ y.2 &&& u.w.flags = y.2
      ∧ (f.kind = .quant → y.1 = (List.range (els.length / 48)).flatMap fun b =>
          (quantBlock (hFmt hd) (if (r.w.word.xv 3).getLsbD 8 then some ((r.w.word.xv 3).extractLsb' 0 8).toInt else none)
            (((els.drop (48 * b)).take 48).map fun o => elemVal (hFmt hs) (o.getD (0, 0)).1)).1.map fun x => (x, 3))
      ∧ ∃ t, u.w.outs = (r.out t d (hSpace hd) (hVecAddr hd (r.idx d)) y.1).w.outs

/-- What the sum-product words compute and move (R29, R256, R257, R258, R261, R266). Products, sums and weighted sums are exact, and
rounded once. SPUP gives every present leaf its register and every present node the value of R256 from its children's, saves the values
of the nodes with SAVE in ascending order, and writes the root's last. SPDN gives the root the gradient in DEST, each child that a
reached node reaches the gradient of R258, and adds each reached leaf's, in ascending order, to its gradient register; where a value that
it needs is not saved it is a shape fault. SPNORM scales the distinct registers of its set by one power of two, that of the greatest
magnitude, and adds the exponent to DEST, clamped. SPLD's element i goes to register D + i modulo 1024, SPSHAPE's and SPLIST's entries to
their tables, and SPST writes register D + i as element i and nothing else; what a word has for the registers stands when it completes.
Where the manual leaves a point of it open, it states the model's choice (notes/assumptions/13.md, 19.md). -/
def Obligations.SumProductEffects : Prop :=
  (∀ a b w : Nat, ∃ x y z : Sys2Proof.Machine.Num, x.isFin = true ∧ y.isFin = true ∧ z.isFin = true
    ∧ x.rat = (spVal a).rat * (spVal b).rat ∧ spMul false a b = toSp x
    ∧ y.rat = (spVal a).rat + (spVal b).rat ∧ spAdd false a b = toSp y
    ∧ z.rat = (spVal w).rat * ((spVal a).rat + (spVal b).rat) ∧ spWsum false w a b = toSp z)
  ∧ (∀ a b w : Nat, (fF32.decode a).isFin = true → (fF32.decode b).isFin = true → (fF32.decode w).isFin = true →
    ∃ x y z : Sys2Proof.Machine.Num, x.isFin = true ∧ y.isFin = true ∧ z.isFin = true
      ∧ x.rat = (fF32.decode a).rat * (fF32.decode b).rat ∧ spMul true a b = fF32.encode .rne false x
      ∧ y.rat = (fF32.decode a).rat + (fF32.decode b).rat ∧ spAdd true a b = fF32.encode .rne false y
      ∧ z.rat = (fF32.decode w).rat * ((fF32.decode a).rat + (fF32.decode b).rat) ∧ spWsum true w a b = fF32.encode .rne false z)
  ∧ (∀ (v : Sys2Proof.Machine.Num) (c : Nat × BitVec 8), v.isFin = true → 2 ^ (-959 : ℤ) ≤ v.rat → v.rat ≤ (2 ^ 64 - 2 ^ 41 : ℚ) →
    c = toSp v → c.1 < 2 ^ 32 ∧ (∀ k, k < 2 ^ 32 → |v.rat - (spVal c.1).rat| ≤ |v.rat - (spVal k).rat|)
      ∧ (∀ k, k < 2 ^ 32 → (spVal k).rat ≠ (spVal c.1).rat → |v.rat - (spVal k).rat| = |v.rat - (spVal c.1).rat| → c.1 % 2 = 0)
      ∧ c.2 = if (spVal c.1).rat = v.rat then 0 else flagNX)
  ∧ (∀ (e : SpEnv) (dest : Nat) (x : SpRun × List (Nat × Nat)), x = e.up dest →
    (∀ j, j < 16 → spPresent e.sh (16 + j) = true → sget none x.1.vals (16 + j) = some (e.reg (spLeafReg e.ls j)))
      ∧ (∀ i, 1 ≤ i → i < 16 → spPresent e.sh i = true →
          sget none x.1.vals i = some (upRow e x.1.val i).1 ∧ (upRow e x.1.val i).2 &&& x.1.flags = (upRow e x.1.val i).2)
      ∧ x.2 = (((List.range 16).filter fun i => i != 0 && spPresent e.sh i && spSave e.ls i).map fun i => (spSaveReg e.ls i, x.1.val i))
          ++ [(dest, x.1.val (spRoot e.sh))])
  ∧ (∀ (e : SpEnv) (dest : Nat) (x : SpRun × List (Nat × Nat)), x = e.down dest → spFault e.sh = false → x.1.fault = false →
    sget none x.1.vals (spRoot e.sh) = some (e.reg dest)
      ∧ (∀ i g, 1 ≤ i → i < 16 → sget none x.1.vals i = some g →
          sget none x.1.vals (2 * i) = (downRow e i g).1.map Prod.fst ∧ sget none x.1.vals (2 * i + 1) = (downRow e i g).2.map Prod.fst
            ∧ (∀ y, (downRow e i g).1 = some y ∨ (downRow e i g).2 = some y → y.2 &&& x.1.flags = y.2))
      ∧ (∀ i, 1 ≤ i → i < 16 → sget none x.1.vals i = none →
          (2 * i ≠ spRoot e.sh → sget none x.1.vals (2 * i) = none)
            ∧ (2 * i + 1 ≠ spRoot e.sh → sget none x.1.vals (2 * i + 1) = none))
      ∧ (∀ i g, 1 ≤ i → i < 16 → sget none x.1.vals i = some g → spKind e.sh i = 2 → spPresent e.sh (2 * i) = true →
          spPresent e.sh (2 * i + 1) = true → i < 8 → spSave e.ls (2 * i) = true ∧ spSave e.ls (2 * i + 1) = true)
      ∧ ∀ L : List Nat, L = (List.range 16).filter (fun j => (sget none x.1.vals (16 + j)).isSome) →
          x.2.length = L.length
            ∧ ∀ m n old, m < L.length → n = (spLeafReg e.ls (L.getD m 0) + spGoff e.mode) % 1024 →
                old = (((x.2.take m).reverse.find? fun y => y.1 == n).elim (e.reg n) Prod.snd) →
                x.2.getD m (0, 0) = (n, (spAdd (spFp e.mode) old (x.1.val (16 + L.getD m 0))).1)
                  ∧ (spAdd (spFp e.mode) old (x.1.val (16 + L.getD m 0))).2 &&& x.1.flags =
                      (spAdd (spFp e.mode) old (x.1.val (16 + L.getD m 0))).2)
  ∧ (∀ (e : SpEnv) (dest : Nat) (val : Nat → Sys2Proof.Machine.Num), val = (fun n => spNum (spFp e.mode) (e.reg n)) →
    ∃ (mem : List Nat) (k : Int), mem.Nodup
      ∧ (∀ n, n ∈ mem ↔ ∃ j, j < 16 ∧ bitOf e.sh (30 + j) = true ∧ spLeafReg e.ls j = n)
      ∧ (∀ n ∈ mem, |(val n).rat| < (2 : ℚ) ^ (k + 1))
      ∧ ((∃ n ∈ mem, (2 : ℚ) ^ k ≤ |(val n).rat|) ∨ ((∀ n ∈ mem, (val n).rat = 0) ∧ k = 0))
      ∧ (e.norm dest).2 = (mem.map fun n => (n, match val n with
            | .fin s m x => (spRound (spFp e.mode) (.fin s m (x - k), false)).1
            | _ => e.reg n))
          ++ [(dest, intBits 32 (max (-2 ^ 31) (min (2 ^ 31 - 1) (toSInt 32 (e.reg dest) + k))))])
  ∧ (∀ (g : Ctl) (h : BitVec 4) (d : BitVec 10) (r : Run) (nibs : List Nat) (n : Nat), n = hElems (r.w.word.rec_ 0) →
    nibs.length = 8 * n → r.w.wregs = spRegs d.toNat n → r.w.moved = 0 →
    (r.w.word.instr = .spld g h d →
        (spLoaded r nibs).w.tables = (List.range n).map fun i => (2, (d.toNat + i) % 1024, nibNum 8 nibs i))
      ∧ (r.w.word.instr = .spldCvt g h d →
        (spLoaded r nibs).w.tables = (List.range n).map fun i => (2, (d.toNat + i) % 1024, (toSp (fF32.decode (nibNum 8 nibs i))).1)))
  ∧ (∀ (g : Ctl) (sh : BitVec 8) (ls : BitVec 10) (h : BitVec 4) (r : Run) (nibs : List Nat),
    (r.w.word.instr = .spshape g sh h → (spLoaded r nibs).w.tables =
        (List.range (nibs.length / 16)).map fun i => (0, sh.toNat + i, nibNum 16 nibs i))
      ∧ (r.w.word.instr = .splist g ls h → (spLoaded r nibs).w.tables =
        (List.range (nibs.length / 128)).map fun i => (1, ls.toNat + i, nibNum 128 nibs i)))
  ∧ (∀ (w : QWord) (d : Nat) (cvt : Bool) (s : State) (h : HRec) (val : Nat → Nat), h = w.rec_ 0 → hBcast h 0 = false →
    fmtBlock (hFmt h) = false → fmtStore (hFmt h) = 32 → 0 < hExt h 0 → hElems h ≤ 1024 →
    val = (fun i => let b := (sget 0 s.cur.v ((d + i) % 1024)).toNat; if cvt then (f32Round (spVal b, false)).1 else b) →
    ∃ x ∈ (dispSpst w d cvt s).cur.running, x.word = w
      ∧ (∀ o ∈ x.outs, o.space = hSpace h)
      ∧ ∀ a hi v, (∃ o ∈ x.outs, o.writes a hi v) ↔ ∃ i j, i < hElems h ∧ j < 8 ∧ nibAt h i j = (a, hi) ∧ val i / 16 ^ j % 16 = v)
  ∧ ∀ (r : Running) (s : State) (n : Nat),
    (∀ pre post v, r.tables = pre ++ (2, n, v) :: post → (∀ e ∈ post, e.1 ≠ 0 → e.1 ≠ 1 → e.2.1 ≠ n) →
        sget 0 (completeWord r s).cur.v n = BitVec.ofNat 32 v)
      ∧ ((∀ e ∈ r.tables, e.1 ≠ 0 → e.1 ≠ 1 → e.2.1 ≠ n) → sget 0 (completeWord r s).cur.v n = sget 0 s.cur.v n)
      ∧ (∀ pre post v, r.tables = pre ++ (0, n, v) :: post → (∀ e ∈ post, e.1 = 0 → e.2.1 ≠ n) →
        sget 0 (completeWord r s).cur.shapes n = BitVec.ofNat 64 v)
      ∧ (∀ pre post v, r.tables = pre ++ (1, n, v) :: post → (∀ e ∈ post, e.1 = 1 → e.2.1 ≠ n) →
        sget 0 (completeWord r s).cur.lists n = BitVec.ofNat 512 v)

/-- ENGINE_WORD_COMPLETION (R96, R103): a running word whose completion has come leaves the engine; its scalar result and its
predicate are written, its predicate select reports an expired read, a failed renewal or an index out of range (R174), its flags join
ARITHFLAG and the expired reads EXPFLAG (R35, R164), and its raise goes to the sync engine. -/
def Obligations.EngineWordCompletion : Prop :=
  ∀ (seq : Nat) (r : Running) (s : State),
    s.cur.running.find? (fun r => r.word.seq == seq && s.engineDone r) = some r →
    ∃ u, exec (.engineWordCompletion seq) s = .next u
      ∧ (∀ x ∈ u.cur.running, x.word.seq ≠ seq)
      ∧ (∀ d v, r.xres = some (d, v) → d ≠ 0 → d < 56 → u.getX d = v)
      ∧ (∀ d v, r.pres = some (d, v) → r.psel = none → d ≠ 0 → d < 8 → u.getP d = v)
      ∧ (∀ d, r.psel = some d → d ≠ 0 → d < 8 → u.getP d = (r.bad || r.exp || r.rnf))
      ∧ u.cur.arith = s.cur.arith ||| (0#8 ++ r.flags)
      ∧ u.cur.expf.getLsbD 0 = (s.cur.expf.getLsbD 0 || r.exp) ∧ u.cur.expf.getLsbD 1 = s.cur.expf.getLsbD 1
      ∧ (∀ k, r.word.sr = some k →
          ∃ x ∈ u.raises, x.sem = k ∧ x.n = 1 ∧ x.init = false ∧ x.slot = s.slotNo ∧ x.prio = s.cur.prio
            ∧ x.vdie = s.cur.vdie ∧ x.cell = s.cur.cell)

/-- The results of integer lanes (R39, R229, R232): a saturating lane is the exact result clamped to the range of its format, and
sets SAT exactly when it was clamped; a wrapping lane is the exact result modulo the format's width, and sets no flag. An integer
K-step adds to its INT32 element in the same two ways. -/
def Obligations.IntegerArithmetic : Prop :=
  (∀ (op : Bin) (f a b : Nat), f ∈ [0x04, 0x05, 0x06, 0x07, 0x08, 0x0F] →
    intVal f (satLane op f a b).1 =
        max (if f = 0x07 then 0 else -2 ^ (fmtBits f - 1))
          (min (if f = 0x07 then 255 else 2 ^ (fmtBits f - 1) - 1) (intBin op (intVal f a) (intVal f b)))
      ∧ ((satLane op f a b).2 = flagSAT ↔ intVal f (satLane op f a b).1 ≠ intBin op (intVal f a) (intVal f b))
      ∧ ((satLane op f a b).2 = 0 ↔ intVal f (satLane op f a b).1 = intBin op (intVal f a) (intVal f b)))
  ∧ (∀ (op : Bin) (f a b : Nat), f ∈ [0x04, 0x05, 0x06, 0x07, 0x08, 0x0F] →
    (intVal f (binLane op f a b).1 - intBin op (intVal f a) (intVal f b)) % 2 ^ fmtBits f = 0 ∧ (binLane op f a b).2 = 0)
  ∧ (∀ (old : Nat) (x : Int), old < 2 ^ 32 →
    (toSInt 32 (joinInt false old x).1 - (toSInt 32 old + x)) % 2 ^ 32 = 0 ∧ (joinInt false old x).2 = 0)
  ∧ ∀ (old : Nat) (x : Int), old < 2 ^ 32 →
    toSInt 32 (joinInt true old x).1 = max (-2 ^ 31) (min (2 ^ 31 - 1) (toSInt 32 old + x))
      ∧ ((joinInt true old x).2 = flagSAT ↔ toSInt 32 (joinInt true old x).1 ≠ toSInt 32 old + x)
      ∧ ((joinInt true old x).2 = 0 ↔ toSInt 32 (joinInt true old x).1 = toSInt 32 old + x)

/-! ### Completions and events of the units -/

/-- SCALAR_ACCESS_COMPLETION of an operation that is no access: a multiply or a divide writes its registers (R114), SEMTEST its
predicate (R136), a raise and a SEMINIT go to the sync engine (R133), a fence no longer stands (R280), and an atomic returns the old
word and sets its flags (R303, R304). -/
def Obligations.SequencerCompletions : Prop :=
  (∀ (s : State) (p : PendOp) (l : List (Nat × Word)), s.cur.pend.find? s.pendReady = some p → p.act = .regs l →
    ∃ u, exec .scalarAccessCompletion s = .next u ∧ SameRegs (l.map Prod.fst) [] [] [] s u
      ∧ SameMem (inboxBytes s (l.map Prod.fst)) s u
      ∧ (∀ d v, l = [(d, v)] → d ≠ 0 → d < 64 → u.getX d = v)
      ∧ ∀ d e v v', l = [(d, v), (e, v')] → d ≠ 0 → d < 64 → e ≠ 0 → e < 64 → d ≠ e → u.getX d = v ∧ u.getX e = v')
  ∧ (∀ (s : State) (p : PendOp) (k : Nat) (v : Bool), s.cur.pend.find? s.pendReady = some p → p.act = .pred k v → k ≠ 0 → k < 8 →
    ∃ u, exec .scalarAccessCompletion s = .next u ∧ u.getP k = v ∧ SameRegs [] [k] [] [] s u ∧ SameMem (fun _ => False) s u)
  ∧ (∀ (s : State) (p : PendOp) (sem n : Nat), s.cur.pend.find? s.pendReady = some p → p.act = .raise sem n →
    ∃ u x, exec .scalarAccessCompletion s = .next u ∧ u.raises = s.raises ++ [x] ∧ x.sem = sem ∧ x.n = n ∧ x.init = false
      ∧ x.slot = s.slotNo ∧ SameRegs [] [] [] [] s u ∧ SameMem (fun _ => False) s u)
  ∧ (∀ (s : State) (p : PendOp) (sem n : Nat), s.cur.pend.find? s.pendReady = some p → p.act = .seminit sem n →
    ∃ u x, exec .scalarAccessCompletion s = .next u ∧ u.raises = s.raises ++ [x] ∧ x.sem = sem ∧ x.n = n ∧ x.init = true
      ∧ x.slot = s.slotNo ∧ SameRegs [] [] [] [] s u ∧ SameMem (fun _ => False) s u)
  ∧ (∀ (s : State) (p : PendOp) (pre : BitVec 10), s.cur.pend.find? s.pendReady = some p → p.act = .fence pre →
    s.fencePreds p.seq p.due pre = false
      ∧ ∃ u, exec .scalarAccessCompletion s = .next u ∧ (∀ f ∈ u.cur.fences, f.seq ≠ p.seq)
        ∧ SameRegs [] [] [] [] s u ∧ SameMem (fun _ => False) s u)
  ∧ ∀ (s : State) (p : PendOp) (d : Nat) (v pc : Word) (flags : BitVec 8), s.cur.pend.find? s.pendReady = some p →
    p.act = .applied [(d, v)] flags pc → d ≠ 0 → d < 64 →
    ∃ u, exec .scalarAccessCompletion s = .next u ∧ u.getX d = v ∧ u.cur.arith = s.cur.arith ||| (0#8 ++ flags)

/-- BLOCK_FETCH_COMPLETE puts the block first in the stream buffer's eight, and the unit of a block that the strand waits for issues from
the next tick on (R92); an issue slot that has yet to come stays. TILE_EXPIRY writes nothing: a tile lives for 2^20
ticks from its birth (R160). TILE_BUSY_WINDOW_END moves no access (R167). RAIL_STEP_STANDS makes the step of a cluster that is still
requested stand when it is due (R218, R331).
Where the manual leaves a point of it open, it states the model's choice (notes/assumptions/11.md, 17.md). -/
def Obligations.UnitEvents : Prop :=
  (∀ (s : State) (blk : Word) (t : Nat), s.cur.fetching.find? (fun f => decide (f.2 ≤ s.z0)) = some (blk, t) →
    ∃ u, exec .blockFetchComplete s = .next u ∧ u.cur.stream = (blk :: s.cur.stream).take 8
      ∧ u.cur.fetching = s.cur.fetching.erase (blk, t)
      ∧ (s.cur.out = false → s.cur.slot ≤ s.z0 →
          s.cur.status = .running ∧ s.blockOf s.cur.pc = blk ∨ s.cur.status = .restoring ∧ s.blockOf s.cur.nextPc = blk →
          u.cur.slot = s.z0 + 1)
      ∧ (s.z0 < s.cur.slot → u.cur.slot = s.cur.slot)
      ∧ SameRegs [] [] [] [] s u ∧ SameMem (fun _ => False) s u)
  ∧ (∀ (slot tile : Nat) (s : State), exec (.tileExpiry slot tile) s = .next s)
  ∧ (∀ (slot tile r b : Nat) (s : State), sget none s.births (tileKey slot tile) = some (b : Int) →
    (s.liveAt (tileKey slot tile) r = true ↔ r < b + 2 ^ 20))
  ∧ (∀ (slot tile key : Nat) (s : State),
    ∃ u, exec (.tileBusyWindowEnd slot tile) s = .next u
      ∧ (∀ x ∈ u.busyTiles, x.key = tileKey slot tile → s.z0 ≤ x.until_)
      ∧ u.tileBusy key = s.tileBusy key ∧ u.tileOpen key = s.tileOpen key ∧ u.mem = s.mem ∧ u.cur = s.cur)
  ∧ ∀ (slot cluster : Nat) (s : State), sget 0 s.power.due (slot * 4 + cluster) ≠ 0 →
    sget 0 s.power.due (slot * 4 + cluster) ≤ s.z0 → s.clusterRequested slot cluster = true →
    ∃ u, exec (.railStepStands slot cluster) s = .next u ∧ (slot * 4 + cluster) ∈ u.power.stands
      ∧ sget 0 u.power.due (slot * 4 + cluster) = 0 ∧ u.mem = s.mem ∧ u.cur = s.cur

/-- LINK_SEGMENT_LANDING (R142, R189): a segment that lands in an open window, or in LOCK mode, is accepted at the receive position and
is due within 16 ticks. When its turn has come and its receiver's banks have served it, its bytes stand at that position and no other
byte of memory changes, it is gone, and it counts as landed for the setup that accepted it. One that banks have still to serve is due at
the tick at which they do; one that a tile keeps waiting (R167), or that an earlier segment of its context precedes, is due again a tick
later. One that lands outside every window is discarded and counted as missed, no memory changes, its die is late, and the strand
concerned, when it still runs, has a trap of cause 0x10 to take, with the context and the tick in its superstep as the value. The
position advances by its length in both cases. LINK_SEGMENT_ADMIT (R190): an admitted segment leaves now and lands after its latency.
Where the manual leaves a point of it open, it states the model's choice (notes/assumptions/3.md, 15.md, 38.md). -/
def Obligations.LinkEvents : Prop :=
  (∀ (seg : Nat) (g : Seg) (x : LinkCtx) (s : State), s.segs.find? (fun g => g.id == seg && g.due == some s.z0) = some g →
    g.acc = none → s.findCtx g.prio g.dst g.ctx = some x → x.rx = true →
    ((s.launchD g.prio).lock || x.isOpen false (s.z0 - (s.launchD g.prio).l0)) = true →
    ∃ u y, exec (.linkSegmentLanding seg) s = .next u
      ∧ (∃ o ∈ u.segs, o.id = seg ∧ o.bytes = g.bytes
          ∧ ∃ a, o.acc = some a ∧ a.tau = s.z0 ∧ a.pos = x.pos ∧ a.hrec = x.hrec ∧ a.born = x.born ∧ a.due ≤ s.z0 + 16)
      ∧ u.findCtx g.prio g.dst g.ctx = some y ∧ y.landed = x.landed ∧ y.miss = x.miss ∧ u.mem = s.mem
      ∧ (streamBytes x.hrec ≠ 0 → y.pos = (x.pos + g.bytes.length) % streamBytes x.hrec))
  ∧ (∀ (seg : Nat) (g : Seg) (a : Landing) (x : LinkCtx) (s t : State) (parts : List (Int × List Byte)) (at_ : Int → Nat),
    s.segs.find? (fun g => g.id == seg && g.due == some s.z0) = some g → g.acc = some a →
    t = s.focus (fun y => y.is g.prio g.dst a.cell) → parts = landParts a.hrec (g.bytes.length + 1) a.pos g.bytes →
    at_ = (fun v => (t.reach (hSpace a.hrec) v).phys) → s.findCtx g.prio g.dst g.ctx = some x → x.born = a.born →
    s.landAfter g = false → t.landHeld g.writer a.hrec parts = false →
    a.served = true ∨ (t.landBanks a.hrec parts).2 ≤ s.z0 →
    ∃ u y, exec (.linkSegmentLanding seg) s = .next u ∧ (∀ o ∈ u.segs, o.id ≠ seg)
      ∧ u.findCtx g.prio g.dst g.ctx = some y ∧ y.landed = x.landed + 1 ∧ y.miss = x.miss ∧ y.pos = x.pos
      ∧ (t.cur.is g.prio g.dst a.cell = true → hBcast a.hrec 0 = false →
          (∀ e ∈ parts, t.refuses (t.reach (hSpace a.hrec) e.1) = false
            ∧ ((∃ n c o, t.placeOf (at_ e.1) = .scratch n c o) ∨ ∃ n k o, t.placeOf (at_ e.1) = .tile n k o)) →
          (∀ pre e post k, parts = pre ++ e :: post → k < e.2.length →
              (∀ f ∈ post, at_ e.1 + k < at_ f.1 ∨ at_ f.1 + f.2.length ≤ at_ e.1 + k) → rdMem u.mem (at_ e.1 + k) = e.2.getD k 0)
            ∧ SameMem (fun b => ∃ e ∈ parts, at_ e.1 ≤ b ∧ b < at_ e.1 + e.2.length) s u))
  ∧ (∀ (seg : Nat) (g : Seg) (a : Landing) (s t : State) (parts : List (Int × List Byte)),
    s.segs.find? (fun g => g.id == seg && g.due == some s.z0) = some g → g.acc = some a →
    t = s.focus (fun y => y.is g.prio g.dst a.cell) → parts = landParts a.hrec (g.bytes.length + 1) a.pos g.bytes →
    (s.landAfter g = true ∨ t.landHeld g.writer a.hrec parts = true →
      ∃ u, exec (.linkSegmentLanding seg) s = .next u ∧ (∃ o ∈ u.segs, o.id = seg ∧ o.acc = some { a with due := s.z0 + 1 })
        ∧ u.mem = s.mem ∧ u.links = s.links)
      ∧ (s.landAfter g = false → t.landHeld g.writer a.hrec parts = false → a.served = false →
          s.z0 < (t.landBanks a.hrec parts).2 →
          ∃ u, exec (.linkSegmentLanding seg) s = .next u
            ∧ (∃ o ∈ u.segs, o.id = seg ∧ o.acc = some { a with served := true, due := (t.landBanks a.hrec parts).2 })
            ∧ u.mem = s.mem ∧ u.links = s.links))
  ∧ (∀ (seg : Nat) (g : Seg) (x : LinkCtx) (l : Launch) (s : State),
    s.segs.find? (fun g => g.id == seg && g.due == some s.z0) = some g → g.acc = none →
    s.findCtx g.prio g.dst g.ctx = some x → x.rx = true → s.launchOf g.prio = some l →
    (l.lock || x.isOpen false (s.z0 - l.l0)) = false →
    ∃ u y, exec (.linkSegmentLanding seg) s = .next u ∧ (∀ o ∈ u.segs, o.id ≠ seg)
      ∧ u.findCtx g.prio g.dst g.ctx = some y ∧ y.miss = x.miss + 1 ∧ y.landed = x.landed
      ∧ (streamBytes x.hrec ≠ 0 → y.pos = (x.pos + g.bytes.length) % streamBytes x.hrec)
      ∧ (∃ e ∈ (u.launchD g.prio).lates, e.vdie = g.dst) ∧ u.mem = s.mem
      ∧ (s.cur.is g.prio g.dst x.cell = true → s.cur.out = false → s.cur.status = .running →
          u.cur.asyncs = s.cur.asyncs ++
            [{ code := 0x10, tval := BitVec.ofNat 64 (g.ctx % 256 + (s.z0 - l.l0 - l.base) % 2 ^ 28 * 256), tpc := none }]))
  ∧ ∀ (seg : Nat) (g : Seg) (s : State), s.segs.find? (fun g => g.id == seg && s.admits g) = some g →
    ∃ u, exec (.linkSegmentAdmit seg) s = .next u
      ∧ (∃ y ∈ u.segs, y.id = seg ∧ y.bytes = g.bytes ∧ y.sent = s.z0 ∧ y.land = some (s.z0 + g.lat)) ∧ u.mem = s.mem

/-! ### Rendezvous, commit and abort -/

/-- RENDEZVOUS_CHECK (R297, R329) and LOCK_RENDEZVOUS (R298, R308, R310). In SCHED mode the superstep commits at T, the least tick
named, when every strand is on time and no die is late, and aborts there when some strand is not; when every strand has ended, T is
96 ticks on. In LOCK mode, once every strand has arrived it commits at the later of the ticks named and 96 ticks on, or aborts there
when a fault has been counted; an uncorrectable error aborts it 96 ticks after its detection, whatever was decided before and while the launch is swapped out too.
Where the manual leaves a point of it open, it states the model's choice (notes/assumptions/25.md). -/
def Obligations.RendezvousDecision : Prop :=
  (∀ (prio : Bool) (l : Launch) (T : Nat) (s : State), s.launchOf prio = some l → l.lock = false → l.runs = true →
    l.checked = false → leastNat (s.named prio) = some T → T ≤ s.z0 - l.l0 + 96 →
    (s.strandsOf prio).all (s.onTime l T) = true → l.lates = [] →
    ∃ u, exec (.rendezvousCheck prio) s = .next u ∧ (u.launchD prio).rdv = .commit (l.l0 + T) ∧ (u.launchD prio).checked = true
      ∧ u.mem = s.mem)
  ∧ (∀ (prio : Bool) (l : Launch) (T : Nat) (s : State), s.launchOf prio = some l → l.lock = false → l.runs = true →
    l.checked = false → leastNat (s.named prio) = some T → T ≤ s.z0 - l.l0 + 96 →
    ((s.strandsOf prio).all (s.onTime l T) = false ∨ l.lates ≠ []) →
    ∃ u, exec (.rendezvousCheck prio) s = .next u ∧ (u.launchD prio).rdv = .abort (l.l0 + max T (s.z0 - l.l0 + 1))
      ∧ u.mem = s.mem)
  ∧ (∀ (prio : Bool) (l : Launch) (s : State), s.launchOf prio = some l → l.lock = false → l.runs = true →
    l.checked = false → s.named prio = [] → s.allOver prio = true →
    (s.strandsOf prio).all (s.onTime l (s.z0 - l.l0 + 96)) = true → l.lates = [] →
    ∃ u, exec (.rendezvousCheck prio) s = .next u ∧ (u.launchD prio).rdv = .commit (l.l0 + (s.z0 - l.l0 + 96)))
  ∧ (∀ (prio : Bool) (l : Launch) (s : State), s.launchOf prio = some l → l.lock = true → l.runs = true → l.rdv = .none →
    l.errAt = none → s.strandsOf prio ≠ [] → (s.strandsOf prio).all s.arrived = true →
    ∃ u, exec (.lockRendezvous prio) s = .next u
      ∧ (u.launchD prio).rdv = (if l.lates = [] then .commit (max (l.l0 + (s.named prio).foldl max 0) (s.z0 + 96))
          else .abort (max (l.l0 + (s.named prio).foldl max 0) (s.z0 + 96)))
      ∧ u.mem = s.mem)
  ∧ ∀ (prio : Bool) (l : Launch) (t : Nat) (s : State), s.launchOf prio = some l → l.lock = true → l.started = true →
    l.errAt = some t → (∀ v, l.rdv = .abort v → t + 96 < v) →
    ∃ u, exec (.lockRendezvous prio) s = .next u ∧ (u.launchD prio).rdv = .abort (t + 96) ∧ u.mem = s.mem

/-- RENDEZVOUS_COMMIT and JOB_RETIREMENT at their tick with no die late (R285, R299, R325, R329, R337): every held write of the
launch becomes the committed contents of its byte, no other byte changes, and SSDONE counts on. Where several dies wrote a byte it is
the highest VDIE's: in held writes in canonical form, which every step keeps (StepKeepsCanonical), the committed byte is that of the
die with the highest number that holds one. After a commit the waiting strands run and the next base is T, or T plus the
stagger when a message of it came by T − 96; after the last commit JOB is 3.
Where the manual leaves a point of it open, it states the model's choice (notes/assumptions/33.md). -/
def Obligations.CommitRule : Prop :=
  (∀ (prio : Bool) (l : Launch) (s : State), s.launchOf prio = some l → s.commitDue prio = true → l.lates = [] →
    ∃ u, exec (.rendezvousCommit prio) s = .next u ∧ (∀ a, a < 2 ^ 48 → rdMem u.mem a = s.committedByte prio a)
      ∧ (∀ e ∈ u.held, heldOf prio e = false)
      ∧ (u.jobRegs prio).ssdone = ((s.jobRegs prio).ssdone + 1) % 2 ^ 32 ∧ (u.launchD prio).rdv = .none
      ∧ (u.launchD prio).base = s.z0 - l.l0
          + (if ∃ t ∈ l.staggers, t + 96 ≤ l.l0 + (s.z0 - l.l0) then l.stagSlot * 38400 else 0)
      ∧ ∀ c ∈ u.strandsOf prio, c.status ≠ .waiting ∧ c.rdv = none ∧ c.ssend = none)
  ∧ (∀ (prio : Bool) (l : Launch) (s : State), s.launchOf prio = some l → s.commitDue prio = true → s.allOver prio = true →
    l.lates = [] →
    ∃ u, exec (.jobRetirement prio) s = .next u ∧ (∀ a, a < 2 ^ 48 → rdMem u.mem a = s.committedByte prio a)
      ∧ (∀ e ∈ u.held, heldOf prio e = false)
      ∧ (u.jobRegs prio).ssdone = ((s.jobRegs prio).ssdone + 1) % 2 ^ 32 ∧ (u.jobRegs prio).job = 3
      ∧ (prio = false → u.main = none))
  ∧ ∀ (prio : Bool) (v a : Nat) (b : Byte) (s : State), swf none s.held = true → v < 32 → a < 2 ^ 48 →
    sget none s.held (heldKey prio v a) = some b →
    (∀ w, v < w → prio = true ∨ w < 32 → sget none s.held (heldKey prio w a) = none) → s.committedByte prio a = b

/-- SUPERSTEP_ABORT at its tick aborts the superstep, and so do a commit or a retirement whose die has become late since and, as the
model reads it (notes/assumptions/24.md), HOST_STOPS_THE_JOB. An abort changes no byte of memory and drops the launch's held writes;
its strands stop, or stay ended, with nothing outstanding: that outstanding scalar operations go with the engine words that R311 names
is the model's reading (notes/assumptions/25.md); JOB is 5, and the report names the first late event of the late die with
the lowest VDIE (R297, R311, R312, R326). A STAGGER message that came after T − 96 is recorded in place of the detail, by a free value (R337,
notes/assumptions/33.md). -/
def Obligations.AbortRule : Prop :=
  (∀ (prio : Bool) (t : Nat) (s : State), (s.launchD prio).rdv = .abort t → t ≤ s.z0 →
    exec (.superstepAbort prio) s = .next (abortStep prio s))
  ∧ (∀ (prio : Bool) (s : State), s.commitDue prio = true → (s.launchD prio).lates ≠ [] →
    exec (.rendezvousCommit prio) s = .next (abortStep prio s)
      ∧ (s.allOver prio = true → exec (.jobRetirement prio) s = .next (abortStep prio s)))
  ∧ (∀ (prio : Bool) (s : State), (s.launchD prio).started = true → exec (.hostStopsTheJob prio) s = .next (abortStep prio s))
  ∧ (∀ (prio : Bool) (s : State),
    (abortStep prio s).mem = s.mem ∧ (∀ e ∈ (abortStep prio s).held, heldOf prio e = false)
      ∧ (∀ c ∈ (abortStep prio s).strandsOf prio,
          (c.status = .ended ∨ c.status = .stopped) ∧ c.pend = [] ∧ c.queue = [] ∧ c.running = [])
      ∧ ((abortStep prio s).jobRegs prio).job = 5
      ∧ ((abortStep prio s).jobRegs prio).ssidx = (s.jobRegs prio).ssdone)
  ∧ ∀ (prio : Bool) (l : Launch) (e : Late) (s : State), s.launchOf prio = some l → e ∈ l.lates →
    (∀ o ∈ l.lates, e.vdie ≤ o.vdie) → (∀ o ∈ l.lates, o.vdie = e.vdie → o = e) →
    ((abortStep prio s).jobRegs prio).cause = e.cause ∧ (e.slot = none → ((abortStep prio s).jobRegs prio).rvdie = e.vdie)
      ∧ ((abortStep prio s).jobRegs prio).rslot = e.slot.getD (l.vd e.vdie).slot
      ∧ (l.lateStagger = none → l.staggers = [] → ((abortStep prio s).jobRegs prio).detail = e.detail)
      ∧ ∀ t T, l.lateStagger = none → l.staggers = [t] → (l.lock = true → T = s.z0) →
          (l.lock = false → ∃ b, leastNat (s.named prio) = some b ∧ T = b + l.l0) →
          ((abortStep prio s).jobRegs prio).detail = if t + 96 ≤ T then e.detail else Config.lateStagger t

/-- Hardware errors and STAGGER. UNCORRECTABLE_MEMORY_ERROR and LINK_FAILURE make every die late that a started launch, in its cells or swapped out, has bound to
a slot they name, with their cause and value as its first late event when it has none, and a memory error of a BD that no virtual die
is bound to is an event of its slot (R310). A STAGGER message is kept for the next rendezvous of the launch
that runs, at which CommitRule and AbortRule judge it (R337). None of them changes memory or a strand.
Where the manual leaves a point of it open, it states the model's choice (notes/assumptions/25.md, 31.md, 33.md). -/
def Obligations.ErrorEvents : Prop :=
  (∀ (slot : Nat) (addr : BitVec 48) (retire : Loss) (cell : Option Nat) (s : State),
    ∃ u, exec (.uncorrectableMemoryError slot addr retire cell) s = .next u ∧ u.mem = s.mem ∧ u.cur = s.cur
      ∧ u.retire = s.retire ++ (if retire.die then [slot] else [])
      ∧ u.failedStacks = s.failedStacks ++ (if retire.stack then [slot] else [])
      ∧ (∀ (prio : Bool) (l : Launch), s.launchOf prio = some l → l.started = true → slotCls slot = .bd →
          (∀ v ∈ l.vdies, v.slot ≠ slot) → (∀ o ∈ l.lates, o.vdie ≠ 31) →
          ∃ e ∈ (u.launchD prio).lates, e.slot = some slot ∧ e.cause = 0x13 ∧ e.detail = 0#16 ++ addr ∧ e.dieLevel = true
            ∧ e.tick = s.z0)
      ∧ ∀ (prio : Bool) (l : Launch) (v : VDie) (n : Nat), s.launchOf prio = some l → l.started = true → (v, n) ∈ l.vdies.zipIdx →
          v.slot = slot → ∃ e ∈ (u.launchD prio).lates, e.vdie = n
            ∧ ((∀ o ∈ l.lates, o.vdie ≠ n) → e.cause = 0x13 ∧ e.detail = 0#16 ++ addr ∧ e.dieLevel = true ∧ e.tick = s.z0))
  ∧ (∀ (slotA slotB : Nat) (s : State), slotA < 21 → slotB < 21 → slotA ≤ slotB →
    ∃ u, exec (.linkFailure slotA slotB) s = .next u ∧ u.mem = s.mem ∧ u.cur = s.cur
      ∧ ∀ (prio : Bool) (l : Launch) (v : VDie) (n : Nat), s.launchOf prio = some l → l.started = true → (v, n) ∈ l.vdies.zipIdx →
          (v.slot = slotA ∨ v.slot = slotB) → ∃ e ∈ (u.launchD prio).lates, e.vdie = n
            ∧ ((∀ o ∈ l.lates, o.vdie ≠ n) →
                e.cause = 0x14 ∧ e.detail = BitVec.ofNat 64 (slotA + 256 * slotB) ∧ e.dieLevel = true ∧ e.tick = s.z0))
  ∧ ∀ (l : Launch) (s : State), s.main = some l → s.prioL.any Launch.runs = false →
    ∃ u l', exec .stagger s = .next u ∧ u.main = some l' ∧ u.mem = s.mem ∧ u.cur = s.cur
      ∧ l' = { l with staggers := l.staggers ++ [s.z0] }

/-! ### Launches, pre-emption and re-runs -/

/-- LAUNCH (R75, R76, R78): before READY it only sets NRACC; a write that R75 does not accept is dropped with LDROP. An accepted
launch ends with JOB 2 and every strand at its ENTRY, its first unit at the launch's start tick, or with JOB 4. An accepted priority
launch leaves the running launch as it is: it waits for its cells with PRI 1 and JOB 2, or has failed, with PFAIL, and the registers
describe the running launch again.
Where the manual leaves a point of it open, it states the model's choice (notes/assumptions/21.md). -/
def Obligations.LaunchEvent : Prop :=
  (∀ (addr : BitVec 48) (link : Nat) (s : State), s.ready = false →
    exec (.launch addr link) s = .next { s with nracc := true, ldrop := true })
  ∧ (∀ (addr : BitVec 48) (s : State), s.ready = true → s.mayLaunch addr.toNat = false →
    exec (.launch addr 19) s = .next { s with launchAt := s.z0 + 1, ldrop := true })
  ∧ (∀ (addr : BitVec 48) (link : Nat) (s : State), s.ready = true → link ≠ 19 → s.firstLink = true →
    exec (.launch addr link) s = .next { s with ldrop := true })
  ∧ (∀ (addr : BitVec 48) (s : State), s.mayLaunch addr.toNat = true → s.recPrio addr.toNat = false →
    ∃ u, exec (.launch addr 19) s = .next u ∧ u.launchAddr = addr ∧ (u.regs.job = 2 ∨ u.regs.job = 4)
      ∧ (u.regs.job = 4 → u.main = none)
      ∧ (u.regs.job = 2 → ∃ l, u.main = some l ∧ l.started = true ∧ l.l0 = s.z0
          ∧ ∀ c ∈ u.strandsOf false, c.pc = (l.vd c.vdie).entry ∧ c.status = .running ∧ c.slot = s.z0))
  ∧ ∀ (addr : BitVec 48) (s : State), s.mayLaunch addr.toNat = true → s.recPrio addr.toNat = true →
    ∃ u, exec (.launch addr 19) s = .next u ∧ u.main = s.main ∧ u.cur = s.cur
      ∧ ((u.pri = true ∧ u.regs.job = 2
            ∧ u.aside = some (if s.regs.job = 2 then { s.regs with lerr := 0, lerrIdx := 0xFFFF } else s.regs)
            ∧ u.prioL.any Launch.out = true)
          ∨ (u.pri = false ∧ u.pfail = true ∧ u.regs.job = s.regs.job ∧ u.aside = none))

/-- Pre-emption (R76, R315) and re-run (R328). At its swap-in a priority launch starts 48 ticks on, with LTICK 0 there; its contexts
are in and the running launch's are out. At its swap-back the priority launch is gone, PRI is 0 and the running launch's registers are
shown again. A re-run request is accepted when R328 allows it, with its BASE and JOB 2, and refused otherwise; it concerns the launch
that the re-run register describes. The launch is bound to the slots of the present health at the request, and again at BASE, where it
starts with that base.
Where the manual leaves a point of it open, it states the model's choice: that a launch for which the present health leaves no slot
fails with error 0x05 (notes/assumptions/37.md), which launch the re-run register describes while a priority launch waits
(notes/assumptions/41.md), and the ticks of the swap (notes/assumptions/26.md). -/
def Obligations.PreemptAndRerun : Prop :=
  (∀ s : State, s.swapDue = true →
    ∃ u, exec .priorityLaunchSwapIn s = .next u
      ∧ (∃ l, u.prioL = some l ∧ l.started = true ∧ l.out = false ∧ l.l0 = s.z0 + 48 ∧ l.base = 0)
      ∧ (∀ l, u.main = some l → l.out = true) ∧ (∀ c ∈ u.strandsOf false, c.out = true)
      ∧ ∀ c ∈ u.strandsOf true, c.out = false ∧ s.z0 + 48 ≤ c.slot)
  ∧ (∀ s : State, s.swapBackDue = true →
    ∃ u, exec .priorityLaunchSwapBack s = .next u ∧ u.pri = false ∧ u.prioL = none ∧ u.aside = none
      ∧ (s.rebound none (s.launchD false) ≠ none → u.regs = s.aside.getD {})
      ∧ (s.rebound none (s.launchD false) = none → u.main = none ∧ u.regs.job = 4 ∧ u.regs.lerr = 5))
  ∧ (∀ (value : BitVec 64) (s : State), s.ready = false → exec (.rerunRequest value) s = .next { s with nracc := true })
  ∧ (∀ (value : BitVec 64) (p : Bool) (l b : Launch) (s : State), s.ready = true →
    s.rerunOk (value.extractLsb' 0 48).toNat = true → p = s.rerunPrio → s.launchOf p = some l →
    s.applyHealth.rebound (s.applyHealth.rerunSlots p) l = some b →
    ∃ u l', exec (.rerunRequest value) s = .next u ∧ (u.jobRegs p).job = 2
      ∧ (u.jobRegs p).base = (value.extractLsb' 0 48).toNat ∧ u.launchOf p = some l'
      ∧ l'.rerunAt = some (l.l0 + (value.extractLsb' 0 48).toNat) ∧ l'.vdies = b.vdies)
  ∧ (∀ (value : BitVec 64) (p : Bool) (l : Launch) (s : State), s.ready = true →
    s.rerunOk (value.extractLsb' 0 48).toNat = true → p = s.rerunPrio → s.launchOf p = some l →
    s.applyHealth.rebound (s.applyHealth.rerunSlots p) l = none →
    ∃ u, exec (.rerunRequest value) s = .next u ∧ (u.jobRegs p).job = 4 ∧ (u.jobRegs p).lerr = 5
      ∧ (p = false → u.main = none) ∧ (p = true → u.pfail = true ∧ (u.launchD true).started = false))
  ∧ (∀ (value : BitVec 64) (s : State), s.ready = true → s.rerunOk (value.extractLsb' 0 48).toNat = false →
    ∃ u, exec (.rerunRequest value) s = .next u
      ∧ u.jobRegs s.rerunPrio = { s.jobRegs s.rerunPrio with refused := true } ∧ u.main = s.main ∧ u.prioL = s.prioL)
  ∧ (∀ s : State, s.rerunDue true = true →
    s.applyHealth.rebound (s.applyHealth.rerunSlots true) (s.launchD true) ≠ none →
    ∃ u l, exec .rerunStart s = .next u ∧ u.prioL = some l ∧ l.started = true ∧ l.rerunAt = none ∧ l.base = s.z0 - l.l0)
  ∧ ∀ s : State, s.rerunDue true = false → s.rerunDue false = true →
    (s.applyHealth.rebound none (s.launchD false) ≠ none →
      ∃ u l, exec .rerunStart s = .next u ∧ u.main = some l ∧ l.started = true ∧ l.rerunAt = none ∧ l.base = s.z0 - l.l0)
    ∧ (s.applyHealth.rebound none (s.launchD false) = none →
      ∃ u, exec .rerunStart s = .next u ∧ u.main = none ∧ (u.jobRegs false).job = 4 ∧ (u.jobRegs false).lerr = 5)

/-! ### The host, firmware and power -/

/-- Accesses from outside a strand. HOST_BAR2_ACCESS: before READY it only sets NRACC (R78); one that the firewall or the text lock
refuses is reported and changes no memory (R77, R92); a read returns the bytes there, and a write into HBM puts its bytes there and
nowhere else. HOST_REGISTER_WRITE: STATUS clears the bits written as 1, LAUNCH and the re-run register act as their events, and every
other register is read-only (R74, R78). A host read of BAR0 returns the register, or before READY, but for IDENT and STATUS, zero with
NRACC set (R78). DIE_WINDOW_ACCESS: a read returns the bytes of the window (R155); a read of an expired tile sets EXPFLAG in a strand of
the reading die (R164). An access that a tile keeps waiting, through the die windows or BAR2, is made at the next tick (R162, R167).
Where the manual leaves a point of it open, it states the model's choice (notes/assumptions/28.md, 38.md). -/
def Obligations.OutsideAccesses : Prop :=
  (∀ (wr : Bool) (link : Nat) (addr : BitVec 48) (data : List Byte) (s : State), s.ready = false →
    ∃ u, exec (.hostBar2Access wr link addr data) s = .next u ∧ u.nracc = true ∧ u.mem = s.mem ∧ u.cur = s.cur)
  ∧ (∀ (wr : Bool) (link : Nat) (addr : BitVec 48) (data : List Byte) (s : State), s.ready = true →
    (anyByte s.secureByte addr.toNat data.length || (wr && anyByte s.lockedByte addr.toNat data.length)) = true →
    ∃ u, exec (.hostBar2Access wr link addr data) s = .next u ∧ u.aer = s.aer + 1 ∧ u.mem = s.mem ∧ u.cur = s.cur)
  ∧ (∀ (link : Nat) (addr : BitVec 48) (data : List Byte) (s : State), s.ready = true →
    anyByte s.secureByte addr.toNat data.length = false → s.outWaits false addr.toNat data.length = false →
    ∃ u, exec (.hostBar2Access false link addr data) s = .next u
      ∧ u.readData = (List.range data.length).map (fun k => s.outByte (addr.toNat + k)) ∧ u.mem = s.mem ∧ u.cur = s.cur)
  ∧ (∀ (link : Nat) (addr : BitVec 48) (data : List Byte) (s : State), s.ready = true →
    anyByte s.secureByte addr.toNat data.length = false → anyByte s.lockedByte addr.toNat data.length = false →
    addr.toNat + data.length ≤ s.hbmTop → anyByte (fun k => !s.answers k) addr.toNat data.length = false →
    ∃ u, exec (.hostBar2Access true link addr data) s = .next u
      ∧ (∀ k, k < data.length → rdMem u.mem (addr.toNat + k) = data.getD k 0)
      ∧ SameMem (fun a => addr.toNat ≤ a ∧ a < addr.toNat + data.length) s u ∧ u.cur = s.cur)
  ∧ (∀ (value : BitVec 64) (s : State),
    exec (.hostRegisterWrite 0x008 value) s = .next { s with
      nracc := s.nracc && !value.getLsbD 1, ldrop := s.ldrop && !value.getLsbD 2, pfail := s.pfail && !value.getLsbD 33 })
  ∧ (∀ (value : BitVec 64) (s : State), s.ready = true →
    exec (.hostRegisterWrite 0x010 value) s = exec (.launch (value.extractLsb' 0 48) 19) s
      ∧ exec (.hostRegisterWrite 0x038 value) s = exec (.rerunRequest value) s)
  ∧ (∀ (off : BitVec 12) (value : BitVec 64) (s : State), s.ready = true → off ≠ 0x008 → off ≠ 0x010 → off ≠ 0x038 →
    exec (.hostRegisterWrite off value) s = .next s)
  ∧ (∀ (slot : Nat) (addr : BitVec 48) (data : List Byte) (s : State), inWindows addr.toNat = true →
    anyByte (fun k => !s.answers k) addr.toNat data.length = false → s.outWaits false addr.toNat data.length = false →
    ∃ u, exec (.dieWindowAccess false slot addr data) s = .next u
      ∧ u.readData = (List.range data.length).map (fun k => s.outByte (addr.toNat + k)) ∧ u.mem = s.mem
      ∧ (s.outExpired addr.toNat data.length = false → u.cur = s.cur)
      ∧ (s.outExpired addr.toNat data.length = true → s.cur.status ≠ .idle → s.cur.out = false → s.slotNo = slot →
          u.cur.expf = s.cur.expf ||| 1 ∧ u.cur.x = s.cur.x ∧ u.cur.arith = s.cur.arith))
  ∧ (∀ (wr : Bool) (slot : Nat) (addr : BitVec 48) (data : List Byte) (s : State), inWindows addr.toNat = true →
    s.outWaits wr addr.toNat data.length = true →
    exec (.dieWindowAccess wr slot addr data) s =
      .next { s with windows := s.windows ++ [(s.z0 + 1, .dieWindowAccess wr slot addr data)] })
  ∧ (∀ (wr : Bool) (link : Nat) (addr : BitVec 48) (data : List Byte) (s : State), s.ready = true →
    anyByte s.secureByte addr.toNat data.length = false → (wr = true → anyByte s.lockedByte addr.toNat data.length = false) →
    s.outWaits wr addr.toNat data.length = true →
    exec (.hostBar2Access wr link addr data) s =
      .next { s with windows := s.windows ++ [(s.z0 + 1, .hostBar2Access wr link addr data)] })
  ∧ ∀ s : State, s.due = .read →
    ∃ e u, e ∈ s.reads ∧ e.1 ≤ s.z0 ∧ step s = .next u
      ∧ (if s.ready || e.2 == 0 || e.2 == 8 then u.readData = leBytes 8 (s.hostReg e.2).toNat ∧ u.nracc = s.nracc
          else u.readData = leBytes 8 0 ∧ u.nracc = true)
      ∧ u.mem = s.mem ∧ u.cur = s.cur

/-- PACKAGE_RESET leaves the state of reset, but for what the part is fused with, the bytes of memory and the events still to come (R8,
R18; what memory holds is the model's choice). FIRMWARE_READY raises READY and fills DMIX: a slot is FIT exactly where the composition
fits it, COMP is the fused one, and no slot is GOOD and no stacked store good that is not FIT (R12, R13, R15). FIRMWARE_UPDATE
changes EMASK, and drops exactly the translations made under another EMASK, once no launch uses them (R90).
Where the manual leaves a point of it open, it states the model's choice (notes/assumptions/1.md, 31.md, 36.md). -/
def Obligations.ResetAndFirmware : Prop :=
  (∀ s : State, ∃ u, exec .packageReset s = .next u
      ∧ { u with mem := [], free := 0, inputs := [], reads := [], comp := 1, stepping := 0 } = State.reset
      ∧ u.mem = s.mem ∧ u.comp = s.comp ∧ u.stepping = s.stepping)
  ∧ (∀ (fw : FirmwareInfo) (s : State), s.ready = false →
    ∃ u, exec (.firmwareReady fw) s = .next u ∧ u.ready = true ∧ u.fw = some fw ∧ u.mem = s.mem
      ∧ u.dmix.extractLsb' 57 4 = s.comp
      ∧ (∀ k, k < 21 → (u.dmix.getLsbD k = s.fitted.getLsbD k)
          ∧ (u.dmix.getLsbD (21 + k) = true → u.dmix.getLsbD k = true))
      ∧ ∀ k ∈ stackSlots, u.dmix.getLsbD (ssBit k) = true → u.dmix.getLsbD k = true)
  ∧ ∀ (emask : BitVec 64) (fw : FirmwareInfo) (s : State), s.fw = some fw →
    ∃ u, exec (.firmwareUpdate emask) s = .next u ∧ u.fw = some { fw with emask := emask } ∧ u.mem = s.mem
      ∧ (s.main = none → s.prioL = none → ∀ c ∈ u.cache, c.emask = emask)
      ∧ (∀ c ∈ s.cache, c.emask = emask → c.stale = false → c ∈ u.cache)
      ∧ ∀ c ∈ s.cache, s.usesCache c = true → ∃ e ∈ u.cache, e.key = c.key ∧ e.cls = c.cls ∧ e.image = c.image

/-- The power controller (R331, R333, R334, R335). CONTROL_INTERVAL_BOUNDARY at a multiple of 8192 ticks: of the demands that stand the period
is the longest that a throttle asks for, else the boost code, else 64, and the demands are used up; every base level lies at most
337.5 mV above the lowest, so that a step of 12.5 mV stays within its limit; the draw of an interval differs by at most Δ from that of the
interval before it, with Δ at 320 mW for each unit of the code. Beside what has arrived, only the ramp rule's current-limit demand can
stand. A demand with a code of its kind joins those of the next interval. The engines that bask are idle ones, and one whose cell does
not prefer it basks only when every idle one whose cell does basks too.
Where the manual leaves a point of it open, it states the model's choice (notes/assumptions/27.md, 40.md). -/
def Obligations.PowerEvents : Prop :=
  (∀ (s : State) (l : List Demand), s.z0 % 8192 = 0 → l = s.standing (s.z0 / 8192) →
    (∀ d ∈ s.power.demands, d ∈ l) ∧ (∀ d ∈ l, d ∈ s.power.demands ∨ d.kind = 0)
      ∧ ∃ u, exec .controlIntervalBoundary s = .next u ∧ u.power.demands = [] ∧ u.mem = s.mem ∧ u.cur = s.cur
        ∧ (u.power.clt = true ↔ ∃ d ∈ l, d.kind = 0) ∧ (u.power.tht = true ↔ ∃ d ∈ l, d.kind = 1)
        ∧ ((∃ d ∈ l, d.kind ≠ 2) →
            (∃ d ∈ l, d.kind ≠ 2 ∧ d.code = u.power.kcode) ∧ ∀ d ∈ l, d.kind ≠ 2 → d.code ≤ u.power.kcode)
        ∧ ((∀ d ∈ l, d.kind = 2) → l ≠ [] → ∃ d ∈ l, d.code = u.power.kcode)
        ∧ (l = [] → u.power.kcode = 64)
        ∧ u.power.bases.length = 84 ∧ (∀ b ∈ u.power.bases, b ≤ 1350) ∧ u.power.bask = s.power.basking
        ∧ ∃ w, u.power.draw = some w ∧ w ≤ s.lastDraw + 320 * u.power.kcode ∧ s.lastDraw ≤ w + 320 * u.power.kcode)
  ∧ (∀ s : State, (∀ p, s.power.draw = some p → s.lastDraw = p)
      ∧ (s.power.draw = none → s.lastDraw = Config.workDraw s.power.interval s.power.kcode))
  ∧ (∀ (s : State) (e : Nat × Nat) (c : Strand) (r : Running), e ∈ s.idleEngines → c ∈ s.allStrands → c.status ≠ .idle →
    c.out = false → s.slotOf c = e.1 → c.cell = e.2 → r ∈ c.running →
    s.good e.1 = true ∧ r.word.queue ≠ if slotCls e.1 = .md then 0 else 1)
  ∧ (∀ s : State, (s.power.basking = false → s.baskers = []) ∧ ∀ e, e ∉ s.idleEngines → e ∉ s.baskers)
  ∧ (∀ (s : State) (e f : Nat × Nat), e ∈ s.idleEngines → f ∈ s.idleEngines → s.prefersBask e = false → s.prefersBask f = true →
    e ∉ s.baskers ∨ f ∈ s.baskers)
  ∧ (∀ (slot code rail : Nat) (s : State), 65 ≤ code → code ≤ 128 →
    ∃ u, exec (.currentLimitDemand slot code rail) s = .next u ∧ u.mem = s.mem
      ∧ u.power.demands = s.power.demands ++ [{ kind := 0, slot := slot, code := code, rail := rail }])
  ∧ (∀ (slot code rail : Nat) (s : State), 65 ≤ code → code ≤ 128 →
    ∃ u, exec (.thermalDemand slot code rail) s = .next u ∧ u.mem = s.mem
      ∧ u.power.demands = s.power.demands ++ [{ kind := 1, slot := slot, code := code, rail := rail }])
  ∧ ∀ (code : Nat) (s : State), 56 ≤ code → code ≤ 63 →
    ∃ u, exec (.boostDemand code) s = .next u ∧ u.mem = s.mem
      ∧ u.power.demands = s.power.demands ++ [{ kind := 2, slot := 0, code := code, rail := 0 }]

/-! ### Memory and reset -/

/-- The physical map (R155, Table 9-5): HBM lies from 0, and within the window of a slot lie the scratchpads of its cells, an MD's
accumulator banks, the inbox registers, the sync pages and the fleeting tiles. The window of a slot that is not fitted is unmapped
(R16), and so is every address from 2^48 on.
Where the manual leaves a point of it open, it states the model's choice (notes/assumptions/12.md). -/
def Obligations.PhysicalMap : Prop :=
  (∀ (s : State) (a : Nat), a < s.hbmTop → ∃ b, s.placeOf a = .hbm b ∧ 13 ≤ b ∧ b < 13 + s.nBD)
  ∧ (∀ (s : State) (a : Nat), 0x800000000000 ≤ a → a < 2 ^ 48 → s.placeOf a = .host 19 ∨ s.placeOf a = .host 20)
  ∧ (∀ (s : State) (a : Nat), 2 ^ 48 ≤ a → s.placeOf a = .unmapped)
  ∧ (∀ (s : State) (n o : Nat), n < 21 → o < 2 ^ 32 → s.dmix.getLsbD n = false → s.placeOf (winBase n + o) = .unmapped)
  ∧ (∀ (s : State) (n c o : Nat), n < 21 → s.dmix.getLsbD n = true → c < clsCells (slotCls n) → o < s.capss n →
    s.placeOf (winBase n + c * 0x400000 + o) = .scratch n c o)
  ∧ (∀ (s : State) (n c o : Nat), n < 9 → s.dmix.getLsbD n = true → c < 16 → o < 0x10000 →
    s.placeOf (winBase n + 0x04000000 + c * 0x10000 + o) = .acc n c o)
  ∧ (∀ (s : State) (n c o : Nat), n < 21 → s.dmix.getLsbD n = true → c < clsCells (slotCls n) → o < 0x40 →
    s.placeOf (winBase n + 0x04100000 + c * 0x40 + o) = .inbox n c o)
  ∧ (∀ (s : State) (n o : Nat), n < 21 → s.dmix.getLsbD n = true → o < 0x40000 → s.placeOf (winBase n + 0x08000000 + o) = .sync n o)
  ∧ ∀ (s : State) (n t o : Nat), n < 21 → s.dmix.getLsbD n = true → t < clsTiles (slotCls n) → o < 4096 →
    s.placeOf (winBase n + 0x10000000 + t * 4096 + o) = .tile n t o

/-- Every step keeps memory in its canonical form, and the writes held for commit and the births of tiles in theirs: rising numbers, and
no entry that says what an absent one does.
Where the manual leaves a point of it open, it states the model's choice (notes/assumptions/1.md). -/
def Obligations.StepKeepsCanonical : Prop :=
  (∀ s u : State, s.MemOk → step s = .next u → u.MemOk)
  ∧ ∀ s u : State, swf none s.held = true → swf none s.births = true → step s = .next u →
      swf none u.held = true ∧ swf none u.births = true

/-- Every step keeps the bounds of the strands' state (R99, R127, R306): a strand's loop stack, and the one that a trap has saved, hold
at most two entries, and no queue of a strand holds more than 16 words, in every strand of the package and in every restart image. -/
def Obligations.StepKeepsStrandBounds : Prop :=
  ∀ s u : State, s.Bounded → step s = .next u → u.Bounded

/-- Right after a package reset z0 counts from 0 (R18), READY is 0 and DMIX is 0 (R13, R78), no launch is present and JOB is 0, the
period code is 64 (R333), no strand runs, memory, held writes and births are in their canonical forms, and the strands within their bounds.
Where the manual leaves a point of it open, it states the model's choice (notes/assumptions/1.md, 4.md). -/
def Obligations.ResetState : Prop :=
  State.reset.z0 = 0 ∧ State.reset.ready = false ∧ State.reset.dmix = 0 ∧ State.reset.main = none ∧ State.reset.prioL = none
    ∧ State.reset.regs.job = 0 ∧ State.reset.regs.ssdone = 0 ∧ State.reset.power.kcode = 64
    ∧ State.reset.cur.status = .idle ∧ State.reset.others = [] ∧ State.reset.MemOk
    ∧ swf none State.reset.held = true ∧ swf none State.reset.births = true ∧ State.reset.Bounded
end

