-- ==== Sys2Proof/Laws/Encoding.lean ====
section
/-! SUPPORT. Each format of Table 3-2 read back from the word it lays out, field for field. -/

namespace Sys2Proof

/-- The R format reads back every field (R46). -/
@[simp] theorem fldR_encR (maj : BitVec 6) (c : Ctl) (FN : BitVec 6) (D : BitVec 6) (A : BitVec 6) (B : BitVec 6) (C : BitVec 6) (MOD : BitVec 4) :
    FldR.ofWord (encR maj c FN D A B C MOD) = { c := c, FN := FN, D := D, A := A, B := B, C := C, MOD := MOD } := by
  unfold FldR.ofWord encR
  simp only [BitVec.extractLsb'_append_eq_ite]
  simp

/-- MAJ of a word in the R format (R45). -/
@[simp] theorem maj_encR (maj : BitVec 6) (c : Ctl) (FN : BitVec 6) (D : BitVec 6) (A : BitVec 6) (B : BitVec 6) (C : BitVec 6) (MOD : BitVec 4) : (encR maj c FN D A B C MOD).extractLsb' 42 6 = maj := by
  unfold encR
  simp only [BitVec.extractLsb'_append_eq_ite]
  simp

/-- The guard field of a word in the R format (R45). -/
@[simp] theorem pg_encR (maj : BitVec 6) (c : Ctl) (FN : BitVec 6) (D : BitVec 6) (A : BitVec 6) (B : BitVec 6) (C : BitVec 6) (MOD : BitVec 4) : (encR maj c FN D A B C MOD).extractLsb' 38 4 = c.pg := by
  unfold encR
  simp only [BitVec.extractLsb'_append_eq_ite]
  simp

/-- HOLD of a word in the R format (R45). -/
@[simp] theorem hold_encR (maj : BitVec 6) (c : Ctl) (FN : BitVec 6) (D : BitVec 6) (A : BitVec 6) (B : BitVec 6) (C : BitVec 6) (MOD : BitVec 4) : (encR maj c FN D A B C MOD).extractLsb' 0 4 = c.hold := by
  unfold encR
  simp only [BitVec.extractLsb'_append_eq_ite]
  simp

/-- The I format reads back every field (R46). -/
@[simp] theorem fldI_encI (maj : BitVec 6) (c : Ctl) (FN : BitVec 2) (D : BitVec 6) (A : BitVec 6) (IMM : BitVec 20) :
    FldI.ofWord (encI maj c FN D A IMM) = { c := c, FN := FN, D := D, A := A, IMM := IMM } := by
  unfold FldI.ofWord encI
  simp only [BitVec.extractLsb'_append_eq_ite]
  simp

/-- MAJ of a word in the I format (R45). -/
@[simp] theorem maj_encI (maj : BitVec 6) (c : Ctl) (FN : BitVec 2) (D : BitVec 6) (A : BitVec 6) (IMM : BitVec 20) : (encI maj c FN D A IMM).extractLsb' 42 6 = maj := by
  unfold encI
  simp only [BitVec.extractLsb'_append_eq_ite]
  simp

/-- The guard field of a word in the I format (R45). -/
@[simp] theorem pg_encI (maj : BitVec 6) (c : Ctl) (FN : BitVec 2) (D : BitVec 6) (A : BitVec 6) (IMM : BitVec 20) : (encI maj c FN D A IMM).extractLsb' 38 4 = c.pg := by
  unfold encI
  simp only [BitVec.extractLsb'_append_eq_ite]
  simp

/-- HOLD of a word in the I format (R45). -/
@[simp] theorem hold_encI (maj : BitVec 6) (c : Ctl) (FN : BitVec 2) (D : BitVec 6) (A : BitVec 6) (IMM : BitVec 20) : (encI maj c FN D A IMM).extractLsb' 0 4 = c.hold := by
  unfold encI
  simp only [BitVec.extractLsb'_append_eq_ite]
  simp

/-- The M format reads back every field (R46). -/
@[simp] theorem fldM_encM (maj : BitVec 6) (c : Ctl) (FN : BitVec 4) (D : BitVec 6) (A : BitVec 6) (SZ : BitVec 2) (ORD : BitVec 4) (IMM : BitVec 12) :
    FldM.ofWord (encM maj c FN D A SZ ORD IMM) = { c := c, FN := FN, D := D, A := A, SZ := SZ, ORD := ORD, IMM := IMM } := by
  unfold FldM.ofWord encM
  simp only [BitVec.extractLsb'_append_eq_ite]
  simp

/-- MAJ of a word in the M format (R45). -/
@[simp] theorem maj_encM (maj : BitVec 6) (c : Ctl) (FN : BitVec 4) (D : BitVec 6) (A : BitVec 6) (SZ : BitVec 2) (ORD : BitVec 4) (IMM : BitVec 12) : (encM maj c FN D A SZ ORD IMM).extractLsb' 42 6 = maj := by
  unfold encM
  simp only [BitVec.extractLsb'_append_eq_ite]
  simp

/-- The guard field of a word in the M format (R45). -/
@[simp] theorem pg_encM (maj : BitVec 6) (c : Ctl) (FN : BitVec 4) (D : BitVec 6) (A : BitVec 6) (SZ : BitVec 2) (ORD : BitVec 4) (IMM : BitVec 12) : (encM maj c FN D A SZ ORD IMM).extractLsb' 38 4 = c.pg := by
  unfold encM
  simp only [BitVec.extractLsb'_append_eq_ite]
  simp

/-- HOLD of a word in the M format (R45). -/
@[simp] theorem hold_encM (maj : BitVec 6) (c : Ctl) (FN : BitVec 4) (D : BitVec 6) (A : BitVec 6) (SZ : BitVec 2) (ORD : BitVec 4) (IMM : BitVec 12) : (encM maj c FN D A SZ ORD IMM).extractLsb' 0 4 = c.hold := by
  unfold encM
  simp only [BitVec.extractLsb'_append_eq_ite]
  simp

/-- The B format reads back every field (R46). -/
@[simp] theorem fldB_encB (maj : BitVec 6) (c : Ctl) (FN : BitVec 4) (A : BitVec 6) (B : BitVec 6) (OFF : BitVec 18) :
    FldB.ofWord (encB maj c FN A B OFF) = { c := c, FN := FN, A := A, B := B, OFF := OFF } := by
  unfold FldB.ofWord encB
  simp only [BitVec.extractLsb'_append_eq_ite]
  simp

/-- MAJ of a word in the B format (R45). -/
@[simp] theorem maj_encB (maj : BitVec 6) (c : Ctl) (FN : BitVec 4) (A : BitVec 6) (B : BitVec 6) (OFF : BitVec 18) : (encB maj c FN A B OFF).extractLsb' 42 6 = maj := by
  unfold encB
  simp only [BitVec.extractLsb'_append_eq_ite]
  simp

/-- The guard field of a word in the B format (R45). -/
@[simp] theorem pg_encB (maj : BitVec 6) (c : Ctl) (FN : BitVec 4) (A : BitVec 6) (B : BitVec 6) (OFF : BitVec 18) : (encB maj c FN A B OFF).extractLsb' 38 4 = c.pg := by
  unfold encB
  simp only [BitVec.extractLsb'_append_eq_ite]
  simp

/-- HOLD of a word in the B format (R45). -/
@[simp] theorem hold_encB (maj : BitVec 6) (c : Ctl) (FN : BitVec 4) (A : BitVec 6) (B : BitVec 6) (OFF : BitVec 18) : (encB maj c FN A B OFF).extractLsb' 0 4 = c.hold := by
  unfold encB
  simp only [BitVec.extractLsb'_append_eq_ite]
  simp

/-- The U format reads back every field (R46). -/
@[simp] theorem fldU_encU (maj : BitVec 6) (c : Ctl) (D : BitVec 6) (IMM : BitVec 28) :
    FldU.ofWord (encU maj c D IMM) = { c := c, D := D, IMM := IMM } := by
  unfold FldU.ofWord encU
  simp only [BitVec.extractLsb'_append_eq_ite]
  simp

/-- MAJ of a word in the U format (R45). -/
@[simp] theorem maj_encU (maj : BitVec 6) (c : Ctl) (D : BitVec 6) (IMM : BitVec 28) : (encU maj c D IMM).extractLsb' 42 6 = maj := by
  unfold encU
  simp only [BitVec.extractLsb'_append_eq_ite]
  simp

/-- The guard field of a word in the U format (R45). -/
@[simp] theorem pg_encU (maj : BitVec 6) (c : Ctl) (D : BitVec 6) (IMM : BitVec 28) : (encU maj c D IMM).extractLsb' 38 4 = c.pg := by
  unfold encU
  simp only [BitVec.extractLsb'_append_eq_ite]
  simp

/-- HOLD of a word in the U format (R45). -/
@[simp] theorem hold_encU (maj : BitVec 6) (c : Ctl) (D : BitVec 6) (IMM : BitVec 28) : (encU maj c D IMM).extractLsb' 0 4 = c.hold := by
  unfold encU
  simp only [BitVec.extractLsb'_append_eq_ite]
  simp

/-- The T format reads back every field (R46). -/
@[simp] theorem fldT_encT (maj : BitVec 6) (c : TCtl) (FN : BitVec 6) (D : BitVec 4) (A : BitVec 4) (B : BitVec 4) (C : BitVec 4) :
    FldT.ofWord (encT maj c FN D A B C) = { c := c, FN := FN, D := D, A := A, B := B, C := C } := by
  unfold FldT.ofWord encT
  obtain ⟨pg, hold, sw, sr⟩ := c
  simp only [FldT.mk.injEq, TCtl.mk.injEq]
  refine ⟨⟨?_, ?_, ?_, ?_⟩, ?_, ?_, ?_, ?_, ?_⟩ <;> simp only [BitVec.extractLsb'_append_eq_ite] <;> simp

/-- MAJ of a word in the T format (R45). -/
@[simp] theorem maj_encT (maj : BitVec 6) (c : TCtl) (FN : BitVec 6) (D : BitVec 4) (A : BitVec 4) (B : BitVec 4) (C : BitVec 4) : (encT maj c FN D A B C).extractLsb' 42 6 = maj := by
  unfold encT
  simp only [BitVec.extractLsb'_append_eq_ite]
  simp

/-- The guard field of a word in the T format (R45). -/
@[simp] theorem pg_encT (maj : BitVec 6) (c : TCtl) (FN : BitVec 6) (D : BitVec 4) (A : BitVec 4) (B : BitVec 4) (C : BitVec 4) : (encT maj c FN D A B C).extractLsb' 38 4 = c.pg := by
  unfold encT
  simp only [BitVec.extractLsb'_append_eq_ite]
  simp

/-- HOLD of a word in the T format (R45). -/
@[simp] theorem hold_encT (maj : BitVec 6) (c : TCtl) (FN : BitVec 6) (D : BitVec 4) (A : BitVec 4) (B : BitVec 4) (C : BitVec 4) : (encT maj c FN D A B C).extractLsb' 0 4 = c.hold := by
  unfold encT
  simp only [BitVec.extractLsb'_append_eq_ite]
  simp

/-- The S format reads back every field (R46). -/
@[simp] theorem fldS_encS (maj : BitVec 6) (c : Ctl) (FN : BitVec 6) (SHAPE : BitVec 8) (LIST : BitVec 10) (DEST : BitVec 10) :
    FldS.ofWord (encS maj c FN SHAPE LIST DEST) = { c := c, FN := FN, SHAPE := SHAPE, LIST := LIST, DEST := DEST } := by
  unfold FldS.ofWord encS
  simp only [BitVec.extractLsb'_append_eq_ite]
  simp

/-- MAJ of a word in the S format (R45). -/
@[simp] theorem maj_encS (maj : BitVec 6) (c : Ctl) (FN : BitVec 6) (SHAPE : BitVec 8) (LIST : BitVec 10) (DEST : BitVec 10) : (encS maj c FN SHAPE LIST DEST).extractLsb' 42 6 = maj := by
  unfold encS
  simp only [BitVec.extractLsb'_append_eq_ite]
  simp

/-- The guard field of a word in the S format (R45). -/
@[simp] theorem pg_encS (maj : BitVec 6) (c : Ctl) (FN : BitVec 6) (SHAPE : BitVec 8) (LIST : BitVec 10) (DEST : BitVec 10) : (encS maj c FN SHAPE LIST DEST).extractLsb' 38 4 = c.pg := by
  unfold encS
  simp only [BitVec.extractLsb'_append_eq_ite]
  simp

/-- HOLD of a word in the S format (R45). -/
@[simp] theorem hold_encS (maj : BitVec 6) (c : Ctl) (FN : BitVec 6) (SHAPE : BitVec 8) (LIST : BitVec 10) (DEST : BitVec 10) : (encS maj c FN SHAPE LIST DEST).extractLsb' 0 4 = c.hold := by
  unfold encS
  simp only [BitVec.extractLsb'_append_eq_ite]
  simp

/-! ### Sub-fields -/

/-- A word whose fields decode to a well-formed instruction decodes to it (R52). -/
theorem decode_of_fields {w : BitVec 48} {i : Instr} (h : decodeFields w = .ok i) (hw : i.wf = true) : decode w = .ok i := by
  unfold decode; rw [h]; simp [hw]

/-- A well-formed instruction is all that decoding gives (R52). -/
theorem wf_of_decode {w : BitVec 48} {i : Instr} (h : decode w = .ok i) : i.wf = true := by
  unfold decode at h
  split at h
  · cases h
  · split at h
    · cases h; assumption
    · cases h

/-- The low part of an append. -/
theorem low_append {m n : Nat} (x : BitVec m) (y : BitVec n) : (x ++ y).extractLsb' 0 n = y := by
  ext i h; simp [BitVec.getLsbD_append, h, BitVec.getLsbD_eq_getElem]

/-- The high part of an append. -/
theorem high_append {m n : Nat} (x : BitVec m) (y : BitVec n) : (x ++ y).extractLsb' n m = x := by
  simp [BitVec.extractLsb'_append_eq_ite]

/-- Neighbouring slices join. -/
theorem join_slices {w : Nat} (x : BitVec w) (lo a b : Nat) :
    x.extractLsb' (lo + a) b ++ x.extractLsb' lo a = x.extractLsb' lo (b + a) := by
  ext i h
  simp only [BitVec.getElem_append, BitVec.getElem_extractLsb']
  split
  · rfl
  · congr 1; omega

@[simp] theorem pad2_2_low (x : BitVec 2) : (0#2 ++ x : BitVec 4).extractLsb' 0 2 = x := low_append 0#2 x
@[simp] theorem pad2_2_high (x : BitVec 2) : (0#2 ++ x : BitVec 4).extractLsb' 2 2 = 0#2 := high_append 0#2 x
@[simp] theorem pad8_12_low (x : BitVec 12) : (0#8 ++ x : BitVec 20).extractLsb' 0 12 = x := low_append 0#8 x
@[simp] theorem pad8_12_high (x : BitVec 12) : (0#8 ++ x : BitVec 20).extractLsb' 12 8 = 0#8 := high_append 0#8 x
@[simp] theorem pad3_3_low (x : BitVec 3) : (0#3 ++ x : BitVec 6).extractLsb' 0 3 = x := low_append 0#3 x
@[simp] theorem pad3_3_high (x : BitVec 3) : (0#3 ++ x : BitVec 6).extractLsb' 3 3 = 0#3 := high_append 0#3 x
@[simp] theorem pad3_1_low (x : BitVec 1) : (0#3 ++ x : BitVec 4).extractLsb' 0 1 = x := low_append 0#3 x
@[simp] theorem pad3_1_high (x : BitVec 1) : (0#3 ++ x : BitVec 4).extractLsb' 1 3 = 0#3 := high_append 0#3 x
@[simp] theorem pad6_4_low (x : BitVec 4) : (0#6 ++ x : BitVec 10).extractLsb' 0 4 = x := low_append 0#6 x
@[simp] theorem pad6_4_high (x : BitVec 4) : (0#6 ++ x : BitVec 10).extractLsb' 4 6 = 0#6 := high_append 0#6 x
@[simp] theorem pad4_4_low (x : BitVec 4) : (0#4 ++ x : BitVec 8).extractLsb' 0 4 = x := low_append 0#4 x
@[simp] theorem pad4_4_high (x : BitVec 4) : (0#4 ++ x : BitVec 8).extractLsb' 4 4 = 0#4 := high_append 0#4 x
@[simp] theorem pad2_6_low (x : BitVec 6) : (0#2 ++ x : BitVec 8).extractLsb' 0 6 = x := low_append 0#2 x
@[simp] theorem pad2_6_high (x : BitVec 6) : (0#2 ++ x : BitVec 8).extractLsb' 6 2 = 0#2 := high_append 0#2 x
@[simp] theorem pad4_6_low (x : BitVec 6) : (0#4 ++ x : BitVec 10).extractLsb' 0 6 = x := low_append 0#4 x
@[simp] theorem pad4_6_high (x : BitVec 6) : (0#4 ++ x : BitVec 10).extractLsb' 6 4 = 0#4 := high_append 0#4 x
@[simp] theorem join12_66 (x : BitVec 12) : (x.extractLsb' 6 6 ++ x.extractLsb' 0 6 : BitVec 12) = x := by
  exact (join_slices x 0 6 6).trans (by simp)
@[simp] theorem join16_4 (x : BitVec 16) : (x.extractLsb' 12 4 ++ x.extractLsb' 8 4 ++ x.extractLsb' 4 4 ++ x.extractLsb' 0 4 : BitVec 16) = x := by
  apply BitVec.eq_of_getLsbD_eq
  intro i h
  simp only [BitVec.getLsbD_append, BitVec.getLsbD_extractLsb']
  repeat' split
  all_goals (rw [decide_eq_true (by omega), Bool.true_and]; congr 1; omega)
@[simp] theorem join12_4 (x : BitVec 12) : (x.extractLsb' 8 4 ++ x.extractLsb' 4 4 ++ x.extractLsb' 0 4 : BitVec 12) = x := by
  apply BitVec.eq_of_getLsbD_eq
  intro i h
  simp only [BitVec.getLsbD_append, BitVec.getLsbD_extractLsb']
  repeat' split
  all_goals (rw [decide_eq_true (by omega), Bool.true_and]; congr 1; omega)
@[simp] theorem join8_4 (x : BitVec 8) : (x.extractLsb' 4 4 ++ x.extractLsb' 0 4 : BitVec 8) = x := by
  exact (join_slices x 0 4 4).trans (by simp)
@[simp] theorem join24_6 (x : BitVec 24) : (x.extractLsb' 18 6 ++ x.extractLsb' 12 6 ++ x.extractLsb' 6 6 ++ x.extractLsb' 0 6 : BitVec 24) = x := by
  apply BitVec.eq_of_getLsbD_eq
  intro i h
  simp only [BitVec.getLsbD_append, BitVec.getLsbD_extractLsb']
  repeat' split
  all_goals (rw [decide_eq_true (by omega), Bool.true_and]; congr 1; omega)
@[simp] theorem join5_14 (x : BitVec 5) : (x.extractLsb' 4 1 ++ x.extractLsb' 0 4 : BitVec 5) = x := by
  exact (join_slices x 0 4 1).trans (by simp)

end Sys2Proof
end

