-- ==== Sys2Proof/Laws/State.lean ====
section
/-! SUPPORT. For each update of the state, the fields it leaves alone, each by a lemma of its own. -/

namespace Sys2Proof.Machine


/-! ### The focused strand -/

@[simp] theorem State.modCur_cur (s : State) (f : Strand → Strand) : (s.modCur f).cur = f s.cur := rfl
@[simp] theorem State.modCur_z0 (s : State) (f : Strand → Strand) : (s.modCur f).z0 = s.z0 := rfl
@[simp] theorem State.modCur_others (s : State) (f : Strand → Strand) : (s.modCur f).others = s.others := rfl
@[simp] theorem State.modCur_mem (s : State) (f : Strand → Strand) : (s.modCur f).mem = s.mem := rfl
@[simp] theorem State.modCur_held (s : State) (f : Strand → Strand) : (s.modCur f).held = s.held := rfl
@[simp] theorem State.modCur_births (s : State) (f : Strand → Strand) : (s.modCur f).births = s.births := rfl
@[simp] theorem State.modCur_busyTiles (s : State) (f : Strand → Strand) : (s.modCur f).busyTiles = s.busyTiles := rfl
@[simp] theorem State.modCur_sessions (s : State) (f : Strand → Strand) : (s.modCur f).sessions = s.sessions := rfl
@[simp] theorem State.modCur_ended (s : State) (f : Strand → Strand) : (s.modCur f).ended = s.ended := rfl
@[simp] theorem State.modCur_banks (s : State) (f : Strand → Strand) : (s.modCur f).banks = s.banks := rfl
@[simp] theorem State.modCur_served (s : State) (f : Strand → Strand) : (s.modCur f).served = s.served := rfl
@[simp] theorem State.modCur_promised (s : State) (f : Strand → Strand) : (s.modCur f).promised = s.promised := rfl
@[simp] theorem State.modCur_main (s : State) (f : Strand → Strand) : (s.modCur f).main = s.main := rfl
@[simp] theorem State.modCur_prioL (s : State) (f : Strand → Strand) : (s.modCur f).prioL = s.prioL := rfl
@[simp] theorem State.modCur_links (s : State) (f : Strand → Strand) : (s.modCur f).links = s.links := rfl
@[simp] theorem State.modCur_segs (s : State) (f : Strand → Strand) : (s.modCur f).segs = s.segs := rfl
@[simp] theorem State.modCur_atoms (s : State) (f : Strand → Strand) : (s.modCur f).atoms = s.atoms := rfl
@[simp] theorem State.modCur_atomsAt (s : State) (f : Strand → Strand) : (s.modCur f).atomsAt = s.atomsAt := rfl
@[simp] theorem State.modCur_raises (s : State) (f : Strand → Strand) : (s.modCur f).raises = s.raises := rfl
@[simp] theorem State.modCur_inboxes (s : State) (f : Strand → Strand) : (s.modCur f).inboxes = s.inboxes := rfl
@[simp] theorem State.modCur_regs (s : State) (f : Strand → Strand) : (s.modCur f).regs = s.regs := rfl
@[simp] theorem State.modCur_aside (s : State) (f : Strand → Strand) : (s.modCur f).aside = s.aside := rfl
@[simp] theorem State.modCur_ready (s : State) (f : Strand → Strand) : (s.modCur f).ready = s.ready := rfl
@[simp] theorem State.modCur_nracc (s : State) (f : Strand → Strand) : (s.modCur f).nracc = s.nracc := rfl
@[simp] theorem State.modCur_ldrop (s : State) (f : Strand → Strand) : (s.modCur f).ldrop = s.ldrop := rfl
@[simp] theorem State.modCur_pri (s : State) (f : Strand → Strand) : (s.modCur f).pri = s.pri := rfl
@[simp] theorem State.modCur_pfail (s : State) (f : Strand → Strand) : (s.modCur f).pfail = s.pfail := rfl
@[simp] theorem State.modCur_launchAddr (s : State) (f : Strand → Strand) : (s.modCur f).launchAddr = s.launchAddr := rfl
@[simp] theorem State.modCur_launchAt (s : State) (f : Strand → Strand) : (s.modCur f).launchAt = s.launchAt := rfl
@[simp] theorem State.modCur_readData (s : State) (f : Strand → Strand) : (s.modCur f).readData = s.readData := rfl
@[simp] theorem State.modCur_msi0 (s : State) (f : Strand → Strand) : (s.modCur f).msi0 = s.msi0 := rfl
@[simp] theorem State.modCur_msi1 (s : State) (f : Strand → Strand) : (s.modCur f).msi1 = s.msi1 := rfl
@[simp] theorem State.modCur_aer (s : State) (f : Strand → Strand) : (s.modCur f).aer = s.aer := rfl
@[simp] theorem State.modCur_comp (s : State) (f : Strand → Strand) : (s.modCur f).comp = s.comp := rfl
@[simp] theorem State.modCur_stepping (s : State) (f : Strand → Strand) : (s.modCur f).stepping = s.stepping := rfl
@[simp] theorem State.modCur_fw (s : State) (f : Strand → Strand) : (s.modCur f).fw = s.fw := rfl
@[simp] theorem State.modCur_dmix (s : State) (f : Strand → Strand) : (s.modCur f).dmix = s.dmix := rfl
@[simp] theorem State.modCur_retire (s : State) (f : Strand → Strand) : (s.modCur f).retire = s.retire := rfl
@[simp] theorem State.modCur_failedCells (s : State) (f : Strand → Strand) : (s.modCur f).failedCells = s.failedCells := rfl
@[simp] theorem State.modCur_failedStacks (s : State) (f : Strand → Strand) : (s.modCur f).failedStacks = s.failedStacks := rfl
@[simp] theorem State.modCur_errs (s : State) (f : Strand → Strand) : (s.modCur f).errs = s.errs := rfl
@[simp] theorem State.modCur_worldViolations (s : State) (f : Strand → Strand) : (s.modCur f).worldViolations = s.worldViolations := rfl
@[simp] theorem State.modCur_cache (s : State) (f : Strand → Strand) : (s.modCur f).cache = s.cache := rfl
@[simp] theorem State.modCur_power (s : State) (f : Strand → Strand) : (s.modCur f).power = s.power := rfl
@[simp] theorem State.modCur_free (s : State) (f : Strand → Strand) : (s.modCur f).free = s.free := rfl
@[simp] theorem State.modCur_segId (s : State) (f : Strand → Strand) : (s.modCur f).segId = s.segId := rfl
@[simp] theorem State.modCur_inputs (s : State) (f : Strand → Strand) : (s.modCur f).inputs = s.inputs := rfl
@[simp] theorem State.modCur_windows (s : State) (f : Strand → Strand) : (s.modCur f).windows = s.windows := rfl
@[simp] theorem State.modCur_reads (s : State) (f : Strand → Strand) : (s.modCur f).reads = s.reads := rfl

/-! ### Launches and their late events -/

@[simp] theorem State.modLaunch_z0 (s : State) (p : Bool) (f : Launch → Launch) : (s.modLaunch p f).z0 = s.z0 := by cases p <;> rfl
@[simp] theorem State.modLaunch_cur (s : State) (p : Bool) (f : Launch → Launch) : (s.modLaunch p f).cur = s.cur := by cases p <;> rfl
@[simp] theorem State.modLaunch_others (s : State) (p : Bool) (f : Launch → Launch) : (s.modLaunch p f).others = s.others := by cases p <;> rfl
@[simp] theorem State.modLaunch_mem (s : State) (p : Bool) (f : Launch → Launch) : (s.modLaunch p f).mem = s.mem := by cases p <;> rfl
@[simp] theorem State.modLaunch_held (s : State) (p : Bool) (f : Launch → Launch) : (s.modLaunch p f).held = s.held := by cases p <;> rfl
@[simp] theorem State.modLaunch_births (s : State) (p : Bool) (f : Launch → Launch) : (s.modLaunch p f).births = s.births := by cases p <;> rfl
@[simp] theorem State.modLaunch_busyTiles (s : State) (p : Bool) (f : Launch → Launch) : (s.modLaunch p f).busyTiles = s.busyTiles := by cases p <;> rfl
@[simp] theorem State.modLaunch_sessions (s : State) (p : Bool) (f : Launch → Launch) : (s.modLaunch p f).sessions = s.sessions := by cases p <;> rfl
@[simp] theorem State.modLaunch_ended (s : State) (p : Bool) (f : Launch → Launch) : (s.modLaunch p f).ended = s.ended := by cases p <;> rfl
@[simp] theorem State.modLaunch_banks (s : State) (p : Bool) (f : Launch → Launch) : (s.modLaunch p f).banks = s.banks := by cases p <;> rfl
@[simp] theorem State.modLaunch_served (s : State) (p : Bool) (f : Launch → Launch) : (s.modLaunch p f).served = s.served := by cases p <;> rfl
@[simp] theorem State.modLaunch_promised (s : State) (p : Bool) (f : Launch → Launch) : (s.modLaunch p f).promised = s.promised := by cases p <;> rfl
@[simp] theorem State.modLaunch_links (s : State) (p : Bool) (f : Launch → Launch) : (s.modLaunch p f).links = s.links := by cases p <;> rfl
@[simp] theorem State.modLaunch_segs (s : State) (p : Bool) (f : Launch → Launch) : (s.modLaunch p f).segs = s.segs := by cases p <;> rfl
@[simp] theorem State.modLaunch_atoms (s : State) (p : Bool) (f : Launch → Launch) : (s.modLaunch p f).atoms = s.atoms := by cases p <;> rfl
@[simp] theorem State.modLaunch_atomsAt (s : State) (p : Bool) (f : Launch → Launch) : (s.modLaunch p f).atomsAt = s.atomsAt := by cases p <;> rfl
@[simp] theorem State.modLaunch_raises (s : State) (p : Bool) (f : Launch → Launch) : (s.modLaunch p f).raises = s.raises := by cases p <;> rfl
@[simp] theorem State.modLaunch_inboxes (s : State) (p : Bool) (f : Launch → Launch) : (s.modLaunch p f).inboxes = s.inboxes := by cases p <;> rfl
@[simp] theorem State.modLaunch_regs (s : State) (p : Bool) (f : Launch → Launch) : (s.modLaunch p f).regs = s.regs := by cases p <;> rfl
@[simp] theorem State.modLaunch_fw (s : State) (p : Bool) (f : Launch → Launch) : (s.modLaunch p f).fw = s.fw := by cases p <;> rfl
@[simp] theorem State.modLaunch_dmix (s : State) (p : Bool) (f : Launch → Launch) : (s.modLaunch p f).dmix = s.dmix := by cases p <;> rfl
@[simp] theorem State.modLaunch_power (s : State) (p : Bool) (f : Launch → Launch) : (s.modLaunch p f).power = s.power := by cases p <;> rfl
@[simp] theorem State.modLaunch_free (s : State) (p : Bool) (f : Launch → Launch) : (s.modLaunch p f).free = s.free := by cases p <;> rfl

@[simp] theorem State.launchOf_modLaunch_same (s : State) (p : Bool) (f : Launch → Launch) :
    (s.modLaunch p f).launchOf p = (s.launchOf p).map f := by cases p <;> rfl

@[simp] theorem State.launchOf_modLaunch_other (s : State) (p : Bool) (f : Launch → Launch) :
    (s.modLaunch p f).launchOf (!p) = s.launchOf (!p) := by cases p <;> rfl

@[simp] theorem State.launchOf_modCur (s : State) (p : Bool) (f : Strand → Strand) : (s.modCur f).launchOf p = s.launchOf p := rfl

@[simp] theorem State.launchD_modCur (s : State) (p : Bool) (f : Strand → Strand) : (s.modCur f).launchD p = s.launchD p := rfl

@[simp] theorem State.markDie_z0 (s : State) (p : Bool) (e : Late) : (s.markDie p e).z0 = s.z0 := by unfold State.markDie; simp
@[simp] theorem State.markDie_cur (s : State) (p : Bool) (e : Late) : (s.markDie p e).cur = s.cur := by unfold State.markDie; simp
@[simp] theorem State.markDie_others (s : State) (p : Bool) (e : Late) : (s.markDie p e).others = s.others := by unfold State.markDie; simp
@[simp] theorem State.markDie_mem (s : State) (p : Bool) (e : Late) : (s.markDie p e).mem = s.mem := by unfold State.markDie; simp
@[simp] theorem State.markDie_held (s : State) (p : Bool) (e : Late) : (s.markDie p e).held = s.held := by unfold State.markDie; simp
@[simp] theorem State.markDie_births (s : State) (p : Bool) (e : Late) : (s.markDie p e).births = s.births := by unfold State.markDie; simp
@[simp] theorem State.markDie_busyTiles (s : State) (p : Bool) (e : Late) : (s.markDie p e).busyTiles = s.busyTiles := by unfold State.markDie; simp
@[simp] theorem State.markDie_sessions (s : State) (p : Bool) (e : Late) : (s.markDie p e).sessions = s.sessions := by unfold State.markDie; simp
@[simp] theorem State.markDie_ended (s : State) (p : Bool) (e : Late) : (s.markDie p e).ended = s.ended := by unfold State.markDie; simp
@[simp] theorem State.markDie_banks (s : State) (p : Bool) (e : Late) : (s.markDie p e).banks = s.banks := by unfold State.markDie; simp
@[simp] theorem State.markDie_served (s : State) (p : Bool) (e : Late) : (s.markDie p e).served = s.served := by unfold State.markDie; simp
@[simp] theorem State.markDie_promised (s : State) (p : Bool) (e : Late) : (s.markDie p e).promised = s.promised := by unfold State.markDie; simp
@[simp] theorem State.markDie_links (s : State) (p : Bool) (e : Late) : (s.markDie p e).links = s.links := by unfold State.markDie; simp
@[simp] theorem State.markDie_segs (s : State) (p : Bool) (e : Late) : (s.markDie p e).segs = s.segs := by unfold State.markDie; simp
@[simp] theorem State.markDie_atoms (s : State) (p : Bool) (e : Late) : (s.markDie p e).atoms = s.atoms := by unfold State.markDie; simp
@[simp] theorem State.markDie_atomsAt (s : State) (p : Bool) (e : Late) : (s.markDie p e).atomsAt = s.atomsAt := by unfold State.markDie; simp
@[simp] theorem State.markDie_raises (s : State) (p : Bool) (e : Late) : (s.markDie p e).raises = s.raises := by unfold State.markDie; simp
@[simp] theorem State.markDie_inboxes (s : State) (p : Bool) (e : Late) : (s.markDie p e).inboxes = s.inboxes := by unfold State.markDie; simp
@[simp] theorem State.markDie_regs (s : State) (p : Bool) (e : Late) : (s.markDie p e).regs = s.regs := by unfold State.markDie; simp
@[simp] theorem State.markDie_fw (s : State) (p : Bool) (e : Late) : (s.markDie p e).fw = s.fw := by unfold State.markDie; simp
@[simp] theorem State.markDie_dmix (s : State) (p : Bool) (e : Late) : (s.markDie p e).dmix = s.dmix := by unfold State.markDie; simp
@[simp] theorem State.markDie_power (s : State) (p : Bool) (e : Late) : (s.markDie p e).power = s.power := by unfold State.markDie; simp
@[simp] theorem State.markDie_free (s : State) (p : Bool) (e : Late) : (s.markDie p e).free = s.free := by unfold State.markDie; simp
@[simp] theorem State.fault_z0 (s : State) (c : Nat) (d : Word) : (s.fault c d).z0 = s.z0 := by unfold State.fault; simp
@[simp] theorem State.fault_cur (s : State) (c : Nat) (d : Word) : (s.fault c d).cur = s.cur := by unfold State.fault; simp
@[simp] theorem State.fault_others (s : State) (c : Nat) (d : Word) : (s.fault c d).others = s.others := by unfold State.fault; simp
@[simp] theorem State.fault_mem (s : State) (c : Nat) (d : Word) : (s.fault c d).mem = s.mem := by unfold State.fault; simp
@[simp] theorem State.fault_held (s : State) (c : Nat) (d : Word) : (s.fault c d).held = s.held := by unfold State.fault; simp
@[simp] theorem State.fault_births (s : State) (c : Nat) (d : Word) : (s.fault c d).births = s.births := by unfold State.fault; simp
@[simp] theorem State.fault_busyTiles (s : State) (c : Nat) (d : Word) : (s.fault c d).busyTiles = s.busyTiles := by unfold State.fault; simp
@[simp] theorem State.fault_sessions (s : State) (c : Nat) (d : Word) : (s.fault c d).sessions = s.sessions := by unfold State.fault; simp
@[simp] theorem State.fault_ended (s : State) (c : Nat) (d : Word) : (s.fault c d).ended = s.ended := by unfold State.fault; simp
@[simp] theorem State.fault_banks (s : State) (c : Nat) (d : Word) : (s.fault c d).banks = s.banks := by unfold State.fault; simp
@[simp] theorem State.fault_served (s : State) (c : Nat) (d : Word) : (s.fault c d).served = s.served := by unfold State.fault; simp
@[simp] theorem State.fault_promised (s : State) (c : Nat) (d : Word) : (s.fault c d).promised = s.promised := by unfold State.fault; simp
@[simp] theorem State.fault_links (s : State) (c : Nat) (d : Word) : (s.fault c d).links = s.links := by unfold State.fault; simp
@[simp] theorem State.fault_segs (s : State) (c : Nat) (d : Word) : (s.fault c d).segs = s.segs := by unfold State.fault; simp
@[simp] theorem State.fault_atoms (s : State) (c : Nat) (d : Word) : (s.fault c d).atoms = s.atoms := by unfold State.fault; simp
@[simp] theorem State.fault_atomsAt (s : State) (c : Nat) (d : Word) : (s.fault c d).atomsAt = s.atomsAt := by unfold State.fault; simp
@[simp] theorem State.fault_raises (s : State) (c : Nat) (d : Word) : (s.fault c d).raises = s.raises := by unfold State.fault; simp
@[simp] theorem State.fault_inboxes (s : State) (c : Nat) (d : Word) : (s.fault c d).inboxes = s.inboxes := by unfold State.fault; simp
@[simp] theorem State.fault_regs (s : State) (c : Nat) (d : Word) : (s.fault c d).regs = s.regs := by unfold State.fault; simp
@[simp] theorem State.fault_fw (s : State) (c : Nat) (d : Word) : (s.fault c d).fw = s.fw := by unfold State.fault; simp
@[simp] theorem State.fault_dmix (s : State) (c : Nat) (d : Word) : (s.fault c d).dmix = s.dmix := by unfold State.fault; simp
@[simp] theorem State.fault_power (s : State) (c : Nat) (d : Word) : (s.fault c d).power = s.power := by unfold State.fault; simp
@[simp] theorem State.fault_free (s : State) (c : Nat) (d : Word) : (s.fault c d).free = s.free := by unfold State.fault; simp
@[simp] theorem State.late_z0 (s : State) (c : Nat) (d : Word) : (s.late c d).z0 = s.z0 := by unfold State.late; split <;> simp
@[simp] theorem State.late_cur (s : State) (c : Nat) (d : Word) : (s.late c d).cur = s.cur := by unfold State.late; split <;> simp
@[simp] theorem State.late_others (s : State) (c : Nat) (d : Word) : (s.late c d).others = s.others := by unfold State.late; split <;> simp
@[simp] theorem State.late_mem (s : State) (c : Nat) (d : Word) : (s.late c d).mem = s.mem := by unfold State.late; split <;> simp
@[simp] theorem State.late_held (s : State) (c : Nat) (d : Word) : (s.late c d).held = s.held := by unfold State.late; split <;> simp
@[simp] theorem State.late_births (s : State) (c : Nat) (d : Word) : (s.late c d).births = s.births := by unfold State.late; split <;> simp
@[simp] theorem State.late_busyTiles (s : State) (c : Nat) (d : Word) : (s.late c d).busyTiles = s.busyTiles := by unfold State.late; split <;> simp
@[simp] theorem State.late_sessions (s : State) (c : Nat) (d : Word) : (s.late c d).sessions = s.sessions := by unfold State.late; split <;> simp
@[simp] theorem State.late_ended (s : State) (c : Nat) (d : Word) : (s.late c d).ended = s.ended := by unfold State.late; split <;> simp
@[simp] theorem State.late_banks (s : State) (c : Nat) (d : Word) : (s.late c d).banks = s.banks := by unfold State.late; split <;> simp
@[simp] theorem State.late_served (s : State) (c : Nat) (d : Word) : (s.late c d).served = s.served := by unfold State.late; split <;> simp
@[simp] theorem State.late_promised (s : State) (c : Nat) (d : Word) : (s.late c d).promised = s.promised := by unfold State.late; split <;> simp
@[simp] theorem State.late_links (s : State) (c : Nat) (d : Word) : (s.late c d).links = s.links := by unfold State.late; split <;> simp
@[simp] theorem State.late_segs (s : State) (c : Nat) (d : Word) : (s.late c d).segs = s.segs := by unfold State.late; split <;> simp
@[simp] theorem State.late_atoms (s : State) (c : Nat) (d : Word) : (s.late c d).atoms = s.atoms := by unfold State.late; split <;> simp
@[simp] theorem State.late_atomsAt (s : State) (c : Nat) (d : Word) : (s.late c d).atomsAt = s.atomsAt := by unfold State.late; split <;> simp
@[simp] theorem State.late_raises (s : State) (c : Nat) (d : Word) : (s.late c d).raises = s.raises := by unfold State.late; split <;> simp
@[simp] theorem State.late_inboxes (s : State) (c : Nat) (d : Word) : (s.late c d).inboxes = s.inboxes := by unfold State.late; split <;> simp
@[simp] theorem State.late_regs (s : State) (c : Nat) (d : Word) : (s.late c d).regs = s.regs := by unfold State.late; split <;> simp
@[simp] theorem State.late_fw (s : State) (c : Nat) (d : Word) : (s.late c d).fw = s.fw := by unfold State.late; split <;> simp
@[simp] theorem State.late_dmix (s : State) (c : Nat) (d : Word) : (s.late c d).dmix = s.dmix := by unfold State.late; split <;> simp
@[simp] theorem State.late_power (s : State) (c : Nat) (d : Word) : (s.late c d).power = s.power := by unfold State.late; split <;> simp
@[simp] theorem State.late_free (s : State) (c : Nat) (d : Word) : (s.late c d).free = s.free := by unfold State.late; split <;> simp
@[simp] theorem State.lateIssue_z0 (s : State) : (s.lateIssue).z0 = s.z0 := by unfold State.lateIssue; simp
@[simp] theorem State.lateIssue_cur (s : State) : (s.lateIssue).cur = s.cur := by unfold State.lateIssue; simp
@[simp] theorem State.lateIssue_others (s : State) : (s.lateIssue).others = s.others := by unfold State.lateIssue; simp
@[simp] theorem State.lateIssue_mem (s : State) : (s.lateIssue).mem = s.mem := by unfold State.lateIssue; simp
@[simp] theorem State.lateIssue_held (s : State) : (s.lateIssue).held = s.held := by unfold State.lateIssue; simp
@[simp] theorem State.lateIssue_births (s : State) : (s.lateIssue).births = s.births := by unfold State.lateIssue; simp
@[simp] theorem State.lateIssue_busyTiles (s : State) : (s.lateIssue).busyTiles = s.busyTiles := by unfold State.lateIssue; simp
@[simp] theorem State.lateIssue_sessions (s : State) : (s.lateIssue).sessions = s.sessions := by unfold State.lateIssue; simp
@[simp] theorem State.lateIssue_ended (s : State) : (s.lateIssue).ended = s.ended := by unfold State.lateIssue; simp
@[simp] theorem State.lateIssue_banks (s : State) : (s.lateIssue).banks = s.banks := by unfold State.lateIssue; simp
@[simp] theorem State.lateIssue_served (s : State) : (s.lateIssue).served = s.served := by unfold State.lateIssue; simp
@[simp] theorem State.lateIssue_promised (s : State) : (s.lateIssue).promised = s.promised := by unfold State.lateIssue; simp
@[simp] theorem State.lateIssue_links (s : State) : (s.lateIssue).links = s.links := by unfold State.lateIssue; simp
@[simp] theorem State.lateIssue_segs (s : State) : (s.lateIssue).segs = s.segs := by unfold State.lateIssue; simp
@[simp] theorem State.lateIssue_atoms (s : State) : (s.lateIssue).atoms = s.atoms := by unfold State.lateIssue; simp
@[simp] theorem State.lateIssue_atomsAt (s : State) : (s.lateIssue).atomsAt = s.atomsAt := by unfold State.lateIssue; simp
@[simp] theorem State.lateIssue_raises (s : State) : (s.lateIssue).raises = s.raises := by unfold State.lateIssue; simp
@[simp] theorem State.lateIssue_inboxes (s : State) : (s.lateIssue).inboxes = s.inboxes := by unfold State.lateIssue; simp
@[simp] theorem State.lateIssue_regs (s : State) : (s.lateIssue).regs = s.regs := by unfold State.lateIssue; simp
@[simp] theorem State.lateIssue_fw (s : State) : (s.lateIssue).fw = s.fw := by unfold State.lateIssue; simp
@[simp] theorem State.lateIssue_dmix (s : State) : (s.lateIssue).dmix = s.dmix := by unfold State.lateIssue; simp
@[simp] theorem State.lateIssue_power (s : State) : (s.lateIssue).power = s.power := by unfold State.lateIssue; simp
@[simp] theorem State.lateIssue_free (s : State) : (s.lateIssue).free = s.free := by unfold State.lateIssue; simp
@[simp] theorem State.begun_z0 (s : State) : (s.begun).z0 = s.z0 := rfl
@[simp] theorem State.begun_cur (s : State) : (s.begun).cur = s.cur := rfl
@[simp] theorem State.begun_others (s : State) : (s.begun).others = s.others := rfl
@[simp] theorem State.begun_mem (s : State) : (s.begun).mem = s.mem := rfl
@[simp] theorem State.begun_held (s : State) : (s.begun).held = s.held := rfl
@[simp] theorem State.begun_births (s : State) : (s.begun).births = s.births := rfl
@[simp] theorem State.begun_busyTiles (s : State) : (s.begun).busyTiles = s.busyTiles := rfl
@[simp] theorem State.begun_sessions (s : State) : (s.begun).sessions = s.sessions := rfl
@[simp] theorem State.begun_ended (s : State) : (s.begun).ended = s.ended := rfl
@[simp] theorem State.begun_banks (s : State) : (s.begun).banks = s.banks := rfl
@[simp] theorem State.begun_served (s : State) : (s.begun).served = s.served := rfl
@[simp] theorem State.begun_promised (s : State) : (s.begun).promised = s.promised := rfl
@[simp] theorem State.begun_main (s : State) : (s.begun).main = s.main := rfl
@[simp] theorem State.begun_prioL (s : State) : (s.begun).prioL = s.prioL := rfl
@[simp] theorem State.begun_links (s : State) : (s.begun).links = s.links := rfl
@[simp] theorem State.begun_segs (s : State) : (s.begun).segs = s.segs := rfl
@[simp] theorem State.begun_atoms (s : State) : (s.begun).atoms = s.atoms := rfl
@[simp] theorem State.begun_atomsAt (s : State) : (s.begun).atomsAt = s.atomsAt := rfl
@[simp] theorem State.begun_raises (s : State) : (s.begun).raises = s.raises := rfl
@[simp] theorem State.begun_inboxes (s : State) : (s.begun).inboxes = s.inboxes := rfl
@[simp] theorem State.begun_regs (s : State) : (s.begun).regs = s.regs := rfl
@[simp] theorem State.begun_fw (s : State) : (s.begun).fw = s.fw := rfl
@[simp] theorem State.begun_dmix (s : State) : (s.begun).dmix = s.dmix := rfl
@[simp] theorem State.begun_power (s : State) : (s.begun).power = s.power := rfl
@[simp] theorem State.begun_free (s : State) : s.begun.free = s.free + 1 := rfl
@[simp] theorem State.started_z0 (s : State) : (s.started).z0 = s.z0 := by unfold State.started; split <;> (try split) <;> first | rfl | simp
@[simp] theorem State.started_cur (s : State) : (s.started).cur = s.cur := by unfold State.started; split <;> (try split) <;> first | rfl | simp
@[simp] theorem State.started_others (s : State) : (s.started).others = s.others := by unfold State.started; split <;> (try split) <;> first | rfl | simp
@[simp] theorem State.started_mem (s : State) : (s.started).mem = s.mem := by unfold State.started; split <;> (try split) <;> first | rfl | simp
@[simp] theorem State.started_held (s : State) : (s.started).held = s.held := by unfold State.started; split <;> (try split) <;> first | rfl | simp
@[simp] theorem State.started_births (s : State) : (s.started).births = s.births := by unfold State.started; split <;> (try split) <;> first | rfl | simp
@[simp] theorem State.started_busyTiles (s : State) : (s.started).busyTiles = s.busyTiles := by unfold State.started; split <;> (try split) <;> first | rfl | simp
@[simp] theorem State.started_sessions (s : State) : (s.started).sessions = s.sessions := by unfold State.started; split <;> (try split) <;> first | rfl | simp
@[simp] theorem State.started_ended (s : State) : (s.started).ended = s.ended := by unfold State.started; split <;> (try split) <;> first | rfl | simp
@[simp] theorem State.started_banks (s : State) : (s.started).banks = s.banks := by unfold State.started; split <;> (try split) <;> first | rfl | simp
@[simp] theorem State.started_served (s : State) : (s.started).served = s.served := by unfold State.started; split <;> (try split) <;> first | rfl | simp
@[simp] theorem State.started_promised (s : State) : (s.started).promised = s.promised := by unfold State.started; split <;> (try split) <;> first | rfl | simp
@[simp] theorem State.started_links (s : State) : (s.started).links = s.links := by unfold State.started; split <;> (try split) <;> first | rfl | simp
@[simp] theorem State.started_segs (s : State) : (s.started).segs = s.segs := by unfold State.started; split <;> (try split) <;> first | rfl | simp
@[simp] theorem State.started_atoms (s : State) : (s.started).atoms = s.atoms := by unfold State.started; split <;> (try split) <;> first | rfl | simp
@[simp] theorem State.started_atomsAt (s : State) : (s.started).atomsAt = s.atomsAt := by unfold State.started; split <;> (try split) <;> first | rfl | simp
@[simp] theorem State.started_raises (s : State) : (s.started).raises = s.raises := by unfold State.started; split <;> (try split) <;> first | rfl | simp
@[simp] theorem State.started_inboxes (s : State) : (s.started).inboxes = s.inboxes := by unfold State.started; split <;> (try split) <;> first | rfl | simp
@[simp] theorem State.started_regs (s : State) : (s.started).regs = s.regs := by unfold State.started; split <;> (try split) <;> first | rfl | simp
@[simp] theorem State.started_fw (s : State) : (s.started).fw = s.fw := by unfold State.started; split <;> (try split) <;> first | rfl | simp
@[simp] theorem State.started_dmix (s : State) : (s.started).dmix = s.dmix := by unfold State.started; split <;> (try split) <;> first | rfl | simp
@[simp] theorem State.started_power (s : State) : (s.started).power = s.power := by unfold State.started; split <;> (try split) <;> first | rfl | simp

/-! ### Registers -/

@[simp] theorem State.setX_z0 (s : State) (k : Nat) (v : Word) : (s.setX k v).z0 = s.z0 := by unfold State.setX; split <;> (try split) <;> rfl
@[simp] theorem State.setX_others (s : State) (k : Nat) (v : Word) : (s.setX k v).others = s.others := by unfold State.setX; split <;> (try split) <;> rfl
@[simp] theorem State.setX_held (s : State) (k : Nat) (v : Word) : (s.setX k v).held = s.held := by unfold State.setX; split <;> (try split) <;> rfl
@[simp] theorem State.setX_births (s : State) (k : Nat) (v : Word) : (s.setX k v).births = s.births := by unfold State.setX; split <;> (try split) <;> rfl
@[simp] theorem State.setX_busyTiles (s : State) (k : Nat) (v : Word) : (s.setX k v).busyTiles = s.busyTiles := by unfold State.setX; split <;> (try split) <;> rfl
@[simp] theorem State.setX_sessions (s : State) (k : Nat) (v : Word) : (s.setX k v).sessions = s.sessions := by unfold State.setX; split <;> (try split) <;> rfl
@[simp] theorem State.setX_ended (s : State) (k : Nat) (v : Word) : (s.setX k v).ended = s.ended := by unfold State.setX; split <;> (try split) <;> rfl
@[simp] theorem State.setX_banks (s : State) (k : Nat) (v : Word) : (s.setX k v).banks = s.banks := by unfold State.setX; split <;> (try split) <;> rfl
@[simp] theorem State.setX_served (s : State) (k : Nat) (v : Word) : (s.setX k v).served = s.served := by unfold State.setX; split <;> (try split) <;> rfl
@[simp] theorem State.setX_promised (s : State) (k : Nat) (v : Word) : (s.setX k v).promised = s.promised := by unfold State.setX; split <;> (try split) <;> rfl
@[simp] theorem State.setX_main (s : State) (k : Nat) (v : Word) : (s.setX k v).main = s.main := by unfold State.setX; split <;> (try split) <;> rfl
@[simp] theorem State.setX_prioL (s : State) (k : Nat) (v : Word) : (s.setX k v).prioL = s.prioL := by unfold State.setX; split <;> (try split) <;> rfl
@[simp] theorem State.setX_links (s : State) (k : Nat) (v : Word) : (s.setX k v).links = s.links := by unfold State.setX; split <;> (try split) <;> rfl
@[simp] theorem State.setX_segs (s : State) (k : Nat) (v : Word) : (s.setX k v).segs = s.segs := by unfold State.setX; split <;> (try split) <;> rfl
@[simp] theorem State.setX_atoms (s : State) (k : Nat) (v : Word) : (s.setX k v).atoms = s.atoms := by unfold State.setX; split <;> (try split) <;> rfl
@[simp] theorem State.setX_atomsAt (s : State) (k : Nat) (v : Word) : (s.setX k v).atomsAt = s.atomsAt := by unfold State.setX; split <;> (try split) <;> rfl
@[simp] theorem State.setX_raises (s : State) (k : Nat) (v : Word) : (s.setX k v).raises = s.raises := by unfold State.setX; split <;> (try split) <;> rfl
@[simp] theorem State.setX_inboxes (s : State) (k : Nat) (v : Word) : (s.setX k v).inboxes = s.inboxes := by unfold State.setX; split <;> (try split) <;> rfl
@[simp] theorem State.setX_regs (s : State) (k : Nat) (v : Word) : (s.setX k v).regs = s.regs := by unfold State.setX; split <;> (try split) <;> rfl
@[simp] theorem State.setX_fw (s : State) (k : Nat) (v : Word) : (s.setX k v).fw = s.fw := by unfold State.setX; split <;> (try split) <;> rfl
@[simp] theorem State.setX_dmix (s : State) (k : Nat) (v : Word) : (s.setX k v).dmix = s.dmix := by unfold State.setX; split <;> (try split) <;> rfl
@[simp] theorem State.setX_power (s : State) (k : Nat) (v : Word) : (s.setX k v).power = s.power := by unfold State.setX; split <;> (try split) <;> rfl
@[simp] theorem State.setX_free (s : State) (k : Nat) (v : Word) : (s.setX k v).free = s.free := by unfold State.setX; split <;> (try split) <;> rfl
@[simp] theorem State.setX_cur_prio (s : State) (k : Nat) (v : Word) : (s.setX k v).cur.prio = s.cur.prio := by unfold State.setX; split <;> (try split) <;> rfl
@[simp] theorem State.setX_cur_vdie (s : State) (k : Nat) (v : Word) : (s.setX k v).cur.vdie = s.cur.vdie := by unfold State.setX; split <;> (try split) <;> rfl
@[simp] theorem State.setX_cur_cell (s : State) (k : Nat) (v : Word) : (s.setX k v).cur.cell = s.cur.cell := by unfold State.setX; split <;> (try split) <;> rfl
@[simp] theorem State.setX_cur_status (s : State) (k : Nat) (v : Word) : (s.setX k v).cur.status = s.cur.status := by unfold State.setX; split <;> (try split) <;> rfl
@[simp] theorem State.setX_cur_out (s : State) (k : Nat) (v : Word) : (s.setX k v).cur.out = s.cur.out := by unfold State.setX; split <;> (try split) <;> rfl
@[simp] theorem State.setX_cur_inboxOut (s : State) (k : Nat) (v : Word) : (s.setX k v).cur.inboxOut = s.cur.inboxOut := by unfold State.setX; split <;> (try split) <;> rfl
@[simp] theorem State.setX_cur_p (s : State) (k : Nat) (v : Word) : (s.setX k v).cur.p = s.cur.p := by unfold State.setX; split <;> (try split) <;> rfl
@[simp] theorem State.setX_cur_h (s : State) (k : Nat) (v : Word) : (s.setX k v).cur.h = s.cur.h := by unfold State.setX; split <;> (try split) <;> rfl
@[simp] theorem State.setX_cur_q (s : State) (k : Nat) (v : Word) : (s.setX k v).cur.q = s.cur.q := by unfold State.setX; split <;> (try split) <;> rfl
@[simp] theorem State.setX_cur_arith (s : State) (k : Nat) (v : Word) : (s.setX k v).cur.arith = s.cur.arith := by unfold State.setX; split <;> (try split) <;> rfl
@[simp] theorem State.setX_cur_expf (s : State) (k : Nat) (v : Word) : (s.setX k v).cur.expf = s.cur.expf := by unfold State.setX; split <;> (try split) <;> rfl
@[simp] theorem State.setX_cur_seq (s : State) (k : Nat) (v : Word) : (s.setX k v).cur.seq = s.cur.seq := by unfold State.setX; split <;> (try split) <;> rfl
@[simp] theorem State.setX_cur_busy (s : State) (k : Nat) (v : Word) : (s.setX k v).cur.busy = s.cur.busy := by unfold State.setX; split <;> (try split) <;> rfl
@[simp] theorem State.setX_cur_pend (s : State) (k : Nat) (v : Word) : (s.setX k v).cur.pend = s.cur.pend := by unfold State.setX; split <;> (try split) <;> rfl
@[simp] theorem State.setX_cur_fences (s : State) (k : Nat) (v : Word) : (s.setX k v).cur.fences = s.cur.fences := by unfold State.setX; split <;> (try split) <;> rfl
@[simp] theorem State.setX_cur_queue (s : State) (k : Nat) (v : Word) : (s.setX k v).cur.queue = s.cur.queue := by unfold State.setX; split <;> (try split) <;> rfl
@[simp] theorem State.setX_cur_running (s : State) (k : Nat) (v : Word) : (s.setX k v).cur.running = s.cur.running := by unfold State.setX; split <;> (try split) <;> rfl
@[simp] theorem State.setX_cur_railReq (s : State) (k : Nat) (v : Word) : (s.setX k v).cur.railReq = s.cur.railReq := by unfold State.setX; split <;> (try split) <;> rfl
@[simp] theorem State.setX_cur_mmode (s : State) (k : Nat) (v : Word) : (s.setX k v).cur.mmode = s.cur.mmode := by unfold State.setX; split <;> (try split) <;> rfl
@[simp] theorem State.setX_cur_ssend (s : State) (k : Nat) (v : Word) : (s.setX k v).cur.ssend = s.cur.ssend := by unfold State.setX; split <;> (try split) <;> rfl
@[simp] theorem State.setX_cur_rdv (s : State) (k : Nat) (v : Word) : (s.setX k v).cur.rdv = s.cur.rdv := by unfold State.setX; split <;> (try split) <;> rfl
@[simp] theorem State.setX_cur_tcause (s : State) (k : Nat) (v : Word) : (s.setX k v).cur.tcause = s.cur.tcause := by unfold State.setX; split <;> (try split) <;> rfl
@[simp] theorem State.setP_z0 (s : State) (k : Nat) (v : Bool) : (s.setP k v).z0 = s.z0 := by unfold State.setP; split <;> rfl
@[simp] theorem State.setP_others (s : State) (k : Nat) (v : Bool) : (s.setP k v).others = s.others := by unfold State.setP; split <;> rfl
@[simp] theorem State.setP_mem (s : State) (k : Nat) (v : Bool) : (s.setP k v).mem = s.mem := by unfold State.setP; split <;> rfl
@[simp] theorem State.setP_held (s : State) (k : Nat) (v : Bool) : (s.setP k v).held = s.held := by unfold State.setP; split <;> rfl
@[simp] theorem State.setP_births (s : State) (k : Nat) (v : Bool) : (s.setP k v).births = s.births := by unfold State.setP; split <;> rfl
@[simp] theorem State.setP_busyTiles (s : State) (k : Nat) (v : Bool) : (s.setP k v).busyTiles = s.busyTiles := by unfold State.setP; split <;> rfl
@[simp] theorem State.setP_sessions (s : State) (k : Nat) (v : Bool) : (s.setP k v).sessions = s.sessions := by unfold State.setP; split <;> rfl
@[simp] theorem State.setP_ended (s : State) (k : Nat) (v : Bool) : (s.setP k v).ended = s.ended := by unfold State.setP; split <;> rfl
@[simp] theorem State.setP_banks (s : State) (k : Nat) (v : Bool) : (s.setP k v).banks = s.banks := by unfold State.setP; split <;> rfl
@[simp] theorem State.setP_served (s : State) (k : Nat) (v : Bool) : (s.setP k v).served = s.served := by unfold State.setP; split <;> rfl
@[simp] theorem State.setP_promised (s : State) (k : Nat) (v : Bool) : (s.setP k v).promised = s.promised := by unfold State.setP; split <;> rfl
@[simp] theorem State.setP_main (s : State) (k : Nat) (v : Bool) : (s.setP k v).main = s.main := by unfold State.setP; split <;> rfl
@[simp] theorem State.setP_prioL (s : State) (k : Nat) (v : Bool) : (s.setP k v).prioL = s.prioL := by unfold State.setP; split <;> rfl
@[simp] theorem State.setP_links (s : State) (k : Nat) (v : Bool) : (s.setP k v).links = s.links := by unfold State.setP; split <;> rfl
@[simp] theorem State.setP_segs (s : State) (k : Nat) (v : Bool) : (s.setP k v).segs = s.segs := by unfold State.setP; split <;> rfl
@[simp] theorem State.setP_atoms (s : State) (k : Nat) (v : Bool) : (s.setP k v).atoms = s.atoms := by unfold State.setP; split <;> rfl
@[simp] theorem State.setP_atomsAt (s : State) (k : Nat) (v : Bool) : (s.setP k v).atomsAt = s.atomsAt := by unfold State.setP; split <;> rfl
@[simp] theorem State.setP_raises (s : State) (k : Nat) (v : Bool) : (s.setP k v).raises = s.raises := by unfold State.setP; split <;> rfl
@[simp] theorem State.setP_inboxes (s : State) (k : Nat) (v : Bool) : (s.setP k v).inboxes = s.inboxes := by unfold State.setP; split <;> rfl
@[simp] theorem State.setP_regs (s : State) (k : Nat) (v : Bool) : (s.setP k v).regs = s.regs := by unfold State.setP; split <;> rfl
@[simp] theorem State.setP_fw (s : State) (k : Nat) (v : Bool) : (s.setP k v).fw = s.fw := by unfold State.setP; split <;> rfl
@[simp] theorem State.setP_dmix (s : State) (k : Nat) (v : Bool) : (s.setP k v).dmix = s.dmix := by unfold State.setP; split <;> rfl
@[simp] theorem State.setP_power (s : State) (k : Nat) (v : Bool) : (s.setP k v).power = s.power := by unfold State.setP; split <;> rfl
@[simp] theorem State.setP_free (s : State) (k : Nat) (v : Bool) : (s.setP k v).free = s.free := by unfold State.setP; split <;> rfl
@[simp] theorem State.setP_cur_prio (s : State) (k : Nat) (v : Bool) : (s.setP k v).cur.prio = s.cur.prio := by unfold State.setP; split <;> rfl
@[simp] theorem State.setP_cur_vdie (s : State) (k : Nat) (v : Bool) : (s.setP k v).cur.vdie = s.cur.vdie := by unfold State.setP; split <;> rfl
@[simp] theorem State.setP_cur_cell (s : State) (k : Nat) (v : Bool) : (s.setP k v).cur.cell = s.cur.cell := by unfold State.setP; split <;> rfl
@[simp] theorem State.setP_cur_status (s : State) (k : Nat) (v : Bool) : (s.setP k v).cur.status = s.cur.status := by unfold State.setP; split <;> rfl
@[simp] theorem State.setP_cur_out (s : State) (k : Nat) (v : Bool) : (s.setP k v).cur.out = s.cur.out := by unfold State.setP; split <;> rfl
@[simp] theorem State.setP_cur_inboxOut (s : State) (k : Nat) (v : Bool) : (s.setP k v).cur.inboxOut = s.cur.inboxOut := by unfold State.setP; split <;> rfl
@[simp] theorem State.setP_cur_x (s : State) (k : Nat) (v : Bool) : (s.setP k v).cur.x = s.cur.x := by unfold State.setP; split <;> rfl
@[simp] theorem State.setP_cur_h (s : State) (k : Nat) (v : Bool) : (s.setP k v).cur.h = s.cur.h := by unfold State.setP; split <;> rfl
@[simp] theorem State.setP_cur_q (s : State) (k : Nat) (v : Bool) : (s.setP k v).cur.q = s.cur.q := by unfold State.setP; split <;> rfl
@[simp] theorem State.setP_cur_arith (s : State) (k : Nat) (v : Bool) : (s.setP k v).cur.arith = s.cur.arith := by unfold State.setP; split <;> rfl
@[simp] theorem State.setP_cur_expf (s : State) (k : Nat) (v : Bool) : (s.setP k v).cur.expf = s.cur.expf := by unfold State.setP; split <;> rfl
@[simp] theorem State.setP_cur_seq (s : State) (k : Nat) (v : Bool) : (s.setP k v).cur.seq = s.cur.seq := by unfold State.setP; split <;> rfl
@[simp] theorem State.setP_cur_busy (s : State) (k : Nat) (v : Bool) : (s.setP k v).cur.busy = s.cur.busy := by unfold State.setP; split <;> rfl
@[simp] theorem State.setP_cur_pend (s : State) (k : Nat) (v : Bool) : (s.setP k v).cur.pend = s.cur.pend := by unfold State.setP; split <;> rfl
@[simp] theorem State.setP_cur_fences (s : State) (k : Nat) (v : Bool) : (s.setP k v).cur.fences = s.cur.fences := by unfold State.setP; split <;> rfl
@[simp] theorem State.setP_cur_queue (s : State) (k : Nat) (v : Bool) : (s.setP k v).cur.queue = s.cur.queue := by unfold State.setP; split <;> rfl
@[simp] theorem State.setP_cur_running (s : State) (k : Nat) (v : Bool) : (s.setP k v).cur.running = s.cur.running := by unfold State.setP; split <;> rfl
@[simp] theorem State.setP_cur_railReq (s : State) (k : Nat) (v : Bool) : (s.setP k v).cur.railReq = s.cur.railReq := by unfold State.setP; split <;> rfl
@[simp] theorem State.setP_cur_mmode (s : State) (k : Nat) (v : Bool) : (s.setP k v).cur.mmode = s.cur.mmode := by unfold State.setP; split <;> rfl
@[simp] theorem State.setP_cur_ssend (s : State) (k : Nat) (v : Bool) : (s.setP k v).cur.ssend = s.cur.ssend := by unfold State.setP; split <;> rfl
@[simp] theorem State.setP_cur_rdv (s : State) (k : Nat) (v : Bool) : (s.setP k v).cur.rdv = s.cur.rdv := by unfold State.setP; split <;> rfl
@[simp] theorem State.setP_cur_tcause (s : State) (k : Nat) (v : Bool) : (s.setP k v).cur.tcause = s.cur.tcause := by unfold State.setP; split <;> rfl
@[simp] theorem State.setH_z0 (s : State) (k : Nat) (v : HRec) : (s.setH k v).z0 = s.z0 := rfl
@[simp] theorem State.setH_others (s : State) (k : Nat) (v : HRec) : (s.setH k v).others = s.others := rfl
@[simp] theorem State.setH_mem (s : State) (k : Nat) (v : HRec) : (s.setH k v).mem = s.mem := rfl
@[simp] theorem State.setH_held (s : State) (k : Nat) (v : HRec) : (s.setH k v).held = s.held := rfl
@[simp] theorem State.setH_births (s : State) (k : Nat) (v : HRec) : (s.setH k v).births = s.births := rfl
@[simp] theorem State.setH_busyTiles (s : State) (k : Nat) (v : HRec) : (s.setH k v).busyTiles = s.busyTiles := rfl
@[simp] theorem State.setH_sessions (s : State) (k : Nat) (v : HRec) : (s.setH k v).sessions = s.sessions := rfl
@[simp] theorem State.setH_ended (s : State) (k : Nat) (v : HRec) : (s.setH k v).ended = s.ended := rfl
@[simp] theorem State.setH_banks (s : State) (k : Nat) (v : HRec) : (s.setH k v).banks = s.banks := rfl
@[simp] theorem State.setH_served (s : State) (k : Nat) (v : HRec) : (s.setH k v).served = s.served := rfl
@[simp] theorem State.setH_promised (s : State) (k : Nat) (v : HRec) : (s.setH k v).promised = s.promised := rfl
@[simp] theorem State.setH_main (s : State) (k : Nat) (v : HRec) : (s.setH k v).main = s.main := rfl
@[simp] theorem State.setH_prioL (s : State) (k : Nat) (v : HRec) : (s.setH k v).prioL = s.prioL := rfl
@[simp] theorem State.setH_links (s : State) (k : Nat) (v : HRec) : (s.setH k v).links = s.links := rfl
@[simp] theorem State.setH_segs (s : State) (k : Nat) (v : HRec) : (s.setH k v).segs = s.segs := rfl
@[simp] theorem State.setH_atoms (s : State) (k : Nat) (v : HRec) : (s.setH k v).atoms = s.atoms := rfl
@[simp] theorem State.setH_atomsAt (s : State) (k : Nat) (v : HRec) : (s.setH k v).atomsAt = s.atomsAt := rfl
@[simp] theorem State.setH_raises (s : State) (k : Nat) (v : HRec) : (s.setH k v).raises = s.raises := rfl
@[simp] theorem State.setH_inboxes (s : State) (k : Nat) (v : HRec) : (s.setH k v).inboxes = s.inboxes := rfl
@[simp] theorem State.setH_regs (s : State) (k : Nat) (v : HRec) : (s.setH k v).regs = s.regs := rfl
@[simp] theorem State.setH_fw (s : State) (k : Nat) (v : HRec) : (s.setH k v).fw = s.fw := rfl
@[simp] theorem State.setH_dmix (s : State) (k : Nat) (v : HRec) : (s.setH k v).dmix = s.dmix := rfl
@[simp] theorem State.setH_power (s : State) (k : Nat) (v : HRec) : (s.setH k v).power = s.power := rfl
@[simp] theorem State.setH_free (s : State) (k : Nat) (v : HRec) : (s.setH k v).free = s.free := rfl
@[simp] theorem State.setQ_z0 (s : State) (k : Nat) (v : Port) : (s.setQ k v).z0 = s.z0 := rfl
@[simp] theorem State.setQ_others (s : State) (k : Nat) (v : Port) : (s.setQ k v).others = s.others := rfl
@[simp] theorem State.setQ_mem (s : State) (k : Nat) (v : Port) : (s.setQ k v).mem = s.mem := rfl
@[simp] theorem State.setQ_held (s : State) (k : Nat) (v : Port) : (s.setQ k v).held = s.held := rfl
@[simp] theorem State.setQ_births (s : State) (k : Nat) (v : Port) : (s.setQ k v).births = s.births := rfl
@[simp] theorem State.setQ_busyTiles (s : State) (k : Nat) (v : Port) : (s.setQ k v).busyTiles = s.busyTiles := rfl
@[simp] theorem State.setQ_sessions (s : State) (k : Nat) (v : Port) : (s.setQ k v).sessions = s.sessions := rfl
@[simp] theorem State.setQ_ended (s : State) (k : Nat) (v : Port) : (s.setQ k v).ended = s.ended := rfl
@[simp] theorem State.setQ_banks (s : State) (k : Nat) (v : Port) : (s.setQ k v).banks = s.banks := rfl
@[simp] theorem State.setQ_served (s : State) (k : Nat) (v : Port) : (s.setQ k v).served = s.served := rfl
@[simp] theorem State.setQ_promised (s : State) (k : Nat) (v : Port) : (s.setQ k v).promised = s.promised := rfl
@[simp] theorem State.setQ_main (s : State) (k : Nat) (v : Port) : (s.setQ k v).main = s.main := rfl
@[simp] theorem State.setQ_prioL (s : State) (k : Nat) (v : Port) : (s.setQ k v).prioL = s.prioL := rfl
@[simp] theorem State.setQ_links (s : State) (k : Nat) (v : Port) : (s.setQ k v).links = s.links := rfl
@[simp] theorem State.setQ_segs (s : State) (k : Nat) (v : Port) : (s.setQ k v).segs = s.segs := rfl
@[simp] theorem State.setQ_atoms (s : State) (k : Nat) (v : Port) : (s.setQ k v).atoms = s.atoms := rfl
@[simp] theorem State.setQ_atomsAt (s : State) (k : Nat) (v : Port) : (s.setQ k v).atomsAt = s.atomsAt := rfl
@[simp] theorem State.setQ_raises (s : State) (k : Nat) (v : Port) : (s.setQ k v).raises = s.raises := rfl
@[simp] theorem State.setQ_inboxes (s : State) (k : Nat) (v : Port) : (s.setQ k v).inboxes = s.inboxes := rfl
@[simp] theorem State.setQ_regs (s : State) (k : Nat) (v : Port) : (s.setQ k v).regs = s.regs := rfl
@[simp] theorem State.setQ_fw (s : State) (k : Nat) (v : Port) : (s.setQ k v).fw = s.fw := rfl
@[simp] theorem State.setQ_dmix (s : State) (k : Nat) (v : Port) : (s.setQ k v).dmix = s.dmix := rfl
@[simp] theorem State.setQ_power (s : State) (k : Nat) (v : Port) : (s.setQ k v).power = s.power := rfl
@[simp] theorem State.setQ_free (s : State) (k : Nat) (v : Port) : (s.setQ k v).free = s.free := rfl
@[simp] theorem State.setSem_z0 (s : State) (slot n v : Nat) : (s.setSem slot n v).z0 = s.z0 := rfl
@[simp] theorem State.setSem_cur (s : State) (slot n v : Nat) : (s.setSem slot n v).cur = s.cur := rfl
@[simp] theorem State.setSem_others (s : State) (slot n v : Nat) : (s.setSem slot n v).others = s.others := rfl
@[simp] theorem State.setSem_held (s : State) (slot n v : Nat) : (s.setSem slot n v).held = s.held := rfl
@[simp] theorem State.setSem_births (s : State) (slot n v : Nat) : (s.setSem slot n v).births = s.births := rfl
@[simp] theorem State.setSem_busyTiles (s : State) (slot n v : Nat) : (s.setSem slot n v).busyTiles = s.busyTiles := rfl
@[simp] theorem State.setSem_sessions (s : State) (slot n v : Nat) : (s.setSem slot n v).sessions = s.sessions := rfl
@[simp] theorem State.setSem_ended (s : State) (slot n v : Nat) : (s.setSem slot n v).ended = s.ended := rfl
@[simp] theorem State.setSem_banks (s : State) (slot n v : Nat) : (s.setSem slot n v).banks = s.banks := rfl
@[simp] theorem State.setSem_served (s : State) (slot n v : Nat) : (s.setSem slot n v).served = s.served := rfl
@[simp] theorem State.setSem_promised (s : State) (slot n v : Nat) : (s.setSem slot n v).promised = s.promised := rfl
@[simp] theorem State.setSem_main (s : State) (slot n v : Nat) : (s.setSem slot n v).main = s.main := rfl
@[simp] theorem State.setSem_prioL (s : State) (slot n v : Nat) : (s.setSem slot n v).prioL = s.prioL := rfl
@[simp] theorem State.setSem_links (s : State) (slot n v : Nat) : (s.setSem slot n v).links = s.links := rfl
@[simp] theorem State.setSem_segs (s : State) (slot n v : Nat) : (s.setSem slot n v).segs = s.segs := rfl
@[simp] theorem State.setSem_atoms (s : State) (slot n v : Nat) : (s.setSem slot n v).atoms = s.atoms := rfl
@[simp] theorem State.setSem_atomsAt (s : State) (slot n v : Nat) : (s.setSem slot n v).atomsAt = s.atomsAt := rfl
@[simp] theorem State.setSem_raises (s : State) (slot n v : Nat) : (s.setSem slot n v).raises = s.raises := rfl
@[simp] theorem State.setSem_inboxes (s : State) (slot n v : Nat) : (s.setSem slot n v).inboxes = s.inboxes := rfl
@[simp] theorem State.setSem_regs (s : State) (slot n v : Nat) : (s.setSem slot n v).regs = s.regs := rfl
@[simp] theorem State.setSem_fw (s : State) (slot n v : Nat) : (s.setSem slot n v).fw = s.fw := rfl
@[simp] theorem State.setSem_dmix (s : State) (slot n v : Nat) : (s.setSem slot n v).dmix = s.dmix := rfl
@[simp] theorem State.setSem_power (s : State) (slot n v : Nat) : (s.setSem slot n v).power = s.power := rfl
@[simp] theorem State.setSem_free (s : State) (slot n v : Nat) : (s.setSem slot n v).free = s.free := rfl

/-! ### Where the next unit lies -/

@[simp] theorem State.startFetch_z0 (s : State) : (s.startFetch).z0 = s.z0 := by unfold State.startFetch State.fetchAt; simp only []; split <;> rfl
@[simp] theorem State.startFetch_others (s : State) : (s.startFetch).others = s.others := by unfold State.startFetch State.fetchAt; simp only []; split <;> rfl
@[simp] theorem State.startFetch_mem (s : State) : (s.startFetch).mem = s.mem := by unfold State.startFetch State.fetchAt; simp only []; split <;> rfl
@[simp] theorem State.startFetch_held (s : State) : (s.startFetch).held = s.held := by unfold State.startFetch State.fetchAt; simp only []; split <;> rfl
@[simp] theorem State.startFetch_births (s : State) : (s.startFetch).births = s.births := by unfold State.startFetch State.fetchAt; simp only []; split <;> rfl
@[simp] theorem State.startFetch_busyTiles (s : State) : (s.startFetch).busyTiles = s.busyTiles := by unfold State.startFetch State.fetchAt; simp only []; split <;> rfl
@[simp] theorem State.startFetch_sessions (s : State) : (s.startFetch).sessions = s.sessions := by unfold State.startFetch State.fetchAt; simp only []; split <;> rfl
@[simp] theorem State.startFetch_ended (s : State) : (s.startFetch).ended = s.ended := by unfold State.startFetch State.fetchAt; simp only []; split <;> rfl
@[simp] theorem State.startFetch_banks (s : State) : (s.startFetch).banks = s.banks := by unfold State.startFetch State.fetchAt; simp only []; split <;> rfl
@[simp] theorem State.startFetch_served (s : State) : (s.startFetch).served = s.served := by unfold State.startFetch State.fetchAt; simp only []; split <;> rfl
@[simp] theorem State.startFetch_promised (s : State) : (s.startFetch).promised = s.promised := by unfold State.startFetch State.fetchAt; simp only []; split <;> rfl
@[simp] theorem State.startFetch_main (s : State) : (s.startFetch).main = s.main := by unfold State.startFetch State.fetchAt; simp only []; split <;> rfl
@[simp] theorem State.startFetch_prioL (s : State) : (s.startFetch).prioL = s.prioL := by unfold State.startFetch State.fetchAt; simp only []; split <;> rfl
@[simp] theorem State.startFetch_links (s : State) : (s.startFetch).links = s.links := by unfold State.startFetch State.fetchAt; simp only []; split <;> rfl
@[simp] theorem State.startFetch_segs (s : State) : (s.startFetch).segs = s.segs := by unfold State.startFetch State.fetchAt; simp only []; split <;> rfl
@[simp] theorem State.startFetch_atoms (s : State) : (s.startFetch).atoms = s.atoms := by unfold State.startFetch State.fetchAt; simp only []; split <;> rfl
@[simp] theorem State.startFetch_atomsAt (s : State) : (s.startFetch).atomsAt = s.atomsAt := by unfold State.startFetch State.fetchAt; simp only []; split <;> rfl
@[simp] theorem State.startFetch_raises (s : State) : (s.startFetch).raises = s.raises := by unfold State.startFetch State.fetchAt; simp only []; split <;> rfl
@[simp] theorem State.startFetch_inboxes (s : State) : (s.startFetch).inboxes = s.inboxes := by unfold State.startFetch State.fetchAt; simp only []; split <;> rfl
@[simp] theorem State.startFetch_regs (s : State) : (s.startFetch).regs = s.regs := by unfold State.startFetch State.fetchAt; simp only []; split <;> rfl
@[simp] theorem State.startFetch_fw (s : State) : (s.startFetch).fw = s.fw := by unfold State.startFetch State.fetchAt; simp only []; split <;> rfl
@[simp] theorem State.startFetch_dmix (s : State) : (s.startFetch).dmix = s.dmix := by unfold State.startFetch State.fetchAt; simp only []; split <;> rfl
@[simp] theorem State.startFetch_power (s : State) : (s.startFetch).power = s.power := by unfold State.startFetch State.fetchAt; simp only []; split <;> rfl
@[simp] theorem State.startFetch_free (s : State) : (s.startFetch).free = s.free := by unfold State.startFetch State.fetchAt; simp only []; split <;> rfl
@[simp] theorem State.startFetch_cur_prio (s : State) : (s.startFetch).cur.prio = s.cur.prio := by unfold State.startFetch State.fetchAt; simp only []; split <;> rfl
@[simp] theorem State.startFetch_cur_vdie (s : State) : (s.startFetch).cur.vdie = s.cur.vdie := by unfold State.startFetch State.fetchAt; simp only []; split <;> rfl
@[simp] theorem State.startFetch_cur_cell (s : State) : (s.startFetch).cur.cell = s.cur.cell := by unfold State.startFetch State.fetchAt; simp only []; split <;> rfl
@[simp] theorem State.startFetch_cur_status (s : State) : (s.startFetch).cur.status = s.cur.status := by unfold State.startFetch State.fetchAt; simp only []; split <;> rfl
@[simp] theorem State.startFetch_cur_out (s : State) : (s.startFetch).cur.out = s.cur.out := by unfold State.startFetch State.fetchAt; simp only []; split <;> rfl
@[simp] theorem State.startFetch_cur_inboxOut (s : State) : (s.startFetch).cur.inboxOut = s.cur.inboxOut := by unfold State.startFetch State.fetchAt; simp only []; split <;> rfl
@[simp] theorem State.startFetch_cur_x (s : State) : (s.startFetch).cur.x = s.cur.x := by unfold State.startFetch State.fetchAt; simp only []; split <;> rfl
@[simp] theorem State.startFetch_cur_p (s : State) : (s.startFetch).cur.p = s.cur.p := by unfold State.startFetch State.fetchAt; simp only []; split <;> rfl
@[simp] theorem State.startFetch_cur_h (s : State) : (s.startFetch).cur.h = s.cur.h := by unfold State.startFetch State.fetchAt; simp only []; split <;> rfl
@[simp] theorem State.startFetch_cur_q (s : State) : (s.startFetch).cur.q = s.cur.q := by unfold State.startFetch State.fetchAt; simp only []; split <;> rfl
@[simp] theorem State.startFetch_cur_arith (s : State) : (s.startFetch).cur.arith = s.cur.arith := by unfold State.startFetch State.fetchAt; simp only []; split <;> rfl
@[simp] theorem State.startFetch_cur_expf (s : State) : (s.startFetch).cur.expf = s.cur.expf := by unfold State.startFetch State.fetchAt; simp only []; split <;> rfl
@[simp] theorem State.startFetch_cur_seq (s : State) : (s.startFetch).cur.seq = s.cur.seq := by unfold State.startFetch State.fetchAt; simp only []; split <;> rfl
@[simp] theorem State.startFetch_cur_busy (s : State) : (s.startFetch).cur.busy = s.cur.busy := by unfold State.startFetch State.fetchAt; simp only []; split <;> rfl
@[simp] theorem State.startFetch_cur_pend (s : State) : (s.startFetch).cur.pend = s.cur.pend := by unfold State.startFetch State.fetchAt; simp only []; split <;> rfl
@[simp] theorem State.startFetch_cur_fences (s : State) : (s.startFetch).cur.fences = s.cur.fences := by unfold State.startFetch State.fetchAt; simp only []; split <;> rfl
@[simp] theorem State.startFetch_cur_queue (s : State) : (s.startFetch).cur.queue = s.cur.queue := by unfold State.startFetch State.fetchAt; simp only []; split <;> rfl
@[simp] theorem State.startFetch_cur_running (s : State) : (s.startFetch).cur.running = s.cur.running := by unfold State.startFetch State.fetchAt; simp only []; split <;> rfl
@[simp] theorem State.startFetch_cur_railReq (s : State) : (s.startFetch).cur.railReq = s.cur.railReq := by unfold State.startFetch State.fetchAt; simp only []; split <;> rfl
@[simp] theorem State.startFetch_cur_mmode (s : State) : (s.startFetch).cur.mmode = s.cur.mmode := by unfold State.startFetch State.fetchAt; simp only []; split <;> rfl
@[simp] theorem State.startFetch_cur_ssend (s : State) : (s.startFetch).cur.ssend = s.cur.ssend := by unfold State.startFetch State.fetchAt; simp only []; split <;> rfl
@[simp] theorem State.startFetch_cur_rdv (s : State) : (s.startFetch).cur.rdv = s.cur.rdv := by unfold State.startFetch State.fetchAt; simp only []; split <;> rfl
@[simp] theorem State.startFetch_cur_tcause (s : State) : (s.startFetch).cur.tcause = s.cur.tcause := by unfold State.startFetch State.fetchAt; simp only []; split <;> rfl
@[simp] theorem State.goTo_z0 (s : State) (h : Nat) (a : Word) (l : List LoopEnt) : (s.goTo h a l).z0 = s.z0 := by unfold State.goTo; simp
@[simp] theorem State.goTo_others (s : State) (h : Nat) (a : Word) (l : List LoopEnt) : (s.goTo h a l).others = s.others := by unfold State.goTo; simp
@[simp] theorem State.goTo_mem (s : State) (h : Nat) (a : Word) (l : List LoopEnt) : (s.goTo h a l).mem = s.mem := by unfold State.goTo; simp
@[simp] theorem State.goTo_held (s : State) (h : Nat) (a : Word) (l : List LoopEnt) : (s.goTo h a l).held = s.held := by unfold State.goTo; simp
@[simp] theorem State.goTo_births (s : State) (h : Nat) (a : Word) (l : List LoopEnt) : (s.goTo h a l).births = s.births := by unfold State.goTo; simp
@[simp] theorem State.goTo_busyTiles (s : State) (h : Nat) (a : Word) (l : List LoopEnt) : (s.goTo h a l).busyTiles = s.busyTiles := by unfold State.goTo; simp
@[simp] theorem State.goTo_sessions (s : State) (h : Nat) (a : Word) (l : List LoopEnt) : (s.goTo h a l).sessions = s.sessions := by unfold State.goTo; simp
@[simp] theorem State.goTo_ended (s : State) (h : Nat) (a : Word) (l : List LoopEnt) : (s.goTo h a l).ended = s.ended := by unfold State.goTo; simp
@[simp] theorem State.goTo_banks (s : State) (h : Nat) (a : Word) (l : List LoopEnt) : (s.goTo h a l).banks = s.banks := by unfold State.goTo; simp
@[simp] theorem State.goTo_served (s : State) (h : Nat) (a : Word) (l : List LoopEnt) : (s.goTo h a l).served = s.served := by unfold State.goTo; simp
@[simp] theorem State.goTo_promised (s : State) (h : Nat) (a : Word) (l : List LoopEnt) : (s.goTo h a l).promised = s.promised := by unfold State.goTo; simp
@[simp] theorem State.goTo_main (s : State) (h : Nat) (a : Word) (l : List LoopEnt) : (s.goTo h a l).main = s.main := by unfold State.goTo; simp
@[simp] theorem State.goTo_prioL (s : State) (h : Nat) (a : Word) (l : List LoopEnt) : (s.goTo h a l).prioL = s.prioL := by unfold State.goTo; simp
@[simp] theorem State.goTo_links (s : State) (h : Nat) (a : Word) (l : List LoopEnt) : (s.goTo h a l).links = s.links := by unfold State.goTo; simp
@[simp] theorem State.goTo_segs (s : State) (h : Nat) (a : Word) (l : List LoopEnt) : (s.goTo h a l).segs = s.segs := by unfold State.goTo; simp
@[simp] theorem State.goTo_atoms (s : State) (h : Nat) (a : Word) (l : List LoopEnt) : (s.goTo h a l).atoms = s.atoms := by unfold State.goTo; simp
@[simp] theorem State.goTo_atomsAt (s : State) (h : Nat) (a : Word) (l : List LoopEnt) : (s.goTo h a l).atomsAt = s.atomsAt := by unfold State.goTo; simp
@[simp] theorem State.goTo_raises (s : State) (h : Nat) (a : Word) (l : List LoopEnt) : (s.goTo h a l).raises = s.raises := by unfold State.goTo; simp
@[simp] theorem State.goTo_inboxes (s : State) (h : Nat) (a : Word) (l : List LoopEnt) : (s.goTo h a l).inboxes = s.inboxes := by unfold State.goTo; simp
@[simp] theorem State.goTo_regs (s : State) (h : Nat) (a : Word) (l : List LoopEnt) : (s.goTo h a l).regs = s.regs := by unfold State.goTo; simp
@[simp] theorem State.goTo_fw (s : State) (h : Nat) (a : Word) (l : List LoopEnt) : (s.goTo h a l).fw = s.fw := by unfold State.goTo; simp
@[simp] theorem State.goTo_dmix (s : State) (h : Nat) (a : Word) (l : List LoopEnt) : (s.goTo h a l).dmix = s.dmix := by unfold State.goTo; simp
@[simp] theorem State.goTo_power (s : State) (h : Nat) (a : Word) (l : List LoopEnt) : (s.goTo h a l).power = s.power := by unfold State.goTo; simp
@[simp] theorem State.goTo_free (s : State) (h : Nat) (a : Word) (l : List LoopEnt) : (s.goTo h a l).free = s.free := by unfold State.goTo; simp
@[simp] theorem State.goTo_cur_prio (s : State) (h : Nat) (a : Word) (l : List LoopEnt) : (s.goTo h a l).cur.prio = s.cur.prio := by unfold State.goTo; simp
@[simp] theorem State.goTo_cur_vdie (s : State) (h : Nat) (a : Word) (l : List LoopEnt) : (s.goTo h a l).cur.vdie = s.cur.vdie := by unfold State.goTo; simp
@[simp] theorem State.goTo_cur_cell (s : State) (h : Nat) (a : Word) (l : List LoopEnt) : (s.goTo h a l).cur.cell = s.cur.cell := by unfold State.goTo; simp
@[simp] theorem State.goTo_cur_status (s : State) (h : Nat) (a : Word) (l : List LoopEnt) : (s.goTo h a l).cur.status = s.cur.status := by unfold State.goTo; simp
@[simp] theorem State.goTo_cur_out (s : State) (h : Nat) (a : Word) (l : List LoopEnt) : (s.goTo h a l).cur.out = s.cur.out := by unfold State.goTo; simp
@[simp] theorem State.goTo_cur_inboxOut (s : State) (h : Nat) (a : Word) (l : List LoopEnt) : (s.goTo h a l).cur.inboxOut = s.cur.inboxOut := by unfold State.goTo; simp
@[simp] theorem State.goTo_cur_x (s : State) (h : Nat) (a : Word) (l : List LoopEnt) : (s.goTo h a l).cur.x = s.cur.x := by unfold State.goTo; simp
@[simp] theorem State.goTo_cur_p (s : State) (h : Nat) (a : Word) (l : List LoopEnt) : (s.goTo h a l).cur.p = s.cur.p := by unfold State.goTo; simp
@[simp] theorem State.goTo_cur_h (s : State) (h : Nat) (a : Word) (l : List LoopEnt) : (s.goTo h a l).cur.h = s.cur.h := by unfold State.goTo; simp
@[simp] theorem State.goTo_cur_q (s : State) (h : Nat) (a : Word) (l : List LoopEnt) : (s.goTo h a l).cur.q = s.cur.q := by unfold State.goTo; simp
@[simp] theorem State.goTo_cur_arith (s : State) (h : Nat) (a : Word) (l : List LoopEnt) : (s.goTo h a l).cur.arith = s.cur.arith := by unfold State.goTo; simp
@[simp] theorem State.goTo_cur_expf (s : State) (h : Nat) (a : Word) (l : List LoopEnt) : (s.goTo h a l).cur.expf = s.cur.expf := by unfold State.goTo; simp
@[simp] theorem State.goTo_cur_seq (s : State) (h : Nat) (a : Word) (l : List LoopEnt) : (s.goTo h a l).cur.seq = s.cur.seq := by unfold State.goTo; simp
@[simp] theorem State.goTo_cur_busy (s : State) (h : Nat) (a : Word) (l : List LoopEnt) : (s.goTo h a l).cur.busy = s.cur.busy := by unfold State.goTo; simp
@[simp] theorem State.goTo_cur_pend (s : State) (h : Nat) (a : Word) (l : List LoopEnt) : (s.goTo h a l).cur.pend = s.cur.pend := by unfold State.goTo; simp
@[simp] theorem State.goTo_cur_fences (s : State) (h : Nat) (a : Word) (l : List LoopEnt) : (s.goTo h a l).cur.fences = s.cur.fences := by unfold State.goTo; simp
@[simp] theorem State.goTo_cur_queue (s : State) (h : Nat) (a : Word) (l : List LoopEnt) : (s.goTo h a l).cur.queue = s.cur.queue := by unfold State.goTo; simp
@[simp] theorem State.goTo_cur_running (s : State) (h : Nat) (a : Word) (l : List LoopEnt) : (s.goTo h a l).cur.running = s.cur.running := by unfold State.goTo; simp
@[simp] theorem State.goTo_cur_railReq (s : State) (h : Nat) (a : Word) (l : List LoopEnt) : (s.goTo h a l).cur.railReq = s.cur.railReq := by unfold State.goTo; simp
@[simp] theorem State.goTo_cur_mmode (s : State) (h : Nat) (a : Word) (l : List LoopEnt) : (s.goTo h a l).cur.mmode = s.cur.mmode := by unfold State.goTo; simp
@[simp] theorem State.goTo_cur_ssend (s : State) (h : Nat) (a : Word) (l : List LoopEnt) : (s.goTo h a l).cur.ssend = s.cur.ssend := by unfold State.goTo; simp
@[simp] theorem State.goTo_cur_rdv (s : State) (h : Nat) (a : Word) (l : List LoopEnt) : (s.goTo h a l).cur.rdv = s.cur.rdv := by unfold State.goTo; simp
@[simp] theorem State.goTo_cur_tcause (s : State) (h : Nat) (a : Word) (l : List LoopEnt) : (s.goTo h a l).cur.tcause = s.cur.tcause := by unfold State.goTo; simp
@[simp] theorem State.advance_z0 (s : State) (h : Nat) : (s.advance h).z0 = s.z0 := by unfold State.advance; split <;> (try split) <;> simp
@[simp] theorem State.advance_others (s : State) (h : Nat) : (s.advance h).others = s.others := by unfold State.advance; split <;> (try split) <;> simp
@[simp] theorem State.advance_mem (s : State) (h : Nat) : (s.advance h).mem = s.mem := by unfold State.advance; split <;> (try split) <;> simp
@[simp] theorem State.advance_held (s : State) (h : Nat) : (s.advance h).held = s.held := by unfold State.advance; split <;> (try split) <;> simp
@[simp] theorem State.advance_births (s : State) (h : Nat) : (s.advance h).births = s.births := by unfold State.advance; split <;> (try split) <;> simp
@[simp] theorem State.advance_busyTiles (s : State) (h : Nat) : (s.advance h).busyTiles = s.busyTiles := by unfold State.advance; split <;> (try split) <;> simp
@[simp] theorem State.advance_sessions (s : State) (h : Nat) : (s.advance h).sessions = s.sessions := by unfold State.advance; split <;> (try split) <;> simp
@[simp] theorem State.advance_ended (s : State) (h : Nat) : (s.advance h).ended = s.ended := by unfold State.advance; split <;> (try split) <;> simp
@[simp] theorem State.advance_banks (s : State) (h : Nat) : (s.advance h).banks = s.banks := by unfold State.advance; split <;> (try split) <;> simp
@[simp] theorem State.advance_served (s : State) (h : Nat) : (s.advance h).served = s.served := by unfold State.advance; split <;> (try split) <;> simp
@[simp] theorem State.advance_promised (s : State) (h : Nat) : (s.advance h).promised = s.promised := by unfold State.advance; split <;> (try split) <;> simp
@[simp] theorem State.advance_main (s : State) (h : Nat) : (s.advance h).main = s.main := by unfold State.advance; split <;> (try split) <;> simp
@[simp] theorem State.advance_prioL (s : State) (h : Nat) : (s.advance h).prioL = s.prioL := by unfold State.advance; split <;> (try split) <;> simp
@[simp] theorem State.advance_links (s : State) (h : Nat) : (s.advance h).links = s.links := by unfold State.advance; split <;> (try split) <;> simp
@[simp] theorem State.advance_segs (s : State) (h : Nat) : (s.advance h).segs = s.segs := by unfold State.advance; split <;> (try split) <;> simp
@[simp] theorem State.advance_atoms (s : State) (h : Nat) : (s.advance h).atoms = s.atoms := by unfold State.advance; split <;> (try split) <;> simp
@[simp] theorem State.advance_atomsAt (s : State) (h : Nat) : (s.advance h).atomsAt = s.atomsAt := by unfold State.advance; split <;> (try split) <;> simp
@[simp] theorem State.advance_raises (s : State) (h : Nat) : (s.advance h).raises = s.raises := by unfold State.advance; split <;> (try split) <;> simp
@[simp] theorem State.advance_inboxes (s : State) (h : Nat) : (s.advance h).inboxes = s.inboxes := by unfold State.advance; split <;> (try split) <;> simp
@[simp] theorem State.advance_regs (s : State) (h : Nat) : (s.advance h).regs = s.regs := by unfold State.advance; split <;> (try split) <;> simp
@[simp] theorem State.advance_fw (s : State) (h : Nat) : (s.advance h).fw = s.fw := by unfold State.advance; split <;> (try split) <;> simp
@[simp] theorem State.advance_dmix (s : State) (h : Nat) : (s.advance h).dmix = s.dmix := by unfold State.advance; split <;> (try split) <;> simp
@[simp] theorem State.advance_power (s : State) (h : Nat) : (s.advance h).power = s.power := by unfold State.advance; split <;> (try split) <;> simp
@[simp] theorem State.advance_free (s : State) (h : Nat) : (s.advance h).free = s.free := by unfold State.advance; split <;> (try split) <;> simp
@[simp] theorem State.advance_cur_prio (s : State) (h : Nat) : (s.advance h).cur.prio = s.cur.prio := by unfold State.advance; split <;> (try split) <;> simp
@[simp] theorem State.advance_cur_vdie (s : State) (h : Nat) : (s.advance h).cur.vdie = s.cur.vdie := by unfold State.advance; split <;> (try split) <;> simp
@[simp] theorem State.advance_cur_cell (s : State) (h : Nat) : (s.advance h).cur.cell = s.cur.cell := by unfold State.advance; split <;> (try split) <;> simp
@[simp] theorem State.advance_cur_status (s : State) (h : Nat) : (s.advance h).cur.status = s.cur.status := by unfold State.advance; split <;> (try split) <;> simp
@[simp] theorem State.advance_cur_out (s : State) (h : Nat) : (s.advance h).cur.out = s.cur.out := by unfold State.advance; split <;> (try split) <;> simp
@[simp] theorem State.advance_cur_inboxOut (s : State) (h : Nat) : (s.advance h).cur.inboxOut = s.cur.inboxOut := by unfold State.advance; split <;> (try split) <;> simp
@[simp] theorem State.advance_cur_x (s : State) (h : Nat) : (s.advance h).cur.x = s.cur.x := by unfold State.advance; split <;> (try split) <;> simp
@[simp] theorem State.advance_cur_p (s : State) (h : Nat) : (s.advance h).cur.p = s.cur.p := by unfold State.advance; split <;> (try split) <;> simp
@[simp] theorem State.advance_cur_h (s : State) (h : Nat) : (s.advance h).cur.h = s.cur.h := by unfold State.advance; split <;> (try split) <;> simp
@[simp] theorem State.advance_cur_q (s : State) (h : Nat) : (s.advance h).cur.q = s.cur.q := by unfold State.advance; split <;> (try split) <;> simp
@[simp] theorem State.advance_cur_arith (s : State) (h : Nat) : (s.advance h).cur.arith = s.cur.arith := by unfold State.advance; split <;> (try split) <;> simp
@[simp] theorem State.advance_cur_expf (s : State) (h : Nat) : (s.advance h).cur.expf = s.cur.expf := by unfold State.advance; split <;> (try split) <;> simp
@[simp] theorem State.advance_cur_seq (s : State) (h : Nat) : (s.advance h).cur.seq = s.cur.seq := by unfold State.advance; split <;> (try split) <;> simp
@[simp] theorem State.advance_cur_busy (s : State) (h : Nat) : (s.advance h).cur.busy = s.cur.busy := by unfold State.advance; split <;> (try split) <;> simp
@[simp] theorem State.advance_cur_pend (s : State) (h : Nat) : (s.advance h).cur.pend = s.cur.pend := by unfold State.advance; split <;> (try split) <;> simp
@[simp] theorem State.advance_cur_fences (s : State) (h : Nat) : (s.advance h).cur.fences = s.cur.fences := by unfold State.advance; split <;> (try split) <;> simp
@[simp] theorem State.advance_cur_queue (s : State) (h : Nat) : (s.advance h).cur.queue = s.cur.queue := by unfold State.advance; split <;> (try split) <;> simp
@[simp] theorem State.advance_cur_running (s : State) (h : Nat) : (s.advance h).cur.running = s.cur.running := by unfold State.advance; split <;> (try split) <;> simp
@[simp] theorem State.advance_cur_railReq (s : State) (h : Nat) : (s.advance h).cur.railReq = s.cur.railReq := by unfold State.advance; split <;> (try split) <;> simp
@[simp] theorem State.advance_cur_mmode (s : State) (h : Nat) : (s.advance h).cur.mmode = s.cur.mmode := by unfold State.advance; split <;> (try split) <;> simp
@[simp] theorem State.advance_cur_ssend (s : State) (h : Nat) : (s.advance h).cur.ssend = s.cur.ssend := by unfold State.advance; split <;> (try split) <;> simp
@[simp] theorem State.advance_cur_rdv (s : State) (h : Nat) : (s.advance h).cur.rdv = s.cur.rdv := by unfold State.advance; split <;> (try split) <;> simp
@[simp] theorem State.advance_cur_tcause (s : State) (h : Nat) : (s.advance h).cur.tcause = s.cur.tcause := by unfold State.advance; split <;> (try split) <;> simp
@[simp] theorem State.transfer_z0 (s : State) (h : Nat) (t : Word) : (s.transfer h t).z0 = s.z0 := by unfold State.transfer; simp
@[simp] theorem State.transfer_others (s : State) (h : Nat) (t : Word) : (s.transfer h t).others = s.others := by unfold State.transfer; simp
@[simp] theorem State.transfer_mem (s : State) (h : Nat) (t : Word) : (s.transfer h t).mem = s.mem := by unfold State.transfer; simp
@[simp] theorem State.transfer_held (s : State) (h : Nat) (t : Word) : (s.transfer h t).held = s.held := by unfold State.transfer; simp
@[simp] theorem State.transfer_births (s : State) (h : Nat) (t : Word) : (s.transfer h t).births = s.births := by unfold State.transfer; simp
@[simp] theorem State.transfer_busyTiles (s : State) (h : Nat) (t : Word) : (s.transfer h t).busyTiles = s.busyTiles := by unfold State.transfer; simp
@[simp] theorem State.transfer_sessions (s : State) (h : Nat) (t : Word) : (s.transfer h t).sessions = s.sessions := by unfold State.transfer; simp
@[simp] theorem State.transfer_ended (s : State) (h : Nat) (t : Word) : (s.transfer h t).ended = s.ended := by unfold State.transfer; simp
@[simp] theorem State.transfer_banks (s : State) (h : Nat) (t : Word) : (s.transfer h t).banks = s.banks := by unfold State.transfer; simp
@[simp] theorem State.transfer_served (s : State) (h : Nat) (t : Word) : (s.transfer h t).served = s.served := by unfold State.transfer; simp
@[simp] theorem State.transfer_promised (s : State) (h : Nat) (t : Word) : (s.transfer h t).promised = s.promised := by unfold State.transfer; simp
@[simp] theorem State.transfer_main (s : State) (h : Nat) (t : Word) : (s.transfer h t).main = s.main := by unfold State.transfer; simp
@[simp] theorem State.transfer_prioL (s : State) (h : Nat) (t : Word) : (s.transfer h t).prioL = s.prioL := by unfold State.transfer; simp
@[simp] theorem State.transfer_links (s : State) (h : Nat) (t : Word) : (s.transfer h t).links = s.links := by unfold State.transfer; simp
@[simp] theorem State.transfer_segs (s : State) (h : Nat) (t : Word) : (s.transfer h t).segs = s.segs := by unfold State.transfer; simp
@[simp] theorem State.transfer_atoms (s : State) (h : Nat) (t : Word) : (s.transfer h t).atoms = s.atoms := by unfold State.transfer; simp
@[simp] theorem State.transfer_atomsAt (s : State) (h : Nat) (t : Word) : (s.transfer h t).atomsAt = s.atomsAt := by unfold State.transfer; simp
@[simp] theorem State.transfer_raises (s : State) (h : Nat) (t : Word) : (s.transfer h t).raises = s.raises := by unfold State.transfer; simp
@[simp] theorem State.transfer_inboxes (s : State) (h : Nat) (t : Word) : (s.transfer h t).inboxes = s.inboxes := by unfold State.transfer; simp
@[simp] theorem State.transfer_regs (s : State) (h : Nat) (t : Word) : (s.transfer h t).regs = s.regs := by unfold State.transfer; simp
@[simp] theorem State.transfer_fw (s : State) (h : Nat) (t : Word) : (s.transfer h t).fw = s.fw := by unfold State.transfer; simp
@[simp] theorem State.transfer_dmix (s : State) (h : Nat) (t : Word) : (s.transfer h t).dmix = s.dmix := by unfold State.transfer; simp
@[simp] theorem State.transfer_power (s : State) (h : Nat) (t : Word) : (s.transfer h t).power = s.power := by unfold State.transfer; simp
@[simp] theorem State.transfer_free (s : State) (h : Nat) (t : Word) : (s.transfer h t).free = s.free := by unfold State.transfer; simp
@[simp] theorem State.transfer_cur_prio (s : State) (h : Nat) (t : Word) : (s.transfer h t).cur.prio = s.cur.prio := by unfold State.transfer; simp
@[simp] theorem State.transfer_cur_vdie (s : State) (h : Nat) (t : Word) : (s.transfer h t).cur.vdie = s.cur.vdie := by unfold State.transfer; simp
@[simp] theorem State.transfer_cur_cell (s : State) (h : Nat) (t : Word) : (s.transfer h t).cur.cell = s.cur.cell := by unfold State.transfer; simp
@[simp] theorem State.transfer_cur_status (s : State) (h : Nat) (t : Word) : (s.transfer h t).cur.status = s.cur.status := by unfold State.transfer; simp
@[simp] theorem State.transfer_cur_out (s : State) (h : Nat) (t : Word) : (s.transfer h t).cur.out = s.cur.out := by unfold State.transfer; simp
@[simp] theorem State.transfer_cur_inboxOut (s : State) (h : Nat) (t : Word) : (s.transfer h t).cur.inboxOut = s.cur.inboxOut := by unfold State.transfer; simp
@[simp] theorem State.transfer_cur_x (s : State) (h : Nat) (t : Word) : (s.transfer h t).cur.x = s.cur.x := by unfold State.transfer; simp
@[simp] theorem State.transfer_cur_p (s : State) (h : Nat) (t : Word) : (s.transfer h t).cur.p = s.cur.p := by unfold State.transfer; simp
@[simp] theorem State.transfer_cur_h (s : State) (h : Nat) (t : Word) : (s.transfer h t).cur.h = s.cur.h := by unfold State.transfer; simp
@[simp] theorem State.transfer_cur_q (s : State) (h : Nat) (t : Word) : (s.transfer h t).cur.q = s.cur.q := by unfold State.transfer; simp
@[simp] theorem State.transfer_cur_arith (s : State) (h : Nat) (t : Word) : (s.transfer h t).cur.arith = s.cur.arith := by unfold State.transfer; simp
@[simp] theorem State.transfer_cur_expf (s : State) (h : Nat) (t : Word) : (s.transfer h t).cur.expf = s.cur.expf := by unfold State.transfer; simp
@[simp] theorem State.transfer_cur_seq (s : State) (h : Nat) (t : Word) : (s.transfer h t).cur.seq = s.cur.seq := by unfold State.transfer; simp
@[simp] theorem State.transfer_cur_busy (s : State) (h : Nat) (t : Word) : (s.transfer h t).cur.busy = s.cur.busy := by unfold State.transfer; simp
@[simp] theorem State.transfer_cur_pend (s : State) (h : Nat) (t : Word) : (s.transfer h t).cur.pend = s.cur.pend := by unfold State.transfer; simp
@[simp] theorem State.transfer_cur_fences (s : State) (h : Nat) (t : Word) : (s.transfer h t).cur.fences = s.cur.fences := by unfold State.transfer; simp
@[simp] theorem State.transfer_cur_queue (s : State) (h : Nat) (t : Word) : (s.transfer h t).cur.queue = s.cur.queue := by unfold State.transfer; simp
@[simp] theorem State.transfer_cur_running (s : State) (h : Nat) (t : Word) : (s.transfer h t).cur.running = s.cur.running := by unfold State.transfer; simp
@[simp] theorem State.transfer_cur_railReq (s : State) (h : Nat) (t : Word) : (s.transfer h t).cur.railReq = s.cur.railReq := by unfold State.transfer; simp
@[simp] theorem State.transfer_cur_mmode (s : State) (h : Nat) (t : Word) : (s.transfer h t).cur.mmode = s.cur.mmode := by unfold State.transfer; simp
@[simp] theorem State.transfer_cur_ssend (s : State) (h : Nat) (t : Word) : (s.transfer h t).cur.ssend = s.cur.ssend := by unfold State.transfer; simp
@[simp] theorem State.transfer_cur_rdv (s : State) (h : Nat) (t : Word) : (s.transfer h t).cur.rdv = s.cur.rdv := by unfold State.transfer; simp
@[simp] theorem State.transfer_cur_tcause (s : State) (h : Nat) (t : Word) : (s.transfer h t).cur.tcause = s.cur.tcause := by unfold State.transfer; simp
@[simp] theorem State.stall_z0 (s : State) : (s.stall).z0 = s.z0 := by unfold State.stall State.holdTick State.poll; split <;> simp
@[simp] theorem State.stall_others (s : State) : (s.stall).others = s.others := by unfold State.stall State.holdTick State.poll; split <;> simp
@[simp] theorem State.stall_mem (s : State) : (s.stall).mem = s.mem := by unfold State.stall State.holdTick State.poll; split <;> simp
@[simp] theorem State.stall_held (s : State) : (s.stall).held = s.held := by unfold State.stall State.holdTick State.poll; split <;> simp
@[simp] theorem State.stall_births (s : State) : (s.stall).births = s.births := by unfold State.stall State.holdTick State.poll; split <;> simp
@[simp] theorem State.stall_busyTiles (s : State) : (s.stall).busyTiles = s.busyTiles := by unfold State.stall State.holdTick State.poll; split <;> simp
@[simp] theorem State.stall_sessions (s : State) : (s.stall).sessions = s.sessions := by unfold State.stall State.holdTick State.poll; split <;> simp
@[simp] theorem State.stall_ended (s : State) : (s.stall).ended = s.ended := by unfold State.stall State.holdTick State.poll; split <;> simp
@[simp] theorem State.stall_banks (s : State) : (s.stall).banks = s.banks := by unfold State.stall State.holdTick State.poll; split <;> simp
@[simp] theorem State.stall_served (s : State) : (s.stall).served = s.served := by unfold State.stall State.holdTick State.poll; split <;> simp
@[simp] theorem State.stall_promised (s : State) : (s.stall).promised = s.promised := by unfold State.stall State.holdTick State.poll; split <;> simp
@[simp] theorem State.stall_links (s : State) : (s.stall).links = s.links := by unfold State.stall State.holdTick State.poll; split <;> simp
@[simp] theorem State.stall_segs (s : State) : (s.stall).segs = s.segs := by unfold State.stall State.holdTick State.poll; split <;> simp
@[simp] theorem State.stall_atoms (s : State) : (s.stall).atoms = s.atoms := by unfold State.stall State.holdTick State.poll; split <;> simp
@[simp] theorem State.stall_atomsAt (s : State) : (s.stall).atomsAt = s.atomsAt := by unfold State.stall State.holdTick State.poll; split <;> simp
@[simp] theorem State.stall_raises (s : State) : (s.stall).raises = s.raises := by unfold State.stall State.holdTick State.poll; split <;> simp
@[simp] theorem State.stall_inboxes (s : State) : (s.stall).inboxes = s.inboxes := by unfold State.stall State.holdTick State.poll; split <;> simp
@[simp] theorem State.stall_regs (s : State) : (s.stall).regs = s.regs := by unfold State.stall State.holdTick State.poll; split <;> simp
@[simp] theorem State.stall_fw (s : State) : (s.stall).fw = s.fw := by unfold State.stall State.holdTick State.poll; split <;> simp
@[simp] theorem State.stall_dmix (s : State) : (s.stall).dmix = s.dmix := by unfold State.stall State.holdTick State.poll; split <;> simp
@[simp] theorem State.stall_power (s : State) : (s.stall).power = s.power := by unfold State.stall State.holdTick State.poll; split <;> simp
@[simp] theorem State.stall_free (s : State) : (s.stall).free = s.free := by unfold State.stall State.holdTick State.poll; split <;> simp
@[simp] theorem State.stall_cur_prio (s : State) : (s.stall).cur.prio = s.cur.prio := by unfold State.stall State.holdTick State.poll; split <;> simp
@[simp] theorem State.stall_cur_vdie (s : State) : (s.stall).cur.vdie = s.cur.vdie := by unfold State.stall State.holdTick State.poll; split <;> simp
@[simp] theorem State.stall_cur_cell (s : State) : (s.stall).cur.cell = s.cur.cell := by unfold State.stall State.holdTick State.poll; split <;> simp
@[simp] theorem State.stall_cur_status (s : State) : (s.stall).cur.status = s.cur.status := by unfold State.stall State.holdTick State.poll; split <;> simp
@[simp] theorem State.stall_cur_out (s : State) : (s.stall).cur.out = s.cur.out := by unfold State.stall State.holdTick State.poll; split <;> simp
@[simp] theorem State.stall_cur_inboxOut (s : State) : (s.stall).cur.inboxOut = s.cur.inboxOut := by unfold State.stall State.holdTick State.poll; split <;> simp
@[simp] theorem State.stall_cur_x (s : State) : (s.stall).cur.x = s.cur.x := by unfold State.stall State.holdTick State.poll; split <;> simp
@[simp] theorem State.stall_cur_p (s : State) : (s.stall).cur.p = s.cur.p := by unfold State.stall State.holdTick State.poll; split <;> simp
@[simp] theorem State.stall_cur_h (s : State) : (s.stall).cur.h = s.cur.h := by unfold State.stall State.holdTick State.poll; split <;> simp
@[simp] theorem State.stall_cur_q (s : State) : (s.stall).cur.q = s.cur.q := by unfold State.stall State.holdTick State.poll; split <;> simp
@[simp] theorem State.stall_cur_arith (s : State) : (s.stall).cur.arith = s.cur.arith := by unfold State.stall State.holdTick State.poll; split <;> simp
@[simp] theorem State.stall_cur_expf (s : State) : (s.stall).cur.expf = s.cur.expf := by unfold State.stall State.holdTick State.poll; split <;> simp
@[simp] theorem State.stall_cur_seq (s : State) : (s.stall).cur.seq = s.cur.seq := by unfold State.stall State.holdTick State.poll; split <;> simp
@[simp] theorem State.stall_cur_busy (s : State) : (s.stall).cur.busy = s.cur.busy := by unfold State.stall State.holdTick State.poll; split <;> simp
@[simp] theorem State.stall_cur_pend (s : State) : (s.stall).cur.pend = s.cur.pend := by unfold State.stall State.holdTick State.poll; split <;> simp
@[simp] theorem State.stall_cur_fences (s : State) : (s.stall).cur.fences = s.cur.fences := by unfold State.stall State.holdTick State.poll; split <;> simp
@[simp] theorem State.stall_cur_queue (s : State) : (s.stall).cur.queue = s.cur.queue := by unfold State.stall State.holdTick State.poll; split <;> simp
@[simp] theorem State.stall_cur_running (s : State) : (s.stall).cur.running = s.cur.running := by unfold State.stall State.holdTick State.poll; split <;> simp
@[simp] theorem State.stall_cur_railReq (s : State) : (s.stall).cur.railReq = s.cur.railReq := by unfold State.stall State.holdTick State.poll; split <;> simp
@[simp] theorem State.stall_cur_mmode (s : State) : (s.stall).cur.mmode = s.cur.mmode := by unfold State.stall State.holdTick State.poll; split <;> simp
@[simp] theorem State.stall_cur_ssend (s : State) : (s.stall).cur.ssend = s.cur.ssend := by unfold State.stall State.holdTick State.poll; split <;> simp
@[simp] theorem State.stall_cur_rdv (s : State) : (s.stall).cur.rdv = s.cur.rdv := by unfold State.stall State.holdTick State.poll; split <;> simp
@[simp] theorem State.stall_cur_tcause (s : State) : (s.stall).cur.tcause = s.cur.tcause := by unfold State.stall State.holdTick State.poll; split <;> simp

/-! ### Outstanding operations -/

@[simp] theorem State.pendOp_z0 (s : State) (due : Nat) (act : PendAct) (sr sw so acq : Bool) (port sem : Option Nat) (rel uo : Bool) : (s.pendOp due act sr sw so acq port sem rel uo).z0 = s.z0 := rfl
@[simp] theorem State.pendOp_others (s : State) (due : Nat) (act : PendAct) (sr sw so acq : Bool) (port sem : Option Nat) (rel uo : Bool) : (s.pendOp due act sr sw so acq port sem rel uo).others = s.others := rfl
@[simp] theorem State.pendOp_mem (s : State) (due : Nat) (act : PendAct) (sr sw so acq : Bool) (port sem : Option Nat) (rel uo : Bool) : (s.pendOp due act sr sw so acq port sem rel uo).mem = s.mem := rfl
@[simp] theorem State.pendOp_held (s : State) (due : Nat) (act : PendAct) (sr sw so acq : Bool) (port sem : Option Nat) (rel uo : Bool) : (s.pendOp due act sr sw so acq port sem rel uo).held = s.held := rfl
@[simp] theorem State.pendOp_births (s : State) (due : Nat) (act : PendAct) (sr sw so acq : Bool) (port sem : Option Nat) (rel uo : Bool) : (s.pendOp due act sr sw so acq port sem rel uo).births = s.births := rfl
@[simp] theorem State.pendOp_busyTiles (s : State) (due : Nat) (act : PendAct) (sr sw so acq : Bool) (port sem : Option Nat) (rel uo : Bool) : (s.pendOp due act sr sw so acq port sem rel uo).busyTiles = s.busyTiles := rfl
@[simp] theorem State.pendOp_sessions (s : State) (due : Nat) (act : PendAct) (sr sw so acq : Bool) (port sem : Option Nat) (rel uo : Bool) : (s.pendOp due act sr sw so acq port sem rel uo).sessions = s.sessions := rfl
@[simp] theorem State.pendOp_ended (s : State) (due : Nat) (act : PendAct) (sr sw so acq : Bool) (port sem : Option Nat) (rel uo : Bool) : (s.pendOp due act sr sw so acq port sem rel uo).ended = s.ended := rfl
@[simp] theorem State.pendOp_banks (s : State) (due : Nat) (act : PendAct) (sr sw so acq : Bool) (port sem : Option Nat) (rel uo : Bool) : (s.pendOp due act sr sw so acq port sem rel uo).banks = s.banks := rfl
@[simp] theorem State.pendOp_served (s : State) (due : Nat) (act : PendAct) (sr sw so acq : Bool) (port sem : Option Nat) (rel uo : Bool) : (s.pendOp due act sr sw so acq port sem rel uo).served = s.served := rfl
@[simp] theorem State.pendOp_promised (s : State) (due : Nat) (act : PendAct) (sr sw so acq : Bool) (port sem : Option Nat) (rel uo : Bool) : (s.pendOp due act sr sw so acq port sem rel uo).promised = s.promised := rfl
@[simp] theorem State.pendOp_main (s : State) (due : Nat) (act : PendAct) (sr sw so acq : Bool) (port sem : Option Nat) (rel uo : Bool) : (s.pendOp due act sr sw so acq port sem rel uo).main = s.main := rfl
@[simp] theorem State.pendOp_prioL (s : State) (due : Nat) (act : PendAct) (sr sw so acq : Bool) (port sem : Option Nat) (rel uo : Bool) : (s.pendOp due act sr sw so acq port sem rel uo).prioL = s.prioL := rfl
@[simp] theorem State.pendOp_links (s : State) (due : Nat) (act : PendAct) (sr sw so acq : Bool) (port sem : Option Nat) (rel uo : Bool) : (s.pendOp due act sr sw so acq port sem rel uo).links = s.links := rfl
@[simp] theorem State.pendOp_segs (s : State) (due : Nat) (act : PendAct) (sr sw so acq : Bool) (port sem : Option Nat) (rel uo : Bool) : (s.pendOp due act sr sw so acq port sem rel uo).segs = s.segs := rfl
@[simp] theorem State.pendOp_atoms (s : State) (due : Nat) (act : PendAct) (sr sw so acq : Bool) (port sem : Option Nat) (rel uo : Bool) : (s.pendOp due act sr sw so acq port sem rel uo).atoms = s.atoms := rfl
@[simp] theorem State.pendOp_atomsAt (s : State) (due : Nat) (act : PendAct) (sr sw so acq : Bool) (port sem : Option Nat) (rel uo : Bool) : (s.pendOp due act sr sw so acq port sem rel uo).atomsAt = s.atomsAt := rfl
@[simp] theorem State.pendOp_raises (s : State) (due : Nat) (act : PendAct) (sr sw so acq : Bool) (port sem : Option Nat) (rel uo : Bool) : (s.pendOp due act sr sw so acq port sem rel uo).raises = s.raises := rfl
@[simp] theorem State.pendOp_inboxes (s : State) (due : Nat) (act : PendAct) (sr sw so acq : Bool) (port sem : Option Nat) (rel uo : Bool) : (s.pendOp due act sr sw so acq port sem rel uo).inboxes = s.inboxes := rfl
@[simp] theorem State.pendOp_regs (s : State) (due : Nat) (act : PendAct) (sr sw so acq : Bool) (port sem : Option Nat) (rel uo : Bool) : (s.pendOp due act sr sw so acq port sem rel uo).regs = s.regs := rfl
@[simp] theorem State.pendOp_fw (s : State) (due : Nat) (act : PendAct) (sr sw so acq : Bool) (port sem : Option Nat) (rel uo : Bool) : (s.pendOp due act sr sw so acq port sem rel uo).fw = s.fw := rfl
@[simp] theorem State.pendOp_dmix (s : State) (due : Nat) (act : PendAct) (sr sw so acq : Bool) (port sem : Option Nat) (rel uo : Bool) : (s.pendOp due act sr sw so acq port sem rel uo).dmix = s.dmix := rfl
@[simp] theorem State.pendOp_power (s : State) (due : Nat) (act : PendAct) (sr sw so acq : Bool) (port sem : Option Nat) (rel uo : Bool) : (s.pendOp due act sr sw so acq port sem rel uo).power = s.power := rfl
@[simp] theorem State.pendOp_free (s : State) (due : Nat) (act : PendAct) (sr sw so acq : Bool) (port sem : Option Nat) (rel uo : Bool) : (s.pendOp due act sr sw so acq port sem rel uo).free = s.free := rfl
@[simp] theorem State.setBusy_z0 (s : State) (r : Nat) (a b : Option Nat) : (s.setBusy r a b).z0 = s.z0 := rfl
@[simp] theorem State.setBusy_others (s : State) (r : Nat) (a b : Option Nat) : (s.setBusy r a b).others = s.others := rfl
@[simp] theorem State.setBusy_mem (s : State) (r : Nat) (a b : Option Nat) : (s.setBusy r a b).mem = s.mem := rfl
@[simp] theorem State.setBusy_held (s : State) (r : Nat) (a b : Option Nat) : (s.setBusy r a b).held = s.held := rfl
@[simp] theorem State.setBusy_births (s : State) (r : Nat) (a b : Option Nat) : (s.setBusy r a b).births = s.births := rfl
@[simp] theorem State.setBusy_busyTiles (s : State) (r : Nat) (a b : Option Nat) : (s.setBusy r a b).busyTiles = s.busyTiles := rfl
@[simp] theorem State.setBusy_sessions (s : State) (r : Nat) (a b : Option Nat) : (s.setBusy r a b).sessions = s.sessions := rfl
@[simp] theorem State.setBusy_ended (s : State) (r : Nat) (a b : Option Nat) : (s.setBusy r a b).ended = s.ended := rfl
@[simp] theorem State.setBusy_banks (s : State) (r : Nat) (a b : Option Nat) : (s.setBusy r a b).banks = s.banks := rfl
@[simp] theorem State.setBusy_served (s : State) (r : Nat) (a b : Option Nat) : (s.setBusy r a b).served = s.served := rfl
@[simp] theorem State.setBusy_promised (s : State) (r : Nat) (a b : Option Nat) : (s.setBusy r a b).promised = s.promised := rfl
@[simp] theorem State.setBusy_main (s : State) (r : Nat) (a b : Option Nat) : (s.setBusy r a b).main = s.main := rfl
@[simp] theorem State.setBusy_prioL (s : State) (r : Nat) (a b : Option Nat) : (s.setBusy r a b).prioL = s.prioL := rfl
@[simp] theorem State.setBusy_links (s : State) (r : Nat) (a b : Option Nat) : (s.setBusy r a b).links = s.links := rfl
@[simp] theorem State.setBusy_segs (s : State) (r : Nat) (a b : Option Nat) : (s.setBusy r a b).segs = s.segs := rfl
@[simp] theorem State.setBusy_atoms (s : State) (r : Nat) (a b : Option Nat) : (s.setBusy r a b).atoms = s.atoms := rfl
@[simp] theorem State.setBusy_atomsAt (s : State) (r : Nat) (a b : Option Nat) : (s.setBusy r a b).atomsAt = s.atomsAt := rfl
@[simp] theorem State.setBusy_raises (s : State) (r : Nat) (a b : Option Nat) : (s.setBusy r a b).raises = s.raises := rfl
@[simp] theorem State.setBusy_inboxes (s : State) (r : Nat) (a b : Option Nat) : (s.setBusy r a b).inboxes = s.inboxes := rfl
@[simp] theorem State.setBusy_regs (s : State) (r : Nat) (a b : Option Nat) : (s.setBusy r a b).regs = s.regs := rfl
@[simp] theorem State.setBusy_fw (s : State) (r : Nat) (a b : Option Nat) : (s.setBusy r a b).fw = s.fw := rfl
@[simp] theorem State.setBusy_dmix (s : State) (r : Nat) (a b : Option Nat) : (s.setBusy r a b).dmix = s.dmix := rfl
@[simp] theorem State.setBusy_power (s : State) (r : Nat) (a b : Option Nat) : (s.setBusy r a b).power = s.power := rfl
@[simp] theorem State.setBusy_free (s : State) (r : Nat) (a b : Option Nat) : (s.setBusy r a b).free = s.free := rfl

end Sys2Proof.Machine
end

