-- ==== Sys2Proof/Laws/Issue.lean ====
section
/-! SUPPORT. Everything that issuing a word can do, by the checks of R52 to R56. -/

namespace Sys2Proof.Machine

@[simp] theorem State.begun_atTarget (s : State) : s.begun.atTarget = s.atTarget := rfl
@[simp] theorem State.begun_vd (s : State) : s.begun.vd = s.vd := rfl
@[simp] theorem State.begun_legal (s : State) (i : Instr) : s.begun.legal i = s.legal i := rfl

/-- After the checks of R52 a word goes on from its guard, unless its AT target lies in the future. -/
theorem issueChecked_go {i : Instr} {u : Use} {s : State} (eff : State → Eff)
    (ha : s.atTarget.all (fun t => decide (t ≤ s.z0)) = true) :
    issueChecked i u s.begun eff = issueChecked.go i u eff (wordCtl i) s.started := by
  unfold issueChecked State.started
  cases h : s.atTarget with
  | none => simp [h]
  | some t =>
    have : ¬ s.z0 < t := by simpa [h] using ha
    simp [h, this]
    rfl

/-- A word that issues with its guard true does what its entry does, on the state in which its operands are read. -/
theorem issue_ready {i : Instr} {u : Use} {s : State} (eff : State → Eff) (h : Issues i u s) :
    issue i u s eff = .next (finish i s.started (eff s.started)) := by
  obtain ⟨hr, hu, hw, ha, hl, hg, hz⟩ := h
  unfold issue
  simp [hr, hu, hw, issueChecked_go eff ha, issueChecked.go, hl, hg, hz]

/-- A word whose unit the cell does not have traps (R52). -/
theorem issue_absent {i : Instr} {u : Use} {s : State} (eff : State → Eff) (hr : s.cur.status = .running)
    (hu : unitPresent s.vd.cls (encode i) = false) :
    issue i u s eff = .next (s.begun.precise Cause.absent (0#16 ++ encode i)) := by
  unfold issue
  simp [hr, hu]

/-- A word with an operand that it may not have, or with a prefix that may not govern it, traps (R52, R54, R56). -/
theorem issue_illegal {i : Instr} {u : Use} {s : State} (eff : State → Eff) (hr : s.cur.status = .running)
    (hu : unitPresent s.vd.cls (encode i) = true) (hw : s.legal i = false) :
    issue i u s eff = .next (s.begun.precise Cause.illegal (s.cur.illegalValue (encode i))) := by
  unfold issue
  simp only [hr, hu, hw, if_true, Bool.not_true, Bool.false_eq_true, if_false, State.begun_vd, State.begun_cur, State.begun_legal, Bool.not_false]

/-- A word whose AT target lies in the future waits for it (R55). -/
theorem issue_early {i : Instr} {u : Use} {s : State} (eff : State → Eff) (hr : s.cur.status = .running)
    (hu : unitPresent s.vd.cls (encode i) = true) (hw : s.legal i = true) {t : Nat}
    (ht : s.atTarget = some t) (hlt : s.z0 < t) :
    issue i u s eff = .next (s.begun.modCur fun r => { r with slot := t }) := by
  unfold issue issueChecked
  simp [hr, hu, hw, ht, hlt]

/-- A word that reaches its guard with the guard false has no effect of its own (R53). -/
theorem issue_squash {i : Instr} {u : Use} {s : State} (eff : State → Eff) (hr : s.cur.status = .running)
    (hu : unitPresent s.vd.cls (encode i) = true) (hw : s.legal i = true)
    (ha : s.atTarget.all (fun t => decide (t ≤ s.z0)) = true)
    (hl : (!s.started.sched && (guardReg (wordCtl i).pg).any s.started.lockBusy) = false)
    (hg : s.started.guard (wordCtl i).pg = false) :
    issue i u s eff = .next ((s.started.squash i).advance (wordCtl i).hold.toNat) := by
  unfold issue
  simp [hr, hu, hw, issueChecked_go eff ha, issueChecked.go, hl, hg]

/-- A word that a hazard holds waits for the next tick (R95, R97). -/
theorem issue_stall {i : Instr} {u : Use} {s : State} (eff : State → Eff) (hr : s.cur.status = .running)
    (hu : unitPresent s.vd.cls (encode i) = true) (hw : s.legal i = true)
    (ha : s.atTarget.all (fun t => decide (t ≤ s.z0)) = true)
    (hl : (!s.started.sched && (guardReg (wordCtl i).pg).any s.started.lockBusy) = false)
    (hg : s.started.guard (wordCtl i).pg = true) (hz : s.started.hazard u = true) :
    issue i u s eff = .next s.started.stall := by
  unfold issue
  simp [hr, hu, hw, issueChecked_go eff ha, issueChecked.go, hl, hg, hz]

/-- Everything that issuing a word can come to. -/
theorem issue_cases {i : Instr} {u : Use} {s t : State} {eff : State → Eff} (h : issue i u s eff = .next t) :
    s.cur.status = .running ∧
      ((unitPresent s.vd.cls (encode i) = false ∧ t = s.begun.precise Cause.absent (0#16 ++ encode i))
        ∨ (unitPresent s.vd.cls (encode i) = true ∧ s.legal i = false
            ∧ t = s.begun.precise Cause.illegal (s.cur.illegalValue (encode i)))
        ∨ (∃ tk, s.atTarget = some tk ∧ s.z0 < tk ∧ t = s.begun.modCur fun r => { r with slot := tk })
        ∨ t = s.started.stall
        ∨ (s.started.guard (wordCtl i).pg = false ∧ t = (s.started.squash i).advance (wordCtl i).hold.toNat)
        ∨ (Issues i u s ∧ t = finish i s.started (eff s.started))) := by
  by_cases hr : s.cur.status = .running
  case neg => unfold issue at h; simp [hr] at h
  refine ⟨hr, ?_⟩
  cases hu : unitPresent s.vd.cls (encode i)
  · rw [issue_absent eff hr hu] at h
    exact .inl ⟨rfl, by injection h with h; exact h.symm⟩
  cases hw : s.legal i
  · rw [issue_illegal eff hr hu hw] at h
    exact .inr (.inl ⟨rfl, rfl, by injection h with h; exact h.symm⟩)
  by_cases ha : s.atTarget.all (fun t => decide (t ≤ s.z0)) = true
  case neg =>
    cases ht : s.atTarget with
    | none => simp [ht] at ha
    | some tk =>
      have hlt : s.z0 < tk := by simpa [ht] using ha
      rw [issue_early eff hr hu hw ht hlt] at h
      exact .inr (.inr (.inl ⟨tk, rfl, hlt, by injection h with h; exact h.symm⟩))
  refine .inr (.inr (.inr ?_))
  cases hl : (!s.started.sched && (guardReg (wordCtl i).pg).any s.started.lockBusy)
  case true =>
    unfold issue at h
    simp [hr, hu, hw, issueChecked_go eff ha, issueChecked.go] at h
    simp at hl
    exact .inl (by rw [← h]; simp [hl])
  cases hg : s.started.guard (wordCtl i).pg
  · rw [issue_squash eff hr hu hw ha hl hg] at h
    exact .inr (.inl ⟨rfl, by injection h with h; exact h.symm⟩)
  cases hz : s.started.hazard u
  · have hi : Issues i u s := ⟨hr, hu, hw, ha, hl, hg, hz⟩
    rw [issue_ready eff hi] at h
    exact .inr (.inr ⟨hi, by injection h with h; exact h.symm⟩)
  · rw [issue_stall eff hr hu hw ha hl hg hz] at h
    exact .inl (by injection h with h; exact h.symm)

/-- The meaning of every word of the opcode table is the issue of that word. -/
theorem exec_word {i : Instr} (s : State) (he : i.isEvent = false) (hp : isPrefixUnit i = false) :
    ∃ u eff, exec i s = issue i u s eff := by
  cases i
  all_goals first
    | exact (Bool.noConfusion he)
    | exact (Bool.noConfusion hp)
    | exact ⟨_, _, rfl⟩

/-- With no strand running there is nothing to issue. -/
theorem issue_idle {i : Instr} {u : Use} {s : State} (eff : State → Eff) (hr : s.cur.status ≠ .running) :
    issue i u s eff = .fault .noStrand := by
  unfold issue
  simp [hr]

end Sys2Proof.Machine
end

