-- ==== Sys2Proof/Laws/Memory.lean ====
section
/-! SUPPORT. Reading after writing in sparse data and in memory, and the canonical form that every write keeps. -/

namespace Sys2Proof.Machine

/-! ### Sparse data -/

/-- Nothing at or below a number is left after dropping what stands at or below it, when the next entry is above. -/
theorem sget_dropWhile {α : Type} (d : α) (k : Nat) (m : SMap α) :
    sget d (m.dropWhile fun e => decide (e.1 ≤ k)) k = d := by
  induction m with
  | nil => rfl
  | cons e r ih =>
    obtain ⟨j, v⟩ := e
    by_cases h : j ≤ k
    · simpa [h] using ih
    · have h1 : j ≠ k := by omega
      have h2 : k < j := by omega
      simp [h, sget, h1, h2]

/-- Dropping what stands at or below a number changes nothing above an entry of that number. -/
theorem sget_dropWhile_other {α : Type} (d : α) {k i : Nat} (hki : k < i) (m : SMap α) :
    sget d (m.dropWhile fun e => decide (e.1 ≤ k)) i = sget d m i := by
  induction m with
  | nil => rfl
  | cons e r ih =>
    obtain ⟨j, v⟩ := e
    by_cases h : j ≤ k
    · have h1 : j ≠ i := by omega
      have h2 : ¬ i < j := by omega
      simp [h, sget, h1, h2, ih]
    · simp [h]

/-- Reading what has just been written. -/
@[simp] theorem sget_sset_same {α : Type} [DecidableEq α] (d : α) (m : SMap α) (k : Nat) (v : α) :
    sget d (sset d m k v) k = v := by
  induction m with
  | nil => by_cases h : v = d <;> simp [sset, sget, h]
  | cons e r ih =>
    obtain ⟨j, u⟩ := e
    unfold sset
    by_cases h1 : k < j
    · have hj : j ≠ k := by omega
      by_cases hv : v = d <;> simp [h1, hv, sget, hj]
    · by_cases h2 : k = j
      · subst h2
        by_cases hv : v = d
        · simp [hv, sget_dropWhile]
        · simp [hv, sget]
      · have h3 : j ≠ k := fun h => h2 h.symm
        simp [h1, h2, sget, h3, ih]

/-- Writing at one number changes nothing at another. -/
theorem sget_sset_other {α : Type} [DecidableEq α] (d : α) (m : SMap α) {k i : Nat} (v : α) (h : i ≠ k) :
    sget d (sset d m k v) i = sget d m i := by
  induction m with
  | nil =>
    by_cases hv : v = d
    · simp [sset, hv]
    · simp [sset, hv, sget, Ne.symm h]
  | cons e r ih =>
    obtain ⟨j, u⟩ := e
    unfold sset
    by_cases h1 : k < j
    · by_cases hv : v = d
      · simp [h1, hv]
      · have hk : k ≠ i := Ne.symm h
        by_cases hi : i < k
        · have h3 : j ≠ i := by omega
          have h4 : i < j := by omega
          simp [h1, hv, sget, hk, hi, h3, h4]
        · simp [h1, hv, sget, hk, hi]
    · by_cases h2 : k = j
      · subst h2
        by_cases hv : v = d
        · by_cases hi : i < k
          · have hk : k ≠ i := by omega
            have : sget d (r.dropWhile fun e => decide (e.1 ≤ k)) i = d := by
              have key : ∀ l : SMap α, sget d (l.dropWhile fun e => decide (e.1 ≤ k)) i = d := by
                intro l
                induction l with
                | nil => rfl
                | cons x t iht =>
                  obtain ⟨b, y⟩ := x
                  by_cases hb : b ≤ k
                  · simpa [hb] using iht
                  · have g1 : b ≠ i := by omega
                    have g2 : i < b := by omega
                    simp [hb, sget, g1, g2]
              exact key r
            simp [hv, sget, hk, hi, this]
          · have hk : k ≠ i := by omega
            have hki : k < i := by omega
            simp [hv, sget, hk, hi, sget_dropWhile_other d hki]
        · have hk : k ≠ i := Ne.symm h
          simp [hv, sget, hk]
      · by_cases hj : j = i
        · subst hj; simp [h1, h2, sget]
        · by_cases hi : i < j
          · simp [h1, h2, sget, hj, hi]
          · simp [h1, h2, sget, hj, hi, ih]

/-- Both at once. -/
theorem sget_sset {α : Type} [DecidableEq α] (d : α) (m : SMap α) (k i : Nat) (v : α) :
    sget d (sset d m k v) i = if i = k then v else sget d m i := by
  by_cases h : i = k
  · subst h; simp
  · simp [h, sget_sset_other d m v h]

/-- The canonical form above a bound holds above any lower one. -/
theorem swfFrom_mono {α : Type} [DecidableEq α] (d : α) {b c : Nat} (h : c ≤ b) {m : SMap α} (hm : swfFrom d b m = true) :
    swfFrom d c m = true := by
  cases m with
  | nil => rfl
  | cons e r =>
    obtain ⟨j, v⟩ := e
    simp only [swfFrom, Bool.and_eq_true, decide_eq_true_eq] at hm ⊢
    exact ⟨⟨by omega, hm.1.2⟩, hm.2⟩

/-- Canonical data above a number has nothing for `dropWhile` to drop. -/
theorem dropWhile_canonical {α : Type} [DecidableEq α] (d : α) {k : Nat} {m : SMap α} (hm : swfFrom d (k + 1) m = true) :
    m.dropWhile (fun e => decide (e.1 ≤ k)) = m := by
  cases m with
  | nil => rfl
  | cons e r =>
    obtain ⟨j, v⟩ := e
    simp only [swfFrom, Bool.and_eq_true, decide_eq_true_eq] at hm
    have : ¬ j ≤ k := by omega
    simp [this]

/-- Writing keeps the canonical form. -/
theorem swfFrom_sset {α : Type} [DecidableEq α] (d : α) (k : Nat) (v : α) (m : SMap α) :
    ∀ b, b ≤ k → swfFrom d b m = true → swfFrom d b (sset d m k v) = true := by
  induction m with
  | nil => intro b hb _; by_cases hv : v = d <;> simp [sset, hv, swfFrom, hb]
  | cons e r ih =>
    obtain ⟨j, u⟩ := e
    intro b hb hm
    have hm' := hm
    simp only [swfFrom, Bool.and_eq_true, decide_eq_true_eq] at hm'
    obtain ⟨⟨hbj, hu⟩, hr⟩ := hm'
    unfold sset
    by_cases h1 : k < j
    · by_cases hv : v = d
      · simpa [h1, hv] using hm
      · have : k + 1 ≤ j := h1
        simp [h1, hv, swfFrom, hb, hu, hr, this]
    · by_cases h2 : k = j
      · subst h2
        by_cases hv : v = d
        · have h0 := dropWhile_canonical d hr
          simp only [lt_irrefl, if_false, if_true, hv, h0]
          exact swfFrom_mono d (by omega) hr
        · simp [hv, swfFrom, hb, hr]
      · have h3 : j + 1 ≤ k := by omega
        simp [h1, h2, swfFrom, hbj, hu, ih (j + 1) h3 hr]

/-- Writing keeps the canonical form. -/
theorem swf_sset {α : Type} [DecidableEq α] (d : α) (k : Nat) (v : α) {m : SMap α} (h : swf d m = true) :
    swf d (sset d m k v) = true := swfFrom_sset d k v m 0 (Nat.zero_le k) h

/-- A filtered map is canonical above the same bound. -/
theorem swfFrom_filterMap {α : Type} [DecidableEq α] (d : α) (f : Nat × α → Option (Nat × α))
    (hk : ∀ e e', f e = some e' → e'.1 = e.1 ∧ (e.2 ≠ d → e'.2 ≠ d)) (m : SMap α) :
    ∀ b, swfFrom d b m = true → swfFrom d b (m.filterMap f) = true := by
  induction m with
  | nil => intro b _; rfl
  | cons e r ih =>
    obtain ⟨j, v⟩ := e
    intro b hm
    simp only [swfFrom, Bool.and_eq_true, decide_eq_true_eq] at hm
    obtain ⟨⟨hbj, hv⟩, hr⟩ := hm
    have hr' := ih (j + 1) hr
    cases he : f (j, v) with
    | none => simpa [List.filterMap_cons, he] using swfFrom_mono d (by omega : b ≤ j + 1) hr'
    | some e' =>
      obtain ⟨h1, h2⟩ := hk _ _ he
      obtain ⟨j', v'⟩ := e'
      simp only at h1 h2
      subst h1
      simp [he, swfFrom, hbj, h2 hv, hr']

/-! ### Memory -/

/-- A byte reads as it was written. -/
@[simp] theorem rdMem_wrMem_same (m : Memory) (a : Nat) (v : Byte) : rdMem (wrMem m a v) a = v := by
  unfold rdMem wrMem; exact sget_sset_same 0 m a v

/-- Writing a byte changes no other. -/
theorem rdMem_wrMem_other (m : Memory) {a b : Nat} (v : Byte) (h : b ≠ a) : rdMem (wrMem m a v) b = rdMem m b := by
  unfold rdMem wrMem; exact sget_sset_other 0 m v h

/-- Writing bytes changes none below them. -/
theorem rdMem_wrMems_below (bs : List Byte) : ∀ (m : Memory) (a b : Nat), b < a → rdMem (wrMems m a bs) b = rdMem m b := by
  induction bs with
  | nil => intro m a b _; rfl
  | cons x r ih =>
    intro m a b h
    rw [wrMems, ih _ _ _ (by omega), rdMem_wrMem_other m x (by omega)]

/-- Writing bytes changes none above them. -/
theorem rdMem_wrMems_above (bs : List Byte) :
    ∀ (m : Memory) (a b : Nat), a + bs.length ≤ b → rdMem (wrMems m a bs) b = rdMem m b := by
  induction bs with
  | nil => intro m a b _; rfl
  | cons x r ih =>
    intro m a b h
    simp only [List.length_cons] at h
    rw [wrMems, ih _ _ _ (by omega), rdMem_wrMem_other m x (by omega)]

/-- Bytes read as they were written. -/
theorem rdMem_wrMems_in (bs : List Byte) :
    ∀ (m : Memory) (a k : Nat), k < bs.length → rdMem (wrMems m a bs) (a + k) = bs.getD k 0 := by
  induction bs with
  | nil => intro m a k h; simp at h
  | cons x r ih =>
    intro m a k h
    rw [wrMems]
    cases k with
    | zero => rw [Nat.add_zero, rdMem_wrMems_below r _ _ _ (by omega)]; simp
    | succ k =>
      have := ih (wrMem m a x) (a + 1) k (by simpa using h)
      rw [show a + (k + 1) = a + 1 + k by omega, this]; simp

/-- Writing bytes changes none outside them. -/
theorem rdMem_wrMems_out (bs : List Byte) (m : Memory) (a b : Nat) (h : b < a ∨ a + bs.length ≤ b) :
    rdMem (wrMems m a bs) b = rdMem m b := by
  rcases h with h | h
  · exact rdMem_wrMems_below bs m a b h
  · exact rdMem_wrMems_above bs m a b h

/-- Reading a run of bytes, one by one. -/
theorem rdMems_eq_map (m : Memory) : ∀ (n a : Nat), rdMems m a n = (List.range n).map fun k => rdMem m (a + k)
  | 0, _ => rfl
  | n + 1, a => by
    rw [rdMems, rdMems_eq_map m n (a + 1), List.range_succ_eq_map]
    simp [Function.comp_def, Nat.add_assoc, Nat.add_comm 1]

/-- A run of bytes reads as it was written. -/
theorem rdMems_wrMems_same (m : Memory) (a : Nat) (bs : List Byte) : rdMems (wrMems m a bs) a bs.length = bs := by
  rw [rdMems_eq_map]
  apply List.ext_getElem
  · simp
  · intro k h1 h2
    simp only [List.length_map, List.length_range] at h1
    simp [rdMem_wrMems_in bs m a k h1, h1]

/-- A run of bytes apart from those written reads as before. -/
theorem rdMems_wrMems_other (m : Memory) (a : Nat) (bs : List Byte) (b n : Nat) (h : b + n ≤ a ∨ a + bs.length ≤ b) :
    rdMems (wrMems m a bs) b n = rdMems m b n := by
  rw [rdMems_eq_map, rdMems_eq_map]
  apply List.map_congr_left
  intro k hk
  have := List.mem_range.mp hk
  exact rdMem_wrMems_out bs m a (b + k) (by omega)

/-- How many bytes a number gives. -/
@[simp] theorem length_leBytes : ∀ (n v : Nat), (leBytes n v).length = n
  | 0, _ => rfl
  | n + 1, v => by simp [leBytes, length_leBytes n]

/-- A number from its own low bytes (R2). -/
theorem leNat_leBytes : ∀ (n v : Nat), leNat (leBytes n v) = v % 256 ^ n
  | 0, v => by simp [leBytes, leNat, Nat.mod_one]
  | n + 1, v => by
    have h : v % 256 ^ (n + 1) = v % 256 + 256 * (v / 256 % 256 ^ n) := by rw [Nat.pow_succ', Nat.mod_mul]
    rw [leBytes, leNat, leNat_leBytes n, BitVec.toNat_ofNat, h]

/-- Reading back a number that was written in `n` bytes. -/
theorem leNat_rdMems_wrMems (m : Memory) (a n v : Nat) : leNat (rdMems (wrMems m a (leBytes n v)) a n) = v % 256 ^ n := by
  have := rdMems_wrMems_same m a (leBytes n v)
  rw [length_leBytes] at this
  rw [this, leNat_leBytes]

/-- Writing a byte keeps memory canonical. -/
theorem wf_wrMem {m : Memory} (h : Memory.wf m = true) (a : Nat) (v : Byte) : Memory.wf (wrMem m a v) = true :=
  swf_sset 0 a v h

/-- Writing bytes keeps memory canonical. -/
theorem wf_wrMems (bs : List Byte) : ∀ {m : Memory} (_ : Memory.wf m = true) (a : Nat), Memory.wf (wrMems m a bs) = true := by
  induction bs with
  | nil => intro m h a; exact h
  | cons x r ih => intro m h a; exact ih (wf_wrMem h a x) (a + 1)

/-- Ending a session on an expired tile keeps memory canonical (R166). -/
theorem wf_clearUnwritten {m : Memory} (h : Memory.wf m = true) (base : Nat) (mask : BitVec 8192) :
    Memory.wf (clearUnwritten m base mask) = true := by
  refine swfFrom_filterMap 0 _ ?_ m 0 h
  intro e e' he
  by_cases h1 : base ≤ e.1 ∧ e.1 < base + 4096
  · rw [if_pos h1] at he
    let v : Byte := (if mask.getLsbD (2 * (e.1 - base)) then e.2 &&& 0x0F#8 else 0)
      ||| (if mask.getLsbD (2 * (e.1 - base) + 1) then e.2 &&& 0xF0#8 else 0)
    have he' : (if v = 0 then none else some (e.1, v)) = some e' := he
    by_cases hz : v = 0
    · rw [if_pos hz] at he'; cases he'
    · rw [if_neg hz] at he'
      cases he'
      exact ⟨rfl, fun _ => hz⟩
  · simp only [h1, if_false] at he
    cases he
    exact ⟨rfl, id⟩

/-- Memory is canonical right after a package reset. -/
theorem reset_memOk : State.reset.MemOk := rfl

end Sys2Proof.Machine
end

