-- ==== Sys2Proof/Laws/Frame.lean ====
section
/-! SUPPORT. What issuing, holding, squashing and trapping leave alone, said once: a state's core is the state without the
fields of issue, the late events and the saved registers of a trap, and all of these operations keep it. -/

namespace Sys2Proof.Machine

/-- A launch without its late events. -/
def Launch.quiet (l : Launch) : Launch := { l with lates := [], errAt := none }

/-- A strand without the fields of issue and of a trap. -/
def Strand.core (c : Strand) : Strand :=
  { c with status := .idle, pc := 0, slot := 0, since := none, loops := [], savedLoops := [], pfx := none, rep := 0
           fetching := [], polled := [], trap := none, asyncs := [], tpc := 0, tcause := 0, tval := 0, chain := none }

/-- A state without the fields that issuing, holding, squashing and trapping may change. -/
def State.core (s : State) : State :=
  { s with cur := s.cur.core, main := s.main.map Launch.quiet, prioL := s.prioL.map Launch.quiet, free := 0
           worldViolations := [] }

/-! ### The operations that keep it -/

/-- A change of the focused strand that keeps its core keeps the state's. -/
theorem State.core_modCur (s : State) (f : Strand → Strand) (h : (f s.cur).core = s.cur.core) : (s.modCur f).core = s.core := by
  unfold State.modCur State.core
  simp only [h]

@[simp] theorem State.core_begun (s : State) : s.begun.core = s.core := rfl

/-- A change of a launch that keeps all but its late events. -/
theorem map_quiet (o : Option Launch) (f : Launch → Launch) (h : ∀ l, (f l).quiet = l.quiet) :
    (o.map f).map Launch.quiet = o.map Launch.quiet := by
  cases o <;> simp [h]

/-- A change of a launch's late events keeps the core. -/
theorem State.core_modLaunch (s : State) (p : Bool) (f : Launch → Launch) (h : ∀ l, (f l).quiet = l.quiet) :
    (s.modLaunch p f).core = s.core := by
  unfold State.modLaunch State.core
  cases p <;> simp [map_quiet _ f h]

@[simp] theorem State.core_markDie (s : State) (p : Bool) (e : Late) : (s.markDie p e).core = s.core :=
  s.core_modLaunch p _ fun _ => rfl

@[simp] theorem State.core_fault (s : State) (c : Nat) (d : Word) : (s.fault c d).core = s.core := State.core_markDie _ _ _

@[simp] theorem State.core_late (s : State) (c : Nat) (d : Word) : (s.late c d).core = s.core := by
  unfold State.late; split <;> simp

@[simp] theorem State.core_lateIssue (s : State) : s.lateIssue.core = s.core := by unfold State.lateIssue; simp

@[simp] theorem State.core_started (s : State) : s.started.core = s.core := by
  unfold State.started; split
  · split <;> simp
  · simp

@[simp] theorem State.core_startFetch (s : State) : s.startFetch.core = s.core := by
  unfold State.startFetch State.fetchAt
  simp only []
  split
  · rfl
  · exact s.core_modCur _ rfl

@[simp] theorem State.core_goTo (s : State) (h : Nat) (pc : Word) (l : List LoopEnt) : (s.goTo h pc l).core = s.core := by
  unfold State.goTo
  rw [State.core_startFetch]
  exact s.core_modCur _ rfl

@[simp] theorem State.core_advance (s : State) (h : Nat) : (s.advance h).core = s.core := by
  unfold State.advance
  split
  · split
    · exact s.core_modCur _ rfl
    · simp
  · simp

@[simp] theorem State.core_transfer (s : State) (h : Nat) (t : Word) : (s.transfer h t).core = s.core := by
  unfold State.transfer; simp

@[simp] theorem State.core_holdTick (s : State) : s.holdTick.core = s.core := by
  unfold State.holdTick
  rw [State.core_modCur _ _ rfl]
  simp

@[simp] theorem State.core_stall (s : State) : s.stall.core = s.core := by
  unfold State.stall
  split
  · simp
  · exact s.core_modCur _ rfl

@[simp] theorem State.core_waitSince (s : State) : s.waitSince.core = s.core := s.core_modCur _ rfl

@[simp] theorem State.core_squash (s : State) (i : Instr) : (s.squash i).core = s.core := by
  unfold State.squash; split
  · exact s.core_modCur _ rfl
  · rfl

@[simp] theorem core_enterTrap (t : TrapRec) (s : State) : (enterTrap t s).core = s.core := s.core_modCur _ rfl

@[simp] theorem core_returnFromTrap (h : Nat) (s : State) : (returnFromTrap h s).core = s.core := s.core_modCur _ rfl

theorem Strand.core_stop (t : TrapRec) (v : Word) (c : Strand) : (c.stop t v).core = c.core := by
  unfold Strand.stop; split <;> rfl

@[simp] theorem core_stopStrand (t : TrapRec) (s : State) : (stopStrand t s).core = s.core := by
  unfold stopStrand
  rw [State.core_modCur _ _ (Strand.core_stop _ _ _), State.core_fault]
  split <;> rfl

@[simp] theorem core_takeTrap (t : TrapRec) (s : State) : (takeTrap t s).core = s.core := by
  unfold takeTrap
  simp only []
  split
  · simp
  · split
    · simp
    · rw [State.core_modCur _ _ rfl]; simp

@[simp] theorem core_raiseAsync (t : TrapRec) (s : State) : (raiseAsync t s).core = s.core := by
  unfold raiseAsync
  simp only []
  split
  · simp
  · split
    · simp
    · rw [State.core_modCur _ _ rfl]; simp

@[simp] theorem State.core_precise (s : State) (c : Nat) (v : Word) : (s.precise c v).core = s.core := by
  unfold State.precise; simp

/-- A word ends in a state with the core of the state its entry made, or of the state in which it was read. -/
theorem core_finish (i : Instr) (s : State) (e : Eff) :
    (finish i s e).core = match e with
      | .done t => t.core | .jump t _ => t.core | .trap _ _ => s.core | .hold t => t.core | .raw t => t.core := by
  cases e <;> simp [finish]

/-! ### What the core determines -/

theorem State.launchD_core (s : State) (p : Bool) : s.core.launchD p = (s.launchD p).quiet := by
  unfold State.launchD State.launchOf State.core
  cases p
  · cases s.main <;> rfl
  · cases s.prioL <;> rfl

@[simp] theorem State.slotNo_core (s : State) : s.core.slotNo = s.slotNo := by
  unfold State.slotNo State.vd State.launch
  rw [State.launchD_core]
  rfl

@[simp] theorem State.getX_core (s : State) (k : Nat) : s.core.getX k = s.getX k := by
  unfold State.getX
  rw [State.slotNo_core]
  rfl

/-- States of one core have the same registers. -/
theorem SameRegs.of_core {s t : State} (h : t.core = s.core) : SameRegs [] [] [] [] s t := by
  have hc : t.cur.core = s.cur.core := congrArg State.cur h
  have e : ∀ {β : Type} (f : Strand → β), f t.cur.core = f s.cur.core := fun f => congrArg f hc
  refine ⟨fun k _ _ => ?_, fun k _ _ => ?_, fun k _ => ?_, fun k _ => ?_, ?_, ?_, ?_, ?_, ?_⟩
  · rw [← State.getX_core t, h, State.getX_core]
  · have := e Strand.p
    unfold State.getP
    rw [show t.cur.p = s.cur.p from this]
  · have := e Strand.h
    unfold State.getH
    rw [show t.cur.h = s.cur.h from this]
  · have := e Strand.q
    unfold State.getQ
    rw [show t.cur.q = s.cur.q from this]
  · exact e Strand.arith
  · exact e Strand.expf
  · exact e fun c => (c.sembase, c.semdepth, c.sovf, c.semrot)
  · exact e fun c => (c.mmode, c.scale, c.railReq, c.bask)
  · exact e fun c => (c.spmode, c.v, c.shapes, c.lists)

/-- States of one core have the same memory. -/
theorem SameMem.of_core {s t : State} (h : t.core = s.core) : SameMem (fun _ => False) s t :=
  ⟨fun a _ => congrArg (fun m => rdMem m a) (show t.core.mem = s.core.mem by rw [h]),
    show t.core.held = s.core.held by rw [h]⟩

/-! ### The trap registers -/

/-- The registers that a trap saves into, and the handler's address. -/
def State.saved (s : State) : Word × Word × BitVec 16 × Word := (s.cur.tvec, s.cur.tpc, s.cur.tcause, s.cur.tval)

@[simp] theorem State.saved_begun (s : State) : s.begun.saved = s.saved := rfl

@[simp] theorem State.saved_modLaunch (s : State) (p : Bool) (f : Launch → Launch) : (s.modLaunch p f).saved = s.saved := by
  unfold State.modLaunch; cases p <;> rfl

@[simp] theorem State.saved_markDie (s : State) (p : Bool) (e : Late) : (s.markDie p e).saved = s.saved :=
  State.saved_modLaunch _ _ _

@[simp] theorem State.saved_fault (s : State) (c : Nat) (d : Word) : (s.fault c d).saved = s.saved := State.saved_markDie _ _ _

@[simp] theorem State.saved_late (s : State) (c : Nat) (d : Word) : (s.late c d).saved = s.saved := by
  unfold State.late; split <;> simp

@[simp] theorem State.saved_lateIssue (s : State) : s.lateIssue.saved = s.saved := by unfold State.lateIssue; simp

@[simp] theorem State.saved_started (s : State) : s.started.saved = s.saved := by
  unfold State.started; split
  · split <;> simp
  · simp

@[simp] theorem State.saved_startFetch (s : State) : s.startFetch.saved = s.saved := by
  unfold State.startFetch State.fetchAt
  simp only []
  split <;> rfl

@[simp] theorem State.saved_goTo (s : State) (h : Nat) (pc : Word) (l : List LoopEnt) : (s.goTo h pc l).saved = s.saved := by
  unfold State.goTo
  rw [State.saved_startFetch]
  rfl

@[simp] theorem State.saved_advance (s : State) (h : Nat) : (s.advance h).saved = s.saved := by
  unfold State.advance
  split
  · split
    · rfl
    · simp
  · simp

@[simp] theorem State.saved_transfer (s : State) (h : Nat) (t : Word) : (s.transfer h t).saved = s.saved := by
  unfold State.transfer; simp

@[simp] theorem State.saved_stall (s : State) : s.stall.saved = s.saved := by
  unfold State.stall
  split
  · exact State.saved_lateIssue s
  · rfl

@[simp] theorem State.saved_squash (s : State) (i : Instr) : (s.squash i).saved = s.saved := by
  unfold State.squash; split <;> rfl

/-- A strand that stops keeps its handler's address. -/
@[simp] theorem stopStrand_tvec (t : TrapRec) (s : State) : (stopStrand t s).cur.tvec = s.cur.tvec := by
  unfold stopStrand
  rw [State.modCur_cur, State.fault_cur]
  unfold Strand.stop
  split <;> split <;> rfl

@[simp] theorem State.saved_setX (s : State) (k : Nat) (v : Word) : (s.setX k v).saved = s.saved := by
  unfold State.setX; split
  · rfl
  · split <;> rfl

@[simp] theorem State.saved_setP (s : State) (k : Nat) (v : Bool) : (s.setP k v).saved = s.saved := by
  unfold State.setP; split <;> rfl

@[simp] theorem State.saved_setH (s : State) (k : Nat) (v : HRec) : (s.setH k v).saved = s.saved := rfl

@[simp] theorem State.saved_setQ (s : State) (k : Nat) (v : Port) : (s.setQ k v).saved = s.saved := rfl

/-- States with the same trap registers. -/
theorem SameTrap.of_saved {s t : State} (h : t.saved = s.saved) : SameTrap s t := by
  unfold State.saved at h
  simp only [Prod.mk.injEq] at h
  exact ⟨h.1, h.2.1, h.2.2.1, h.2.2.2⟩

/-! ### Issuing a word -/

/-- Issuing a word keeps the core, or the word issued with its guard true and did what its entry does. -/
theorem issue_frame {i : Instr} {u : Use} {s t : State} {eff : State → Eff} (h : issue i u s eff = .next t) :
    (t.core = s.core ∧ (unitPresent s.vd.cls (encode i) = true → s.legal i = true → t.saved = s.saved))
      ∨ (Issues i u s ∧ t = finish i s.started (eff s.started)) := by
  obtain ⟨-, ⟨hu, rfl⟩ | ⟨hu, hw, rfl⟩ | ⟨tk, -, -, rfl⟩ | rfl | ⟨-, rfl⟩ | h⟩ := issue_cases h
  · exact .inl ⟨by simp, fun h => by simp [hu] at h⟩
  · exact .inl ⟨by simp, fun _ h1 => by simp [h1] at hw⟩
  · exact .inl ⟨State.core_modCur _ _ rfl, fun _ _ => rfl⟩
  · exact .inl ⟨by simp, fun _ _ => by simp⟩
  · exact .inl ⟨by simp, fun _ _ => by simp⟩
  · exact .inr h

/-! ### Writing one register -/

/-- A state reached from one of the same core has the registers that survive. -/
theorem SameRegs.before_core {xs ps hs qs : List Nat} {s s' t : State} (h : s'.core = s.core) (r : SameRegs xs ps hs qs s' t) :
    SameRegs xs ps hs qs s t := by
  have e := SameRegs.of_core h
  exact ⟨fun k h1 h2 => (r.x k h1 h2).trans (e.x k h1 (by simp)), fun k h1 h2 => (r.p k h1 h2).trans (e.p k h1 (by simp)),
    fun k h1 => (r.h k h1).trans (e.h k (by simp)), fun k h1 => (r.q k h1).trans (e.q k (by simp)), r.arith.trans e.arith,
    r.expf.trans e.expf, r.sem.trans e.sem, r.matrix.trans e.matrix, r.sump.trans e.sump⟩

/-- A state of the same core as one whose registers survive has them too. -/
theorem SameRegs.after_core {xs ps hs qs : List Nat} {s t t' : State} (h : t'.core = t.core) (r : SameRegs xs ps hs qs s t) :
    SameRegs xs ps hs qs s t' := by
  have e := SameRegs.of_core h
  exact ⟨fun k h1 h2 => (e.x k h1 (by simp)).trans (r.x k h1 h2), fun k h1 h2 => (e.p k h1 (by simp)).trans (r.p k h1 h2),
    fun k h1 => (e.h k (by simp)).trans (r.h k h1), fun k h1 => (e.q k (by simp)).trans (r.q k h1), e.arith.trans r.arith,
    e.expf.trans r.expf, e.sem.trans r.sem, e.matrix.trans r.matrix, e.sump.trans r.sump⟩

/-- More registers may change. -/
theorem SameRegs.weaken {s t : State} (r : SameRegs [] [] [] [] s t) (xs ps hs qs : List Nat) : SameRegs xs ps hs qs s t :=
  ⟨fun k h1 _ => r.x k h1 (by simp), fun k h1 _ => r.p k h1 (by simp), fun k _ => r.h k (by simp), fun k _ => r.q k (by simp),
    r.arith, r.expf, r.sem, r.matrix, r.sump⟩

/-- A register keeps what is written to it, and no other register changes (R57). -/
theorem State.getX_setX (s : State) {k j : Nat} (v : Word) (hk : k ≠ 0) :
    (s.setX k v).getX j = if j = k then v else s.getX j := by
  by_cases hj0 : j = 0
  · subst hj0; simp [State.getX, Ne.symm hk]
  unfold State.setX
  simp only [hk, if_false]
  split
  · rename_i h
    unfold State.getX
    simp only [hj0, if_false]
    have ho : (s.modCur fun c => { c with x := sset 0 c.x k v }).cur.inboxOut = s.cur.inboxOut := rfl
    by_cases hc : j < 56 ∨ s.cur.inboxOut = true
    · rw [ho, if_pos hc, if_pos hc]
      exact sget_sset 0 s.cur.x k j v
    · rw [ho, if_neg hc, if_neg hc]
      have : j ≠ k := by rintro rfl; exact hc h
      simp only [this, if_false]; rfl
  · rename_i h
    unfold State.getX
    simp only [hj0, if_false]
    by_cases hc : j < 56 ∨ s.cur.inboxOut = true
    · rw [if_pos hc, if_pos hc]
      have : j ≠ k := by rintro rfl; exact h hc
      simp only [this, if_false]
    · rw [if_neg hc, if_neg hc]
      by_cases e : j = k
      · subst e
        simp only [if_true]
        change BitVec.ofNat 64 (leNat (rdMems (wrMems s.mem (inboxBase s.slotNo s.cur.cell + 8 * (j - 56))
          (leBytes 8 v.toNat)) (inboxBase s.slotNo s.cur.cell + 8 * (j - 56)) 8)) = v
        rw [leNat_rdMems_wrMems]
        apply BitVec.eq_of_toNat_eq; rw [BitVec.toNat_ofNat]; have := v.isLt; omega
      · simp only [e, if_false]
        change BitVec.ofNat 64 (leNat (rdMems (wrMems s.mem (inboxBase s.slotNo s.cur.cell + 8 * (k - 56))
          (leBytes 8 v.toNat)) (inboxBase s.slotNo s.cur.cell + 8 * (j - 56)) 8)) = _
        rw [rdMems_wrMems_other]
        rw [length_leBytes]; omega

/-- A write to x0 is discarded (R57). -/
@[simp] theorem State.setX_zero (s : State) (v : Word) : s.setX 0 v = s := rfl

/-- Writing a scalar register leaves every other register alone. -/
theorem SameRegs.setX (s : State) (k : Nat) (v : Word) : SameRegs [k] [] [] [] s (s.setX k v) := by
  by_cases hk : k = 0
  · subst hk; exact (SameRegs.of_core rfl).weaken _ _ _ _
  refine ⟨fun j _ hj => ?_, ?_, ?_, ?_, ?_, ?_, ?_, ?_, ?_⟩
  · rw [State.getX_setX s v hk, if_neg (by simpa using hj)]
  all_goals (unfold State.setX; simp only [hk, if_false]; split <;> first | rfl | (intros; rfl))

/-- Writing a scalar register leaves memory alone, but for the inbox bytes that are the register. -/
theorem SameMem.setX (s : State) (k : Nat) (v : Word) : SameMem (inboxBytes s [k]) s (s.setX k v) := by
  unfold State.setX
  split
  · exact ⟨fun _ _ => rfl, rfl⟩
  · split
    · exact ⟨fun _ _ => rfl, rfl⟩
    · rename_i h1 h2
      refine ⟨fun a ha => ?_, rfl⟩
      refine rdMem_wrMems_out _ _ _ _ ?_
      rw [length_leBytes]
      by_contra hcon
      exact ha ⟨k, by simp, by omega, by omega, by omega⟩

/-- Writing a predicate leaves every other register alone. -/
theorem SameRegs.setP (s : State) (k : Nat) (v : Bool) : SameRegs [] [k] [] [] s (s.setP k v) := by
  unfold State.setP
  split
  · exact (SameRegs.of_core rfl).weaken _ _ _ _
  · refine ⟨fun _ _ _ => rfl, fun j hj hjk => ?_, fun _ _ => rfl, fun _ _ => rfl, rfl, rfl, rfl, rfl, rfl⟩
    have hne : j ≠ k := by simpa using hjk
    unfold State.getP State.modCur
    by_cases h0 : j = 0
    · simp [h0]
    · simp only [h0, if_false]
      cases v
      · simp [hj]
        intro _
        omega
      · simp
        intro _
        omega

/-- Writing a handle leaves every other register alone. -/
theorem SameRegs.setH (s : State) (k : Nat) (v : HRec) : SameRegs [] [] [k] [] s (s.setH k v) :=
  ⟨fun _ _ _ => rfl, fun _ _ _ => rfl, fun j hj => sget_sset_other 0 s.cur.h v (by simpa using hj), fun _ _ => rfl, rfl, rfl,
    rfl, rfl, rfl⟩

/-- Writing a port leaves every other register alone. -/
theorem SameRegs.setQ (s : State) (k : Nat) (v : Port) : SameRegs [] [] [] [k] s (s.setQ k v) :=
  ⟨fun _ _ _ => rfl, fun _ _ _ => rfl, fun _ _ => rfl, fun j hj => sget_sset_other ({} : Port) s.cur.q v (by simpa using hj), rfl, rfl,
    rfl, rfl, rfl⟩

end Sys2Proof.Machine
end

