-- ==== Sys2Proof/Tests/Slice0.lean ====
section
/-! SUPPORT. Tests: words of the manual that decode to the instructions it writes beside them, terms that are not well formed, single
steps with the results that the manual states, and, for every obligation, states that meet its hypotheses. -/

namespace Sys2Proof.Tests

open Sys2Proof.Machine

/-! ### Words, written out in the formats of Table 3-2 with PG 9 and HOLD 2 -/

/-- The fields of a guarded word and of a T-format word in the tests below. -/
abbrev c : Ctl := ⟨9, 2⟩
abbrev t : TCtl := ⟨9, 2, 3, 4⟩

/-- R format: FN6, D, A, B, C, MOD4. -/
def rWord (maj fn d a b c mod4 hold : Nat) : BitVec 48 :=
  BitVec.ofNat 6 maj ++ 9#4 ++ BitVec.ofNat 6 fn ++ BitVec.ofNat 6 d ++ BitVec.ofNat 6 a ++ BitVec.ofNat 6 b ++ BitVec.ofNat 6 c
    ++ BitVec.ofNat 4 mod4 ++ BitVec.ofNat 4 hold

/-- I format: FN2, D, A, IMM20. -/
def iWord (maj fn d a imm : Nat) : BitVec 48 :=
  BitVec.ofNat 6 maj ++ 9#4 ++ BitVec.ofNat 2 fn ++ BitVec.ofNat 6 d ++ BitVec.ofNat 6 a ++ BitVec.ofNat 20 imm ++ 2#4

/-- M format: FN4, D, A, SZ, ORD, IMM12. -/
def mWord (maj fn d a sz ord imm : Nat) : BitVec 48 :=
  BitVec.ofNat 6 maj ++ 9#4 ++ BitVec.ofNat 4 fn ++ BitVec.ofNat 6 d ++ BitVec.ofNat 6 a ++ BitVec.ofNat 2 sz ++ BitVec.ofNat 4 ord
    ++ BitVec.ofNat 12 imm ++ 2#4

/-- B format: COND4, A, B, OFF18. -/
def bWord (maj cond a b off : Nat) : BitVec 48 :=
  BitVec.ofNat 6 maj ++ 9#4 ++ BitVec.ofNat 4 cond ++ BitVec.ofNat 6 a ++ BitVec.ofNat 6 b ++ BitVec.ofNat 18 off ++ 2#4

/-- U format: D, IMM28. -/
def uWord (maj d imm : Nat) : BitVec 48 := BitVec.ofNat 6 maj ++ 9#4 ++ BitVec.ofNat 6 d ++ BitVec.ofNat 28 imm ++ 2#4

/-- T format: FN6, D, A, B, C, SW, SR. -/
def tWord (maj fn d a b c sw sr : Nat) : BitVec 48 :=
  BitVec.ofNat 6 maj ++ 9#4 ++ BitVec.ofNat 6 fn ++ BitVec.ofNat 4 d ++ BitVec.ofNat 4 a ++ BitVec.ofNat 4 b ++ BitVec.ofNat 4 c
    ++ BitVec.ofNat 6 sw ++ BitVec.ofNat 6 sr ++ 2#4

/-- S format: SHAPE8, LIST10, DEST10. -/
def sWord (maj fn shape list dest : Nat) : BitVec 48 :=
  BitVec.ofNat 6 maj ++ 9#4 ++ BitVec.ofNat 6 fn ++ BitVec.ofNat 8 shape ++ BitVec.ofNat 10 list ++ BitVec.ofNat 10 dest ++ 2#4

/-- Every word decodes to the instruction beside it. -/
def reads (l : List (BitVec 48 × Instr)) : Bool := l.all fun e => decide (decode e.1 = .ok e.2)

/-- AT and RPT (R55, R56). -/
theorem test_decode_prefixes : reads
    [(0xFC00_0000_0280#48, .atTick 40),
     (0xFC01_0C10_4000#48, .rpt 3 1 1 0)] = true := by decide

/-- Table 7-1. -/
theorem test_decode_alu : reads
    [(rWord 0x01 0x00 5 6 7 0 0 2, .add c 5 6 7),
     (rWord 0x01 0x01 5 6 7 0 0 2, .sub c 5 6 7),
     (rWord 0x01 0x02 5 6 7 0 0 2, .and c 5 6 7),
     (rWord 0x01 0x03 5 6 7 0 0 2, .or c 5 6 7),
     (rWord 0x01 0x04 5 6 7 0 0 2, .xor c 5 6 7),
     (rWord 0x01 0x05 5 6 7 0 0 2, .andn c 5 6 7),
     (rWord 0x01 0x06 5 6 7 0 0 2, .sll c 5 6 7),
     (rWord 0x01 0x07 5 6 7 0 0 2, .srl c 5 6 7),
     (rWord 0x01 0x08 5 6 7 0 0 2, .sra c 5 6 7),
     (rWord 0x01 0x09 5 6 7 0 0 2, .slt c 5 6 7),
     (rWord 0x01 0x0A 5 6 7 0 0 2, .sltu c 5 6 7),
     (rWord 0x01 0x0B 5 6 7 0 0 2, .min c 5 6 7),
     (rWord 0x01 0x0C 5 6 7 0 0 2, .max c 5 6 7),
     (rWord 0x01 0x0D 5 6 7 0 0 2, .minu c 5 6 7),
     (rWord 0x01 0x0E 5 6 7 0 0 2, .maxu c 5 6 7),
     (rWord 0x01 0x0F 5 6 0 0 0 2, .clz c 5 6),
     (rWord 0x01 0x10 5 6 0 0 0 2, .ctz c 5 6),
     (rWord 0x01 0x11 5 6 0 0 0 2, .popc c 5 6),
     (rWord 0x01 0x12 5 6 7 3 0 2, .sel c 5 6 7 3)] = true := by decide

/-- Table 7-2 and R111; the manual's own words for ADDI and ADDHI. -/
theorem test_decode_immediates : reads
    [(0x0802_4000_0050#48, .addi ⟨0, 0⟩ 9 0 5),
     (0x0A81_85FF_FFF2#48, .addi ⟨10, 2⟩ 6 5 0xFFFFF),
     (0x1001_8580_0000#48, .addhi ⟨0, 0⟩ 6 5 0x80000),
     (iWord 0x02 0 5 6 9, .addi c 5 6 9),
     (iWord 0x02 1 5 6 9, .andi c 5 6 9),
     (iWord 0x02 2 5 6 9, .ori c 5 6 9),
     (iWord 0x02 3 5 6 9, .xori c 5 6 9),
     (iWord 0x03 0 5 6 63, .slli c 5 6 63),
     (iWord 0x03 1 5 6 63, .srli c 5 6 63),
     (iWord 0x03 2 5 6 63, .srai c 5 6 63),
     (iWord 0x03 3 5 6 0xFFFFF, .slti c 5 6 0xFFFFF),
     (iWord 0x04 0 5 6 9, .addhi c 5 6 9),
     (iWord 0x04 1 5 0 9, .addpch c 5 9),
     (iWord 0x04 2 5 6 9, .movhi c 5 6 9)] = true := by decide

/-- Tables 7-3 and 7-4. -/
theorem test_decode_compares : reads
    [(0x1401_0480_0000#48, .cmpNe ⟨0, 0⟩ 1 8 0),
     (rWord 0x05 0x00 5 6 7 0 0 2, .cmpEq c 5 6 7),
     (rWord 0x05 0x01 5 6 7 0 0 2, .cmpNe c 5 6 7),
     (rWord 0x05 0x02 5 6 7 0 0 2, .cmpLt c 5 6 7),
     (rWord 0x05 0x03 5 6 7 0 0 2, .cmpGe c 5 6 7),
     (rWord 0x05 0x04 5 6 7 0 0 2, .cmpLtu c 5 6 7),
     (rWord 0x05 0x05 5 6 7 0 0 2, .cmpGeu c 5 6 7),
     (rWord 0x05 0x06 5 6 7 0 0 2, .cmpTst c 5 6 7),
     (rWord 0x05 0x07 5 6 7 0 0 2, .cmpNtst c 5 6 7),
     (rWord 0x06 0x00 5 6 7 0 0 2, .pand c 5 6 7),
     (rWord 0x06 0x01 5 6 7 0 0 2, .por c 5 6 7),
     (rWord 0x06 0x02 5 6 7 0 0 2, .pxor c 5 6 7),
     (rWord 0x06 0x03 5 6 7 0 0 2, .pandn c 5 6 7),
     (rWord 0x06 0x04 5 6 0 0 0 2, .pnot c 5 6),
     (rWord 0x06 0x05 5 0 0 0 0 2, .prd c 5),
     (rWord 0x06 0x06 0 6 0 0 0 2, .pwr c 6)] = true := by decide

/-- Table 7-5. -/
theorem test_decode_multiplies : reads
    [(0x1C00_1C72_0002#48, .mul ⟨0, 2⟩ 7 7 8),
     (rWord 0x07 0x00 6 6 7 0 0 2, .mul c 6 6 7),
     (rWord 0x07 0x01 6 6 7 0 0 2, .mulw c 6 6 7),
     (rWord 0x07 0x02 6 6 7 0 0 2, .mulwu c 6 6 7),
     (rWord 0x07 0x03 6 6 7 0 0 2, .mulwsu c 6 6 7),
     (rWord 0x07 0x04 6 6 7 0 0 2, .div c 6 6 7),
     (rWord 0x07 0x05 6 6 7 0 0 2, .divu c 6 6 7),
     (rWord 0x07 0x06 6 6 7 0 0 2, .divrem c 6 6 7),
     (rWord 0x07 0x07 6 6 7 0 0 2, .divremu c 6 6 7)] = true := by decide

/-- R117, R118, R120, R137 and R176. -/
theorem test_decode_accesses : reads
    [(0x2000_6170_FC00#48, .ld ⟨0, 0⟩ 6 5 3 0 0xFC0),
     (0x4400_0140_0000#48, .hld ⟨0, 0⟩ 0 5 0 0),
     (mWord 0x08 0 5 6 3 0 9, .ld c 5 6 3 0 9),
     (mWord 0x08 1 5 6 2 0 9, .ldu c 5 6 2 0 9),
     (mWord 0x09 0 5 6 1 0 9, .st c 5 6 1 0 9),
     (rWord 0x0A 0x00 5 6 7 0 3 2, .ldx c 5 6 7 3),
     (rWord 0x0A 0x01 5 6 7 0 2 2, .ldxu c 5 6 7 2),
     (rWord 0x0A 0x02 0 6 7 8 1 2, .stx c 6 7 8 1),
     (mWord 0x11 0 5 6 0 0 32, .hld c 5 6 0 32),
     (mWord 0x11 1 5 6 0 0 32, .hst c 5 6 0 32),
     (mWord 0x1D 0 5 6 3 0 8, .zst c 5 6 8)] = true := by decide

/-- R121. -/
theorem test_decode_csrs : reads
    [(0x2C00_8000_0120#48, .csrr ⟨0, 0⟩ 2 0x012),
     (iWord 0x0B 0 5 0 0x022, .csrr c 5 0x022),
     (iWord 0x0B 1 5 6 0x022, .csrw c 5 6 0x022),
     (iWord 0x0B 2 5 6 0x022, .csrs c 5 6 0x022),
     (iWord 0x0B 3 5 6 0x022, .csrc c 5 6 0x022)] = true := by decide

/-- R122 to R131. -/
theorem test_decode_control : reads
    [(bWord 0x0C 0 5 6 0x3FFFF, .beq c 5 6 0x3FFFF),
     (bWord 0x0C 1 5 6 0x3FFFF, .bne c 5 6 0x3FFFF),
     (bWord 0x0C 2 5 6 0x3FFFF, .blt c 5 6 0x3FFFF),
     (bWord 0x0C 3 5 6 0x3FFFF, .bge c 5 6 0x3FFFF),
     (bWord 0x0C 4 5 6 0x3FFFF, .bltu c 5 6 0x3FFFF),
     (bWord 0x0C 5 5 6 0x3FFFF, .bgeu c 5 6 0x3FFFF),
     (bWord 0x0C 6 0 0 0x3FFFF, .bra c 0x3FFFF),
     (uWord 0x0D 5 0xFFFFFFF, .jal c 5 0xFFFFFFF),
     (iWord 0x0E 0 5 6 9, .jalr c 5 6 9),
     (iWord 0x0E 1 0 6 0, .ret c 6),
     (0x3800_4C00_0000#48, .jalr ⟨0, 0⟩ 1 12 0),
     (0x3810_0100_0000#48, .ret ⟨0, 0⟩ 1),
     (0x3C00_0000_0000#48, .nop ⟨0, 0⟩),
     (rWord 0x0F 0x01 4 6 0 0 0 2, .loop c 4 6),
     (0x3C02_0000_0000#48, .endStrand ⟨0, 0⟩),
     (0x3D03_0090_0000#48, .halt ⟨4, 0⟩ 9),
     (rWord 0x1C 0x00 0 0 0x2A 0x15 0 2, .trap c 0xA95),
     (rWord 0x1C 0x01 0 0 0 0 0 2, .eret c)] = true := by decide

/-- R175 and R177. -/
theorem test_decode_handles : reads
    [(0x4000_1420_0000#48, .hget ⟨0, 0⟩ 5 2 0),
     (rWord 0x10 0x00 5 6 0 0 11 2, .hget c 5 6 11),
     (rWord 0x10 0x01 5 6 0 0 10 2, .hset c 5 6 10),
     (rWord 0x10 0x02 5 6 0 0 9 2, .hadd c 5 6 9),
     (rWord 0x10 0x03 5 6 0 0 0 2, .hcpy c 5 6),
     (rWord 0x10 0x04 5 0 0 0 0 2, .hclr c 5),
     (0x4800_0400_0000#48, .pbind ⟨0, 0, 0, 0⟩ 0 4),
     (tWord 0x12 0x00 5 6 0 0 3 4, .pbind t 5 6),
     (tWord 0x12 0x01 5 6 0 0 3 4, .psave t 5 6),
     (tWord 0x12 0x02 5 6 0 0 3 4, .prest t 5 6),
     (tWord 0x12 0x03 5 0 0 0 3 4, .punbind t 5)] = true := by decide

/-- R132, and the fences, rendezvous words and power words of R293, R295, R218 and R336. -/
theorem test_decode_semaphores : reads
    [(0x5000_0000_0010#48, .seminit ⟨0, 0, 0, 1⟩ 0),
     (0x5001_1000_0C00#48, .semwait ⟨0, 0, 3, 0⟩ 1),
     (tWord 0x14 0x00 1 2 3 4 0 4, .seminit ⟨9, 2, 0, 4⟩ 0x1234),
     (tWord 0x14 0x01 5 0 0 0 3 4, .semwait t 5),
     (tWord 0x14 0x02 1 2 3 4 3 4, .sempost t 0x1234),
     (tWord 0x14 0x03 0 0 1 15 0 0, .semrot ⟨9, 2, 0, 0⟩ 31),
     (tWord 0x14 0x04 5 2 3 4 0 4, .semtest ⟨9, 2, 0, 4⟩ 5 0x234),
     (0x5400_8000_40A0#48, .fence ⟨0, 0⟩ 2 0x00A 0x001),
     (0x5400_0004_0080#48, .fence ⟨0, 0⟩ 0 0x008 0x010),
     (0x5800_0013_8800#48, .rdv ⟨0, 0⟩ 5000),
     (0x5801_0000_0000#48, .ssend ⟨0, 0⟩),
     (0x5802_004E_2000#48, .commit ⟨0, 0⟩ 20000),
     (0x7800_0000_0010#48, .mrailUp ⟨0, 0⟩),
     (rWord 0x1E 0x00 0 0 0 0 0 2, .mrailDn c),
     (0x7801_0000_0000#48, .baskPref ⟨0, 0⟩ 0),
     (rWord 0x1E 0x01 0 0 0 0 2 2, .baskPref c 2)] = true := by decide

/-- Chapter 11. -/
theorem test_decode_copies : reads
    [(0xC001_3200_0000#48, .cpym ⟨0, 0, 0, 0⟩ 3 2 0),
     (0xC000_9800_0830#48, .cpy ⟨0, 0, 2, 3⟩ 9 8 0),
     (0xC401_0102_0000#48, .lctxS ⟨0, 0, 0, 0⟩ 1 2),
     (0xC400_0153_0000#48, .lctxR ⟨0, 0, 0, 0⟩ 1 5 3),
     (0xC402_0167_0000#48, .lopen ⟨0, 0, 0, 0⟩ 1 6 7),
     (0xC403_1130_0000#48, .lpush ⟨0, 0, 0, 0⟩ 17 3),
     (tWord 0x30 0x00 5 6 0 15 3 4, .cpy t 5 6 15),
     (tWord 0x30 0x01 5 6 0 15 3 4, .cpym t 5 6 15),
     (tWord 0x30 0x02 0 0 0 0 3 4, .close t),
     (tWord 0x30 0x03 15 0 0 0 3 4, .cwait t 15),
     (tWord 0x31 0x04 1 2 0 0 3 4, .lclose t 0x12),
     (tWord 0x31 0x05 1 2 3 0 3 4, .lstat t 0x12 3),
     (tWord 0x32 0x00 5 6 7 11 3 4, .gath t 5 6 7 11),
     (tWord 0x32 0x01 5 6 7 11 3 4, .scat t 5 6 7 11),
     (tWord 0x32 0x02 5 6 7 11 3 4, .scatadd t 5 6 7 11),
     (0xD002_4400_0000#48, .fchk ⟨0, 0, 0, 0⟩ 4 4),
     (tWord 0x34 0x00 0 6 0 11 3 4, .frenew t 6 11),
     (tWord 0x34 0x01 5 6 0 0 3 4, .flife t 5 6),
     (tWord 0x34 0x02 5 6 0 0 3 4, .fchk t 5 6),
     (tWord 0x34 0x03 5 6 0 0 3 4, .fbirth t 5 6)] = true := by decide

/-- Tables 13-1 and 13-3. -/
theorem test_decode_matrix : reads
    [(0x8000_0123_0420#48, .mma ⟨0, 0, 1, 2⟩ 0 0 0 1 2 3),
     (0x8422_0123_0000#48, .mmaw ⟨0, 0, 0, 0⟩ 0 1 8 0 1 2 3),
     (0x840E_0010_0010#48, .mmaw ⟨0, 0, 0, 1⟩ 0 1 3 0 0 1 0),
     (0x8800_5000_0000#48, .mdrain ⟨0, 0, 0, 0⟩ 0 0 5),
     (0x8C01_0000_0000#48, .mzero ⟨0, 0, 0, 0⟩ 1),
     (0x8C06_4003_0000#48, .msum ⟨0, 0, 0, 0⟩ 0 1 4 0 3),
     (0x8C08_6000_0000#48, .mscale ⟨0, 0, 0, 0⟩ 6),
     (0x8C09_0007_0000#48, .mmode ⟨0, 0, 0, 0⟩ 7),
     (0x8C0A_5000_0000#48, .mstat ⟨0, 0, 0, 0⟩ 5),
     (tWord 0x20 0x03 1 2 3 4 3 4, .mma t 1 1 1 2 3 4),
     (tWord 0x22 0x03 5 0 0 0 3 4, .mdrain t 1 1 5),
     (tWord 0x23 0x05 1 2 0 4 3 4, .msum t 1 0 1 2 4)] = true := by decide

/-- Table 15-4, the float and integer forms. -/
theorem test_decode_vector_arithmetic : reads
    [(0xA000_2010_0000#48, .vadd ⟨0, 0, 0, 0⟩ 2 0 1),
     (0xA008_4012_0000#48, .vfma ⟨0, 0, 0, 0⟩ 4 0 1 2),
     (tWord 0x28 0x00 5 6 7 0 3 4, .vadd t 5 6 7),
     (tWord 0x28 0x01 5 6 7 0 3 4, .vsub t 5 6 7),
     (tWord 0x28 0x02 5 6 7 0 3 4, .vmul t 5 6 7),
     (tWord 0x28 0x03 5 6 7 0 3 4, .vmin t 5 6 7),
     (tWord 0x28 0x04 5 6 7 0 3 4, .vmax t 5 6 7),
     (tWord 0x28 0x05 5 6 7 0 3 4, .vqadd t 5 6 7),
     (tWord 0x28 0x06 5 6 7 0 3 4, .vqsub t 5 6 7),
     (tWord 0x28 0x07 5 6 7 0 3 4, .vqmul t 5 6 7),
     (tWord 0x28 0x08 5 6 7 8 3 4, .vfma t 5 6 7 8),
     (tWord 0x28 0x09 5 6 7 8 3 4, .vfms t 5 6 7 8),
     (tWord 0x28 0x0A 5 6 7 8 3 4, .vfnma t 5 6 7 8),
     (tWord 0x28 0x0B 5 6 0 0 3 4, .vabs t 5 6),
     (tWord 0x28 0x0C 5 6 0 0 3 4, .vneg t 5 6),
     (tWord 0x28 0x0D 5 6 0 0 3 4, .vmov t 5 6)] = true := by decide

/-- Table 15-4, the forms with scalars and bit patterns, and R233. -/
theorem test_decode_vector_others : reads
    [(tWord 0x28 0x0E 5 6 0 8 3 4, .vadds t 5 6 8),
     (tWord 0x28 0x0F 5 6 0 8 3 4, .vmuls t 5 6 8),
     (0xA010_3145_0000#48, .vaxpb ⟨0, 0, 0, 0⟩ 3 1 4 5),
     (tWord 0x28 0x11 5 6 7 0 3 4, .vand t 5 6 7),
     (tWord 0x28 0x12 5 6 7 0 3 4, .vor t 5 6 7),
     (tWord 0x28 0x13 5 6 7 0 3 4, .vxor t 5 6 7),
     (tWord 0x28 0x14 5 6 7 0 3 4, .vandn t 5 6 7),
     (tWord 0x28 0x15 5 6 0 8 3 4, .vshl t 5 6 8),
     (tWord 0x28 0x16 5 6 0 8 3 4, .vshr t 5 6 8),
     (0xA01A_7010_0000#48, .vcmpLt ⟨0, 0, 0, 0⟩ 7 0 1),
     (tWord 0x28 0x18 5 6 7 0 3 4, .vcmpEq t 5 6 7),
     (tWord 0x28 0x19 5 6 7 0 3 4, .vcmpNe t 5 6 7),
     (tWord 0x28 0x1A 5 6 7 0 3 4, .vcmpLt t 5 6 7),
     (tWord 0x28 0x1B 5 6 7 0 3 4, .vcmpLe t 5 6 7),
     (tWord 0x28 0x1C 5 6 7 0 3 4, .vcmpGt t 5 6 7),
     (tWord 0x28 0x1D 5 6 7 0 3 4, .vcmpGe t 5 6 7),
     (tWord 0x28 0x1E 5 6 7 8 3 4, .vsel t 5 6 7 8)] = true := by decide

/-- R235 to R246. -/
theorem test_decode_vector_units : reads
    [(0xA400_3104_0000#48, .vcvt ⟨0, 0, 0, 0⟩ 3 1 1 0),
     (0xA400_3101_0000#48, .vcvt ⟨0, 0, 0, 0⟩ 3 1 0 1),
     (0xA401_5206_0000#48, .vquant ⟨0, 0, 0, 0⟩ 5 2 6),
     (tWord 0x29 0x02 5 6 0 0 3 4, .vdequant t 5 6),
     (0xA800_3200_0000#48, .vredAdd ⟨0, 0, 0, 0⟩ 3 2),
     (tWord 0x2A 0x01 5 6 0 0 3 4, .vredMax t 5 6),
     (tWord 0x2A 0x02 5 6 0 0 3 4, .vredMin t 5 6),
     (tWord 0x2A 0x04 5 6 0 0 3 4, .vredxAdd t 5 6),
     (0xA805_9200_0000#48, .vredxMax ⟨0, 0, 0, 0⟩ 9 2),
     (tWord 0x2A 0x06 5 6 0 0 3 4, .vredxMin t 5 6),
     (0xA808_6500_0000#48, .vscanAdd ⟨0, 0, 0, 0⟩ 6 5),
     (tWord 0x2A 0x09 5 6 0 0 3 4, .vscanMax t 5 6),
     (tWord 0x2A 0x0A 5 6 0 0 3 4, .vscanMin t 5 6),
     (0xA80C_5163_0000#48, .vtopk ⟨0, 0, 0, 0⟩ 5 6 1 3),
     (0xAC00_1000_0020#48, .vexp2 ⟨0, 0, 0, 2⟩ 1 0),
     (tWord 0x2B 0x01 5 6 0 0 3 4, .vlog2 t 5 6),
     (0xAC02_4300_0000#48, .vrcp ⟨0, 0, 0, 0⟩ 4 3),
     (0xAC03_9800_0000#48, .vrsqrt ⟨0, 0, 0, 0⟩ 9 8),
     (tWord 0x2B 0x04 5 6 0 0 3 4, .vtanh t 5 6),
     (0xB000_4230_0000#48, .vperm ⟨0, 0, 0, 0⟩ 4 2 3),
     (0xB001_2007_0000#48, .vsplat ⟨0, 0, 0, 0⟩ 2 7),
     (0xB002_3000_0000#48, .viota ⟨0, 0, 0, 0⟩ 3 0),
     (0xB003_6502_0000#48, .vextr ⟨0, 0, 0, 0⟩ 6 5 2),
     (0xB004_2045_0000#48, .vrandU ⟨0, 0, 0, 0⟩ 2 4 5),
     (tWord 0x2C 0x05 5 0 7 8 3 4, .vrandB t 5 7 8)] = true := by decide

/-- Table 18-1. -/
theorem test_decode_sumproduct : reads
    [(0xE000_0503_0050#48, .spup ⟨0, 0⟩ 5 12 5),
     (0xE001_0503_0060#48, .spdn ⟨0, 0⟩ 5 12 6),
     (0xE400_0200_2000#48, .spmode ⟨0, 0⟩ 0 1 512),
     (sWord 0x39 0x00 0x01 0 538, .spmode c 1 0 538),
     (0xE401_0900_0050#48, .spshape ⟨0, 0⟩ 9 5),
     (0xE402_0005_0060#48, .splist ⟨0, 0⟩ 20 6),
     (0xE403_0200_0010#48, .spld ⟨0, 0⟩ 2 1),
     (0xE404_0300_0010#48, .spldCvt ⟨0, 0⟩ 3 1),
     (0xE405_0300_21F0#48, .spst ⟨0, 0⟩ 3 543),
     (0xE406_0400_0040#48, .spstCvt ⟨0, 0⟩ 4 4),
     (0xE407_0503_3840#48, .spnorm ⟨0, 0⟩ 5 12 900),
     (0xE408_0100_0020#48, .spsync ⟨0, 0⟩ 1 2),
     (0xE409_0007_E000#48, .spclr ⟨0, 0⟩ 31 512)] = true := by decide

/-- Tables 21-4 and 21-5. -/
theorem test_decode_atomics : reads
    [(0x6000_41A0_0080#48, .foldadd ⟨0, 0⟩ 4 6 2 0 8),
     (0x6428_A1B7_0000#48, .ctrade ⟨0, 0⟩ 10 6 3 7 0),
     (mWord 0x18 0 5 6 2 0 8, .foldadd c 5 6 2 0 8),
     (mWord 0x18 1 5 6 2 0 8, .foldand c 5 6 2 0 8),
     (mWord 0x18 2 5 6 2 0 8, .foldor c 5 6 2 0 8),
     (mWord 0x18 3 5 6 2 0 8, .foldxor c 5 6 2 0 8),
     (mWord 0x18 4 5 6 2 0 8, .foldmin c 5 6 2 0 8),
     (mWord 0x18 5 5 6 2 0 8, .foldmax c 5 6 2 0 8),
     (mWord 0x18 6 5 6 2 0 8, .foldminu c 5 6 2 0 8),
     (mWord 0x18 7 5 6 2 0 8, .foldmaxu c 5 6 2 0 8),
     (mWord 0x18 8 5 6 2 0 8, .foldfadd c 5 6 2 0 8),
     (mWord 0x18 9 5 6 2 0 8, .foldfmin c 5 6 2 0 8),
     (mWord 0x18 10 5 6 2 0 8, .foldfmax c 5 6 2 0 8),
     (mWord 0x19 0 6 7 2 0 8, .takeadd c 6 7 2 0 8),
     (mWord 0x19 1 6 7 2 0 8, .takeand c 6 7 2 0 8),
     (mWord 0x19 2 6 7 2 0 8, .takeor c 6 7 2 0 8),
     (mWord 0x19 3 6 7 2 0 8, .takexor c 6 7 2 0 8),
     (mWord 0x19 4 6 7 2 0 8, .takemin c 6 7 2 0 8),
     (mWord 0x19 5 6 7 2 0 8, .takemax c 6 7 2 0 8),
     (mWord 0x19 6 6 7 2 0 8, .takeminu c 6 7 2 0 8),
     (mWord 0x19 7 6 7 2 0 8, .takemaxu c 6 7 2 0 8),
     (mWord 0x19 8 6 7 2 0 8, .takefadd c 6 7 2 0 8),
     (mWord 0x19 9 6 7 2 0 8, .trade c 6 7 2 0 8),
     (mWord 0x19 10 6 7 2 0 8, .ctrade c 6 7 2 0 8)] = true := by decide
/-- Words that no entry defines, and words that hold a value their entry does not allow, do not decode (R50, R51, R47). -/
theorem test_decode_refuses :
    ([0#48, 0xFFFF_FFFF_FFFF#48, rWord 0x13 0 0 0 0 0 0 0, rWord 0x01 0x13 0 0 0 0 0 0, rWord 0x01 0 1 2 3 1 0 0, rWord 0x05 0 8 1 2 0 0 0,
      rWord 0x07 1 5 1 2 0 0 0, iWord 0x03 0 1 2 64, iWord 0x0B 0 1 0 0x003, mWord 0x08 1 1 2 3 0 0, mWord 0x09 0 1 2 3 1 0, tWord 0x28 0 12 0 0 0 0 0,
      tWord 0x28 0x17 0 0 0 0 0 0, tWord 0x30 0 1 2 0 7 0 0, tWord 0x14 1 1 0 0 0 0 0, tWord 0x14 2 0 0 0 0 0 4, sWord 0x39 8 0 0 0, sWord 0x38 2 0 0 0,
      rWord 0x16 0 0 0 0 0 0 1, mWord 0x18 0 1 2 1 0 0, iWord 0x15 0 5 0 0x401].any fun w => (decode w).isOk) = false := by decide

/-! ### Terms that are not well formed, one for each check of WellFormed.lean -/

/-- Every term is refused. -/
def refuses (l : List Instr) : Bool := l.all fun i => !i.wf

/-- Predicates, handles, ports and predicate selects out of range, and odd pairs (R47, R174, R114, R303). -/
theorem test_wf_fields : refuses
    [.sel c 1 2 3 8, .cmpEq c 8 1 2, .pand c 1 8 2, .pand c 1 2 8, .por c 8 1 2, .pnot c 1 8, .zst c 8 1 0, .semwait t 8, .semtest ⟨9, 2, 0, 4⟩ 8 0,
     .fchk t 8 1, .hget c 1 16 0, .hset c 16 1 0, .hcpy c 1 16, .hcpy c 16 1, .hclr c 16, .hld c 16 1 0 0, .hst c 16 1 0 0, .pbind t 12 1, .punbind t 15,
     .vadd t 12 0 0, .vadd t 0 12 0, .vadd t 0 0 12, .vfma t 0 0 0 12, .mma t 0 0 12 0 0 0, .mma t 0 0 0 0 12 0, .mmaw t 0 0 12 0 0 0 0, .mscale t 12,
     .msum t 0 0 12 0 0, .gath t 1 2 12 0, .cpy t 1 2 7, .frenew t 1 1, .mulw c 5 1 2, .divrem c 7 1 2, .ctrade c 5 1 2 0 0] = true := by decide

/-- Shifts, sizes, orderings, CSR numbers, handle fields, counts and semaphores that an entry does not allow. -/
theorem test_wf_values : refuses
    [.slli c 1 2 64, .srai c 1 2 0x80000, .ldu c 1 2 3 0 0, .ldxu c 1 2 3 3, .ld c 1 2 3 2 0, .ld c 1 2 3 4 0, .st c 1 2 3 1 0, .csrr c 1 0x003,
     .csrw c 1 2 0xFFF, .hget c 1 2 12, .hadd c 1 2 1, .hadd c 1 2 10, .seminit t 0, .seminit ⟨9, 2, 0, 0⟩ 0, .semwait ⟨9, 2, 0, 4⟩ 1, .sempost t 0,
     .sempost ⟨9, 2, 3, 0⟩ 1, .semrot t 1, .fence c 5 1 1, .fence c 0 0 1, .fence c 0 1 0, .rdv c 5, .commit c 5, .spsync c 0 0, .foldadd c 1 2 1 0 0,
     .foldadd c 1 2 2 1 0, .foldfadd c 1 2 3 0 0, .takefadd c 1 2 3 0 0, .takeadd c 1 2 2 4 0] = true := by decide

/-- Arguments that no event carries. -/
theorem test_wf_events : refuses
    [.railStepStands 21 0, .railStepStands 0 4, .syncEngineAtomicApply 21, .engineDispatch 6, .dieWindowAccess true 21 0 [], .tileExpiry 0 24576,
     .tileBusyWindowEnd 21 0, .uncorrectableMemoryError 21 0 {} none, .linkFailure 0 21, .launch 0 18, .hostBar2Access true 0 0 [],
     .currentLimitDemand 0 64 0, .thermalDemand 0 129 0, .boostDemand 64] = true := by decide

/-! ### Single steps -/

/-- The outcome is a next state of which the test holds. -/
def gives (o : Host.Outcome State Fault Refusal) (f : State → Bool) : Bool :=
  match o with
  | .next u => f u
  | .fault _ => false
  | .refused _ => false

/-- A machine whose one strand is to issue the word, with that strand changed. -/
def on (i : Instr) (f : Strand → Strand := fun c => c) : State := (State.reset.placeWord (encode i)).modCur f

/-- The same with two more pages: 0x50000 of HBM at virtual 0x50000, and the first page of the cell's scratchpad at virtual
0x60000, both read-write and RC (Table 9-4). -/
def paged (s : State) : State :=
  { s with mem := wrMems (wrMems s.mem 0x30028 (leBytes 8 (15 + 128 + 0x50000))) 0x30030 (leBytes 8 (15 + 128 + winBase s.slotNo)) }

/-- The same in SCHED mode, or in DET mode. -/
def inSched (s : State) : State := s.modLaunch false fun l => { l with lock := false }
def inDet (s : State) : State := s.modLaunch false fun l => { l with det := true }

/-- No prefix, no guard, HOLD 0 and no semaphore. -/
abbrev g : Ctl := ⟨0, 0⟩
abbrev n : TCtl := ⟨0, 0, 0, 0⟩

theorem test_step_addi : gives (step (State.reset.withFetchWord 48 0x0802_4000_0050)) (fun u => u.getX 9 == 5 && u.cur.pc == 0x40006) = true := by
  decide

theorem test_sub_wraps : gives (exec (.sub g 1 2 3) (on (.sub g 1 2 3) fun c => { c with x := [(3, 1)] }))
    (fun u => u.getX 1 == 0xFFFFFFFFFFFFFFFF) = true := by decide

theorem test_andn : gives (exec (.andn g 1 2 3) (on (.andn g 1 2 3) fun c => { c with x := [(2, 0xFF), (3, 0x0F)] }))
    (fun u => u.getX 1 == 0xF0) = true := by decide

theorem test_sra_sign : gives (exec (.sra g 1 2 3) (on (.sra g 1 2 3) fun c => { c with x := [(2, 0x8000000000000000), (3, 68)] }))
    (fun u => u.getX 1 == 0xF800000000000000) = true := by decide

theorem test_slt_signed : gives (exec (.slt g 1 2 3) (on (.slt g 1 2 3) fun c => { c with x := [(2, 0xFFFFFFFFFFFFFFFF)] }))
    (fun u => u.getX 1 == 1) = true := by decide

theorem test_maxu : gives (exec (.maxu g 1 2 3) (on (.maxu g 1 2 3) fun c => { c with x := [(2, 0xFFFFFFFFFFFFFFFF)] }))
    (fun u => u.getX 1 == 0xFFFFFFFFFFFFFFFF) = true := by decide

theorem test_bit_counts : clz64 0 = 64 ∧ clz64 1 = 63 ∧ ctz64 8 = 3 ∧ ctz64 0 = 64 ∧ popc64 0xFFFFFFFFFFFFFFFF = 64 := by decide

/-- x4 receives x11 when p3 is false (the example of R109). -/
theorem test_sel_false : gives (exec (.sel g 4 10 11 3) (on (.sel g 4 10 11 3) fun c => { c with x := [(10, 1), (11, 2)] }))
    (fun u => u.getX 4 == 2) = true := by decide

theorem test_addhi : gives (exec (.addhi g 6 5 0x80000) (on (.addhi g 6 5 0x80000) fun c => { c with x := [(5, 0x40200000)] }))
    (fun u => u.getX 6 == 0xFFFFFFFFC0200000) = true := by decide

theorem test_movhi : gives (exec (.movhi g 1 0 0xFFFFF) (on (.movhi g 1 0 0xFFFFF))) (fun u => u.getX 1 == 0xFFFFFFFF00000000) = true := by decide

theorem test_addpch : gives (exec (.addpch g 5 0x11) (on (.addpch g 5 0x11))) (fun u => u.getX 5 == 0x51000) = true := by decide

/-- p2 is set when x4 is below x5 as unsigned values (the example of R112). -/
theorem test_cmp_ltu : gives (exec (.cmpLtu g 2 4 5) (on (.cmpLtu g 2 4 5) fun c => { c with x := [(5, 0xFFFFFFFFFFFFFFFF)] }))
    (fun u => u.getP 2) = true := by decide

/-- p3 is set when p1 is true and p2 is false (the example of R113); a write to p0 is dropped. -/
theorem test_pandn : gives (exec (.pandn g 3 1 2) (on (.pandn g 3 1 2) fun c => { c with p := 2 })) (fun u => u.getP 3 && !u.getP 2) = true := by decide
theorem test_p0 : gives (exec (.pandn g 0 2 2) (on (.pandn g 0 2 2))) (fun u => u.getP 0) = true := by decide

theorem test_prd : gives (exec (.prd g 1) (on (.prd g 1) fun c => { c with p := 0x82 })) (fun u => u.getX 1 == 0x83) = true := by decide

theorem test_divide_edges : quotRem 7 0 = (0, 7) ∧ quotRem 0x8000000000000000 0xFFFFFFFFFFFFFFFF = (0x8000000000000000, 0)
    ∧ quotRem 0xFFFFFFFFFFFFFFF9 2 = (0xFFFFFFFFFFFFFFFD, 0xFFFFFFFFFFFFFFFF) := by decide

/-- The high half of −1 times −1 is 0, of the same words unsigned 2^64 − 2 (Table 7-5). -/
theorem test_mulw : gives (exec (.mulw g 6 2 3) (on (.mulw g 6 2 3) fun c => { c with x := [(2, 0xFFFFFFFFFFFFFFFF), (3, 0xFFFFFFFFFFFFFFFF)] }))
    (fun u => u.cur.pend.any fun o => o.act == .regs [(6, 1), (7, 0)] && o.due == 3) = true := by decide
theorem test_mulwu : gives (exec (.mulwu g 6 2 3) (on (.mulwu g 6 2 3) fun c => { c with x := [(2, 0xFFFFFFFFFFFFFFFF), (3, 0xFFFFFFFFFFFFFFFF)] }))
    (fun u => u.cur.pend.any fun o => o.act == .regs [(6, 1), (7, 0xFFFFFFFFFFFFFFFE)]) = true := by decide

/-- A byte load of 0x80 sign-extends (R117); the load of a doubleword at 0x50004 is misaligned and traps with EA. -/
theorem test_ld_sign : gives (exec .scalarAccessCompletion ((on (.nop g)).modCur fun c =>
    { c with pend := [{ seq := 0, due := 0, act := .loaded (.x 3 1 true) [0x80] false 0 }] })) (fun u => u.getX 3 == 0xFFFFFFFFFFFFFF80) = true := by
  decide
theorem test_ld_misaligned : gives (exec (.ld g 3 2 3 0 4) (paged (on (.ld g 3 2 3 0 4) fun c => { c with tvec := 0x8000000000040000, x := [(2, 0x50000)] })))
    (fun u => u.cur.tval == 0x50004 && (u.cur.tcause.extractLsb' 0 8) == 0x05) = true := by decide

/-- LOOP with x9 = 5 pushes a body of one word that runs five times (the example of R127). -/
theorem test_loop : gives (exec (.loop g 0 9) (on (.loop g 0 9) fun c => { c with x := [(9, 5)] }))
    (fun u => u.cur.loops == [{ first := 0x40006, last := 0x40006, remaining := 5 }] && u.cur.pc == 0x40006) = true := by decide

theorem test_jal_links : gives (exec (.jal g 1 0xFFFFFFE) (on (.jal g 1 0xFFFFFFE))) (fun u => u.getX 1 == 0x40006 && u.cur.pc == 0x3FFF4) = true := by
  decide

/-- `trap 17` enters the handler at TVEC with TVAL = 17 (the example of R130). -/
theorem test_trap : gives (exec (.trap g 17) (on (.trap g 17) fun c => { c with tvec := 0x8000000000040012 }))
    (fun u => u.cur.pc == 0x40012 && u.cur.tval == 17 && u.cur.tpc == 0x40006 && u.cur.hnd) = true := by decide

/-- CSRC clears the ARITHFLAG flags that are set in x3 and keeps the others (the example of R121). -/
theorem test_csrc_arithflag : gives (exec (.csrc g 0 3 0x018) (on (.csrc g 0 3 0x018) fun c => { c with arith := 0x0031, x := [(3, 0x11)] }))
    (fun u => u.cur.arith == 0x0020) = true := by decide

theorem test_hadd_wraps : gives (exec (.hadd g 1 2 3) (on (.hadd g 1 2 3) fun c => { c with h := [(1, 5 <<< 64)], x := [(2, 0xFFFFFFFFFFFFFFFF)] }))
    (fun u => hExt (u.getH 1) 0 == 4) = true := by decide

/-- `sempost 2, raise=s7` is to add 2 to semaphore SEMBASE + 6 two ticks on (the example of R134). -/
theorem test_sempost : gives (exec (.sempost ⟨0, 0, 0, 7⟩ 2) (on (.sempost ⟨0, 0, 0, 7⟩ 2) fun c => { c with sembase := 3 }))
    (fun u => u.cur.pend.any fun o => o.act == .raise 9 2 && o.due == 2) = true := by decide

theorem test_semrot : gives (exec (.semrot n 3) (on (.semrot n 3) fun c => { c with semdepth := 4, semrot := 2 })) (fun u => u.cur.semrot == 1) = true := by
  decide

/-- A word under a false guard changes no register; in SCHED mode HOLD moves its successor's slot (R53, R97). -/
theorem test_squash : gives (exec (.addi ⟨1, 3⟩ 9 0 5) (inSched (on (.addi ⟨1, 3⟩ 9 0 5))))
    (fun u => u.getX 9 == 0 && u.cur.slot == 4 && u.cur.pc == 0x40006) = true := by decide

/-- A matrix word on a cell that runs a scalar strand of a GD is an absent unit, with the word as its value (R52). -/
theorem test_absent_unit : gives (exec (.mzero n 0) ((on (.mzero n 0) fun c => { c with tvec := 0x8000000000040000 }).modLaunch false
      fun l => { l with vdies := [{ cls := .gd, cells := 1, want := 0xFF, slot := 17 }] }))
    (fun u => u.cur.tcause.extractLsb' 0 8 == 0x02 && u.cur.tval == 0x8C0000000000) = true := by decide

/-! ### Numbers -/

/-- Table 2-5: −2.5 in each format, and 2.5 in SP32. -/
theorem test_minus_two_and_a_half :
    elemCode 0x01 .rne false (.fin true 5 (-1)) = (0xC0200000, 0) ∧ elemCode 0x02 .rne false (.fin true 5 (-1)) = (0xC020, 0)
      ∧ elemCode 0x03 .rne false (.fin true 5 (-1)) = (0xC100, 0) := by decide
theorem test_minus_two_and_a_half_narrow :
    elemCode 0x0A .rne false (.fin true 5 (-1)) = (0xC2, 0)
      ∧ elemCode 0x0B .rne false (.fin true 5 (-1)) = (0xC1, 0) ∧ elemCode 0x0C .rne false (.fin true 5 (-1)) = (0xC, flagNX)
      ∧ elemCode 0x06 .rne false (.fin true 5 (-1)) = (0xFE, flagNX) := by decide
theorem test_minus_two_and_a_half_lns :
    toLns 2 (.fin true 5 (-1)) = (0x39, flagNX) ∧ toSp (.fin false 5 (-1)) = (0xF0500000, 0) := by decide +kernel

/-- Table 2-7: 500.0, a NaN and 1.0 converted to E4M3. -/
theorem test_e4m3 :
    fE4M3.encode .rne false (.fin false 500 0) = (0x7F, flagOF ||| flagNX) ∧ fE4M3.encode .rne true (.fin false 500 0) = (0x7E, flagOF ||| flagNX)
      ∧ fE4M3.encode .rne false .nan = (0x7F, flagNV) ∧ fE4M3.encode .rne true (.fin false 1 0) = (0x38, 0) := by decide

/-- The example of R43: lane 1 with key 0 and counter 0. -/
theorem test_random : randVal 0 0 1 = 0x091B5E58 ∧ (fF32.decode (randUniform 0x091B5E58)).eqv (.fin false 596830 (-24)) = true := by decide

/-- 1/3 and its double rounding, and the exact special results of R42. -/
theorem test_special : SpecFn.rcp.code fF32 0x40400000 = (0x3EAAAAAB, flagNX) ∧ SpecFn.exp2.code fF32 0x3F800000 = (0x40000000, 0)
    ∧ SpecFn.rsqrt.code fF32 0x40800000 = (0x3F000000, 0) ∧ SpecFn.log2.code fF32 0x41000000 = (0x40400000, 0) := by decide +kernel

/-- Saturating and wrapping i8 lanes: 100 + 100 (R229). -/
theorem test_int_lanes : satLane .add 0x06 100 100 = (127, flagSAT) ∧ binLane .add 0x06 100 100 = (200, 0) := by decide

/-! ### States that meet the hypotheses of the obligations -/

/-- The outcome is a next state. -/
def answers (o : Host.Outcome State Fault Refusal) : Bool := gives o fun _ => true

/-- The registers that the words below read: x1 holds 1, x2 the page of HBM, x3 the page of scratchpad, x4 an odd address. -/
def regs (k : Strand) : Strand := { k with x := [(1, 1), (2, 0x50000), (3, 0x60000), (4, 0x50001)] }

/-- A handle of 64 elements of FP32 at HBM address 0x50000, and one of an image in scratchpad. -/
def fp32Rec : HRec := 0x50000 + (1 <<< 56) + (64 <<< 64) + (1 <<< 96) + (1 <<< 112) + (1 <<< 128)

theorem test_meets_DecodeUndoesEncode : (Instr.mma t 1 1 1 2 3 4).isEvent = false ∧ (Instr.mma t 1 1 1 2 3 4).wf = true := by decide

theorem test_meets_EncodeUndoesDecode : decode 0x8000_0123_0420#48 = .ok (.mma ⟨0, 0, 1, 2⟩ 0 0 0 1 2 3) := by decide

/-- A machine about to issue `addi x9, x0, 5`, and one about to issue the word of zeros. -/
abbrev atAddi : State := State.reset.placeWord 0x0802_4000_0050
abbrev atZero : State := State.reset.placeWord 0

theorem test_meets_StepRunsDecoded :
    atAddi.due = .issue (false, 0, 0) ∧ (atAddi.focusWho (false, 0, 0)).fetchFails (atAddi.focusWho (false, 0, 0)).cur.pc = none
      ∧ (atAddi.focusWho (false, 0, 0)).resident ((atAddi.focusWho (false, 0, 0)).blockOf (atAddi.focusWho (false, 0, 0)).cur.pc) = true
      ∧ (atAddi.focusWho (false, 0, 0)).fetchWord (atAddi.focusWho (false, 0, 0)).cur.pc = some 0x0802_4000_0050
      ∧ (atAddi.focusWho (false, 0, 0)).cur.rep = 0 ∧ (atAddi.focusWho (false, 0, 0)).unitWord 0x0802_4000_0050 = some 0x0802_4000_0050
      ∧ decode 0x0802_4000_0050#48 = .ok (.addi ⟨0, 0⟩ 9 0 5) := by decide

theorem test_meets_WordChecksTrap_undecoded :
    atZero.due = .issue (false, 0, 0) ∧ (atZero.focusWho (false, 0, 0)).fetchFails (atZero.focusWho (false, 0, 0)).cur.pc = none
      ∧ (atZero.focusWho (false, 0, 0)).resident ((atZero.focusWho (false, 0, 0)).blockOf (atZero.focusWho (false, 0, 0)).cur.pc) = true
      ∧ (atZero.focusWho (false, 0, 0)).fetchWord (atZero.focusWho (false, 0, 0)).cur.pc = some 0
      ∧ (atZero.focusWho (false, 0, 0)).cur.rep = 0 ∧ (atZero.focusWho (false, 0, 0)).unitWord 0 = some 0 ∧ (decode 0#48).isOk = false := by decide

theorem test_meets_WordChecksTrap_absent :
    let s := (on (.mzero n 0)).modLaunch false fun l => { l with vdies := [{ cls := .gd, cells := 1, want := 0xFF, slot := 17 }] }
    (Instr.mzero n 0).isEvent = false ∧ isPrefixUnit (.mzero n 0) = false ∧ s.cur.status = .running
      ∧ unitPresent s.vd.cls (encode (.mzero n 0)) = false := by decide

theorem test_meets_WordChecksTrap_illegal :
    let s := on (.mulw g 5 1 2)
    (Instr.mulw g 5 1 2).isEvent = false ∧ isPrefixUnit (.mulw g 5 1 2) = false ∧ s.cur.status = .running
      ∧ unitPresent s.vd.cls (encode (.mulw g 5 1 2)) = true ∧ (Instr.mulw g 5 1 2).wf = false := by decide

theorem test_meets_AtAndGuard_squash :
    let i := Instr.addi ⟨1, 3⟩ 9 0 5
    let s := on i
    i.isEvent = false ∧ isPrefixUnit i = false ∧ s.cur.status = .running ∧ unitPresent s.vd.cls (encode i) = true ∧ s.legal i = true
      ∧ s.atTarget.all (fun u => decide (u ≤ s.z0)) = true
      ∧ (!s.started.sched && (guardReg (wordCtl i).pg).any s.started.lockBusy) = false ∧ s.started.guard (wordCtl i).pg = false := by decide

theorem test_meets_AtAndGuard_at :
    let i := Instr.addi g 9 0 5
    let s := on i fun k => { k with pfx := some { first := 0x3FFFA, word := encode (.atTick 40), atTick := some 40, rpt := none } }
    i.isEvent = false ∧ isPrefixUnit i = false ∧ s.cur.status = .running ∧ unitPresent s.vd.cls (encode i) = true ∧ s.legal i = true
      ∧ s.atTarget = some 40 ∧ s.z0 < 40 := by decide

theorem test_meets_NextUnit :
    let s := on (.nop g) fun k => { k with pfx := some { first := 0x3FFFA, word := encode (.rpt 3 1 1 0), rpt := some ⟨3, 1, 1, 0⟩ } }
    (s.cur.pfx.bind Pfx.rpt) = some ⟨3, 1, 1, 0⟩ ∧ s.cur.rep < (3#6).toNat ∧ (on (.nop g)).cur.pfx = none := by decide

/-- A word whose row is the given one and that issues on a machine with the registers above. -/
abbrev ready (i : Instr) (u : Use) : Prop := Issues i u (paged (on i regs))

theorem test_meets_ScalarResultWords :
    (∃ r, aluRow (.sub g 5 1 2) = some r ∧ ready (.sub g 5 1 2) r.use) ∧ (∃ r, immRow (.slli g 5 1 63) = some r ∧ ready (.slli g 5 1 63) r.use)
      ∧ ∃ r, getRow (.hget g 5 1 3) = some r ∧ ready (.hget g 5 1 3) r.use :=
  ⟨⟨_, rfl, by decide⟩, ⟨_, rfl, by decide⟩, ⟨_, rfl, by decide⟩⟩

theorem test_meets_PredicateWords :
    (∃ r, predRow (.cmpEq g 5 1 2) = some r ∧ ready (.cmpEq g 5 1 2) r.use)
      ∧ ready (.pwr g 1) { reads := [1], writes := [regP 1, regP 2, regP 3, regP 4, regP 5, regP 6, regP 7] } :=
  ⟨⟨_, rfl, by decide⟩, by decide⟩

theorem test_meets_MultiplyDivideWords : ∃ r, mulRow (.divrem g 6 1 2) = some r ∧ ready (.divrem g 6 1 2) r.use := ⟨_, rfl, by decide⟩

theorem test_meets_RegisterWordsFrame :
    ((aluRow (.add g 63 1 2)).isSome ∧ answers (exec (.add g 63 1 2) (on (.add g 63 1 2))) = true)
      ∧ ((predRow (.pand g 1 2 3)).isSome ∧ answers (exec (.pand g 1 2 3) (on (.pand g 1 2 3))) = true)
      ∧ (handleRow (.hset g 1 2 3)).isSome ∧ answers (exec (.hset g 1 2 3) (on (.hset g 1 2 3))) = true := by decide

/-- The access that an address translates to. -/
def accAt (i : Instr) (need : Need) (k : Nat) (ea : Word) : Except Nat Acc := (paged (on i regs)).started.checkEA need k ea

theorem test_meets_ScalarAccessWords_load :
    (∃ r, loadRow (.ld g 5 2 3 0 8) = some r ∧ ready (.ld g 5 2 3 0 8) r.use)
      ∧ accAt (.ld g 5 2 3 0 8) { rd := true } 8 0x50008 = .ok { phys := 0x50008, so := false, answers := true } := ⟨⟨_, rfl, by decide⟩, by decide⟩

theorem test_meets_ScalarAccessWords_store :
    (∃ r, storeRow (.st g 5 3 2 0 4) = some r ∧ ready (.st g 5 3 2 0 4) r.use)
      ∧ accAt (.st g 5 3 2 0 4) { wr := true } 4 0x60004 = .ok { phys := winBase 0 + 4, so := false, answers := true }
      ∧ (paged (on (.st g 5 3 2 0 4) regs)).started.soPending = false := ⟨⟨_, rfl, by decide⟩, by decide, by decide⟩

theorem test_meets_ScalarAccessWords_frame :
    (storeRow (.hst g 5 3 0 32)).isSome = true ∧ answers (exec (.hst g 5 3 0 32) (paged (on (.hst g 5 3 0 32) regs))) = true := by decide

theorem test_meets_AccessChecksTrap :
    ((∃ r, loadRow (.ld g 5 4 3 0 0) = some r ∧ ready (.ld g 5 4 3 0 0) r.use)
      ∧ accAt (.ld g 5 4 3 0 0) { rd := true } 8 0x50001 = .error Cause.misaligned)
    ∧ (∃ r, storeRow (.st g 5 0 3 0 0) = some r ∧ ready (.st g 5 0 3 0 0) r.use)
      ∧ accAt (.st g 5 0 3 0 0) { wr := true } 8 0 = .error Cause.translation := ⟨⟨⟨_, rfl, by decide⟩, by decide⟩, ⟨_, rfl, by decide⟩, by decide⟩

/-- A strand with one outstanding operation that is due, after the engine steps of tick 0, at which a bank has served it. -/
def pending (a : PendAct) : State :=
  { paged (on (.nop g) fun k => { regs k with pend := [{ seq := 0, due := 0, act := a, svc := some 0 }] }) with served := 1 }

/-- The operation is the one that completes next. -/
def isNext (s : State) (a : PendAct) : Bool := (s.cur.pend.find? s.pendReady).any fun o => decide (o.act = a)

theorem test_meets_AccessCompletion_load : isNext (pending (.loaded (.x 63 2 true) [0xFF, 0x80] false 0)) (.loaded (.x 63 2 true) [0xFF, 0x80] false 0) = true := by
  decide

theorem test_meets_AccessCompletion_scratchpad :
    isNext (pending (.store ⟨winBase 0 + 4, false, false, true⟩ [1, 2] 0)) (.store ⟨winBase 0 + 4, false, false, true⟩ [1, 2] 0) = true
      ∧ (pending .port).placeOf (winBase 0 + 4) = .scratch 0 0 4 := by decide

theorem test_meets_AccessCompletion_accumulator : (pending .port).placeOf (winBase 0 + 0x04000004) = .acc 0 0 4 := by decide

theorem test_meets_AccessCompletion_held :
    isNext (pending (.store ⟨0x50000, false, false, true⟩ [1, 2] 0)) (.store ⟨0x50000, false, false, true⟩ [1, 2] 0) = true
      ∧ ((pending .port).placeOf 0x50000).heldKind = true
      ∧ (pending (.store ⟨0x50000, false, false, true⟩ [1, 2] 0)).heldRoom 0x50000 = true := by decide

theorem test_meets_CsrWriteWords :
    csrRow (.csrs g 5 1 0x018) = some (.set, 5, 1, 0x018) ∧ ready (.csrs g 5 1 0x018) { reads := [1], writes := [5], csr := some 0x018 } := ⟨rfl, by decide⟩

theorem test_meets_CsrWriteWords_fields :
    ((csrRW 0x018).getLsbD 8 = true ∧ (csrW1C 0x018).getLsbD 8 = false) ∧ ((csrRW 0x018).getLsbD 0 = false ∧ (csrW1C 0x018).getLsbD 0 = true)
      ∧ (csrRW 0x018).getLsbD 63 = false ∧ (csrW1C 0x018).getLsbD 63 = false := by decide

theorem test_meets_RegisterWordsFrame_csr :
    csrRow (.csrw g 5 1 0x018) = some (.write, 5, 1, 0x018) ∧ (on (.csrw g 5 1 0x018)).legal (.csrw g 5 1 0x018) = true
      ∧ unitPresent (on (.csrw g 5 1 0x018)).vd.cls (encode (.csrw g 5 1 0x018)) = true ∧ answers (exec (.csrw g 5 1 0x018) (on (.csrw g 5 1 0x018))) = true := ⟨rfl, by decide⟩

theorem test_meets_BranchAndJumpWords_branch : ∃ r, branchRow (.blt g 1 2 0x3FFFF) = some r ∧ ready (.blt g 1 2 0x3FFFF) { reads := [r.a.toNat, r.b.toNat] } :=
  ⟨_, rfl, by decide⟩

/-- x5 holds a word-aligned address. -/
def jumper (i : Instr) : State := on i fun k => { k with x := [(5, 0x4000C), (6, 0x4000D)] }

theorem test_meets_BranchAndJumpWords_jumps :
    Issues (.bra g 1) {} (jumper (.bra g 1)) ∧ Issues (.jal g 1 1) { writes := [1] } (jumper (.jal g 1 1))
      ∧ (Issues (.jalr g 1 5 6) { reads := [5], writes := [1] } (jumper (.jalr g 1 5 6))
          ∧ (jumper (.jalr g 1 5 6)).started.aligned (0x4000C + 6) = true)
      ∧ (Issues (.ret g 5) { reads := [5], writes := [0] } (jumper (.ret g 5)) ∧ (jumper (.ret g 5)).started.aligned 0x4000C = true)
      ∧ (Issues (.jalr g 1 5 1) { reads := [5], writes := [1] } (jumper (.jalr g 1 5 1))
          ∧ (jumper (.jalr g 1 5 1)).started.aligned (0x4000C + 1) = false)
      ∧ Issues (.ret g 6) { reads := [6], writes := [0] } (jumper (.ret g 6)) ∧ (jumper (.ret g 6)).started.aligned 0x4000D = false := by decide

theorem test_meets_NopAndLoop_nop : ready (.nop g) {} := by decide

theorem test_meets_NopAndLoop_zero :
    Issues (.loop g 0 9) { reads := [9] } (on (.loop g 0 9)) ∧ (on (.loop g 0 9)).started.rx 9 = 0 ∧ (on (.loop g 0 9)).cur.loops = [] := by decide

/-- A loop entry, and a strand with x1 = 1 that holds some. -/
abbrev entry : LoopEnt := ⟨0x40000, 0x40006, 2⟩
def looper (l : List LoopEnt) : State := on (.loop g 0 1) fun k => { regs k with loops := l }

theorem test_meets_NopAndLoop_push :
    Issues (.loop g 0 1) { reads := [1] } (looper [entry]) ∧ (looper [entry]).started.rx 1 ≠ 0 ∧ (looper [entry]).cur.loops.length < 2
      ∧ ((looper [entry]).started.fetchWord ((looper [entry]).cur.pc + 6 * BitVec.ofNat 64 (0 + 1))).any isPrefixWord = false := by decide

theorem test_meets_NopAndLoop_full :
    Issues (.loop g 0 1) { reads := [1] } (looper [entry, entry]) ∧ (looper [entry, entry]).started.rx 1 ≠ 0
      ∧ (looper [entry, entry]).cur.loops.length = 2 := by decide

theorem test_meets_EndAndHalt :
    Issues (.endStrand g) {} (on (.endStrand g)) ∧ Issues (.halt g 1) { reads := [1] } (on (.halt g 1) regs)
      ∧ ((on (.halt g 1)).started.launchOf false).any (fun l => l.lates.isEmpty) = true := by decide

theorem test_meets_TrapWord : Issues (.trap g 17) {} (on (.trap g 17)) := by decide

/-- A strand with a handler. -/
def handled (i : Instr) : State := on i fun k => { regs k with tvec := 0x8000000000040012 }

theorem test_meets_TrapEntry :
    (handled (.nop g)).unhandled { code := 0x0E, tval := 17, tpc := none } = false ∧ (handled (.nop g)).cur.drained = true := by decide

theorem test_meets_TrapEntry_unhandled :
    (on (.nop g)).cur.tvec.getLsbD 63 = false ∧ ((handled (.nop g)).modCur fun k => { k with tcause := 0x8000 }).cur.tcause.getLsbD 15 = true
      ∧ (let s := (handled (.nop g)).modCur fun k => { k with tvec := 0x8000000000040013 }
         s.aligned s.cur.handler = false)
      ∧ (on (.nop g)).unhandled { code := 1, tval := 0, tpc := none } = true := by decide

theorem test_meets_EretWord :
    (Issues (.eret g) {} (on (.eret g) fun k => { k with tpc := 0x40006 }) ∧ (on (.eret g) fun k => { k with tpc := 0x40006 }).started.aligned 0x40006 = true)
      ∧ Issues (.eret g) {} (on (.eret g) fun k => { k with tpc := 1 }) ∧ (on (.eret g) fun k => { k with tpc := 1 }).started.aligned 1 = false := by decide

theorem test_meets_TrapEntry_event :
    (let s := (handled (.nop g)).modCur fun k => { k with status := .trapping, trap := some { code := 1, tval := 0, tpc := none } }
     s.cur.status = .trapping ∧ s.cur.trap = some { code := 1, tval := 0, tpc := none } ∧ s.cur.drained = true)
      ∧ let s := (handled (.nop g)).modCur fun k => { k with asyncs := [{ code := 0x0C, tval := 0, tpc := none }] }
        s.cur.status = .running ∧ s.cur.asyncs = [{ code := 0x0C, tval := 0, tpc := none }] ∧ s.cur.drained = true
          ∧ s.unhandled { code := 0x0C, tval := 0, tpc := none } = false := by decide

/-- A unit that an AT with a target opens and an RPT ends, and one that is illegal. -/
abbrev prefixes (bad : Bool) : Pfx := { first := 0x3FFFA, word := encode (.atTick 4), atTick := some 4, rpt := if bad then some ⟨0, 0, 0, 0⟩ else none, bad := bad }

theorem test_meets_PrefixWords :
    ((on (.nop g)).cur.status = .running ∧ (on (.nop g)).cur.pfx = none)
      ∧ (let s := on (.nop g) fun k => { k with pfx := some (prefixes false) }
         s.cur.pfx = some (prefixes false) ∧ (prefixes false).rpt = none ∧ (prefixes true).rpt ≠ none)
      ∧ let s := on (.nop g) fun k => { k with pfx := some (prefixes true) }
        s.cur.status = .running ∧ unitPresent s.vd.cls (encode (.nop g)) = true ∧ s.cur.pfx = some (prefixes true) := by decide

/-- RPT after AT joins the unit that AT opened (R54): one unit, at the first word's address. -/
theorem test_rpt_after_at : gives (exec (.rpt 3 1 0 0) (on (.nop g) fun k => { k with pfx := some (prefixes false) }))
    (fun u => u.cur.pfx == some { prefixes false with rpt := some ⟨3, 1, 0, 0⟩ } && u.cur.pc == 0x40006) = true := by decide

theorem test_meets_HandleWords : ∃ r, handleRow (.hadd g 5 1 9) = some r ∧ ready (.hadd g 5 1 9) r.use := ⟨_, rfl, by decide⟩

/-- h4 sweeps 64 elements of FP32; h5 holds an image address in scratchpad. -/
def withHandles (k : Strand) : Strand :=
  { regs k with h := [(4, 0x50000 + (1 <<< 56) + (64 <<< 64) + (1 <<< 80) + (1 <<< 96) + (1 <<< 112)), (5, 0x40 + (1 <<< 54))] }

/-- A machine about to issue a word with those handles. -/
def ported (i : Instr) : State := on i withHandles

theorem test_meets_PortWords_pbind :
    Issues (.pbind n 0 4) { reads := [regH 4] } (ported (.pbind n 0 4))
      ∧ (ported (.pbind n 0 4)).started.semFields n (encode (.pbind n 0 4)) = .ok (none, none)
      ∧ (ported (.pbind n 0 4)).started.awaitSeq none = some (ported (.pbind n 0 4)).started ∧ hBad ((ported (.pbind n 0 4)).started.rh 4) = false
      ∧ hNV ((ported (.pbind n 0 4)).started.rh 4) ≠ 0 ∧ (ported (.pbind n 0 4)).started.portBusy 0 = false := by decide

theorem test_meets_PortWords_punbind :
    Issues (.punbind n 0) {} (ported (.punbind n 0)) ∧ (ported (.punbind n 0)).started.semFields n (encode (.punbind n 0)) = .ok (none, none)
      ∧ (ported (.punbind n 0)).started.portBusy 0 = false := by decide

theorem test_meets_PortWords_psave :
    let s := ported (.psave n 0 5)
    Issues (.psave n 0 5) { reads := [regH 5], sw := true } s ∧ s.started.semFields n (encode (.psave n 0 5)) = .ok (none, none)
      ∧ hBad (s.started.rh 5) = false ∧ imageCheck 5 { wr := true } (.psave n 0 5) s.started = none ∧ s.started.portBusy 0 = false
      ∧ s.started.imageAcc (s.started.rh 5) { wr := true } = .ok { phys := winBase 0 + 0x40, so := false, answers := true } := by decide

theorem test_meets_PortWords_prest :
    let s := ported (.prest n 0 5)
    Issues (.prest n 0 5) { reads := [regH 5], sr := true } s ∧ s.started.semFields n (encode (.prest n 0 5)) = .ok (none, none)
      ∧ hBad (s.started.rh 5) = false ∧ imageCheck 5 { rd := true } (.prest n 0 5) s.started = none ∧ s.started.portBusy 0 = false
      ∧ s.started.imageAcc (s.started.rh 5) { rd := true } = .ok { phys := winBase 0 + 0x40, so := false, answers := true } := by decide

/-- The record of h4. -/
abbrev rec4 : HRec := 0x50000 + (1 <<< 56) + (64 <<< 64) + (1 <<< 80) + (1 <<< 96) + (1 <<< 112)

theorem test_meets_PortWords_images : hBad rec4 = false ∧ 0 < hNV rec4 ∧ ({} : Port).bound = false := by decide

theorem test_meets_SemaphoreWords_seminit :
    let i := Instr.seminit ⟨0, 0, 0, 4⟩ 9
    Issues i {} (on i) ∧ (on i).started.semFields ⟨0, 0, 0, 4⟩ (encode i) = .ok (none, some 3) ∧ ((on i).started.awaitSeq none).isSome = true := by decide

/-- Semaphore 2 of slot 0 counts 1. -/
def counted (s : State) : State := s.setSem 0 2 1

theorem test_meets_SemaphoreWords_semwait :
    let i := Instr.semwait ⟨0, 0, 3, 4⟩ 1
    let s := counted (on i)
    Issues i { writes := [regP 1] } s ∧ s.started.semFields ⟨0, 0, 3, 4⟩ (encode i) = .ok (some 2, some 3)
      ∧ (s.started.awaitSeq (some 2)).isSome = true := by decide

theorem test_meets_SemaphoreWords_sempost :
    let i := Instr.sempost ⟨0, 0, 0, 7⟩ 2
    Issues i {} (on i) ∧ (on i).started.semFields ⟨0, 0, 0, 7⟩ (encode i) = .ok (none, some 6) ∧ ((on i).started.awaitSeq none).isSome = true := by decide

theorem test_meets_SemaphoreWords_semrot : Issues (.semrot n 3) {} (on (.semrot n 3)) := by decide

theorem test_meets_SemaphoreWords_semtest :
    let i := Instr.semtest ⟨0, 0, 0, 4⟩ 2 3
    Issues i { writes := [regP 2] } (on i) ∧ (on i).started.semFields ⟨0, 0, 0, 4⟩ (encode i) = .ok (none, some 3) ∧ (on i).launch.det = false
      ∧ Issues i { writes := [regP 2] } (inDet (on i)) ∧ (inDet (on i)).started.semFields ⟨0, 0, 0, 4⟩ (encode i) = .ok (none, some 3)
      ∧ (inDet (on i)).launch.det = true := by decide

theorem test_meets_SemaphoreCounts :
    1 ≤ (counted (on (.nop g))).semCount (counted (on (.nop g))).slotNo 2 ∧ (on (.nop g)).semCount (on (.nop g)).slotNo 2 = 0
      ∧ (let i := Instr.semwait ⟨0, 0, 3, 0⟩ 1
         Issues i { writes := [regP 1] } (on i) ∧ (on i).started.semFields ⟨0, 0, 3, 0⟩ (encode i) = .ok (some 2, none)
           ∧ (on i).started.semCount (on i).started.slotNo 2 = 0)
      ∧ (on (.nop g)).cur.is false 0 0 = true := by decide

theorem test_meets_FenceAndMeetWords :
    Issues (.fence g 2 0x00A 1) {} (on (.fence g 2 0x00A 1)) ∧ Issues (.ssend g) {} (on (.ssend g)) ∧ Issues (.rdv g 5000) {} (on (.rdv g 5000))
      ∧ Issues (.commit g 20000) {} (on (.commit g 20000)) := by decide

theorem test_meets_PowerWords_bask :
    Issues (.baskPref g 1) {} (on (.baskPref g 1))
      ∧ (let s := on (.baskPref ⟨1, 3⟩ 2)
         s.cur.status = .running ∧ s.cur.pfx = none ∧ unitPresent s.vd.cls (encode (.baskPref ⟨1, 3⟩ 2)) = true
           ∧ s.vd.cls = .md ∧ (2#2).getLsbD 1 = true ∧ s.started.guard 1 = false)
      ∧ let s := on (.mrailUp g) fun k => { k with railReq := true }
        Issues (.mrailUp g) {} s ∧ s.cur.railReq = true := by decide

theorem test_meets_PowerWords_rail :
    let s := on (.mrailUp g)
    let d := on (.mrailDn g)
    let e := on (.mrailDn g) fun k => { k with seq := 1, queue := [{ queue := 0, seq := 0, instr := .mma n 0 0 0 0 0 0, pc := 0, enq := 0 }] }
    (Issues (.mrailUp g) {} s ∧ s.cur.railReq = false ∧ s.cur.out = false
        ∧ s.power.stands.contains (s.slotNo * 4 + s.cluster s.slotNo s.cur.cell) = false
        ∧ sget 0 s.power.due (s.slotNo * 4 + s.cluster s.slotNo s.cur.cell) = 0)
      ∧ (Issues (.mrailDn g) {} d ∧ d.cur.kstepsBefore d.cur.seq = false) ∧ Issues (.mrailDn g) {} e ∧ e.cur.kstepsBefore e.cur.seq = true := by decide

/-- A third page: the first sync page of slot 0 at virtual 0x70000, which x7 names. -/
def synced (i : Instr) : State :=
  let s := on i fun k => { k with x := [(1, 1), (7, 0x70000)] }
  { s with mem := wrMems s.mem 0x30038 (leBytes 8 (15 + 128 + winBase 0 + 0x08000000)) }

theorem test_meets_AtomicWords :
    let i := Instr.foldadd g 1 7 2 0 8
    let f : AtomForm := ⟨0, false, 1, 7, 2, 0, 8⟩
    atomRow i = some f ∧ Issues i f.uses (synced i)
      ∧ (synced i).started.checkEA atomNeed 4 0x70008 = .ok { phys := winBase 0 + 0x08000008, so := false, answers := true }
      ∧ (synced i).started.soPending = false
      ∧ ((synced i).launch.det && (f.takes || atomFp f.op f.takes)) = false ∧ answers (exec i (synced i)) = true := by decide

theorem test_meets_AtomicWords_traps :
    let i := Instr.takeadd g 2 7 2 0 8
    let f : AtomForm := ⟨0, true, 2, 7, 2, 0, 8⟩
    (atomRow i = some f ∧ Issues i f.uses (inDet (synced i)) ∧ (inDet (synced i)).launch.det = true ∧ (f.takes || atomFp f.op f.takes) = true)
      ∧ (on i).started.checkEA atomNeed 4 8 = .error Cause.translation ∧ Issues i f.uses (on i) := by decide

/-- An atomic that has reached its sync engine. -/
abbrev atom (k : Nat) : Atom :=
  { slot := 0, phys := winBase 0 + 0x08000008, arrive := 0, back := 0, held := false, prio := false, vdie := 0, cell := k, op := 0, takes := true
    bytes := 4, a := 5, b := 0, d := 2, seq := 0, bound := 5, pc := 0x40000, rel := false }

theorem test_meets_AtomicApply :
    (let s := { pending .atomic with atoms := [atom 0] }
     (atom 0).slot = 0 ∧ s.atomDue (atom 0) = true ∧ s.cur.is (atom 0).prio (atom 0).vdie (atom 0).cell = true
       ∧ (s.cur.pend.any fun o => o.seq == (atom 0).seq) = true)
      ∧ (atom 0).before (atom 1) = true ∧ (atom 0).single = true ∧ (atom 1).single = true := by decide

theorem test_meets_EngineWords :
    (∃ e, engSpec (.close n) = some (n, e) ∧ Issues (.close n) e.uses (on (.close n))
        ∧ (on (.close n)).started.enqCheck (.close n) n e = .ok ((none, none), 0, false))
      ∧ ∃ e, engSpec (.vadd n 0 1 2) = some (n, e) ∧ Issues (.vadd n 0 1 2) e.uses (on (.vadd n 0 1 2))
        ∧ (on (.vadd n 0 1 2)).started.enqCheck (.vadd n 0 1 2) n e = .error (Cause.illegal, 0) :=
  ⟨⟨_, rfl, by decide⟩, _, rfl, by decide⟩

/-- A word of the copy queue. -/
abbrev queued (k : Nat) : QWord := { queue := 2, seq := k, instr := .close n, pc := 0x40000, enq := 0 }

theorem test_meets_EngineWords_full :
    let s := on (.close n) fun k => { k with queue := (List.range 16).map queued }
    s.cur.status = .running ∧ unitPresent s.vd.cls (encode (.close n)) = true ∧ s.legal (.close n) = true
      ∧ s.atTarget = none ∧ (!s.started.sched && (guardReg (wordCtl (.close n)).pg).any s.started.lockBusy) = false
      ∧ s.started.guard (wordCtl (.close n)).pg = true ∧ 16 ≤ s.cur.queueLen 2 := by decide

theorem test_meets_EngineCheckOrder :
    ((on (.close ⟨0, 0, 32, 0⟩)).semFields ⟨0, 0, 32, 0⟩ (encode (.close ⟨0, 0, 32, 0⟩))).isOk = false
      ∧ ((on (.vadd n 0 1 2)).semFields n (encode (.vadd n 0 1 2)) = .ok (none, none)
          ∧ ∃ e, engSpec (.vadd n 0 1 2) = some (n, e) ∧ (on (.vadd n 0 1 2)).checkNamed e.portTval e.named = some (Cause.illegal, 0))
      ∧ (∃ e, engSpec (.mmode n 1) = some (n, e) ∧ (on (.mmode n 1)).checkNamed e.portTval e.named = none
          ∧ (e.own ((on (.mmode n 1)).modCur fun k => { k with x := [(1, 0xFFFFFFFFFFFFFFFF)] })).isSome = true)
      ∧ ∃ e, engSpec (.close ⟨0, 0, 31, 0⟩) = some (⟨0, 0, 31, 0⟩, e)
          ∧ (((on (.close ⟨0, 0, 31, 0⟩)).modCur fun k => { k with sembase := 10 }).semFields ⟨0, 0, 31, 0⟩ (encode (.close ⟨0, 0, 31, 0⟩))).isOk = false
          ∧ (on (.close ⟨0, 0, 31, 0⟩)).checkNamed e.portTval e.named = none ∧ e.own (on (.close ⟨0, 0, 31, 0⟩)) = none :=
  ⟨by decide, ⟨by decide, _, rfl, by decide⟩, ⟨_, rfl, by decide⟩, _, rfl, by decide⟩

/-- A machine at tick 5 whose strand has the word at the head of the copy queue. -/
def heading (w : QWord) : State := { on (.nop g) fun k => { k with queue := [w] } with z0 := 5 }

theorem test_meets_EngineDispatch :
    (let s := heading (queued 0)
     (s.poll 2).cur.headOf 2 = some (queued 0) ∧ (isKStep (queued 0).instr && mGroup s.cur.mmode != 0) = false
       ∧ (s.poll 2).mayDispatch (queued 0) = true
       ∧ ((s.poll 2).fenceHolds (queued 0) || (s.poll 2).soHolds (queued 0) || (isKStep (queued 0).instr && !(s.poll 2).railUp [s.cur.cell])) = false
       ∧ ((s.poll 2).awaitWord (queued 0)).isSome = true)
      ∧ (let s := heading { queued 0 with enq := 5 }
         (s.poll 2).cur.headOf 2 = some { queued 0 with enq := 5 } ∧ (s.poll 2).mayDispatch { queued 0 with enq := 5 } = false)
      ∧ (heading (queued 0)).cur.headOf 1 = none ∧ (engSpec (queued 0).instr).isSome = true ∧ mForm (queued 0).instr = none
      ∧ (heading (queued 0)).spPass (queued 0).instr = none := by decide

/-- A running word that is done. -/
abbrev done : Running := { word := queued 7, disp := 0, comp := some 0, accept := some 0, xres := some (3, 9), pres := some (2, true), flags := 0x10 }

theorem test_meets_EngineWordCompletion :
    (let s := on (.nop g) fun k => { k with running := [done] }
     s.cur.running.find? (fun r => r.word.seq == 7 && s.engineDone r) = some done)
      ∧ let s := on (.nop g) fun k => { k with running := [{ done with pres := none, psel := some 7 }] }
        s.cur.running.find? (fun r => r.word.seq == 7 && s.engineDone r) = some { done with pres := none, psel := some 7 } := by decide

theorem test_meets_SequencerCompletions :
    isNext (pending (.regs [(6, 1), (7, 0)])) (.regs [(6, 1), (7, 0)]) = true ∧ isNext (pending (.pred 2 true)) (.pred 2 true) = true
      ∧ isNext (pending (.raise 3 1)) (.raise 3 1) = true ∧ isNext (pending (.seminit 3 9)) (.seminit 3 9) = true
      ∧ isNext (pending (.fence 2)) (.fence 2) = true ∧ isNext (pending (.applied [(6, 1)] 0x10 0)) (.applied [(6, 1)] 0x10 0) = true := by decide
theorem test_meets_UnitEvents :
    (let s := on (.nop g) fun k => { k with fetching := [(0x50000, 9), (0x40000, 0)] }
     s.cur.fetching.find? (fun f => decide (f.2 ≤ s.z0)) = some (0x40000, 0) ∧ s.blockOf s.cur.pc = 0x40000)
      ∧ (let s := { State.reset with births := [(tileKey 0 3, some 7)] }
         sget none s.births (tileKey 0 3) = some (7 : Int))
      ∧ (let s := { State.reset with busyTiles := [{ key := tileKey 0 3, last := 4 }], z0 := 13 }
         s.busyTiles.any (fun x => decide (x.until_ < s.z0)) = true ∧ s.z0 ≤ 13)
      ∧ let s := { on (.nop g) fun k => { k with railReq := true } with z0 := 5, power := { due := [(0, 5)] } }
        sget 0 s.power.due (0 * 4 + 0) ≠ 0 ∧ sget 0 s.power.due (0 * 4 + 0) ≤ s.z0 ∧ s.clusterRequested 0 0 = true := by decide +kernel

/-- A receive context on die 0, and a segment for it: landing now, and waiting for its window. -/
def linked (w : Option (Nat × Nat)) (land : Option Nat) : State :=
  { on (.nop g) with
    links := [{ prio := false, vdie := 0, ctx := 1, rx := true, tx := false, cls := 0, peer := 0, hrec := rec4, win := w }]
    segs := [{ id := 3, prio := false, src := 0, srcCell := 0, seq := 0, dst := 0, ctx := 1, bytes := [1, 2], lat := 20, sent := 0, land := land, last := true }] }

/-- The landed segment waits to be performed. -/
def accepted (s : State) : State :=
  { s with segs := s.segs.map fun x => { x with acc := some { due := s.z0, tau := s.z0, hrec := rec4, pos := 0, cell := 0, born := 0 } } }

theorem test_meets_LinkEvents :
    (let s := linked (some (0, 9)) (some 0)
     (s.segs.find? (fun x => x.id == 3 && x.due == some s.z0)).any (fun x => x.acc.isNone) = true ∧ (s.findCtx false 0 1).any LinkCtx.rx = true
       ∧ (s.findCtx false 0 1).any (fun x => (s.launchD false).lock || x.isOpen false (s.z0 - (s.launchD false).l0)) = true)
      ∧ (let s := accepted (linked (some (0, 9)) (some 0))
         (s.segs.find? (fun x => x.id == 3 && x.due == some s.z0)).any (fun x => x.acc.isSome) = true
           ∧ (s.findCtx false 0 1).any (fun x => x.born == 0) = true
           ∧ s.segs.all (fun x => !s.landAfter x && x.acc.all fun a =>
               !(s.focus fun y => y.is false 0 a.cell).landHeld x.writer a.hrec (landParts a.hrec (x.bytes.length + 1) a.pos x.bytes)) = true)
      ∧ (let s := accepted { linked (some (0, 9)) (some 0) with segs := (linked (some (0, 9)) (some 0)).segs.flatMap fun x => [x, { x with id := 4 }] }
         (s.segs.find? (fun x => x.id == 4 && x.due == some s.z0)).any (fun x => x.acc.isSome && s.landAfter x) = true)
      ∧ (let s := inSched (linked none (some 0))
         (s.segs.find? (fun x => x.id == 3 && x.due == some s.z0)).any (fun x => x.acc.isNone) = true ∧ (s.launchOf false).isSome = true
           ∧ (s.findCtx false 0 1).any (fun x => x.rx && !((s.launchD false).lock || x.isOpen false (s.z0 - (s.launchD false).l0))) = true)
      ∧ let s := { linked (some (0, 9)) none with served := 1 }
        (s.segs.find? (fun x => x.id == 3 && s.admits x)).isSome = true := by decide

/-- A strand that has named a rendezvous at tick 5000, or has ended. -/
def met (k : Strand) : Strand := { k with status := .waiting, rdv := some (5000, true, 0) }
def ended (k : Strand) : Strand := { k with status := .ended }
/-- A late event of die 0, of a strand or of the die. -/
abbrev lateEvent (die : Bool) : Late := { vdie := 0, cause := 0x13, tick := 0, dieLevel := die, lstrand := 0, cell := 0, detail := 0 }
/-- The launch with some late events, and with a decided rendezvous. -/
def lateBy (l : List Late) (s : State) : State :=
  s.modLaunch false fun k => { k with lates := l, errAt := (l.find? Late.dieLevel).map Late.tick }
def decided (r : RdvState) (s : State) : State := s.modLaunch false fun k => { k with rdv := r }

theorem test_meets_RendezvousDecision_sched :
    (let s := { inSched (on (.nop g) met) with z0 := 4904 }
     (s.launchOf false).any (fun l => !l.lock && l.runs && !l.checked && l.lates.isEmpty && (s.strandsOf false).all (s.onTime l 5000)
         && decide (5000 ≤ s.z0 - l.l0 + 96)) = true ∧ leastNat (s.named false) = some 5000)
      ∧ (let s := lateBy [lateEvent false] { inSched (on (.nop g) met) with z0 := 4904 }
         (s.launchOf false).any (fun l => !l.lock && l.runs && !l.checked && !l.lates.isEmpty && decide (5000 ≤ s.z0 - l.l0 + 96)) = true
           ∧ leastNat (s.named false) = some 5000)
      ∧ let s := inSched (on (.nop g) ended)
        (s.launchOf false).any (fun l => !l.lock && l.runs && !l.checked && l.lates.isEmpty
          && (s.strandsOf false).all (s.onTime l (s.z0 - l.l0 + 96))) = true ∧ s.named false = [] ∧ s.allOver false = true := by decide

theorem test_meets_RendezvousDecision_lock :
    (let s := on (.nop g) met
     (s.launchOf false).any (fun l => l.lock && l.runs && l.rdv == .none && l.errAt.isNone) = true
       ∧ s.strandsOf false ≠ [] ∧ (s.strandsOf false).all s.arrived = true)
      ∧ (let s := lateBy [lateEvent true] (on (.nop g))
         (s.launchOf false).any (fun l => l.lock && l.runs && l.rdv == .none && l.errAt == some 0) = true)
      ∧ let s := decided (.commit 5000) (lateBy [lateEvent true] (on (.nop g)))
        (s.launchOf false).any (fun l => l.lock && l.runs && l.rdv == .commit 5000 && l.errAt == some 0) = true := by decide

theorem test_meets_CommitRule :
    (let s := decided (.commit 0) (on (.nop g) met)
     s.commitDue false = true ∧ (s.launchOf false).any (fun l => l.lates.isEmpty) = true)
      ∧ let s := decided (.commit 0) (on (.nop g) ended)
        s.commitDue false = true ∧ s.allOver false = true ∧ (s.launchOf false).any (fun l => l.lates.isEmpty) = true := by decide

theorem test_meets_AbortRule :
    ((decided (.abort 0) (on (.nop g))).launchD false).rdv = .abort 0 ∧ 0 ≤ (on (.nop g)).z0
      ∧ (let s := lateBy [lateEvent true] (decided (.commit 0) (on (.nop g) ended))
         s.commitDue false = true ∧ (s.launchD false).lates ≠ [] ∧ s.allOver false = true ∧ (s.launchD false).started = true
           ∧ (s.launchOf false).any (fun l => decide (lateEvent true ∈ l.lates) && l.lates.all fun o => decide (o = lateEvent true)) = true) := by decide

theorem test_meets_ErrorEvents :
    (let s := on (.nop g)
     (s.launchOf false).any (fun l => l.runs && l.lates.isEmpty && (l.vdies.zipIdx.any fun v => v.1.slot == 0 && v.2 == 0)
         && l.vdies.all fun v => v.slot != 13) = true ∧ slotCls 13 = .bd)
      ∧ (let s := on (.nop g)
         s.main.isSome = true ∧ s.prioL.any Launch.runs = false ∧ s.main.any (fun l => l.rdv == .none) = true)
      ∧ let s := decided (.commit 100) (on (.nop g))
        s.main.any (fun l => l.rdv == .commit 100) = true ∧ s.z0 + 96 ≤ 100 := by decide

/-- A package whose firmware is ready. -/
def readied : State := { State.reset with ready := true, dmix := 0x03FFFFFFFFFFFFFF, fw := some ⟨0x03FFFFFFFFFFFFFF, 0, [], [], [], 0x100000000⟩ }

theorem test_meets_LaunchEvent :
    State.reset.ready = false ∧ (readied.ready = true ∧ { readied with regs := { job := 2 } }.mayLaunch 0 = false)
      ∧ ({ readied with launchAt := 1 }.ready = true ∧ { readied with launchAt := 1 }.firstLink = true)
      ∧ (readied.mayLaunch 0 = true ∧ readied.recPrio 0 = false)
      ∧ { readied with mem := [(25, 1)] }.mayLaunch 0 = true ∧ { readied with mem := [(25, 1)] }.recPrio 0 = true := by decide

/-- A launch that was aborted, or waits for a re-run at this tick; a priority launch that waits, or has retired. -/
abbrev waiting : Launch := { lock := true, out := true }

theorem test_meets_PreemptAndRerun :
    ({ on (.nop g) ended with prioL := some waiting }.swapDue = true)
      ∧ { on (.nop g) ended with prioL := some { lock := true, swapAt := some 0 }, z0 := 48 }.swapBackDue = true
      ∧ State.reset.ready = false
      ∧ ({ on (.nop g) ended with ready := true, regs := { job := 5, cause := 0x13 } }.ready = true
          ∧ { on (.nop g) ended with ready := true, regs := { job := 5, cause := 0x13 } }.rerunOk 2048 = true)
      ∧ { on (.nop g) ended with ready := true, regs := { job := 5, cause := 0x13 } }.rerunOk 2047 = false
      ∧ let s := (on (.nop g) ended).modLaunch false fun l => { l with rerunAt := some 0 }
        s.rerunDue true = false ∧ s.rerunDue false = true ∧ (s.applyHealth.rebound none (s.launchD false)).isSome = true
          ∧ ({ s with dmix := 0 }.applyHealth.rebound none (s.launchD false)).isNone = true := by decide

theorem test_meets_OutsideAccesses :
    State.reset.ready = false
      ∧ (let s := { readied with main := some { locked := [(0x40000, 48)], secureRanges := [(0x80000, 16)] } }
         s.ready = true ∧ (anyByte s.secureByte 0x80000 2 || (false && anyByte s.lockedByte 0x80000 2)) = true
           ∧ (anyByte s.secureByte 0x40000 2 || (true && anyByte s.lockedByte 0x40000 2)) = true ∧ anyByte s.secureByte 0x1000 2 = false
           ∧ anyByte s.lockedByte 0x1000 2 = false ∧ 0x1000 + 2 ≤ s.hbmTop ∧ anyByte (fun k => !s.answers k) 0x1000 2 = false
           ∧ s.outWaits false 0x1000 2 = false)
      ∧ (0x018 : BitVec 12) ≠ 0x008 ∧ { State.reset with reads := [(0, 0x018)] }.due = .read := by decide

/-- A machine at tick 3 in which a partial rewrite keeps a tile of slot 3 busy. -/
def busyTile : State := { readied with z0 := 3, busyTiles := [{ key := tileKey 3 0, last := 0 }] }

theorem test_meets_OutsideAccesses_window :
    inWindows (winBase 3 + 0x10000000) = true ∧ anyByte (fun k => !readied.answers k) (winBase 3) 2 = false
      ∧ readied.outWaits false (winBase 3) 2 = false ∧ readied.outExpired (winBase 3) 2 = false
      ∧ busyTile.outWaits true (winBase 3 + 0x10000000) 2 = true
      ∧ anyByte busyTile.secureByte (winBase 3 + 0x10000000) 2 = false ∧ anyByte busyTile.lockedByte (winBase 3 + 0x10000000) 2 = false
      ∧ let s := on (.nop g)
        anyByte (fun k => !s.answers k) (winBase s.slotNo + 0x10000000) 2 = false ∧ s.outWaits false (winBase s.slotNo + 0x10000000) 2 = false
          ∧ s.outExpired (winBase s.slotNo + 0x10000000) 2 = true ∧ s.cur.status ≠ .idle ∧ s.cur.out = false := by decide

/-- An entry of the translation cache, and a launch that uses it. -/
abbrev cached (stale : Bool) : CacheEnt := { key := 5, cls := .md, step := 0, emask := 3, image := [1], stale := stale }

theorem test_meets_ResetAndFirmware : ((cached false).emask = 3 ∧ (cached false).stale = false
      ∧ { readied with main := some { cached := [(5, .md, 3)] }, cache := [cached true] }.usesCache (cached true) = true)
    ∧ State.reset.ready = false ∧ readied.fw = some ⟨0x03FFFFFFFFFFFFFF, 0, [], [], [], 0x100000000⟩ := by decide

theorem test_meets_PowerEvents :
    let s := { State.reset with z0 := 8192, power := { demands := [⟨0, 3, 80, 1⟩, ⟨1, 4, 90, 2⟩, ⟨2, 0, 60, 0⟩] } }
    s.z0 % 8192 = 0 ∧ (∃ d ∈ s.power.demands, d.kind ≠ 2) ∧ (∀ d ∈ [(⟨2, 0, 60, 0⟩ : Demand)], d.kind = 2) ∧ 65 ≤ 65 ∧ 128 ≤ 128 ∧ 56 ≤ 56 ∧ 63 ≤ 63 := by
  decide

theorem test_meets_PhysicalMap :
    0x005FFFFFFFFF < readied.hbmTop ∧ readied.placeOf 0x005FFFFFFFFF = .hbm 16 ∧ readied.placeOf 0x800000000000 = .host 19
      ∧ readied.placeOf 0xC00000000000 = .host 20 ∧ 0x2FFFFF < readied.capss 0 ∧ clsCells (slotCls 8) = 16
      ∧ readied.placeOf (winBase 8 + 0x04000000 + 15 * 0x10000 + 0xFFFF) = .acc 8 15 0xFFFF ∧ readied.placeOf (winBase 20 + 0x08000000 + 0x3FFFF) = .sync 20 0x3FFFF
      ∧ readied.placeOf (winBase 0 + 0x10000000 + (clsTiles (slotCls 0) - 1) * 4096 + 4095) = .tile 0 (clsTiles (slotCls 0) - 1) 4095
      ∧ readied.placeOf (winBase 0 + 0x04100000 + 15 * 0x40 + 0x3F) = .inbox 0 15 0x3F := by decide

theorem test_meets_StepKeepsCanonical : Memory.wf atAddi.mem = true ∧ answers (step atAddi) = true := by decide

/-! ### More of them: the clauses beside the first of their statements -/

theorem test_meets_WordChecksTrap_prefix :
    let v := 0xFC01_0000_0001#48
    let s := State.reset.placeWord v
    s.due = .issue (false, 0, 0) ∧ (s.focusWho (false, 0, 0)).fetchFails (s.focusWho (false, 0, 0)).cur.pc = none
      ∧ (s.focusWho (false, 0, 0)).resident ((s.focusWho (false, 0, 0)).blockOf (s.focusWho (false, 0, 0)).cur.pc) = true
      ∧ (s.focusWho (false, 0, 0)).fetchWord (s.focusWho (false, 0, 0)).cur.pc = some v ∧ (s.focusWho (false, 0, 0)).unitWord v = some v
      ∧ (decode v).isOk = false ∧ isPrefixWord v = true ∧ isPrefixWord 0#48 = false := by decide

theorem test_meets_WordChecksTrap_class :
    let s := on (.baskPref ⟨1, 0⟩ 2)
    (Instr.baskPref ⟨1, 0⟩ 2).isEvent = false ∧ s.cur.status = .running ∧ unitPresent s.vd.cls (encode (.baskPref ⟨1, 0⟩ 2)) = true
      ∧ fitsClass s.vd.cls (.baskPref ⟨1, 0⟩ 2) = false
      ∧ (on (.jal g 1 1) fun k => { k with pfx := some { first := 0x3FFFA, word := encode (.rpt 3 1 1 0), rpt := some ⟨3, 1, 1, 0⟩ } }).cur.pfxOk
          (encode (.jal g 1 1)) = false := by decide

/-- A strand at the last word of the entries of its loop stack, with those counts left. -/
def bodyEnd (l : List Nat) : State := on (.nop g) fun k => { k with loops := l.map fun n => ⟨0x3FFF4, 0x40000, n⟩ }

/-- R127: the inner entry is popped, the outer one goes back; with none left the next word follows. -/
theorem test_meets_NextUnit_loop_back :
    (bodyEnd [1, 4]).cur.pfx = none ∧ ((bodyEnd [1, 4]).advance 0).cur.pc = 0x3FFF4
      ∧ ((bodyEnd [1, 4]).advance 0).cur.loops = [⟨0x3FFF4, 0x40000, 3⟩]
      ∧ ((bodyEnd [1, 1]).advance 0).cur.pc = 0x40006 ∧ ((bodyEnd [1, 1]).advance 0).cur.loops = [] := by decide

/-- A LOOP word with the words of its body after it. -/
def looped (i : Instr) (ws : List (BitVec 48)) (f : Strand → Strand) : State :=
  let s := on i f
  { s with mem := wrMems s.mem 0x40006 (ws.flatMap fun w => leBytes 6 w.toNat) }

/-- The same at a LOOP with count 0, over a matrix word and a NOP. -/
abbrev passer (l : List LoopEnt) : State := looped (.loop g 1 9) [encode (.mzero n 0), encode (.nop g)] fun k => { k with loops := l }

theorem test_meets_NopAndLoop_over :
    Issues (.loop g 1 9) { reads := [9] } (passer []) ∧ (passer []).started.rx 9 = 0
      ∧ (passer []).started.fetchWord 0x40006 = some (encode (.mzero n 0)) ∧ (passer []).started.fetchWord 0x4000C = some (encode (.nop g))
      ∧ (passer []).started.fetchFails 0x40006 = none ∧ (passer []).started.fetchFails 0x4000C = none := by decide

theorem test_meets_NopAndLoop_inner :
    Issues (.loop g 1 9) { reads := [9] } (passer [⟨0x3FFF4, 0x40006, 1⟩]) ∧ (passer [⟨0x3FFF4, 0x40006, 1⟩]).started.rx 9 = 0
      ∧ Issues (.loop g 1 9) { reads := [9] } (passer [⟨0x3FFF4, 0x40006, 2⟩, entry]) ∧ (passer [⟨0x3FFF4, 0x40006, 2⟩, entry]).started.rx 9 = 0 := by
  decide

theorem test_meets_NopAndLoop_words :
    isPrefixWord (encode (.mzero n 0)) = false ∧ unitPresent .md (encode (.mzero n 0)) = true ∧ (Instr.mzero n 0).wf = true
      ∧ fitsClass .md (.mzero n 0) = true ∧ 0x20 ≤ majOf (.mzero n 0) ∧ majOf (.mzero n 0) ≤ 0x23 := by decide

theorem test_meets_NopAndLoop_fault :
    let s := looped (.loop g 0 9) [0] id
    Issues (.loop g 0 9) { reads := [9] } s ∧ s.started.rx 9 = 0 ∧ s.cur.loops = [] ∧ s.started.fetchWord 0x40006 = some 0
      ∧ isPrefixWord 0#48 = false ∧ s.started.fetchFails 0x40006 = none
      ∧ ((s.started.modCur fun k => { k with pfx := none }).unitFault 0).isSome = true := by decide

theorem test_meets_NopAndLoop_prefix :
    let s := looped (.loop g 0 1) [encode (.atTick 4)] regs
    Issues (.loop g 0 1) { reads := [1] } s ∧ s.started.rx 1 ≠ 0 ∧ s.started.fetchWord 0x40006 = some (encode (.atTick 4))
      ∧ isPrefixWord (encode (.atTick 4)) = true := by decide

/-- The strand with one operation that is performed next, in slot 0. -/
def storing (acc : Acc) (bytes : List Byte) : State := pending (.store acc bytes 0x123)

theorem test_meets_AccessCompletion_others :
    isNext (pending (.loaded (.h 5) (List.replicate 32 7) false 0)) (.loaded (.h 5) (List.replicate 32 7) false 0) = true
      ∧ (isNext (pending (.loaded (.x 5 2 false) [0, 0] true 0x123)) (.loaded (.x 5 2 false) [0, 0] true 0x123) = true
          ∧ (pending .port).cur.status = .running)
      ∧ (isNext (storing ⟨0x50000, true, false, true⟩ [1, 2]) (.store ⟨0x50000, true, false, true⟩ [1, 2] 0x123) = true
          ∧ (pending .port).refuses ⟨0x50000, true, false, true⟩ = false ∧ ((pending .port).placeOf 0x50000).heldKind = true)
      ∧ (isNext (storing ⟨winBase 0 + 0x04100008, false, false, true⟩ [1, 2]) (.store ⟨winBase 0 + 0x04100008, false, false, true⟩ [1, 2] 0x123) = true
          ∧ (pending .port).placeOf (winBase 0 + 0x04100008) = .inbox 0 0 8 ∧ (pending .port).others.any Strand.inboxOut = false)
      ∧ isNext (storing ⟨0x200000000000, false, false, false⟩ [1, 2]) (.store ⟨0x200000000000, false, false, false⟩ [1, 2] 0x123) = true
      ∧ (pending .port).refuses ⟨0x200000000000, false, false, false⟩ = true
      ∧ (pending .port).refuses ⟨0x50000, false, false, true⟩ = false ∧ (pending .port).refuses ⟨winBase 0 + 4, false, false, true⟩ = false := by decide

/-- A machine at tick 20 in which tile 2 of slot 0 has lived since tick 3 and tile 0 has expired, and that holds a byte for commit. -/
def aged : State := { paged (on (.nop g)) with z0 := 20, births := [(tileKey 0 2, some 3)], held := [(heldKey false 0 0x50001, some 9)] }

theorem test_meets_AccessSampling :
    (aged.answers 0x50000 = true ∧ aged.answers 0x200000000000 = false ∧ (aged.placeOf 0x50001).heldKind = true
        ∧ sget none aged.held (heldKey aged.cur.prio aged.cur.vdie 0x50001) = some 9
        ∧ sget none aged.held (heldKey aged.cur.prio aged.cur.vdie 0x50000) = none ∧ (aged.placeOf (winBase 0 + 4)).heldKind = false)
      ∧ (aged.placeOf (winBase 0 + 0x10000000) = .tile 0 0 0 ∧ aged.liveAt (tileKey 0 0) aged.z0 = false
          ∧ aged.placeOf (winBase 0 + 0x10002004) = .tile 0 2 4 ∧ aged.liveAt (tileKey 0 2) aged.z0 = true)
      ∧ (∀ t ∈ [0, 2], aged.sessOn (tileKey 0 t) = none ∧ aged.endedOn (tileKey 0 t) = none)
      ∧ aged.refuses ⟨winBase 0 + 0x10002004, false, false, true⟩ = false := by decide

theorem test_meets_AccessSampling_ops :
    (let o : PendOp := { seq := 4, due := 20, act := .sample (.x 5 2 true) ⟨0x50000, false, false, true⟩ 2 22 0x50000 }
     ∃ s : State, o ∈ s.cur.pend)
      ∧ let o : PendOp := { seq := 4, due := 20, act := .store ⟨winBase 0 + 0x10002004, false, false, true⟩ [1, 2] 0x70000 }
        ∃ s : State, Memory.wf s.mem = true ∧ o ∈ s.cur.pend :=
  ⟨⟨aged.modCur fun k => { k with pend := [_] }, List.mem_singleton_self _⟩,
    aged.modCur (fun k => { k with pend := [_] }), by decide, List.mem_singleton_self _⟩

theorem test_meets_CsrValues :
    (on (.nop g)).cur.vdie < 32 ∧ (on (.nop g)).vd.bindGen < 256
      ∧ (let s := on (.nop g) fun k => { k with queue := [{ queue := 2, seq := 0, instr := .close n, pc := 0, enq := 0, pins := 3 }] }
         ((s.cur.queue ++ s.cur.running.map Running.word).map QWord.pins).sum = 3
           ∧ ((s.cur.queue ++ s.cur.running.map Running.word).filter fun w => w.pins != 0).length = 1) := by decide

theorem test_meets_TrapWord_handled :
    (let s := handled (.trap g 17)
     Issues (.trap g 17) {} s ∧ s.cur.drained = true ∧ s.unhandled { code := 0x0E, tval := 0#52 ++ 17#12, tpc := some (s.cur.pc + 6) } = false)
      ∧ let s := inSched (on (.trap g 17))
        Issues (.trap g 17) {} s ∧ s.sched = true ∧ (s.launchOf s.cur.prio).isSome = true := by decide

theorem test_meets_TrapEntry_waits :
    (let s := (handled (.nop g)).modCur fun k => { k with pend := [{ seq := 0, due := 9, act := .port }] }
     s.unhandled { code := 1, tval := 0, tpc := none } = false ∧ s.cur.drained = false)
      ∧ (let s := on (.nop g) (fun k => { k with status := .ended })
         s.unhandled { code := 1, tval := 0, tpc := none } = true ∧ s.cur.status = .ended)
      ∧ let s := on (.nop g) fun k => { k with asyncs := [{ code := 8, tval := 3, tpc := none }] }
        s.cur.status = .running ∧ s.unhandled { code := 8, tval := 3, tpc := none } = true ∧ s.launch.secure = false := by decide

theorem test_meets_HandleWords_others :
    (∃ r, handleRow (.hset g 5 1 9) = some r ∧ ready (.hset g 5 1 9) r.use) ∧ (∃ r, handleRow (.hcpy g 5 1) = some r ∧ ready (.hcpy g 5 1) r.use)
      ∧ ∃ r, handleRow (.hclr g 5) = some r ∧ ready (.hclr g 5) r.use := ⟨⟨_, rfl, by decide⟩, ⟨_, rfl, by decide⟩, _, rfl, by decide⟩

theorem test_meets_ScalarAccessWords_tiles :
    (on (.nop g)).answers 0x200000000000 = false ∧ (on (.nop g)).answers (winBase 0 + 0x10000000) = true
      ∧ (on (.nop g)).inTile (winBase 0 + 0x10000000) = true ∧ (on (.nop g)).placeOf (winBase 0 + 0x10000000) = .tile 0 0 0
      ∧ (on (.nop g)).answers (winBase 9 + 0x08000000) = true ∧ (on (.nop g)).placeOf (winBase 9 + 0x08000000) = .sync 9 0 := by decide

/-- A machine whose h4 and h5 hold a record, and what its copy of h5 to h4 passes before its operands are checked. -/
def handles (r : HRec) : State := paged (on (.cpy n 4 5 0) fun k => { k with h := [(4, r), (5, r)] })
abbrev copySp : EngSpec := copySpec (.cpy n 4 5 0) false 4 5 0
abbrev Passes (s : State) : Prop :=
  s.semFields n (encode (.cpy n 4 5 0)) = .ok (none, none) ∧ s.checkNamed copySp.portTval copySp.named = none ∧ copySp.own s = none
    ∧ copySp.priv s = none

theorem test_meets_EngineCheckOrder_operands :
    engSpec (.cpy n 4 5 0) = some (n, copySp) ∧ Passes (handles rec4) ∧ (handles rec4).checkOpnds (.cpy n 4 5 0) (copySp.opnds (handles rec4)) = .ok ([1, 1], false)
      ∧ copySp.after (handles rec4) = none ∧ (handles rec4).cellPins + 2 ≤ 8192
      ∧ Passes (handles (rec4 + 1)) ∧ ((handles (rec4 + 1)).checkOpnds (.cpy n 4 5 0) (copySp.opnds (handles (rec4 + 1)))).isOk = false :=
  ⟨rfl, by decide⟩

theorem test_meets_EngineCheckOrder_pins :
    let s := (handles rec4).modCur fun k => { k with queue := [{ queue := 2, seq := 0, instr := .close n, pc := 0, enq := 0, pins := 8191 }] }
    Passes s ∧ s.checkOpnds (.cpy n 4 5 0) (copySp.opnds s) = .ok ([1, 1], false) ∧ 8192 < s.cellPins + 2 := by decide

theorem test_meets_EngineCheckOrder_own :
    (let s := (on (.mzero n 1)).modLaunch false fun l => { l with ctx1 := { semn := 1 } }
     s.semFields n (encode (.mzero n 1)) = .ok (none, none) ∧ ∃ e, engSpec (.mzero n 1) = some (n, e) ∧ s.checkNamed e.portTval e.named = none
       ∧ e.own s = none ∧ (e.priv s).isSome = true)
      ∧ let s := on (.lctxS n 1 2) fun k => { k with x := [(2, 7)] }
        s.semFields n (encode (.lctxS n 1 2)) = .ok (none, none) ∧ ∃ e, engSpec (.lctxS n 1 2) = some (n, e)
          ∧ s.checkNamed e.portTval e.named = none ∧ e.own s = none ∧ e.priv s = none ∧ s.checkOpnds (.lctxS n 1 2) (e.opnds s) = .ok ([], false)
          ∧ (e.after s).isSome = true :=
  ⟨⟨by decide, _, rfl, by decide⟩, by decide, _, rfl, by decide⟩

/-- An operand of 64 elements of FP32 in a space, from a base on. -/
abbrev opnd (space base : Nat) : Opnd :=
  let h : HRec := rec4 - 0x50000 + BitVec.ofNat 256 (base + space <<< 54)
  { fld := 0, h := h, ranges := hSweep h, rd := true, wr := false, far := false }

theorem test_meets_EngineCheckOrder_spaces :
    hMisaligned (opnd 0 1).h = true ∧ (hMisaligned (opnd 3 0).h = false ∧ hSpace (opnd 3 0).h = 3 ∧ (opnd 3 0).far = false)
      ∧ (let s := (on (.nop g)).modLaunch false fun l => { l with ctx0 := { sprow0 := 0, sprows := 1 } }
         hMisaligned (opnd 1 0x180000).h = false ∧ hSpace (opnd 1 0x180000).h = 1 ∧ hSpace (opnd 2 4096).h = 2
           ∧ (lowestOutside (opnd 1 0x400000).ranges 0 (s.capss s.slotNo)).isSome = true
           ∧ lowestOutside (opnd 1 6144).ranges 0 (s.capss s.slotNo) = none
           ∧ (lowestOutside (opnd 1 6144).ranges ((s.ctx.sprow0 * 6144 : Nat) : Int) (((s.ctx.sprow0 + s.ctx.sprows) * 6144 : Nat) : Int)).isSome = true
           ∧ (lowestOutside (opnd 2 0x8000000).ranges 0 ((clsTiles s.vd.cls * 4096 : Nat) : Int)).isSome = true
           ∧ lowestOutside (opnd 2 4096).ranges 0 ((clsTiles s.vd.cls * 4096 : Nat) : Int) = none
           ∧ (lowestOutside (opnd 2 4096).ranges ((s.ctx.ftile0 * 4096 : Nat) : Int)
               (((s.ctx.ftile0 + s.ctx.ftiles) * 4096 : Nat) : Int)).isSome = true) := by decide

theorem test_meets_EngineDispatch_held :
    (let s := (heading { queued 1 with instr := .cpy n 4 5 0 }).modCur fun k => { k with fences := [{ seq := 0, suc := 0x3FF }] }
     let w := { queued 1 with instr := .cpy n 4 5 0 }
     (s.poll 2).cur.headOf 2 = some w ∧ (s.poll 2).mayDispatch w = true ∧ (s.poll 2).fenceHolds w = true)
      ∧ let w := { queued 0 with sw := some 9 }
        let s := heading w
        (s.poll 2).cur.headOf 2 = some w ∧ (s.poll 2).mayDispatch w = true ∧ (s.poll 2).awaitWord w = none := by decide

theorem test_meets_DispatchEffects_fchk : ∃ k ∈ tilesOf ({ queued 0 with recs := [(1, (opnd 2 4096).h)] }.rec_ 1), aged.liveAt (tileKey 0 k) 20 = false :=
  ⟨1, by decide, by decide⟩

theorem test_meets_AtomicApply_pair :
    let a := { atom 0 with so := true }
    let s := { pending .atomic with atoms := [a, atom 1] }
    s.atomDue a = true ∧ s.atomDue (atom 1) = true ∧ a.before (atom 1) = true ∧ a.single = true ∧ a.phys = (atom 1).phys ∧ 0 < a.bytes
      ∧ (s.launchOf a.prio).isSome = true := by decide

/-- A receive context of scratchpad: 256 bytes of FP32 from 64 on. -/
abbrev spRec : HRec := 64 + (1 <<< 54) + (1 <<< 56) + (64 <<< 64) + (1 <<< 80) + (1 <<< 96) + (1 <<< 112)
/-- A segment that has been accepted there, and its parts. -/
def landing (served : Bool) : State :=
  let s := accepted (linked (some (0, 9)) (some 0))
  { s with segs := s.segs.map fun x => { x with acc := some { due := s.z0, tau := s.z0, hrec := spRec, pos := 0, cell := 0, born := 0, served := served } } }
abbrev parts : List (Int × List Byte) := landParts spRec 3 0 [1, 2]

theorem test_meets_LinkEvents_bytes :
    let s := landing true
    let t := s.focus fun y => y.is false 0 0
    (s.segs.find? (fun x => x.id == 3 && x.due == some s.z0)).any (fun x => !s.landAfter x && !t.landHeld x.writer spRec parts) = true
      ∧ t.cur.is false 0 0 = true ∧ hBcast spRec 0 = false ∧ parts = [(64, [1, 2])]
      ∧ t.refuses (t.reach (hSpace spRec) 64) = false ∧ t.placeOf (t.reach (hSpace spRec) 64).phys = .scratch 0 0 64 := by decide

theorem test_meets_LinkEvents_banks :
    let s := { landing false with banks := [(bankOf (((landing false).landGrans spRec parts).headD 0), 1)] }
    let t := s.focus fun y => y.is false 0 0
    (s.segs.find? (fun x => x.id == 3 && x.due == some s.z0)).any (fun x => !s.landAfter x && !t.landHeld x.writer spRec parts) = true
      ∧ s.z0 < (t.landBanks spRec parts).2 := by decide

theorem test_meets_LinkEvents_late :
    (let s := inSched (linked none (some 0))
     s.cur.is false 0 ((s.findCtx false 0 1).elim 9 LinkCtx.cell) = true ∧ s.cur.out = false ∧ s.cur.status = .running) := by decide

theorem test_meets_RendezvousDecision_error :
    let s := (lateBy [lateEvent true] (on (.nop g))).modLaunch false fun l => { l with out := true }
    (s.launchOf false).any (fun l => l.lock && l.started && l.errAt == some 0 && l.rdv == .none && !l.runs) = true := by decide

theorem test_meets_CommitRule_canonical :
    let s := { on (.nop g) with held := [(heldKey false 0 0x50001, some 9), (heldKey false 2 0x50001, some 7)] }
    swf none s.held = true ∧ sget none s.held (heldKey false 2 0x50001) = some 7 := by decide

theorem test_meets_ErrorEvents_stagger :
    (on (.nop g)).main.any (fun l => l.started && decide (∀ v ∈ l.vdies, v.slot ≠ 13)) = true
      ∧ (let s := { inSched (on (.nop g) met) with z0 := 5000 }
         s.main.any (fun l => l.rdv == .none && !(l.lock || decide (s.z0 - l.l0 + 96 ≤ 5000))) = true ∧ leastNat (s.named false) = some 5000)
      ∧ (on (.nop g)).named false = [] ∧ (decided (.abort 100) (on (.nop g))).main.any (fun l => l.rdv == .abort 100) = true
      ∧ (decided (.commit 90) (on (.nop g))).main.any (fun l => l.rdv == .commit 90) = true ∧ ¬ (on (.nop g)).z0 + 96 ≤ 90 := by decide

theorem test_meets_PreemptAndRerun_request :
    let s := { on (.nop g) ended with ready := true, regs := { job := 5, cause := 0x13 } }
    s.rerunOk 2048 = true ∧ s.rerunPrio = false ∧ (s.launchOf false).isSome = true
      ∧ (s.applyHealth.rebound (s.applyHealth.rerunSlots false) (s.launchD false)).isSome = true
      ∧ ({ s with dmix := 0 }.rerunOk 2048 = true ∧ ({ s with dmix := 0 }.applyHealth.rebound ({ s with dmix := 0 }.applyHealth.rerunSlots false) (s.launchD false)).isNone = true)
      ∧ let p := { on (.nop g) ended with prioL := some { lock := true, started := true, rerunAt := some 0 } }
        p.rerunDue true = true ∧ (p.applyHealth.rebound (p.applyHealth.rerunSlots true) (p.launchD true)).isSome = true := by decide

theorem test_meets_PowerEvents_draw :
    let s := { State.reset with z0 := 8192, power := { draw := some 5, demands := [⟨2, 0, 60, 0⟩] } }
    s.z0 % 8192 = 0 ∧ s.power.draw = some 5 := by decide

theorem test_meets_StepKeepsStrandBounds :
    (∀ c ∈ atAddi.allStrands, c.loops.length ≤ 2 ∧ c.savedLoops.length ≤ 2) ∧ atAddi.cur.queue = [] ∧ swf none atAddi.held = true
      ∧ swf none atAddi.births = true ∧ answers (step atAddi) = true := by decide

/-- A dispatched word on a machine, at given counters. -/
abbrev run (s : State) (i : Instr) (recs : List (Nat × HRec)) (st : Steps) : Run :=
  { s := s, w := { word := { queued 0 with instr := i, recs := recs }, disp := 0, st := st } }

theorem test_meets_DataMovementEffects_spans :
    hBcast rec4 0 = false ∧ 0 < copyRun rec4 ∧ (List.replicate 8 3).length = 1 * elemNibs (hFmt rec4) ∧ (∀ v ∈ List.replicate 8 3, v < 16)
      ∧ (run aged (.cpy n 4 5 0) [] {}).w.outs = [] ∧ 512 * 0 < copyTotal rec4
      ∧ 512 * 1 < copyTotal (rec4 + (448 <<< 64)) := by decide

/-- A table of four rows of 64 elements of FP32, or of INT32, and the lanes of a popped index vector. -/
abbrev rows (fmt : Nat) : HRec := rec4 - (1 <<< 56) + BitVec.ofNat 256 (fmt <<< 56) + (3 <<< 80) + (256 <<< 128)
abbrev lanes : Steps := { k := 1, i := 0, buf := [(3, [some (2, 0), some (2, 0), some (9, 0), none])] }

theorem test_meets_DataMovementEffects_gather :
    (run aged (.gath n 4 5 3 0) [(0, rec4), (1, rows 1)] {}).w.popsIndex = true ∧ copyRun (rows 1) = 64 ∧ copyRun rec4 = 64
      ∧ elemNibs (hFmt rec4) = elemNibs (hFmt (rows 1)) ∧ (run aged (.gath n 4 5 3 0) [(0, rec4), (1, rows 1)] lanes).w.popsIndex = false
      ∧ rowOf (rows 1) ((lanesOf lanes.buf 3).getD 1 none) = some 2 ∧ rowOf (rows 1) ((lanesOf lanes.buf 3).getD 2 none) = none
      ∧ (gatherWant .gath 3 (run aged (.gath n 4 5 3 0) [(0, rec4), (1, rows 1)] lanes)).length = 1
      ∧ (gatherWant .scat 3 (run aged (.scat n 4 5 3 0) [(0, rows 1), (1, rec4)] lanes)).length = 1
      ∧ (gatherWant .scatadd 3 (run aged (.scatadd n 4 5 3 0) [(0, rows 1), (1, rec4)] lanes)).length = 2 := by decide

/-- R193: 2^31 − 1 and 1 wrap to −2^31, and FP32 1 and 1 make 2. -/
theorem test_add_runs :
    addRuns 0x04 [15, 15, 15, 15, 15, 15, 15, 7] [1, 0, 0, 0, 0, 0, 0, 0] = ([0, 0, 0, 0, 0, 0, 0, 8], 0)
      ∧ addRuns 0x01 [0, 0, 0, 0, 0, 8, 15, 3] [0, 0, 0, 0, 0, 8, 15, 3] = ([0, 0, 0, 0, 0, 0, 0, 4], 0) := by decide

theorem test_meets_DataMovementEffects_renew :
    renewTile (run aged (.frenew n 5 0) [(1, (opnd 2 (2 * 4096)).h)] {}) = some (tileKey 0 2) ∧ (20 : Int) < aged.birthZ (tileKey 0 2) + 2 ^ 20 - 8
      ∧ renewTile (run aged (.frenew n 5 0) [(1, (opnd 2 4096).h)] {}) = some (tileKey 0 1) ∧ aged.birthZ (tileKey 0 1) + 2 ^ 20 - 8 ≤ 20 := by decide

theorem test_meets_DataMovementEffects_accesses :
    ((aged.reach 1 64).answers = true ∧ aged.tileAt 1 64 = none ∧ (aged.reach 2 8192).answers = true ∧ aged.tileAt 2 8192 = some (tileKey 0 2, 0)
        ∧ aged.liveAt (tileKey 0 2) aged.z0 = true ∧ aged.tileAt 2 4096 = some (tileKey 0 1, 0) ∧ aged.liveAt (tileKey 0 1) aged.z0 = false
        ∧ aged.ownSess (run aged (.close n) [] {}).writer (tileKey 0 1) = false ∧ (aged.reach 3 0x200000000000).answers = false)
      ∧ aged.refuses (aged.reach 1 64) = false ∧ aged.placeOf (aged.reach 1 64).phys = .scratch 0 0 64
      ∧ aged.refuses (aged.reach 0 0x50000) = false ∧ (aged.placeOf (aged.reach 0 0x50000).phys).heldKind = true ∧ (aged.reach 0 0x50000).so = false
      ∧ aged.heldRoom (aged.reach 0 0x50000).phys = true := by decide

/-- Where a scratchpad address of the cell leads to does not hang on memory. -/
theorem reach_scratch (s t : State) (a : Int) (hc : t.comp = s.comp) (hd : t.dmix = s.dmix) (hn : t.slotNo = s.slotNo)
    (hk : t.cur.cell = s.cur.cell) : t.reach 1 a = s.reach 1 a := by
  have h0 : ∀ k, t.capss k = s.capss k := fun k => by unfold State.capss; rw [hd]
  have h1 : t.spBase = s.spBase := by unfold State.spBase; rw [hn, hk]
  have h4 : t.nBD = s.nBD := by unfold State.nBD; rw [hc]
  have h5 : t.hbmTop = s.hbmTop := by unfold State.hbmTop; rw [h4]
  have h6 : ∀ k o, windowPlace t k o = windowPlace s k o := fun k o => by unfold windowPlace; rw [hd]; simp only [h0]
  have h2 : ∀ k, t.placeOf k = s.placeOf k := fun k => by unfold State.placeOf; simp only [h4, h5, h6, hd]
  have h3 : ∀ k, t.answers k = s.answers k := fun k => by simp only [State.answers, h2, State.good, hd]
  simp [State.reach, State.localPhys, h1, h3]

theorem test_meets_DataMovementEffects_scratch (m : Memory) : ({ aged with mem := m } : State).reach 1 64 = aged.reach 1 64 :=
  reach_scratch aged { aged with mem := m } 64 rfl rfl rfl rfl

/-- R198: two chunks of R 3 and T 5 pop 3 and 6 ticks on, and the K-steps of the second follow those of the first. -/
theorem test_chunk_times : chunkTimes 3 5 2 0 0 0 0 = ([(0, 0, 3), (1, 3, 8)], 13) := by decide

theorem test_meets_MatrixEffects_ksteps :
    (∀ x ∈ [(((3, 0), (4, 0)) : Lane × Lane)], x.1.2 = 0 ∧ x.2.2 = 0) ∧ kstep .int 6 7 false (0, 0) 5 [((3, 0), (4, 0))] = (17, 0)
      ∧ ((opNum 1 (0x3F800000, 0)).isFin = true ∧ kstep .flt 1 1 false (0, 0) 0x3F800000 [((0x3F800000, 0), (0x40000000, 0))] = (0x40400000, 0)) := by
  decide

/-- R206: (−5 + 2) × 3 / 2 is −4.5, −4 to nearest even; 4 more is 0. -/
theorem test_meets_MatrixEffects_drain :
    let r : BitVec 128 := 3 + (1 <<< 32) + (2 <<< 64) + (4 <<< 96)
    drainElem 0x06 0 r 0xFFFFFFFB = (0, flagNX)
      ∧ (fF32.decode 0x3F800000).isFin = true ∧ (fF32.decode (BitVec.extractLsb' 64 32 (0x40000000 : BitVec 128)).toNat).isFin = true
      ∧ (fF32.decode (BitVec.extractLsb' 0 32 (0x40000000 : BitVec 128)).toNat).isFin = true
      ∧ drainElem 0x02 0 0x40000000 0x3F800000 = (0x4000, 0) := by decide

theorem test_meets_MatrixEffects_sums :
    let r : Run := { run aged (.msum n 0 0 3 0 0) [] {} with w := { (run aged (.msum n 0 0 3 0 0) [] {}).w with fig := { rate := 4, rd := 2 } } }
    r.w.time < r.w.fig.rd * r.w.fig.rate ∧ ((gang 3 1).filter fun q => decide (0 < hExt (r.s.portRec q) 1)).length = 0
      ∧ [(7 : Int)].length ≤ 64 ∧ ({ r with w := { r.w with wt := 8 } } : Run).w.fig.rd * r.w.fig.rate ≤ ({ r with w := { r.w with wt := 8 } } : Run).w.time
      ∧ hBcast (aged.portRec 3) 0 = false ∧ ([(1, 5), (2, 6)].map Prod.fst : List Nat).Nodup := by decide

theorem test_meets_FloatVectorEffects_codes :
    ((fF16.encode .rne false (.fin false 5 (-1))).2 &&& flagOF = 0 ∧ (Sys2Proof.Machine.Num.fin false 5 (-1)).isFin = true)
      ∧ (fF16.encode .rne false (.fin true 1 16)).2 &&& flagOF ≠ 0 ∧ (fF32.decode 0x7FC00000).isNan = true
      ∧ fF32.decode 0xFF800000 = .inf true ∧ fF32.decode 0x7F800000 = .inf !true ∧ (fF32.decode 0x80000000).isFin = true
      ∧ (ffmtOf 0x02).isSome = true ∧ (ffmtOf 0x03).isSome = true := by decide

/-- R229: infinity less infinity, and zero times infinity, and 1 + 2 = 3 in FP32. -/
theorem test_float_lanes :
    binLane .sub 0x01 0x7F800000 0x7F800000 = (0x7FC00000, flagNV) ∧ fmaLane false false 0x01 0xFF800000 0 0 = (0x7FC00000, flagNV)
      ∧ binLane .add 0x01 0x3F800000 0x40000000 = (0x40400000, 0) := by decide

/-- Ports 0 to 2 sweep 64 elements of FP32 in scratchpad. -/
def vecState : State := aged.modCur fun k => { k with q := [(0, ⟨spRec, 0, true⟩), (1, ⟨spRec, 0, true⟩), (2, ⟨spRec, 0, true⟩)] }

theorem test_meets_FloatVectorEffects_step :
    let f := vf2 (.bin .add) 2 0 1
    let hd := vecState.portRec (f.dst.headD 0)
    (laneRow (hFmt hd) (hFmt (vecState.portRec (f.src.headD 0))) 0 0 f.kind).isSome = true ∧ f.src ≠ [] ∧ f.dst.headD 0 ∉ f.src
      ∧ fmtBlock (hFmt hd) = false ∧ (∀ q ∈ f.src, fmtBlock (hFmt (vecState.portRec q)) = false)
      ∧ (∀ q ∈ f.src, fmtLanes (hFmt (vecState.portRec q)) = fmtLanes (hFmt hd)) ∧ stepShape (vecState.portRec (f.src.headD 0)) hd 0 = (1, 1)
      ∧ hBcast hd 0 = false ∧ 3 < hVecLanes hd 0 := by decide

theorem test_meets_FloatVectorEffects_edges :
    hVecLanes (rec4 - (60 <<< 64)) 0 = 4 ∧ 4 < fmtLanes (hFmt rec4) ∧ hEdge rec4 = 0 ∧ hEdge (rec4 - (60 <<< 64) + (1 <<< 228)) = 1
      ∧ hEdge (rec4 - (60 <<< 64) + (2 <<< 228)) = 2 := by decide

/-- A shape of one node over two leaves: the root is node 8, whose kind is given, and its leaves are 0 and 1, in registers 4 and 5; the
node has register 6 as its weight. -/
abbrev shape (kind : Nat) : Nat := kind <<< 14 + 3 <<< 30 + 8 <<< 46
abbrev spEnv (kind : Nat) (mode : BitVec 12) : SpEnv :=
  { v := [(2, 0x3F800000), (4, 0x3F800000), (5, 0x40000000), (6, 0x40400000)], sh := shape kind, ls := 4 + 5 <<< 10 + 6 <<< 230, mode := mode }

/-- Table 17-2's weighted sum in FP32, 3 × (1 + 2), and its gradients; the product's gradients; and R261's common power of two. -/
theorem test_sum_product :
    ((spEnv 3 1).up 2).2 = [(2, 0x41100000)] ∧ ((spEnv 2 1).down 2).2 = [(4, 0x40400000), (5, 0x40400000)]
      ∧ ((spEnv 3 1).down 2).2 = [(4, 0x40800000), (5, 0x40A00000)]
      ∧ ((spEnv 1 1).norm 2).2 = [(4, 0x3F000000), (5, 0x3F800000), (2, 0x3F800001)] := by decide +kernel

theorem test_meets_SumProductEffects_passes :
    spFault (shape 3) = false ∧ ((spEnv 3 1).down 2).1.fault = false ∧ (sget none ((spEnv 2 1).down 2).1.vals 8).isSome = true
      ∧ spKind (shape 2) 8 = 2 ∧ (fF32.decode 0x3F800000).isFin = true ∧ ((spEnv 0 0).reg 4 = 0x3F800000) := by decide +kernel

theorem test_meets_SumProductEffects_finite : (2 : ℚ) ^ (-959 : ℤ) ≤ (Sys2Proof.Machine.Num.fin false 5 (-1)).rat
    ∧ (Sys2Proof.Machine.Num.fin false 5 (-1)).rat ≤ (2 ^ 64 - 2 ^ 41 : ℚ) := by
  refine ⟨(zpow_le_one_of_nonpos₀ (by norm_num) (by norm_num)).trans ?_, ?_⟩ <;> norm_num [Sys2Proof.Machine.Num.rat]

theorem test_meets_SumProductEffects_moves :
    hElems (rec4 - (60 <<< 64)) = 4 ∧ (List.replicate (8 * 4) 3).length = 8 * 4 ∧ (run aged (.spld g 4 5) [(0, rec4)] {}).w.moved = 0
      ∧ hBcast rec4 0 = false ∧ fmtBlock (hFmt rec4) = false ∧ fmtStore (hFmt rec4) = 32 ∧ 0 < hExt rec4 0
      ∧ (let r : Running := { word := queued 0, disp := 0, tables := [(2, 7, 1), (0, 7, 2), (1, 7, 3)] }
         r.tables = [] ++ (2, 7, 1) :: [(0, 7, 2), (1, 7, 3)] ∧ ∀ e ∈ [(0, 7, 2), (1, 7, 3)], e.1 ≠ 0 → e.1 ≠ 1 → e.2.1 ≠ 7) := by decide

/-! #### Witnesses of the clauses on prefixes, ports, semaphores, groups and the commit of STAGGER -/

/-- A strand that has returned from a trap to a later repetition of RPT, at a word that RPT may not govern. -/
def resumed : State := on (.jal g 1 1) fun k => { k with rep := 1, pfx := some { first := 0x3FFFA, word := encode (.rpt 3 1 1 0), rpt := some ⟨3, 1, 1, 0⟩ } }

theorem test_meets_WordChecksTrap_repetition :
    resumed.due = .issue (false, 0, 0) ∧ (resumed.focusWho (false, 0, 0)).fetchFails 0x40000 = none ∧ (resumed.focusWho (false, 0, 0)).cur.pc = 0x40000
      ∧ (resumed.focusWho (false, 0, 0)).resident ((resumed.focusWho (false, 0, 0)).blockOf 0x40000) = true
      ∧ (resumed.focusWho (false, 0, 0)).fetchWord 0x40000 = some (encode (.jal g 1 1)) ∧ (resumed.focusWho (false, 0, 0)).cur.rep ≠ 0
      ∧ (resumed.focusWho (false, 0, 0)).cur.rptFits (encode (.jal g 1 1)) = false ∧ isPrefixWord (encode (.jal g 1 1)) = false
      ∧ unitPresent (resumed.focusWho (false, 0, 0)).vd.cls (encode (.jal g 1 1)) = true := by decide


theorem test_meets_PortWords_end :
    isNext (pending (.loaded (.port 3 0) (portImage ⟨rec4, 0, true⟩) false 0)) (.loaded (.port 3 0) (portImage ⟨rec4, 0, true⟩) false 0) = true
      ∧ imagePort (portImage ⟨rec4, 0, true⟩) = some ⟨rec4, 0, true⟩
      ∧ isNext (pending (.loaded (.port 3 0) (List.replicate 64 1) false 0)) (.loaded (.port 3 0) (List.replicate 64 1) false 0) = true
      ∧ imagePort (List.replicate 64 1) = none := by decide

theorem test_meets_SemaphoreWords_fields :
    (let i := Instr.seminit ⟨0, 0, 0, 40⟩ 9
     Issues i {} (on i) ∧ (on i).cur.semdepth.toNat = 0 ∧ (on i).started.semFields ⟨0, 0, 0, 40⟩ (encode i) = .error (Cause.illegal, 0#16 ++ encode i))
      ∧ (let i := Instr.sempost ⟨0, 0, 0, 31⟩ 9
         let s := on i fun k => { k with sembase := 1000 }
         Issues i {} s ∧ s.semNumber 31 = some 1030 ∧ s.ctx.sem0 + s.vd.cells * s.ctx.semn ≤ 1030
           ∧ s.started.semFields ⟨0, 0, 0, 31⟩ (encode i) = .error (Cause.privilege, 1030))
      ∧ let s := on (.semrot n 3) fun k => { k with semdepth := 4, semrot := 3 }
        s.semNumber 33 = some 31 ∧ ¬ (31 < s.ctx.sem0 ∨ s.ctx.sem0 + s.vd.cells * s.ctx.semn ≤ 31) ∧ s.semNumber 0 = none := by decide

theorem test_meets_SemaphoreCounts_tick :
    let s := { pending (.test 2 9 1) with raises := [{ slot := 0, sem := 9, n := 3, init := false, prio := false, vdie := 0, cell := 0 }] }
    (∃ p ∈ s.cur.pend, p.act = .test 2 9 1) ∧ (∀ r ∈ s.raises, r.init = false)
      ∧ lstrandOf (s.launchD false) 0 0 < lstrandOf (s.launchD false) 0 1 := by decide

/-- A strand whose SEMWAIT has begun to wait, at semaphore 2. -/
def waiter : State := on (.semwait ⟨0, 0, 3, 0⟩ 1) fun k => { k with since := some 0 }

theorem test_meets_SemaphoreCounts_release :
    ((waiter.focusWho (false, 0, 0)).waitsOn = some (2, .semwait ⟨0, 0, 3, 0⟩ 1)
        ∧ Issues (.semwait ⟨0, 0, 3, 0⟩ 1) { writes := [regP 1] } ((waiter.focusWho (false, 0, 0)).setSem 0 2 1)
        ∧ ((waiter.focusWho (false, 0, 0)).setSem 0 2 1).started.semFields ⟨0, 0, 3, 0⟩ (encode (.semwait ⟨0, 0, 3, 0⟩ 1)) = .ok (some 2, none)
        ∧ (((waiter.focusWho (false, 0, 0)).setSem 0 2 1).started.awaitSeq (some 2)).isSome = true)
      ∧ let h := { queued 0 with sw := some 2, since := some 3 }
        ((heading h).focusWho (false, 0, 0)).cur.headOf 2 = some h := by decide

/-- A K-step word of queue 0, and a group of four cells at whose heads it stands: cell 5 holds another bank, or nothing. -/
abbrev kWord (bank : BitVec 1) : QWord := { queue := 0, seq := 3, instr := .mma n bank 1 0 0 1 0, pc := 0x40000, enq := 0 }
abbrev kRec : HRec := 0x100 + (1 <<< 54) + (6 <<< 56) + (64 <<< 64) + (1 <<< 80) + (1 <<< 96) + (1 <<< 112)
def member (cell : Nat) (w : List QWord) (k : Strand) : Strand :=
  { k with cell := cell, mmode := 1, railReq := true, queue := w, q := [(0, ⟨kRec, 0, true⟩), (1, ⟨kRec, 0, true⟩)] }
def grouped (last : List QWord) : State :=
  let s := (on (.nop g) (member 0 [kWord 0])).modLaunch false fun l => { l with vdies := l.vdies.map fun v => { v with cells := 8 } }
  { s with z0 := 5, others := [member 1 [kWord 0] s.cur, member 4 [kWord 0] s.cur, member 5 last s.cur]
           power := { stands := [0, 1, 2, 3] } }
abbrev kHeads (bank : BitVec 1) : List (Nat × QWord × MForm) :=
  [(0, kWord 0, mmaForm 0 1 0 0 1 0), (1, kWord 0, mmaForm 0 1 0 0 1 0), (4, kWord 0, mmaForm 0 1 0 0 1 0), (5, kWord bank, mmaForm bank 1 0 0 1 0)]

/-- The members of a group are ready. -/
def groupOk (heads : List (Nat × QWord × MForm)) (s : State) : Bool :=
  heads.map Prod.fst == groupCells (mGroup s.cur.mmode) s.cur.cell && heads.all fun c =>
    let t := s.toCell c.1
    t.cur.is s.cur.prio s.cur.vdie c.1 && !t.cur.out && mGroup t.cur.mmode != 0 && t.cur.headOf 0 == some c.2.1
      && mForm c.2.1.instr == some c.2.2 && t.mayDispatch c.2.1

theorem test_meets_EngineDispatch_group :
    let s := (grouped [kWord 0]).poll 0
    s.cur.headOf 0 = some (kWord 0) ∧ isKStep (kWord 0).instr = true ∧ mGroup s.cur.mmode ≠ 0 ∧ groupOk (kHeads 0) s = true
      ∧ (kHeads 0).all (fun c => !((s.toCell c.1).fenceHolds c.2.1 || (s.toCell c.1).soHolds c.2.1)) = true
      ∧ s.railUp (groupCells 1 0) = true ∧ (groupAwaits (kHeads 0) s).isSome = true
      ∧ (kHeads 0).all (fun c => decide (s.groupKey c = s.groupKey (0, kWord 0, mmaForm 0 1 0 0 1 0))) = true
      ∧ (pairOf2 (hFmt ((s.toCell 0).portRec 0)) (hFmt ((s.toCell 0).portRec 1))).isSome = true ∧ s.cur.out = false
      ∧ s.cur.status ≠ .idle := by decide

theorem test_meets_EngineDispatch_group_stops :
    (let s := (grouped [kWord 1]).poll 0
     groupOk (kHeads 1) s = true ∧ s.groupKey (0, kWord 0, mmaForm 0 1 0 0 1 0) ≠ s.groupKey (5, kWord 1, mmaForm 1 1 0 0 1 0)
       ∧ (s.toCell 5).cur.status = .running)
      ∧ (let s := (grouped []).poll 0
         (s.toCell 5).cur.headOf 0 = none ∧ 5 ∈ groupCells (mGroup s.cur.mmode) s.cur.cell)
      ∧ let s := ({ grouped [kWord 0] with power := {} }).poll 0
        groupOk (kHeads 0) s = true ∧ s.railUp (groupCells 1 0) = false := by decide

theorem test_meets_AbortRule_stagger :
    (let s := (lateBy [lateEvent true] (on (.nop g))).modLaunch false fun l => { l with staggers := [3] }
     (s.launchOf false).any (fun l => l.lock && l.lateStagger.isNone && l.staggers == [3] && decide (lateEvent true ∈ l.lates)) = true)
      ∧ let s := (lateBy [lateEvent true] (inSched (on (.nop g) met))).modLaunch false fun l => { l with staggers := [3] }
        (s.launchOf false).any (fun l => !l.lock && l.lateStagger.isNone && l.staggers == [3]) = true ∧ leastNat (s.named false) = some 5000 := by
  decide

theorem test_meets_UnitEvents_block :
    (let s := on (.nop g) fun k => { k with fetching := [(0x40000, 0)] }
     s.cur.out = false ∧ s.cur.slot ≤ s.z0 ∧ s.cur.status = .running ∧ s.blockOf s.cur.pc = 0x40000)
      ∧ (let s := on (.nop g) fun k => { k with fetching := [(0x40000, 0)], status := .restoring }
         s.cur.status = .restoring ∧ s.blockOf s.cur.nextPc = 0x40000)
      ∧ let s := on (.nop g) fun k => { k with fetching := [(0x40000, 0)], slot := 9 }
        s.z0 < s.cur.slot := by decide

theorem test_meets_PowerEvents_bask :
    let s := on (.nop g) fun k => { k with bask := true, running := [done] }
    (0, 0) ∈ s.idleEngines ∧ (0, 1) ∈ s.idleEngines ∧ s.prefersBask (0, 0) = true ∧ s.prefersBask (0, 1) = false
      ∧ s.cur ∈ s.allStrands ∧ s.cur.status ≠ .idle ∧ s.cur.out = false ∧ s.slotOf s.cur = 0 ∧ s.cur.cell = 0 ∧ done ∈ s.cur.running
      ∧ (99, 0) ∉ s.idleEngines ∧ State.reset.power.draw = none := by decide

/-- A LOOP with count 0 as the last word of the text's page: the first word of its body cannot be fetched (R93). -/
def atEdge : State :=
  let s := on (.loop g 0 9) fun k => { k with pc := 0x4FFFA }
  { s with mem := wrMems s.mem 0x4FFFA (leBytes 6 (encode (.loop g 0 9)).toNat) }

theorem test_meets_NopAndLoop_edge :
    Issues (.loop g 0 9) { reads := [9] } atEdge ∧ atEdge.started.rx 9 = 0 ∧ atEdge.cur.loops = []
      ∧ (atEdge.started.fetchFails 0x50000).isSome = true := by decide

/-! #### Witnesses of what engine words compute over whole runs, of links and of the K-steps' corners -/

abbrev wide : HRec := spRec + (192 <<< 64)
abbrev one : Lane := (0x3F800000, 0)
abbrev nanL : Lane := (0x7FC00000, 0)
abbrev posInf : Lane := (0x7F800000, 0)
abbrev negInf : Lane := (0xFF800000, 0)

/-- R41: no active lane; two infinities; a NaN; finite lanes with an inactive one between; one infinity. -/
theorem test_meets_VectorEntryEffects_floats :
    let vs := fun (l : List (Option Lane)) => l.filterMap (Option.map fun x => elemVal 0x01 x.1)
    vs [none] = [] ∧ (RedAcc.lanes .add 0x01 {} [none]).code .add 0x01 = (0, 0)
      ∧ (.inf false ∈ vs [some posInf, some negInf] ∧ .inf true ∈ vs [some posInf, some negInf])
      ∧ (.nan ∈ vs [some nanL, some posInf] ∧ ∀ m, .inf m ∈ vs [some nanL, some posInf] → .inf (!m) ∉ vs [some nanL, some posInf])
      ∧ (.nan ∉ vs [some one, none, some one] ∧ (∀ v ∈ vs [some one, none, some one], v.isFin = true)
          ∧ (RedAcc.lanes .add 0x01 {} [some one, none, some one]).code .add 0x01 = (0x40000000, 0))
      ∧ (.nan ∉ vs [some one, some posInf] ∧ .inf false ∈ vs [some one, some posInf] ∧ .inf true ∉ vs [some one, some posInf])
      ∧ vs [some one] ≠ [] := by decide

/-- R41 on i8: 100 and 100 clamp to 127 with SAT; the largest of 1 and −1; and no lane. -/
theorem test_meets_VectorEntryEffects_ints :
    (RedAcc.lanes .add 0x06 {} [some (100, 0), some (100, 0)]).code .add 0x06 = (127, flagSAT)
      ∧ (RedAcc.lanes .max 0x06 {} [some (1, 0), some (255, 0)]).code .max 0x06 = (1, 0)
      ∧ intVal 0x06 ((RedAcc.lanes .min 0x06 {} []).code .min 0x06).1 = 127 := by decide

theorem test_meets_VectorEntryEffects_scan :
    (scanLanes .add 0x04 0x04 {} [some (1, 0), none, some (2, 0)]).1 = [some 1, none, some 3] := by decide

/-- R241: 2 at lanes 2 and 3 before 1, and a NaN last. -/
theorem test_meets_VectorEntryEffects_topk :
    topK fF32 3 [0x3F800000, 0x7FC00001, 0x40000000, 0x40000000] = ([0x40000000, 0x40000000, 0x3F800000, 0xFF800000], [2, 3, 0, 0xFFFF])
      ∧ fF32 ∈ [fF32, fBF16, fF16] ∧ 3 ≤ [0x3F800000, 0x7FC00001, 0x40000000, 0x40000000].length := by decide

/-- The machine whose ports 0 to 2 sweep 64 elements, or 256, of scratchpad. -/
def vecOf (h : HRec) : State := vecState.modCur fun k => { k with q := [(0, ⟨h, 0, true⟩), (1, ⟨h, 0, true⟩), (2, ⟨spRec, 0, true⟩)] }

theorem test_meets_VectorEntryEffects_runs :
    ((vf1 (.red .add) 2 0).src = [0] ∧ (vf1 (.scan .add) 2 0).dst = [2] ∧ (2 : Nat) ≠ 0 ∧ hBcast spRec 0 = false ∧ fmtBlock (hFmt spRec) = false)
      ∧ (let r := run (vecOf wide) (.nop g) [] {}
         r.w.st.i + 1 < hRunVecs (r.s.portRec 0) ∧ r.w.st.i + 1 < hNV (r.s.portRec 0))
      ∧ (let r := run (vecOf spRec) (.nop g) [] {}
         hRunVecs (r.s.portRec 0) ≤ r.w.st.i + 1 ∧ hRuns (r.s.portRec 0) ≤ r.w.st.k + 1 ∧ hNV (r.s.portRec 0) ≤ r.w.st.i + 1)
      ∧ (let h := spRec + (2 <<< 80)
         let r := run (vecOf h) (.nop g) [] {}
         r.w.st.k + 1 < hRuns h ∧ [1].length < hVecLanes spRec (r.idx 2))
      ∧ hRunVecs (vecState.portRec 2) = 1 ∧ ffmtOf (hFmt (vecState.portRec 2)) = some fF32 := by decide

theorem test_meets_VectorEntryEffects_fill :
    let f : VForm := { kind := .splat, dst := [2], src := [] }
    (fillRow (hFmt (vecState.portRec 2)) 0 7 f.kind).isSome = true ∧ f.dst = [2]
      ∧ (fillRow 0x04 0 0 .iota).isSome = true ∧ (fillRow 0x01 0 0 .randU).isSome = true ∧ (fillRow 0x04 0 0 .randB).isSome = true
      ∧ (run vecState (.nop g) [] {}).w.outs = [] := by decide

/-- VPERM over ports 0 and 1, which are not its destination. -/
theorem test_meets_VectorEntryEffects_perm :
    let f : VForm := { kind := .perm, dst := [2], src := [0, 1] }
    f.dst.headD 0 ∉ f.src ∧ stepShape (vecState.portRec 0) (vecState.portRec (f.dst.headD 0)) 0 = (1, 1)
      ∧ (∀ q ∈ f.dst.headD 0 :: f.src, fmtBlock (hFmt (vecState.portRec q)) = false
          ∧ fmtLanes (hFmt (vecState.portRec q)) = fmtLanes (hFmt (vecState.portRec (f.dst.headD 0)))) := by decide

/-- R236: 48 elements of 2.5 in an MX int8 block have the scale −5 and the codes 80; and 48 zeros the scale 0. -/
theorem test_meets_VectorEntryEffects_quant :
    ((quantBlock 0x86 none (List.replicate 48 (.fin false 5 (-1)))).1.take 3 = [0x86, 251, 80] ∧ (Sys2Proof.Machine.Num.fin false 5 (-1)).isFin = true)
      ∧ (quantBlock 0x8C none (List.replicate 48 .zero)).1.take 3 = [0x8C, 0, 0] ∧ (quantBlock 0x87 (some 3) (List.replicate 48 .nan)).1.length = 64
      ∧ ffmtOf 0x0A ≠ none ∧ ffmtOf 0x0B ≠ none ∧ ffmtOf 0x0C ≠ none := by decide +kernel

/-- R38: zero times infinity, two infinities, and a NaN among the products of a K-step. -/
theorem test_meets_MatrixEffects_specials :
    let p := fun x : Lane × Lane => (opNum 0x01 x.1).mul (opNum 0x01 x.2)
    (p (posInf, (0, 0))).2 = true ∧ ((p (posInf, one)).1 = .inf false ∧ (p (one, negInf)).1 = .inf true)
      ∧ ((p (nanL, one)).1 = .nan ∧ (p (nanL, one)).2 = false)
      ∧ kstep .flt 1 1 false (0, 0) 0 [(posInf, (0, 0))] = (fF32.nanCode, flagNV)
      ∧ kstep .flt 1 1 false (0, 0) 0x3F800000 [(posInf, one)] = (0x7F800000, 0) := by decide +kernel

/-- R196: the largest FP32 clamps to the largest BF16, and the smallest becomes zero. -/
theorem test_meets_MatrixEffects_weights :
    (weightNum 0x01 (0x7F7FFFFF, 0) = (.fin false 255 120, flagCLAMP) ∧ (weightNum 0x01 (1, 0)).1 = .zero ∧ (weightNum 0x01 one).2 = 0)
      ∧ (opNum 0x02 (0x3F80, 0)).isFin = true ∧ (weightNum 0x01 one).1.isFin = true := by decide

/-- R38: 1 + 1 is 2; infinity and minus infinity; a NaN; and infinity onto 1. -/
theorem test_meets_MatrixEffects_join :
    joinF32 0x3F800000 (.fin false 1 0, false) = (0x40000000, 0) ∧ joinF32 0x7F800000 (.inf true, false) = (fF32.nanCode, flagNV)
      ∧ joinF32 0x7FC00001 (.fin false 1 0, false) = (fF32.nanCode, 0) ∧ joinF32 0x3F800000 (.inf false, false) = (0x7F800000, 0)
      ∧ joinF32 0x7F800000 (.fin false 1 0, false) = (0x7F800000, 0) ∧ (fF32.decode 0x3F800000).isFin = true := by decide

/-- R40: two LNS6 products, one of them 16 below the other's scale. -/
theorem test_meets_MatrixEffects_lns :
    let l : List (Lane × Lane) := [((0, 0), (0, 0)), ((5, -20), (4, 0))]
    (∀ x ∈ l, x.1.2 + x.2.2 ≤ 0) ∧ (∃ x ∈ l, x.1.2 + x.2.2 = 0) ∧ (∃ x ∈ l, 9 < 0 - (x.1.2 + x.2.2)) ∧ ∃ x ∈ l, 0 - (x.1.2 + x.2.2) ≤ 9 := by
  decide

theorem test_meets_DispatchEffects_links :
    (let s := linked (some (0, 9)) none
     s.findCtx s.cur.prio s.cur.vdie 2 = none
       ∧ (∃ x, s.findCtx s.cur.prio s.cur.vdie 1 = some x ∧ x.cls < 4 ∧ x.peer < 32 ∧ x.rx = true) ∧ s.launch.lock = true)
      ∧ let s := inSched { linked none none with links := [{ prio := false, vdie := 0, ctx := 1, rx := false, tx := true, cls := 0, peer := 0 }] }
        (∃ x, s.findCtx s.cur.prio s.cur.vdie 1 = some x ∧ x.rx = false) ∧ s.launch.lock = false :=
  ⟨⟨by decide, ⟨_, rfl, by decide⟩, by decide⟩, ⟨_, rfl, by decide⟩, by decide⟩

theorem test_meets_DispatchEffects_tiles :
    tilesOf ({ queued 0 with recs := [(1, (opnd 2 4096).h)] }.rec_ 1) = [1] ∧ tilesOf ({ queued 0 with recs := [(1, rec4 - (64 <<< 64))] }.rec_ 1) = []
      ∧ sget none aged.births (tileKey 0 2) = some (3 : Int) := by decide

theorem test_meets_SemaphoreCounts_inits :
    let a : Raise := { slot := 0, sem := 9, n := 3, init := true, prio := false, vdie := 0, cell := 0 }
    let s := { on (.nop g) with raises := [a, { a with init := false, n := 2 }] }
    s.raises = [a, { a with init := false, n := 2 }] ∧ s.settleSems.semCount 0 9 = 5
      ∧ lstrandOf (s.launchD false) 0 0 < lstrandOf (s.launchD false) 0 1 := by decide

end Sys2Proof.Tests
end

section
/-! PROOFS. Package reset, READY with DMIX, and a firmware update (R8, R12, R13, R15, R18, R90). -/

namespace Sys2Proof.Machine

/-! ### The events' arms -/

theorem exec_packageReset (s : State) : exec .packageReset s = execPackageReset s := by rfl

theorem exec_firmwareReady (fw : FirmwareInfo) (s : State) : exec (.firmwareReady fw) s = execFirmwareReady fw s := by rfl

theorem exec_firmwareUpdate (emask : BitVec 64) (s : State) : exec (.firmwareUpdate emask) s = execFirmwareUpdate emask s := by rfl

/-- Package reset keeps the fuses, memory, the free counter and the events still to come, and no other part of the state. -/
theorem execPackageReset_eq_reset (s : State) :
    ∃ u, execPackageReset s = .next u
      ∧ { u with mem := [], free := 0, inputs := [], reads := [], comp := 1, stepping := 0 } = State.reset
      ∧ u.mem = s.mem ∧ u.comp = s.comp ∧ u.stepping = s.stepping :=
  ⟨_, rfl, rfl, rfl, rfl, rfl⟩

theorem execFirmwareReady_of_not_ready (fw : FirmwareInfo) (s : State) (hready : s.ready = false) :
    execFirmwareReady fw s = .next { s with fw := some fw, dmix := s.fillDmix fw, ready := true } := by
  simp [execFirmwareReady, hready]

/-! ### DMIX and failed cells (R82) -/

/-- From the first DMIX to the second, bits are lost at most, and only in GOOD, bits 21 to 41 (Table 1-3). -/
structure LosesGoodOnly (d d' : Word) : Prop where
  le : ∀ i, d'.getLsbD i = true → d.getLsbD i = true
  same : ∀ i, i < 21 ∨ 42 ≤ i → d'.getLsbD i = d.getLsbD i

theorem LosesGoodOnly.refl (d : Word) : LosesGoodOnly d d := ⟨fun _ h => h, fun _ _ => rfl⟩

theorem LosesGoodOnly.trans {d d' d'' : Word} (h : LosesGoodOnly d d') (h' : LosesGoodOnly d' d'') : LosesGoodOnly d d'' :=
  ⟨fun i hi => h.le i (h'.le i hi), fun i hi => (h'.same i hi).trans (h.same i hi)⟩

theorem getLsbD_clearGood (d : Word) (slot i : Nat) :
    (clearGood d slot).getLsbD i = (d.getLsbD i && !decide (slot < 21 ∧ i = 21 + slot)) := by
  have hbit : (BitVec.ofNat 64 (2 ^ (21 + slot))).getLsbD i = (decide (i < 64) && decide (21 + slot = i)) := by
    rw [BitVec.getLsbD_ofNat, Nat.testBit_two_pow]
  unfold clearGood
  split
  case isTrue h =>
    rw [BitVec.getLsbD_and, BitVec.getLsbD_not, hbit]
    by_cases hi : i < 64
    · simp [h, hi, eq_comm]
    · simp [BitVec.getLsbD_of_ge d i (by omega)]
  case isFalse h => simp [h]

theorem losesGoodOnly_clearGood (d : Word) (slot : Nat) : LosesGoodOnly d (clearGood d slot) := by
  constructor
  · intro i hi
    rw [getLsbD_clearGood, Bool.and_eq_true] at hi
    exact hi.1
  · intro i hi
    have hne : ¬ (slot < 21 ∧ i = 21 + slot) := by omega
    simp [getLsbD_clearGood, hne]

theorem losesGoodOnly_noteCell (acc : Word × List (Nat × Nat)) (f : Nat × Nat) : LosesGoodOnly acc.1 (noteCell acc f).1 := by
  unfold noteCell
  split
  · exact .refl _
  · split
    · exact .refl _
    · exact losesGoodOnly_clearGood _ _

theorem losesGoodOnly_foldl_noteCell (l : List (Nat × Nat)) (acc : Word × List (Nat × Nat)) :
    LosesGoodOnly acc.1 (l.foldl noteCell acc).1 := by
  induction l generalizing acc with
  | nil => exact .refl _
  | cons f l ih => exact (losesGoodOnly_noteCell acc f).trans (ih _)

/-! ### DMIX as it is before the failed cells are taken into account -/

/-- A slot's bit of SSGOOD joins the mask where the slot is fitted (R15). -/
def addSsBit (fit m : Word) (n : Nat) : Word := if fit.getLsbD n then m ||| (1#64 <<< ssBit n) else m

/-- The bits of SSGOOD that the fitted slots have (R15). -/
def ssMask (fit : Word) : Word := stackSlots.foldl (addSsBit fit) 0

/-- FIT, GOOD, SSGOOD and COMP as firmware and fuses give them (R12, R15). -/
def State.healthyDmix (s : State) (fw : FirmwareInfo) : Word :=
  s.fitted ||| (((fw.dmix >>> 21) &&& s.fitted) <<< 21) ||| (fw.dmix &&& ssMask s.fitted) ||| (s.comp.setWidth 64 <<< 57)

theorem State.losesGoodOnly_fillDmix (s : State) (fw : FirmwareInfo) : LosesGoodOnly (s.healthyDmix fw) (s.fillDmix fw) :=
  losesGoodOnly_foldl_noteCell fw.badCells (s.healthyDmix fw, [])

theorem State.getLsbD_fitted_of_ge (s : State) {i : Nat} (hi : 21 ≤ i) : s.fitted.getLsbD i = false := by
  have hlt : s.fitted.toNat < 2 ^ 21 := by
    unfold State.fitted
    split_ifs <;> decide
  exact Nat.testBit_lt_two_pow (hlt.trans_le (Nat.pow_le_pow_right (by decide) hi))

/-- Each slot with a stacked store has a bit of its own, between GOOD and COMP (Table 1-3). -/
theorem ssBit_of_mem_stackSlots :
    ∀ n ∈ stackSlots, 42 ≤ ssBit n ∧ ssBit n < 57 ∧ ∀ k ∈ stackSlots, ssBit k = ssBit n → k = n := by decide

theorem of_getLsbD_addSsBit {fit m : Word} {n i : Nat} (h : (addSsBit fit m n).getLsbD i = true) :
    m.getLsbD i = true ∨ fit.getLsbD n = true ∧ ssBit n = i := by
  unfold addSsBit at h
  split at h
  case isTrue hfit =>
    rw [BitVec.getLsbD_or, Bool.or_eq_true] at h
    refine h.imp_right fun hn => ⟨hfit, ?_⟩
    simp at hn
    omega
  case isFalse => exact .inl h

theorem of_getLsbD_foldl_addSsBit {fit m : Word} {l : List Nat} {i : Nat} (h : (l.foldl (addSsBit fit) m).getLsbD i = true) :
    m.getLsbD i = true ∨ ∃ n ∈ l, fit.getLsbD n = true ∧ ssBit n = i := by
  induction l generalizing m with
  | nil => exact .inl h
  | cons n l ih =>
    rcases ih h with hm | ⟨k, hk, hbit⟩
    · exact (of_getLsbD_addSsBit hm).imp_right fun hn => ⟨n, List.mem_cons_self, hn⟩
    · exact .inr ⟨k, List.mem_cons_of_mem _ hk, hbit⟩

theorem exists_fit_of_getLsbD_ssMask {fit : Word} {i : Nat} (h : (ssMask fit).getLsbD i = true) :
    ∃ n ∈ stackSlots, fit.getLsbD n = true ∧ ssBit n = i :=
  (of_getLsbD_foldl_addSsBit h).resolve_left (by simp)

theorem getLsbD_ssMask_of_outside (fit : Word) {i : Nat} (hi : i < 42 ∨ 57 ≤ i) : (ssMask fit).getLsbD i = false := by
  by_contra hbit
  obtain ⟨n, hn, -, rfl⟩ := exists_fit_of_getLsbD_ssMask (by simpa using hbit)
  have hrange := ssBit_of_mem_stackSlots n hn
  omega

theorem fit_of_getLsbD_ssMask {fit : Word} {k : Nat} (hk : k ∈ stackSlots) (h : (ssMask fit).getLsbD (ssBit k) = true) :
    fit.getLsbD k = true := by
  obtain ⟨n, hn, hfit, hbit⟩ := exists_fit_of_getLsbD_ssMask h
  obtain ⟨-, -, hinj⟩ := ssBit_of_mem_stackSlots k hk
  exact hinj n hn hbit ▸ hfit

theorem State.healthyDmix_fit (s : State) (fw : FirmwareInfo) {k : Nat} (hk : k < 21) :
    (s.healthyDmix fw).getLsbD k = s.fitted.getLsbD k := by
  simp [State.healthyDmix, getLsbD_ssMask_of_outside _ (.inl (show k < 42 by omega)), hk, show k < 57 by omega]

theorem State.healthyDmix_good (s : State) (fw : FirmwareInfo) {k : Nat} (hk : k < 21)
    (h : (s.healthyDmix fw).getLsbD (21 + k) = true) : s.fitted.getLsbD k = true := by
  have hmask := getLsbD_ssMask_of_outside s.fitted (.inl (show 21 + k < 42 by omega))
  have hfit := s.getLsbD_fitted_of_ge (show 21 ≤ 21 + k by omega)
  have hcomp : 21 + k < 57 := by omega
  simp [State.healthyDmix, hmask, hfit, hcomp] at h
  exact h.2.2

theorem State.healthyDmix_ssGood (s : State) (fw : FirmwareInfo) {k : Nat} (hk : k ∈ stackSlots)
    (h : (s.healthyDmix fw).getLsbD (ssBit k) = true) : s.fitted.getLsbD k = true := by
  obtain ⟨hlo, hhi, -⟩ := ssBit_of_mem_stackSlots k hk
  have hfit := s.getLsbD_fitted_of_ge (show 21 ≤ ssBit k by omega)
  have hgood := s.getLsbD_fitted_of_ge (show 21 ≤ ssBit k - 21 by omega)
  simp [State.healthyDmix, hfit, hgood, hhi] at h
  exact fit_of_getLsbD_ssMask hk h.2

theorem State.healthyDmix_comp (s : State) (fw : FirmwareInfo) {i : Nat} (hi : i < 4) :
    (s.healthyDmix fw).getLsbD (57 + i) = s.comp.getLsbD i := by
  have hmask := getLsbD_ssMask_of_outside s.fitted (.inr (show 57 ≤ 57 + i by omega))
  have hfit := s.getLsbD_fitted_of_ge (show 21 ≤ 57 + i by omega)
  have hgood := s.getLsbD_fitted_of_ge (show 21 ≤ 57 + i - 21 by omega)
  calc (s.healthyDmix fw).getLsbD (57 + i)
      = (decide (57 + i < 64) && (decide (i < 64) && s.comp.getLsbD i)) := by simp [State.healthyDmix, hmask, hfit, hgood]
    _ = s.comp.getLsbD i := by simp [show 57 + i < 64 by omega, show i < 64 by omega]

/-! ### DMIX as FIRMWARE_READY fills it (R12, R13, R15) -/

theorem State.fillDmix_fit (s : State) (fw : FirmwareInfo) {k : Nat} (hk : k < 21) :
    (s.fillDmix fw).getLsbD k = s.fitted.getLsbD k :=
  ((s.losesGoodOnly_fillDmix fw).same k (.inl hk)).trans (s.healthyDmix_fit fw hk)

theorem State.fillDmix_good (s : State) (fw : FirmwareInfo) {k : Nat} (hk : k < 21)
    (h : (s.fillDmix fw).getLsbD (21 + k) = true) : (s.fillDmix fw).getLsbD k = true :=
  (s.fillDmix_fit fw hk).trans (s.healthyDmix_good fw hk ((s.losesGoodOnly_fillDmix fw).le _ h))

theorem State.fillDmix_ssGood (s : State) (fw : FirmwareInfo) {k : Nat} (hk : k ∈ stackSlots)
    (h : (s.fillDmix fw).getLsbD (ssBit k) = true) : (s.fillDmix fw).getLsbD k = true := by
  have hslot : ∀ n ∈ stackSlots, n < 21 := by decide
  exact (s.fillDmix_fit fw (hslot k hk)).trans (s.healthyDmix_ssGood fw hk ((s.losesGoodOnly_fillDmix fw).le _ h))

theorem State.fillDmix_comp (s : State) (fw : FirmwareInfo) : (s.fillDmix fw).extractLsb' 57 4 = s.comp := by
  apply BitVec.eq_of_getLsbD_eq
  intro i hi
  calc ((s.fillDmix fw).extractLsb' 57 4).getLsbD i
      = (s.fillDmix fw).getLsbD (57 + i) := by simp [hi]
    _ = (s.healthyDmix fw).getLsbD (57 + i) := (s.losesGoodOnly_fillDmix fw).same _ (.inr (by omega))
    _ = s.comp.getLsbD i := s.healthyDmix_comp fw hi

/-! ### The translation cache under a new EMASK (R90) -/

/-- An entry of the translation cache after a change to this EMASK: stale, if it was made under another. -/
def CacheEnt.underEmask (emask : BitVec 64) (e : CacheEnt) : CacheEnt :=
  if e.emask = emask then e else { e with stale := true }

section
variable (emask : BitVec 64) (e : CacheEnt)

@[simp] theorem CacheEnt.underEmask_key : (e.underEmask emask).key = e.key := by unfold underEmask; split <;> rfl
@[simp] theorem CacheEnt.underEmask_cls : (e.underEmask emask).cls = e.cls := by unfold underEmask; split <;> rfl
@[simp] theorem CacheEnt.underEmask_emask : (e.underEmask emask).emask = e.emask := by unfold underEmask; split <;> rfl
@[simp] theorem CacheEnt.underEmask_image : (e.underEmask emask).image = e.image := by unfold underEmask; split <;> rfl

theorem CacheEnt.underEmask_of_eq (h : e.emask = emask) : e.underEmask emask = e := if_pos h

theorem CacheEnt.emask_eq_of_underEmask_not_stale (h : (e.underEmask emask).stale = false) : e.emask = emask := by
  by_contra hne
  simp [underEmask, hne] at h

end

/-- The state that a firmware update settles: the new EMASK, and the entries made under another marked. -/
def State.withEmask (s : State) (fw : FirmwareInfo) (emask : BitVec 64) : State :=
  { s with fw := some { fw with emask := emask }, cache := s.cache.map (CacheEnt.underEmask emask) }

theorem execFirmwareUpdate_of_fw {s : State} {fw : FirmwareInfo} (emask : BitVec 64) (hfw : s.fw = some fw) :
    execFirmwareUpdate emask s = .next (s.withEmask fw emask).settleCache := by
  unfold execFirmwareUpdate
  rw [hfw]
  rfl

theorem State.mem_settleCache {s : State} {e : CacheEnt} :
    e ∈ s.settleCache.cache ↔ e ∈ s.cache ∧ (e.stale = false ∨ s.usesCache e = true) := by
  simp [State.settleCache]

theorem State.usesCache_of_no_launch {s : State} (hmain : s.main = none) (hprio : s.prioL = none) (e : CacheEnt) :
    s.usesCache e = false := by
  simp [State.usesCache, hmain, hprio]

theorem State.usesCache_withEmask (s : State) (fw : FirmwareInfo) (emask : BitVec 64) (e : CacheEnt) :
    (s.withEmask fw emask).usesCache (e.underEmask emask) = s.usesCache e := by
  simp [State.usesCache, State.withEmask]

/-- What a firmware update leaves in the cache: of each old entry, as marked, those whose EMASK stands and those in use. -/
theorem State.mem_cache_update {s : State} {fw : FirmwareInfo} {emask : BitVec 64} {c : CacheEnt} :
    c ∈ (s.withEmask fw emask).settleCache.cache
      ↔ ∃ e ∈ s.cache, e.underEmask emask = c ∧ (c.stale = false ∨ s.usesCache e = true) := by
  have hmem : c ∈ (s.withEmask fw emask).cache ↔ ∃ e ∈ s.cache, e.underEmask emask = c := List.mem_map
  rw [State.mem_settleCache, hmem]
  constructor
  · rintro ⟨⟨e, he, rfl⟩, hkeep⟩
    exact ⟨e, he, rfl, s.usesCache_withEmask fw emask e ▸ hkeep⟩
  · rintro ⟨e, he, rfl, hkeep⟩
    exact ⟨⟨e, he, rfl⟩, (s.usesCache_withEmask fw emask e).symm ▸ hkeep⟩

theorem State.emask_of_mem_cache_update {s : State} {fw : FirmwareInfo} {emask : BitVec 64} {c : CacheEnt}
    (hmain : s.main = none) (hprio : s.prioL = none) (hc : c ∈ (s.withEmask fw emask).settleCache.cache) : c.emask = emask := by
  obtain ⟨e, -, rfl, hkeep⟩ := State.mem_cache_update.mp hc
  have hfresh := hkeep.resolve_right (by simp [State.usesCache_of_no_launch hmain hprio])
  rw [e.underEmask_emask, e.emask_eq_of_underEmask_not_stale emask hfresh]

theorem State.mem_cache_update_of_emask {s : State} {fw : FirmwareInfo} {emask : BitVec 64} {c : CacheEnt}
    (hc : c ∈ s.cache) (hemask : c.emask = emask) (hfresh : c.stale = false) : c ∈ (s.withEmask fw emask).settleCache.cache :=
  State.mem_cache_update.mpr ⟨c, hc, c.underEmask_of_eq emask hemask, .inl hfresh⟩

theorem State.mem_cache_update_of_used {s : State} {fw : FirmwareInfo} {emask : BitVec 64} {c : CacheEnt}
    (hc : c ∈ s.cache) (hused : s.usesCache c = true) : c.underEmask emask ∈ (s.withEmask fw emask).settleCache.cache :=
  State.mem_cache_update.mpr ⟨c, hc, rfl, .inr hused⟩

/-- Settles O55: reset by definition, DMIX bit by bit through the failed cells, and the cache entry by entry. -/
theorem resetAndFirmware : Obligations.ResetAndFirmware := by
  refine ⟨fun s => ?reset, fun fw s hready => ?ready, fun emask fw s hfw => ?update⟩
  case reset => exact exec_packageReset s ▸ execPackageReset_eq_reset s
  case ready =>
    refine ⟨_, (exec_firmwareReady fw s).trans (execFirmwareReady_of_not_ready fw s hready), rfl, rfl, rfl, s.fillDmix_comp fw, ?_, ?_⟩
    · exact fun k hk => ⟨s.fillDmix_fit fw hk, s.fillDmix_good fw hk⟩
    · exact fun k hk => s.fillDmix_ssGood fw hk
  case update =>
    refine ⟨_, (exec_firmwareUpdate emask s).trans (execFirmwareUpdate_of_fw emask hfw), rfl, rfl, ?_, ?_, ?_⟩
    · exact fun hmain hprio c hc => State.emask_of_mem_cache_update hmain hprio hc
    · exact fun c hc hemask hfresh => State.mem_cache_update_of_emask hc hemask hfresh
    · exact fun c hc hused => ⟨_, State.mem_cache_update_of_used hc hused, by simp, by simp, by simp⟩

end Sys2Proof.Machine
end

section
/-! PROOFS. The state right after a package reset (R8, R13, R18, R78, R333). -/

namespace Sys2Proof.Machine

/-- A strand after reset holds neither a repetition nor a word in a queue. -/
theorem Strand.bounded_default : ({} : Strand).Bounded where
  loops := Nat.zero_le 2
  saved := Nat.zero_le 2
  queues _ := Nat.zero_le 16

theorem reset_allStrands : State.reset.allStrands = [{}] := rfl

theorem reset_launchOf (prio : Bool) : State.reset.launchOf prio = none := by cases prio <;> rfl

/-- The strands are within their bounds right after a package reset: the only strand is idle, and no launch has a restart image. -/
theorem reset_bounded : State.reset.Bounded where
  strands c hc := by
    rw [reset_allStrands, List.mem_singleton] at hc
    exact hc ▸ Strand.bounded_default
  images prio l hl := by simp [reset_launchOf] at hl

/-- Settles O60: the registers by definition, the canonical forms of memory and of the strands by their lemmas. -/
theorem resetState : Obligations.ResetState :=
  ⟨rfl, rfl, rfl, rfl, rfl, rfl, rfl, rfl, rfl, rfl, reset_memOk, rfl, rfl, reset_bounded⟩

end Sys2Proof.Machine
end

section
/-! PROOFS. The physical map (R16, R155, Table 9-5). -/

namespace Sys2Proof.Machine

/-! ### HBM, host memory and what lies above the map -/

theorem State.nBD_bounds (s : State) : 1 ≤ s.nBD ∧ s.nBD ≤ 4 := by
  unfold State.nBD
  split_ifs <;> decide

/-- HBM ends below the windows of the slots, in every composition (R16). -/
theorem State.hbmTop_le (s : State) : s.hbmTop ≤ 0x006000000000 := by
  obtain ⟨-, hle⟩ := s.nBD_bounds
  unfold State.hbmTop
  omega

theorem State.placeOf_of_hbm {s : State} {a : Nat} (h : a < s.hbmTop) :
    s.placeOf a = .hbm (13 + (a / 4096) % (2 * s.nBD) / 2) := by
  have htop := s.hbmTop_le
  exact (if_neg (by omega)).trans (if_pos h)

theorem State.placeOf_of_host {s : State} {a : Nat} (hlo : 0x800000000000 ≤ a) (hhi : a < 2 ^ 48) :
    s.placeOf a = .host (if bitOf a 46 && s.dmix.getLsbD 20 then 20 else 19) := by
  have htop := s.hbmTop_le
  unfold State.placeOf
  rw [if_neg (by omega), if_neg (by omega), if_pos hlo]

theorem State.placeOf_of_ge {s : State} {a : Nat} (h : 2 ^ 48 ≤ a) : s.placeOf a = .unmapped := if_pos h

/-! ### The window of a slot -/

/-- The windows follow one another from 0x00F000000000 on, each of 2^32 bytes, between HBM and host memory. -/
theorem State.placeOf_winBase_add {s : State} {n o : Nat} (hn : n < 21) (ho : o < 2 ^ 32) :
    s.placeOf (winBase n + o) = windowPlace s n o := by
  have htop := s.hbmTop_le
  have hslot : (winBase n + o - 0x00F000000000) / 2 ^ 32 = n := by unfold winBase; omega
  have hoff : (winBase n + o - 0x00F000000000) % 2 ^ 32 = o := by unfold winBase; omega
  have hlo : 0x00F000000000 ≤ winBase n + o := by unfold winBase; omega
  have hhi : winBase n + o < 0x00F000000000 + 21 * 2 ^ 32 := by unfold winBase; omega
  unfold State.placeOf
  rw [if_neg (by omega), if_neg (by omega), if_neg (by omega), if_pos ⟨hlo, hhi⟩, hslot, hoff]

/-- The same for the number `i` of a part that begins at `b`. -/
theorem State.placeOf_winBase_add_part {s : State} {n b i o : Nat} (hn : n < 21) (ho : b + i + o < 2 ^ 32) :
    s.placeOf (winBase n + b + i + o) = windowPlace s n (b + i + o) := by
  rw [← State.placeOf_winBase_add hn ho]
  simp only [Nat.add_assoc]

theorem windowPlace_of_not_fit {s : State} {n : Nat} (o : Nat) (hfit : s.dmix.getLsbD n = false) :
    windowPlace s n o = .unmapped := by
  simp [windowPlace, hfit]

theorem clsCells_le (k : Cls) : clsCells k ≤ 16 := by cases k <;> decide

theorem clsTiles_le (k : Cls) : clsTiles k ≤ 24576 := by cases k <;> decide

theorem slotCls_of_lt_nine {n : Nat} (hn : n < 9) : slotCls n = .md := if_pos hn

/-- A scratchpad fills at most three of the four MiB that the map leaves it (R10, Table 9-5). -/
theorem State.capss_le (s : State) (n : Nat) : s.capss n ≤ 0x300000 := by
  unfold State.capss capssOf
  split
  · decide
  · decide
  · split <;> decide

section
variable {s : State} {n : Nat} (hfit : s.dmix.getLsbD n = true)
include hfit

theorem windowPlace_scratch {c o : Nat} (hc : c < clsCells (slotCls n)) (ho : o < s.capss n) :
    windowPlace s n (c * 0x400000 + o) = .scratch n c o := by
  have hcells := clsCells_le (slotCls n)
  have hcap := s.capss_le n
  have hcell : (c * 0x400000 + o) / 0x400000 = c := by omega
  have hoff : (c * 0x400000 + o) % 0x400000 = o := by omega
  have hlt : c * 0x400000 + o < 0x04000000 := by omega
  simp [windowPlace, hfit, hlt, hcell, hoff, hc, ho]

theorem windowPlace_acc {c o : Nat} (hn : n < 9) (hc : c < 16) (ho : o < 0x10000) :
    windowPlace s n (0x04000000 + c * 0x10000 + o) = .acc n c o := by
  have hcell : (0x04000000 + c * 0x10000 + o - 0x04000000) / 0x10000 = c := by omega
  have hoff : (0x04000000 + c * 0x10000 + o - 0x04000000) % 0x10000 = o := by omega
  have hlo : ¬ 0x04000000 + c * 0x10000 + o < 0x04000000 := by omega
  have hhi : 0x04000000 + c * 0x10000 + o < 0x04100000 := by omega
  simp [windowPlace, hfit, hlo, hhi, hcell, hoff, slotCls_of_lt_nine hn]

theorem windowPlace_inbox {c o : Nat} (hc : c < clsCells (slotCls n)) (ho : o < 0x40) :
    windowPlace s n (0x04100000 + c * 0x40 + o) = .inbox n c o := by
  have hcell : (0x04100000 + c * 0x40 + o - 0x04100000) / 0x40 = c := by omega
  have hoff : (0x04100000 + c * 0x40 + o - 0x04100000) % 0x40 = o := by omega
  have hscratch : ¬ 0x04100000 + c * 0x40 + o < 0x04000000 := by omega
  have hacc : ¬ 0x04100000 + c * 0x40 + o < 0x04100000 := by omega
  have hhi : 0x04100000 + c * 0x40 + o < 0x04100000 + clsCells (slotCls n) * 0x40 := by omega
  simp only [windowPlace, hfit, hscratch, hacc, hhi, hcell, hoff, Bool.not_true, if_true, if_false, Bool.false_eq_true]

theorem windowPlace_sync {o : Nat} (ho : o < 0x40000) : windowPlace s n (0x08000000 + o) = .sync n o := by
  have hcells := clsCells_le (slotCls n)
  have hinbox : ¬ 0x08000000 + o < 0x04100000 + clsCells (slotCls n) * 0x40 := by omega
  have hhi : 0x08000000 + o < 0x08040000 := by omega
  simp [windowPlace, hfit, hinbox, hhi, show ¬ 0x08000000 + o < 0x04000000 by omega, show ¬ 0x08000000 + o < 0x04100000 by omega]

theorem windowPlace_tile {t o : Nat} (ht : t < clsTiles (slotCls n)) (ho : o < 4096) :
    windowPlace s n (0x10000000 + t * 4096 + o) = .tile n t o := by
  have hcells := clsCells_le (slotCls n)
  have htile : (0x10000000 + t * 4096 + o - 0x10000000) / 4096 = t := by omega
  have hoff : (0x10000000 + t * 4096 + o - 0x10000000) % 4096 = o := by omega
  unfold windowPlace
  simp only [hfit, Bool.not_true, Bool.false_eq_true, if_false, htile, hoff]
  rw [if_neg (by omega), if_neg (by omega), if_neg (by omega), if_neg (by omega), if_pos (by omega)]

end

/-- Settles O57: an address's window and its offset there first, then the part of Table 9-5 that the offset lies in. -/
theorem physicalMap : Obligations.PhysicalMap := by
  refine ⟨fun s a ha => ?hbm, fun s a hlo hhi => ?host, fun s a ha => State.placeOf_of_ge ha, fun s n o hn ho hfit => ?unfitted,
    fun s n c o hn hfit hc ho => ?scratch, fun s n c o hn hfit hc ho => ?acc, fun s n c o hn hfit hc ho => ?inbox,
    fun s n o hn hfit ho => ?sync, fun s n t o hn hfit ht ho => ?tile⟩
  case hbm =>
    obtain ⟨hpos, -⟩ := s.nBD_bounds
    have hmod := Nat.mod_lt (a / 4096) (show 0 < 2 * s.nBD by omega)
    exact ⟨_, State.placeOf_of_hbm ha, by omega, by omega⟩
  case host =>
    rw [State.placeOf_of_host hlo hhi]
    split
    · exact .inr rfl
    · exact .inl rfl
  case unfitted => rw [State.placeOf_winBase_add hn ho, windowPlace_of_not_fit o hfit]
  case scratch =>
    have hcells := clsCells_le (slotCls n)
    have hcap := s.capss_le n
    rw [Nat.add_assoc, State.placeOf_winBase_add hn (by omega), windowPlace_scratch hfit hc ho]
  case acc =>
    rw [State.placeOf_winBase_add_part (by omega) (by omega), windowPlace_acc hfit hn hc ho]
  case inbox =>
    have hcells := clsCells_le (slotCls n)
    rw [State.placeOf_winBase_add_part hn (by omega), windowPlace_inbox hfit hc ho]
  case sync => rw [Nat.add_assoc, State.placeOf_winBase_add hn (by omega), windowPlace_sync hfit ho]
  case tile =>
    have htiles := clsTiles_le (slotCls n)
    rw [State.placeOf_winBase_add_part hn (by omega), windowPlace_tile hfit ht ho]

end Sys2Proof.Machine
end

section
/-! PROOFS. What the CSRs read (R10, R18, R58, R71, R84, R121, R151, R160). -/

namespace Sys2Proof.Machine

/-! ### Numbers as words: a field, and a shorter word with zeros above it -/

theorem toNat_extractLsb'_ofNat {v : Nat} (hv : v < 2 ^ 64) (lo w : Nat) :
    ((BitVec.ofNat 64 v).extractLsb' lo w).toNat = v / 2 ^ lo % 2 ^ w := by
  rw [BitVec.extractLsb'_toNat, BitVec.toNat_ofNat, Nat.mod_eq_of_lt hv, Nat.shiftRight_eq_div_pow]

theorem extractLsb'_ofNat_eq {v lo w : Nat} {x : BitVec w} (hv : v < 2 ^ 64) (h : v / 2 ^ lo % 2 ^ w = x.toNat) :
    (BitVec.ofNat 64 v).extractLsb' lo w = x :=
  BitVec.eq_of_toNat_eq ((toNat_extractLsb'_ofNat hv lo w).trans h)

theorem getLsbD_ofNat_of_lt {v i : Nat} (hi : i < 64) : (BitVec.ofNat 64 v).getLsbD i = decide (v / 2 ^ i % 2 = 1) := by
  rw [BitVec.getLsbD_ofNat, Nat.testBit_eq_decide_div_mod_eq, decide_eq_true hi, Bool.true_and]

theorem zero_append_eq_setWidth {w : Nat} (k : Nat) (x : BitVec w) : 0#k ++ x = x.setWidth (k + w) := by
  apply BitVec.eq_of_toNat_eq
  rw [BitVec.toNat_setWidth_of_le (Nat.le_add_left w k)]
  simp [BitVec.toNat_append]

/-! ### MODE, EMASK, VDIE, CAPSS, FLRET, SEMDEPTH, the paces and PINCNT (Tables 1-2, 3-4, 5-1, 9-3, 10-1) -/

theorem modeWord_bits : ∀ lock det forced : Bool,
    let m := BitVec.ofNat 64 ((if lock then 1 else 0) + (if det then 2 else 0) + (if forced then 4 else 0))
    m.toNat < 8 ∧ m.getLsbD 0 = lock ∧ m.getLsbD 1 = det ∧ m.getLsbD 2 = forced := by decide

theorem State.csr_mode_bits (s : State) :
    (s.csr 0x000).toNat < 8 ∧ (s.csr 0x000).getLsbD 0 = s.launch.lock ∧ (s.csr 0x000).getLsbD 1 = s.launch.det
      ∧ (s.csr 0x000).getLsbD 2 = s.launch.forced :=
  modeWord_bits s.launch.lock s.launch.det s.launch.forced

theorem State.csr_emask {s : State} {fw : FirmwareInfo} (hfw : s.fw = some fw) : s.csr 0x002 = fw.emask := by
  simp [State.csr, hfw]

theorem clsCode_eq (k : Cls) : clsCode k = match k with | .md => 1 | .vd => 2 | .bd => 3 | .gd => 4 | .sd => 5 := by
  cases k <;> rfl

theorem clsCode_lt (k : Cls) : clsCode k < 8 := by cases k <;> decide

theorem State.csr_vdie (s : State) :
    s.csr 0x011 = BitVec.ofNat 64 (s.cur.vdie + clsCode s.vd.cls * 256 + s.vd.bindGen * 65536) := rfl

theorem State.csr_vdie_fields {s : State} (hvdie : s.cur.vdie < 32) (hgen : s.vd.bindGen < 256) :
    ((s.csr 0x011).extractLsb' 0 5).toNat = s.cur.vdie ∧ ((s.csr 0x011).extractLsb' 16 8).toNat = s.vd.bindGen
      ∧ ((s.csr 0x011).extractLsb' 8 3).toNat = clsCode s.vd.cls
      ∧ (s.csr 0x011).extractLsb' 5 3 = 0 ∧ (s.csr 0x011).extractLsb' 11 5 = 0 ∧ (s.csr 0x011).extractLsb' 24 40 = 0 := by
  have hcls := clsCode_lt s.vd.cls
  have hv : s.cur.vdie + clsCode s.vd.cls * 256 + s.vd.bindGen * 65536 < 2 ^ 64 := by omega
  rw [s.csr_vdie]
  simp only [toNat_extractLsb'_ofNat hv]
  refine ⟨by omega, by omega, by omega, extractLsb'_ofNat_eq hv ?_, extractLsb'_ofNat_eq hv ?_, extractLsb'_ofNat_eq hv ?_⟩
  all_goals (change _ = 0; omega)

theorem State.csr_capss (s : State) :
    s.csr 0x015 = match slotCls s.slotNo with
      | .bd | .sd => 0
      | _ => if s.seenDmix.getLsbD (ssBit s.slotNo) then 0x1_0030_0000 else 0x18_0000 := by
  unfold State.csr capssOf
  cases slotCls s.slotNo <;> cases s.seenDmix.getLsbD (ssBit s.slotNo) <;> rfl

theorem State.csr_flret (s : State) :
    s.csr 0x016 = match s.vd.cls with | .bd | .sd => 0 | _ => 0x0C08_0010_0000 := by
  unfold State.csr
  cases s.vd.cls <;> rfl

theorem State.csr_semdepth (s : State) : s.csr 0x021 = BitVec.ofNat 64 (s.cur.semdepth.toNat + 256 * s.cur.sovf.toNat) := by
  change BitVec.ofNat 64 (s.cur.semdepth.toNat + if s.cur.sovf then 256 else 0) = _
  cases s.cur.sovf <;> rfl

theorem State.csr_semdepth_fields (s : State) :
    (s.csr 0x021).extractLsb' 0 6 = s.cur.semdepth ∧ (s.csr 0x021).getLsbD 8 = s.cur.sovf
      ∧ (s.csr 0x021).extractLsb' 6 2 = 0 ∧ (s.csr 0x021).extractLsb' 9 55 = 0 := by
  have hdepth := s.cur.semdepth.isLt
  have hsovf := s.cur.sovf.toNat_le
  have hv : s.cur.semdepth.toNat + 256 * s.cur.sovf.toNat < 2 ^ 64 := by omega
  have hquot : (s.cur.semdepth.toNat + 256 * s.cur.sovf.toNat) / 2 ^ 8 % 2 = s.cur.sovf.toNat := by omega
  rw [s.csr_semdepth]
  refine ⟨extractLsb'_ofNat_eq hv (by omega), ?_, extractLsb'_ofNat_eq hv ?_, extractLsb'_ofNat_eq hv ?_⟩
  · rw [getLsbD_ofNat_of_lt (by decide), hquot]
    cases s.cur.sovf <;> rfl
  all_goals (change _ = 0; omega)

theorem State.csr_pace (s : State) {k : Nat} (hk : k < 6) : s.csr (0x028 + k) = BitVec.ofNat 64 (s.launch.pace.getD k 0) := by
  interval_cases k <;> rfl

/-- The words that PINCNT counts: those enqueued and those running. -/
def Strand.heldWords (c : Strand) : List QWord := c.queue ++ c.running.map Running.word

theorem State.csr_pincnt (s : State) : s.csr 0x030 = BitVec.ofNat 64
    ((s.cur.heldWords.map QWord.pins).sum % 2 ^ 14 + (s.cur.heldWords.filter fun w => w.pins != 0).length * 2 ^ 16) := rfl

theorem State.csr_pincnt_fields {s : State} (hpins : (s.cur.heldWords.map QWord.pins).sum < 2 ^ 14)
    (hwords : (s.cur.heldWords.filter fun w => w.pins != 0).length < 2 ^ 7) :
    ((s.csr 0x030).extractLsb' 0 14).toNat = (s.cur.heldWords.map QWord.pins).sum
      ∧ ((s.csr 0x030).extractLsb' 16 7).toNat = (s.cur.heldWords.filter fun w => w.pins != 0).length := by
  rw [s.csr_pincnt, toNat_extractLsb'_ofNat (by omega), toNat_extractLsb'_ofNat (by omega)]
  exact ⟨by omega, by omega⟩

/-- Settles O18: the CSRs that hold a register or a number by definition, and those made of fields by their lemmas. -/
theorem csrValues : Obligations.CsrValues := by
  refine ⟨fun s => ?mode, fun s => ?trap, fun s hvdie hgen => ?vdie, fun s => ⟨rfl, rfl, rfl⟩, State.csr_capss, State.csr_flret,
    fun s => ?flags, fun s k hk => s.csr_pace hk, fun s hpins hwords => State.csr_pincnt_fields hpins hwords⟩
  case mode =>
    obtain ⟨hlt, hlock, hdet, hforced⟩ := s.csr_mode_bits
    exact ⟨hlt, hlock, hdet, hforced, rfl, fun _ hfw => State.csr_emask hfw⟩
  case trap => exact ⟨rfl, rfl, zero_append_eq_setWidth 48 _, rfl, rfl⟩
  case vdie =>
    obtain ⟨hindex, hcount, hcls, hzeros⟩ := State.csr_vdie_fields hvdie hgen
    exact ⟨hindex, hcount, hcls.trans (clsCode_eq _), hzeros⟩
  case flags =>
    obtain ⟨hdepth, hsovf, hlo, hhi⟩ := s.csr_semdepth_fields
    exact ⟨zero_append_eq_setWidth 48 _, zero_append_eq_setWidth 62 _, zero_append_eq_setWidth 52 _, hdepth, hsovf, hlo, hhi,
      zero_append_eq_setWidth 59 _⟩

end Sys2Proof.Machine
end

section
/-! PROOFS. The CSR words that write, and which bits of each CSR they change (R37, R58, R121, R164). -/

namespace Sys2Proof.Machine

/-- The three CSR words that write share one meaning. -/
theorem exec_of_csrRow {i : Instr} {op : CsrOp} {d a : BitVec 6} {csr : BitVec 12} (h : csrRow i = some (op, d, a, csr)) (s : State) :
    exec i s = csrWord i op d a csr s := by
  cases i <;> cases h <;> rfl

theorem exec_csrRow_of_issues {i : Instr} {op : CsrOp} {d a : BitVec 6} {csr : BitVec 12} {s : State}
    (h : csrRow i = some (op, d, a, csr))
    (hi : Issues i { reads := [a.toNat], writes := [d.toNat], csr := some csr.toNat } s) :
    exec i s = .next (((s.started.putCsr csr.toNat
      (csrNew op csr.toNat (s.started.csr csr.toNat) (s.started.rx a.toNat) ||| s.started.freshFlags csr.toNat)).setX d.toNat
        (s.started.csr csr.toNat)).advance (holdOf i)) := by
  rw [exec_of_csrRow h]
  unfold csrWord
  rw [issue_ready _ hi]
  rfl

/-! ### The new value, bit by bit -/

theorem csrNew_getLsbD_of_rw {op : CsrOp} {n : Nat} {old v : Word} {k : Nat} (hk : k < 64) (hrw : (csrRW n).getLsbD k = true)
    (hw1 : (csrW1C n).getLsbD k = false) :
    (csrNew op n old v).getLsbD k = match op with
      | .write => v.getLsbD k | .set => old.getLsbD k || v.getLsbD k | .clear => old.getLsbD k && !v.getLsbD k := by
  simp only [BitVec.getLsbD_eq_getElem hk] at hrw hw1 ⊢
  cases op <;> simp [csrNew, hrw, hw1]

theorem csrNew_getLsbD_of_w1c {op : CsrOp} {n : Nat} {old v : Word} {k : Nat} (hk : k < 64) (hrw : (csrRW n).getLsbD k = false)
    (hw1 : (csrW1C n).getLsbD k = true) :
    (csrNew op n old v).getLsbD k = match op with
      | .write => old.getLsbD k && !v.getLsbD k | .set => old.getLsbD k | .clear => old.getLsbD k && !v.getLsbD k := by
  simp only [BitVec.getLsbD_eq_getElem hk] at hrw hw1 ⊢
  cases op <;> simp [csrNew, hrw, hw1]

theorem csrNew_getLsbD_of_ro {op : CsrOp} {n : Nat} {old v : Word} {k : Nat} (hk : k < 64) (hrw : (csrRW n).getLsbD k = false)
    (hw1 : (csrW1C n).getLsbD k = false) : (csrNew op n old v).getLsbD k = old.getLsbD k := by
  simp only [BitVec.getLsbD_eq_getElem hk] at hrw hw1 ⊢
  cases op <;> simp [csrNew, hrw, hw1]

/-! ### The bits of each CSR (Tables 2-8, 3-4, 6-4 to 6-6, 10-2 and 22-1 to 22-4) -/

theorem csrRW_getLsbD_iff (n : Nat) : ∀ k < 64, (csrRW n).getLsbD k = true ↔
    (n = 0x008 ∧ (k < 54 ∨ k = 63)) ∨ n = 0x009 ∨ (n = 0x00A ∧ k < 16) ∨ n = 0x00B ∨ (n = 0x018 ∧ 8 ≤ k ∧ k < 16)
      ∨ (n = 0x020 ∧ k < 12) ∨ (n = 0x021 ∧ k < 6) ∨ (n = 0x022 ∧ k < 5) := by
  unfold csrRW
  split
  iterate 8 decide
  intro k _
  simp_all

theorem csrW1C_getLsbD_iff (n : Nat) : ∀ k < 64, (csrW1C n).getLsbD k = true ↔
    (n = 0x018 ∧ k < 8) ∨ (n = 0x019 ∧ k < 2) ∨ (n = 0x021 ∧ k = 8) := by
  unfold csrW1C
  split
  iterate 3 decide
  intro k _
  simp_all

/-! ### A written CSR reads back, in the bits that software can change -/

theorem getLsbD_zero_append {w k : Nat} (m : Nat) (x : BitVec w) (hk : k < m + w) : (0#m ++ x).getLsbD k = x.getLsbD k := by
  rw [zero_append_eq_setWidth, BitVec.getLsbD_setWidth, decide_eq_true hk, Bool.true_and]

theorem getLsbD_zero_append_extractLsb' {v : Word} {m w k : Nat} (hk : k < w) :
    (0#m ++ v.extractLsb' 0 w).getLsbD k = v.getLsbD k := by
  rw [getLsbD_zero_append m _ (by omega), BitVec.getLsbD_extractLsb', decide_eq_true hk, Bool.true_and, Nat.zero_add]

theorem State.getLsbD_csr_putCsr_semdepth (s : State) (v : Word) {k : Nat} (hk : k < 6 ∨ k = 8) :
    ((s.putCsr 0x021 v).csr 0x021).getLsbD k = v.getLsbD k := by
  obtain ⟨hdepth, hsovf, -, -⟩ := (s.putCsr 0x021 v).csr_semdepth_fields
  rcases hk with hk | rfl
  · have hbit := congrArg (·.getLsbD k) hdepth
    simpa [hk, State.putCsr] using hbit
  · exact hsovf

theorem State.getLsbD_csr_putCsr (s : State) {n : Nat} (v : Word) {k : Nat} (hk : k < 64)
    (hbit : (csrRW n).getLsbD k = true ∨ (csrW1C n).getLsbD k = true) :
    ((s.putCsr n v).csr n).getLsbD k = v.getLsbD k := by
  rw [csrRW_getLsbD_iff n k hk, csrW1C_getLsbD_iff n k hk] at hbit
  rcases hbit with (⟨rfl, -⟩ | rfl | ⟨rfl, hk'⟩ | rfl | ⟨rfl, -, hk'⟩ | ⟨rfl, hk'⟩ | ⟨rfl, hk'⟩ | ⟨rfl, hk'⟩)
    | ⟨rfl, hk'⟩ | ⟨rfl, hk'⟩ | ⟨rfl, hk'⟩
  case inl.inl | inl.inr.inl | inl.inr.inr.inr.inl => rfl
  case inl.inr.inr.inr.inr.inr.inr.inl => exact s.getLsbD_csr_putCsr_semdepth v (.inl hk')
  case inr.inr.inr => exact s.getLsbD_csr_putCsr_semdepth v (.inr hk')
  all_goals exact getLsbD_zero_append_extractLsb' (by omega)

/-! ### Flags set at this very tick (R37, R164) -/

theorem State.freshFlags_getLsbD_iff (s : State) (n : Nat) {k : Nat} (hk : k < 64) :
    (s.freshFlags n).getLsbD k = true ↔
      s.cur.setTick = s.z0 ∧ ((n = 0x018 ∧ k < 8 ∧ s.cur.setBits.getLsbD k = true)
        ∨ (n = 0x019 ∧ k < 2 ∧ s.cur.setBits.getLsbD (8 + k) = true)) := by
  unfold State.freshFlags
  by_cases ht : s.cur.setTick = s.z0
  · rw [if_neg (not_not.mpr ht)]
    split_ifs with ha he
    · subst ha
      rw [getLsbD_zero_append 56 _ hk, BitVec.getLsbD_extractLsb']
      simp [ht]
    · subst he
      rw [getLsbD_zero_append 62 _ hk, BitVec.getLsbD_extractLsb']
      simp [ht]
    · simp [ha, he]
  · simp [ht]

/-- Settles O17: what the words do from their shared meaning, then the rules for each bit. -/
theorem csrWriteWords : Obligations.CsrWriteWords := by
  refine ⟨fun i op d a csr s hrow hi => exec_csrRow_of_issues hrow hi,
    fun op n old v k hk => ⟨csrNew_getLsbD_of_rw hk, csrNew_getLsbD_of_w1c hk, csrNew_getLsbD_of_ro hk⟩,
    fun n k hk => ⟨csrRW_getLsbD_iff n k hk, csrW1C_getLsbD_iff n k hk⟩,
    fun s n v k hk => s.getLsbD_csr_putCsr v hk, fun s n k hk => s.freshFlags_getLsbD_iff n hk⟩

end Sys2Proof.Machine
end

section
/-! PROOFS. A running word completes (R35, R96, R103, R164, R174). -/

namespace Sys2Proof.Machine

/-! ### What a completion hands over -/

/-- The tables and registers of the sum-product engine, and the scale state. -/
structure StrandTabs where
  shapes : SMap Word
  lists : SMap (BitVec 512)
  v : SMap (BitVec 32)
  scale : SMap (BitVec 128)

/-- The registers, flags and tables that a completing word may write, the words that run, and where the strand stands. -/
structure StrandResults where
  x : SMap Word
  p : BitVec 8
  arith : BitVec 16
  expf : BitVec 2
  seqs : List Nat
  prio : Bool
  vdie : Nat
  cell : Nat
  tabs : StrandTabs

def Strand.tabs (c : Strand) : StrandTabs := { shapes := c.shapes, lists := c.lists, v := c.v, scale := c.scale }

def Strand.results (c : Strand) : StrandResults :=
  { x := c.x, p := c.p, arith := c.arith, expf := c.expf, seqs := c.running.map fun r => r.word.seq,
    prio := c.prio, vdie := c.vdie, cell := c.cell, tabs := c.tabs }

/-- The same of the focused strand, with its slot and the raises that the sync engines hold. -/
structure Results where
  strand : StrandResults
  raises : List Raise
  slot : Nat

def State.results (s : State) : Results := { strand := s.cur.results, raises := s.raises, slot := s.slotNo }

/-- Registers and memory apart, the core of a state determines what a completion hands over. -/
theorem State.results_of_core {s t : State} (h : t.core = s.core) : t.results = s.results := by
  have hslot := congrArg State.slotNo h
  rw [State.slotNo_core, State.slotNo_core] at hslot
  have hstrand : t.core.cur.results = s.core.cur.results := by rw [h]
  have hraises : t.core.raises = s.core.raises := by rw [h]
  change ({ strand := t.core.cur.results, raises := t.core.raises, slot := t.slotNo } : Results) = _
  rw [hstrand, hraises, hslot]
  rfl

theorem State.results_mapCur {s t : State} {f : Strand → Strand} (hcur : t.cur = f s.cur) (hf : (f s.cur).results = s.cur.results)
    (hmain : t.main = s.main) (hprio : t.prioL = s.prioL) (hraises : t.raises = s.raises) : t.results = s.results := by
  have hstrand : t.cur.results = s.cur.results := hcur ▸ hf
  have hp : t.cur.prio = s.cur.prio := congrArg StrandResults.prio hstrand
  have hv : t.cur.vdie = s.cur.vdie := congrArg StrandResults.vdie hstrand
  have hslot : t.slotNo = s.slotNo := by
    unfold State.slotNo State.vd State.launch State.launchD State.launchOf
    rw [hp, hv, hmain, hprio]
  unfold State.results
  rw [hstrand, hraises, hslot]

theorem State.results_modCur (s : State) {f : Strand → Strand} (hf : (f s.cur).results = s.cur.results) :
    (s.modCur f).results = s.results := State.results_mapCur rfl hf rfl rfl rfl

theorem State.results_mapStrands (s : State) {f : Strand → Strand} (hf : ∀ c, (f c).results = c.results) :
    (s.mapStrands f).results = s.results := State.results_mapCur rfl (hf _) rfl rfl rfl

/-! ### The steps of a completion that hand over nothing -/

@[simp] theorem State.results_noteDone (r : Running) (s : State) : (s.noteDone r).results = s.results := s.results_modCur rfl

@[simp] theorem State.results_raiseAsync (t : TrapRec) (s : State) : (raiseAsync t s).results = s.results :=
  State.results_of_core (core_raiseAsync t s)

@[simp] theorem results_completeLink (w : QWord) (disp : Nat) (s : State) : (completeLink w disp s).results = s.results := by
  unfold completeLink
  split <;> rfl

@[simp] theorem State.results_settleStores (s : State) (x : OpenSess) : (s.settleStores x).results = s.results := by
  unfold State.settleStores
  split
  · rfl
  · exact s.results_mapStrands fun _ => rfl

@[simp] theorem State.results_endSession (s : State) (x : OpenSess) : (s.endSession x).results = s.results := by
  have hstores : ∀ t : State, t.results = s.results → (t.settleStores x).results = s.results :=
    fun t ht => (t.results_settleStores x).trans ht
  unfold State.endSession
  split <;> split <;> exact hstores _ rfl

theorem Strand.results_putOff (c : Strand) (seq : Nat) (f : Nat → Nat) : (c.putOff seq f).results = c.results := rfl

theorem Strand.results_foldl_putOff (f : Nat → Nat) (l : List Running) :
    ∀ c : Strand, (l.foldl (fun c x => c.putOff x.word.seq f) c).results = c.results := by
  induction l with
  | nil => exact fun _ => rfl
  | cons x l ih => exact fun c => (ih _).trans (c.results_putOff _ _)

/-- Charging some of the running words leaves each in its place. -/
theorem Strand.results_mapRunning (c : Strand) {f : Running → Running} (hf : ∀ x, (f x).word = x.word) :
    ({ c with running := c.running.map f } : Strand).results = c.results := by
  unfold Strand.results
  simp only [List.map_map, Function.comp_def, hf]
  rfl

@[simp] theorem State.results_charge (s : State) (l : List Writer) : (s.charge l).results = s.results := by
  unfold State.charge
  split
  · rfl
  · refine s.results_mapStrands fun c => (Strand.results_foldl_putOff _ _ _).trans (c.results_mapRunning fun x => ?_)
    split <;> rfl

@[simp] theorem State.results_sessLeave (s : State) (w : Writer) (key : Nat) : (s.sessLeave w key).1.results = s.results := by
  unfold State.sessLeave
  split
  · rfl
  · dsimp only
    split
    · split
      · exact State.results_endSession _ _
      · exact (State.results_charge _ _).trans (State.results_endSession _ _)
    · rfl

theorem State.results_foldl_sessLeave (w : Writer) (l : List OpenSess) :
    ∀ s : State, (l.foldl (fun t x => (t.sessLeave w x.key).1) s).results = s.results := by
  induction l with
  | nil => exact fun _ => rfl
  | cons x l ih => exact fun s => (ih _).trans (s.results_sessLeave w x.key)

@[simp] theorem State.results_closeWord (s : State) (w : QWord) : (s.closeWord w).results = s.results :=
  State.results_foldl_sessLeave _ _ s

@[simp] theorem State.results_settle (s : State) (seq : Nat) : (s.settle seq).results = s.results := s.results_modCur rfl

@[simp] theorem State.results_unchain (s : State) (seq : Nat) : (s.unchain seq).results = s.results := s.results_modCur rfl

@[simp] theorem State.results_railUpdate (s : State) (slot cl : Nat) : (s.railUpdate slot cl).results = s.results := by
  unfold State.railUpdate
  dsimp only
  split
  · split <;> rfl
  · rfl

@[simp] theorem State.results_railSettle (s : State) : s.railSettle.results = s.results := by
  unfold State.railSettle State.railClear
  split
  · rfl
  · exact (State.results_railUpdate _ _ _).trans ((State.results_modCur _ rfl).trans (State.results_modCur _ rfl))

/-! ### The steps that do -/

/-- The word's flags join ARITHFLAG, whether or not one of them traps (R35, R37). -/
theorem State.results_settleFlags (s : State) (f : BitVec 8) (addr : Word) :
    (s.settleFlags f addr).results = (s.orArith f).results := by
  unfold State.settleFlags
  dsimp only
  split
  · exact State.results_raiseAsync _ _
  · rfl

/-- The scalar result of a word that has one. -/
def State.putXres (s : State) (o : Option (Nat × Word)) : State := match o with | some (d, v) => s.setX d v | none => s

/-- The predicate of a word that has one. -/
def State.putPres (s : State) (o : Option (Nat × Bool)) : State := match o with | some (k, v) => s.setP k v | none => s

/-- The predicate select of a word that has one (R174). -/
def State.putPsel (s : State) (o : Option Nat) (v : Bool) : State := match o with | some k => s.setP k v | none => s

/-- A completing word up to its flags. -/
def completeFlags (r : Running) (s : State) : State :=
  let s := (s.modCur fun c => { c with running := c.running.filter fun x => x.word.seq != r.word.seq }).noteDone r
  let s := s.settleFlags r.flags r.word.pc
  if r.exp then s.orExp 1 else s

/-- A completing word up to its scalar result and its predicates. -/
def completeRegs (r : Running) (s : State) : State :=
  (((completeFlags r s).putXres r.xres).putPres r.pres).putPsel r.psel (r.bad || r.exp || r.rnf)

/-- The scale state of an MSCALE (R215). -/
def State.putScale (s : State) (o : Option (List (Nat × BitVec 128))) : State :=
  match o with | some l => s.modCur fun c => { c with scale := scaleState l } | none => s

/-- The bus error of a word that met one (R155). -/
def State.busOf (s : State) (o : Option Word) : State := match o with | some v => busError v s | none => s

/-- The raise of a word that makes one (R103). -/
def State.raiseOf (s : State) (o : Option Nat) : State := match o with | some k => s.raiseNow k 1 false | none => s

theorem completeWord_eq (r : Running) (s : State) : completeWord r s =
    ((((((completeLink r.word r.disp (((completeRegs r s).putTables r.tables).putScale r.scale)).closeWord r.word).busOf r.bus).raiseOf
      r.word.sr).settle r.word.seq).unchain r.word.seq).railSettle := rfl

/-- One entry of a table write (R257, R261, R266). -/
def StrandTabs.put (t : StrandTabs) (e : Nat × Nat × Nat) : StrandTabs :=
  if e.1 = 0 then { t with shapes := sset 0 t.shapes e.2.1 (BitVec.ofNat 64 e.2.2) }
  else if e.1 = 1 then { t with lists := sset 0 t.lists e.2.1 (BitVec.ofNat 512 e.2.2) }
  else { t with v := sset 0 t.v e.2.1 (BitVec.ofNat 32 e.2.2) }

/-- The scale state of a word that has one. -/
def StrandTabs.putScale (t : StrandTabs) (o : Option (List (Nat × BitVec 128))) : StrandTabs :=
  match o with | some l => { t with scale := scaleState l } | none => t

def Results.setTabs (y : Results) (t : StrandTabs) : Results := { y with strand := { y.strand with tabs := t } }

theorem State.results_putTables (l : List (Nat × Nat × Nat)) : ∀ s : State,
    (s.putTables l).results = s.results.setTabs (l.foldl StrandTabs.put s.cur.tabs) := by
  induction l with
  | nil => exact fun _ => rfl
  | cons e l ih =>
    intro s
    refine (ih _).trans ?_
    have htab : (s.modCur fun c =>
        if e.1 = 0 then { c with shapes := sset 0 c.shapes e.2.1 (BitVec.ofNat 64 e.2.2) }
        else if e.1 = 1 then { c with lists := sset 0 c.lists e.2.1 (BitVec.ofNat 512 e.2.2) }
        else { c with v := sset 0 c.v e.2.1 (BitVec.ofNat 32 e.2.2) }).results = s.results.setTabs (s.cur.tabs.put e) := by
      unfold StrandTabs.put
      by_cases h0 : e.1 = 0
      · simp only [h0, if_true]
        rfl
      · by_cases h1 : e.1 = 1
        · simp only [h1, if_true, one_ne_zero, if_false]
          rfl
        · simp only [h0, h1, if_false]
          rfl
    rw [htab]
    have hcur := congrArg (fun y : Results => y.strand.tabs) htab
    exact congrArg (fun t => s.results.setTabs (l.foldl StrandTabs.put t)) hcur

theorem State.results_putScale (s : State) (o : Option (List (Nat × BitVec 128))) :
    (s.putScale o).results = s.results.setTabs (s.cur.tabs.putScale o) := by
  cases o <;> rfl

/-- What the table entries and the scale state of a completing word leave. -/
def Results.putTabs (y : Results) (r : Running) : Results := y.setTabs ((r.tables.foldl StrandTabs.put y.strand.tabs).putScale r.scale)

theorem State.results_putTabs (s : State) (r : Running) : ((s.putTables r.tables).putScale r.scale).results = s.results.putTabs r := by
  have htabs : (s.putTables r.tables).cur.tabs = r.tables.foldl StrandTabs.put s.cur.tabs :=
    congrArg (fun y : Results => y.strand.tabs) (s.results_putTables r.tables)
  rw [State.results_putScale, State.results_putTables, htabs]
  rfl

@[simp] theorem State.results_busOf (s : State) (o : Option Word) : (s.busOf o).results = s.results := by
  cases o
  · rfl
  · exact State.results_raiseAsync _ _

/-- A raise says who makes it, from where the strand stands. -/
def Results.raiseOf (r : Results) (o : Option Nat) : Results :=
  { r with raises := r.raises ++ o.toList.map fun k =>
      { prio := r.strand.prio, vdie := r.strand.vdie, cell := r.strand.cell, slot := r.slot, sem := k, n := 1, init := false } }

theorem State.results_raiseOf (s : State) (o : Option Nat) : (s.raiseOf o).results = s.results.raiseOf o := by
  cases o
  · exact congrArg (fun l => ({ s.results with raises := l } : Results)) (List.append_nil s.raises).symm
  · rfl

/-- After its registers a word hands over its tables and its raise, and nothing else that the registers or the sync engines see. -/
theorem results_completeWord (r : Running) (s : State) :
    (completeWord r s).results = ((completeRegs r s).results.putTabs r).raiseOf r.word.sr := by
  rw [completeWord_eq]
  simp [State.results_raiseOf, State.results_putTabs]

/-! ### Reading what it has handed over -/

theorem State.getX_eq_of_results {s : State} {d : Nat} (h0 : d ≠ 0) (hd : d < 56) : s.getX d = sget 0 s.results.strand.x d := by
  unfold State.getX
  rw [if_neg h0, if_pos (.inl hd)]
  rfl

theorem State.getP_eq_of_results {s : State} {d : Nat} (h0 : d ≠ 0) : s.getP d = s.results.strand.p.getLsbD d := by
  unfold State.getP
  rw [if_neg h0]
  rfl

theorem State.getP_setP (s : State) {d : Nat} (v : Bool) (h0 : d ≠ 0) (hd : d < 8) : (s.setP d v).getP d = v := by
  unfold State.setP State.getP
  rw [if_neg h0, if_neg h0, State.modCur_cur]
  cases v <;> simp [hd]

/-- What is handed over without the scalar registers and the predicates. -/
def Results.dropRegs (r : Results) : Results := { r with strand := { r.strand with x := [], p := 0 } }

theorem State.dropRegs_setX (s : State) (d : Nat) (v : Word) : (s.setX d v).results.dropRegs = s.results.dropRegs := by
  unfold State.setX
  split
  · rfl
  · split <;> rfl

theorem State.dropRegs_setP (s : State) (d : Nat) (v : Bool) : (s.setP d v).results.dropRegs = s.results.dropRegs := by
  unfold State.setP
  split <;> rfl

theorem dropRegs_completeRegs (r : Running) (s : State) :
    (completeRegs r s).results.dropRegs = (completeFlags r s).results.dropRegs := by
  have hx : ((completeFlags r s).putXres r.xres).results.dropRegs = (completeFlags r s).results.dropRegs := by
    unfold State.putXres
    split
    · exact State.dropRegs_setX _ _ _
    · rfl
  have hp (t : State) : (t.putPres r.pres).results.dropRegs = t.results.dropRegs := by
    unfold State.putPres
    split
    · exact State.dropRegs_setP _ _ _
    · rfl
  have hs (t : State) (v : Bool) : (t.putPsel r.psel v).results.dropRegs = t.results.dropRegs := by
    unfold State.putPsel
    split
    · exact State.dropRegs_setP _ _ _
    · rfl
  exact (hs _ _).trans ((hp _).trans hx)

theorem State.results_orArith (s : State) (f : BitVec 8) : (s.orArith f).results =
    { s.results with strand := { s.results.strand with arith := s.results.strand.arith ||| (0#8 ++ f) } } := rfl

theorem State.results_orExp (s : State) (f : BitVec 2) : (s.orExp f).results =
    { s.results with strand := { s.results.strand with expf := s.results.strand.expf ||| f } } := rfl

/-- The word no longer runs, and its flags and its expired read join the strand's. -/
def Results.ofFlags (y : Results) (r : Running) (running : List Running) : Results :=
  { y with strand := { y.strand with
      arith := y.strand.arith ||| (0#8 ++ r.flags)
      expf := if r.exp then y.strand.expf ||| 1 else y.strand.expf
      seqs := (running.filter fun x => x.word.seq != r.word.seq).map fun x => x.word.seq } }

theorem results_completeFlags (r : Running) (s : State) :
    (completeFlags r s).results = s.results.ofFlags r s.cur.running := by
  unfold completeFlags Results.ofFlags
  dsimp only
  split <;> simp only [State.results_orExp, State.results_settleFlags, State.results_orArith, State.results_noteDone] <;> rfl

theorem dropRegs_completeWord (r : Running) (s : State) :
    (completeWord r s).results.dropRegs = (((s.results.ofFlags r s.cur.running).putTabs r).raiseOf r.word.sr).dropRegs := by
  rw [results_completeWord, ← results_completeFlags]
  exact congrArg (fun x => (Results.putTabs x r).raiseOf r.word.sr) (dropRegs_completeRegs r s)

theorem getX_completeWord {r : Running} (s : State) {d : Nat} {v : Word} (h : r.xres = some (d, v)) (h0 : d ≠ 0) (hd : d < 56) :
    (completeWord r s).getX d = v := by
  have hpsel (t : State) (b : Bool) : (t.putPsel r.psel b).cur.x = t.cur.x := by
    unfold State.putPsel
    split <;> simp
  have hpres (t : State) : (t.putPres r.pres).cur.x = t.cur.x := by
    unfold State.putPres
    split <;> simp
  have hx : (completeRegs r s).cur.x = ((completeFlags r s).setX d v).cur.x := by
    unfold completeRegs
    rw [hpsel, hpres, h]
    rfl
  rw [State.getX_eq_of_results h0 hd, results_completeWord]
  change sget 0 (completeRegs r s).cur.x d = v
  rw [hx]
  unfold State.setX
  rw [if_neg h0, if_pos (.inl hd)]
  exact sget_sset_same 0 _ d v

theorem getP_completeWord (r : Running) (s : State) {d : Nat} (h0 : d ≠ 0) : (completeWord r s).getP d = (completeRegs r s).getP d := by
  rw [State.getP_eq_of_results h0, State.getP_eq_of_results h0, results_completeWord]
  rfl

theorem seqs_completeWord {r : Running} {s : State} {x : Running} (hx : x ∈ (completeWord r s).cur.running) :
    x.word.seq ≠ r.word.seq := by
  have hseqs := congrArg (fun y : Results => y.strand.seqs) (dropRegs_completeWord r s)
  have hmem : x.word.seq ∈ (completeWord r s).results.dropRegs.strand.seqs := List.mem_map_of_mem hx
  rw [hseqs] at hmem
  obtain ⟨y, hy, hyx⟩ := List.mem_map.mp hmem
  rw [← hyx]
  simpa using (List.mem_filter.mp hy).2

/-- The tables and the scale state after a completion. -/
theorem tabs_completeWord (r : Running) (s : State) :
    (completeWord r s).cur.tabs = (r.tables.foldl StrandTabs.put s.cur.tabs).putScale r.scale :=
  congrArg (fun y : Results => y.strand.tabs) (dropRegs_completeWord r s)

theorem raises_completeWord (r : Running) (s : State) : (completeWord r s).raises = (s.results.raiseOf r.word.sr).raises :=
  congrArg Results.raises (dropRegs_completeWord r s)

theorem arith_completeWord (r : Running) (s : State) : (completeWord r s).cur.arith = s.cur.arith ||| (0#8 ++ r.flags) :=
  congrArg (fun y : Results => y.strand.arith) (dropRegs_completeWord r s)

theorem expf_completeWord (r : Running) (s : State) :
    (completeWord r s).cur.expf = if r.exp then s.cur.expf ||| 1 else s.cur.expf :=
  congrArg (fun y : Results => y.strand.expf) (dropRegs_completeWord r s)

/-- Settles O43: what a completion hands over, read field by field. -/
theorem engineWordCompletion : Obligations.EngineWordCompletion := by
  intro seq r s hfind
  have hseq : r.word.seq = seq := by
    have hr := List.find?_some hfind
    simp only [Bool.and_eq_true, beq_iff_eq] at hr
    exact hr.1
  have hexec : exec (.engineWordCompletion seq) s = .next (completeWord r s) := by
    change Host.Outcome.next (match s.cur.running.find? _ with | some r => completeWord r s | none => s) = _
    rw [hfind]
  refine ⟨completeWord r s, hexec, fun x hx => hseq ▸ seqs_completeWord hx, fun d v h h0 hd => getX_completeWord s h h0 hd,
    fun d v h hsel h0 hd => ?pres, fun d h h0 hd => ?psel, arith_completeWord r s, ?exp0, ?exp1, fun k hk => ?raise⟩
  case pres =>
    rw [getP_completeWord r s h0]
    unfold completeRegs
    rw [h, hsel]
    exact State.getP_setP _ v h0 hd
  case psel =>
    rw [getP_completeWord r s h0]
    unfold completeRegs
    rw [h]
    exact State.getP_setP _ _ h0 hd
  case exp0 => cases hexp : r.exp <;> simp [expf_completeWord, hexp]
  case exp1 => cases hexp : r.exp <;> simp [expf_completeWord, hexp]
  case raise =>
    rw [raises_completeWord, hk]
    exact ⟨_, List.mem_append_right _ (List.mem_singleton_self _), rfl, rfl, rfl, rfl, rfl, rfl, rfl⟩

end Sys2Proof.Machine
end

section
/-! PROOFS. Integer formats: codes and their integers, clamping, and the results of integer lanes and K-steps (R25, R34, R39, R229,
R232). -/

namespace Sys2Proof.Machine

/-! ### Two's complement -/

theorem intBits_lt (w : Nat) (x : Int) : intBits w x < 2 ^ w := by
  have hpos : (0 : Int) < 2 ^ w := by positivity
  have hlt := Int.emod_lt_of_pos x hpos
  unfold intBits
  zify
  rw [Int.toNat_of_nonneg (Int.emod_nonneg x hpos.ne')]
  exact hlt

theorem natCast_intBits (w : Nat) (x : Int) : (intBits w x : Int) = x % 2 ^ w :=
  Int.toNat_of_nonneg (Int.emod_nonneg x (by positivity))

/-- The bits of an integer hold it modulo the width. -/
theorem toSInt_intBits_emod (w : Nat) (x : Int) : (toSInt w (intBits w x) - x) % 2 ^ w = 0 := by
  unfold toSInt
  split
  · rw [natCast_intBits, Int.sub_emod, Int.emod_emod, sub_self, Int.zero_emod]
  · rw [natCast_intBits, sub_right_comm, Int.sub_emod_right, Int.sub_emod, Int.emod_emod, sub_self, Int.zero_emod]

theorem toSInt_intBits_of_mem {w : Nat} {x : Int} (hw : 0 < w) (hlo : -2 ^ (w - 1) ≤ x) (hhi : x < 2 ^ (w - 1)) :
    toSInt w (intBits w x) = x := by
  obtain ⟨v, rfl⟩ : ∃ v, w = v + 1 := ⟨w - 1, by omega⟩
  simp only [Nat.add_sub_cancel] at hlo hhi
  have hcast := natCast_intBits (v + 1) x
  have hpow : (2 : Int) ^ (v + 1) = 2 * 2 ^ v := by ring
  rw [hpow] at hcast
  have hlt : ((intBits (v + 1) x : Nat) : Int) < 2 ^ v ↔ intBits (v + 1) x < 2 ^ v := by exact_mod_cast Iff.rfl
  unfold toSInt
  rw [Nat.add_sub_cancel]
  by_cases hneg : x < 0
  · have hmod : x % (2 * 2 ^ v) = x + 2 * 2 ^ v := by
      rw [← Int.add_emod_right, Int.emod_eq_of_lt (by omega) (by omega)]
    rw [if_neg (by rw [← hlt]; omega), hpow]
    omega
  · have hmod : x % (2 * 2 ^ v) = x := Int.emod_eq_of_lt (by omega) (by omega)
    rw [if_pos (by rw [← hlt]; omega)]
    omega

/-! ### Integer formats -/

/-- The codes of the integer formats (Table 2-1). -/
def intCodes : List Nat := [0x04, 0x05, 0x06, 0x07, 0x08, 0x0F]

theorem fmtBits_pos (f : Nat) : 0 < fmtBits f := by
  unfold fmtBits
  split <;> decide

/-- The range of a format is that of its width, without a sign for ui8 (R25). -/
theorem intRange_eq {f : Nat} (hf : f ∈ intCodes) : intRange f =
    (if f = 0x07 then 0 else -2 ^ (fmtBits f - 1), if f = 0x07 then 255 else 2 ^ (fmtBits f - 1) - 1) := by
  revert f
  decide

theorem intRange_le {f : Nat} (hf : f ∈ intCodes) : (intRange f).1 ≤ (intRange f).2 := by
  revert f
  decide

theorem ffmtOf_intCodes {f : Nat} (hf : f ∈ intCodes) : ffmtOf f = none := by
  revert f
  decide

theorem fmtInt_iff (f : Nat) : fmtInt f = true ↔ f ∈ intCodes := by
  simp [fmtInt, intCodes, or_assoc]

theorem intVal_intBits_emod (f : Nat) (x : Int) : (intVal f (intBits (fmtBits f) x) - x) % 2 ^ fmtBits f = 0 := by
  unfold intVal
  split_ifs with hf
  · subst hf
    rw [Int.natCast_mod, natCast_intBits, show fmtBits 7 = 8 from rfl, Int.sub_emod]
    norm_num
  · rw [Nat.mod_eq_of_lt (intBits_lt _ x), toSInt_intBits_emod]

theorem intVal_intBits_of_mem {f : Nat} {x : Int} (hf : f ∈ intCodes) (hlo : (intRange f).1 ≤ x) (hhi : x ≤ (intRange f).2) :
    intVal f (intBits (fmtBits f) x) = x := by
  rw [intRange_eq hf] at hlo hhi
  unfold intVal
  split_ifs at hlo hhi ⊢ with h7
  · subst h7
    rw [Int.natCast_mod, natCast_intBits, show fmtBits 7 = 8 from rfl]
    omega
  · rw [Nat.mod_eq_of_lt (intBits_lt _ x)]
    exact toSInt_intBits_of_mem (fmtBits_pos f) hlo (by omega)

/-! ### Clamping -/

theorem clampInt_eq {r : Int × Int} (hr : r.1 ≤ r.2) (x : Int) :
    clampInt r x = (max r.1 (min r.2 x), decide (max r.1 (min r.2 x) ≠ x)) := by
  unfold clampInt
  split_ifs with hlo hhi
  · rw [min_eq_right (by omega), max_eq_left (by omega), decide_eq_true (by omega)]
  · rw [min_eq_left (by omega), max_eq_right hr, decide_eq_true (by omega)]
  · rw [min_eq_right (by omega), max_eq_right (by omega)]
    simp

theorem clampInt_mem {r : Int × Int} (hr : r.1 ≤ r.2) (x : Int) : r.1 ≤ (clampInt r x).1 ∧ (clampInt r x).1 ≤ r.2 := by
  rw [clampInt_eq hr]
  exact ⟨le_max_left _ _, max_le hr (min_le_left _ _)⟩

/-- The code of a clamped integer holds it. -/
theorem intVal_clampInt {f : Nat} (hf : f ∈ intCodes) (x : Int) :
    intVal f (intBits (fmtBits f) (clampInt (intRange f) x).1) = max (intRange f).1 (min (intRange f).2 x) := by
  obtain ⟨hlo, hhi⟩ := clampInt_mem (intRange_le hf) x
  rw [intVal_intBits_of_mem hf hlo hhi, clampInt_eq (intRange_le hf)]

/-- An INT32 element is a code of format 0x04. -/
theorem toSInt_32_eq_intVal {v : Nat} (hv : v < 2 ^ 32) : toSInt 32 v = intVal 0x04 v := by
  change _ = toSInt 32 (v % 2 ^ 32)
  rw [Nat.mod_eq_of_lt hv]

/-! ### Flags -/

theorem ite_flagSAT_eq_flagSAT_iff (b : Bool) : (if b then flagSAT else 0) = flagSAT ↔ b = true := by
  cases b <;> decide

theorem ite_flagSAT_eq_zero_iff (b : Bool) : (if b then flagSAT else 0) = 0 ↔ b = false := by
  cases b <;> decide

/-! ### Lanes and K-steps -/

theorem intVal_satLane (op : Bin) {f : Nat} (a b : Nat) (hf : f ∈ intCodes) :
    intVal f (satLane op f a b).1 = max (intRange f).1 (min (intRange f).2 (intBin op (intVal f a) (intVal f b))) :=
  intVal_clampInt hf _

theorem satLane_flags (op : Bin) {f : Nat} (a b : Nat) (hf : f ∈ intCodes) :
    (satLane op f a b).2 =
      if decide (intVal f (satLane op f a b).1 ≠ intBin op (intVal f a) (intVal f b)) then flagSAT else 0 := by
  rw [intVal_satLane op a b hf]
  unfold satLane
  rw [clampInt_eq (intRange_le hf)]

theorem binLane_of_int (op : Bin) {f : Nat} (a b : Nat) (hf : f ∈ intCodes) :
    binLane op f a b = (intBits (fmtBits f) (intBin op (intVal f a) (intVal f b)), 0) := by
  unfold binLane
  rw [ffmtOf_intCodes hf]

theorem joinInt_wrap (old : Nat) (x : Int) : joinInt false old x = (intBits 32 (toSInt 32 old + x), 0) := rfl

theorem joinInt_sat (old : Nat) (x : Int) : joinInt true old x =
    (intBits 32 (clampInt (intRange 0x04) (toSInt 32 old + x)).1,
      if (clampInt (intRange 0x04) (toSInt 32 old + x)).2 then flagSAT else 0) := rfl

theorem toSInt_joinInt_sat (old : Nat) (x : Int) :
    toSInt 32 (joinInt true old x).1 = max (intRange 0x04).1 (min (intRange 0x04).2 (toSInt 32 old + x)) := by
  rw [joinInt_sat, toSInt_32_eq_intVal (intBits_lt 32 _)]
  exact intVal_clampInt (by decide) _

theorem joinInt_sat_flags (old : Nat) (x : Int) :
    (joinInt true old x).2 = if decide (toSInt 32 (joinInt true old x).1 ≠ toSInt 32 old + x) then flagSAT else 0 := by
  rw [toSInt_joinInt_sat, joinInt_sat, clampInt_eq (by decide)]

/-- Settles O44: a saturating result is the code of a clamped integer, a wrapping one holds the integer modulo its width. -/
theorem integerArithmetic : Obligations.IntegerArithmetic := by
  refine ⟨fun op f a b hf => ?saturating, fun op f a b hf => ?wrapping, fun old x _ => ⟨toSInt_intBits_emod 32 _, rfl⟩,
    fun old x _ => ?kstep⟩
  case saturating =>
    refine ⟨?_, ?_, ?_⟩
    · rw [intVal_satLane op a b hf, intRange_eq hf]
    · rw [satLane_flags op a b hf, ite_flagSAT_eq_flagSAT_iff, decide_eq_true_iff]
    · rw [satLane_flags op a b hf, ite_flagSAT_eq_zero_iff, decide_eq_false_iff_not, not_not]
  case wrapping =>
    rw [binLane_of_int op a b hf]
    exact ⟨intVal_intBits_emod f _, rfl⟩
  case kstep =>
    refine ⟨toSInt_joinInt_sat old x, ?_, ?_⟩
    · rw [joinInt_sat_flags, ite_flagSAT_eq_flagSAT_iff, decide_eq_true_iff]
    · rw [joinInt_sat_flags, ite_flagSAT_eq_zero_iff, decide_eq_false_iff_not, not_not]

end Sys2Proof.Machine
end

section
/-! PROOFS. Numbers: the value of a number as a rational, exact arithmetic, comparison, and rounding to the nearest, ties to even (R20
to R34). -/

namespace Sys2Proof.Machine

/-! ### Values as rationals -/

theorem two_zpow_pos (e : Int) : (0 : ℚ) < 2 ^ e := zpow_pos (by norm_num) e

theorem two_zpow_add (a b : Int) : (2 : ℚ) ^ (a + b) = 2 ^ a * 2 ^ b := zpow_add₀ (by norm_num) a b

theorem two_zpow_le_iff {a b : Int} : (2 : ℚ) ^ a ≤ 2 ^ b ↔ a ≤ b := zpow_le_zpow_iff_right₀ (by norm_num)

theorem two_zpow_lt_iff {a b : Int} : (2 : ℚ) ^ a < 2 ^ b ↔ a < b := zpow_lt_zpow_iff_right₀ (by norm_num)

/-- A whole power of two splits off the exponent. -/
theorem two_zpow_toNat {e f : Int} (h : f ≤ e) : (2 : ℚ) ^ e = 2 ^ (e - f).toNat * 2 ^ f := by
  rw [← zpow_natCast, Int.toNat_of_nonneg (by omega), ← two_zpow_add]
  congr 1
  omega

theorem cast_signed (n : Bool) (m : Nat) : ((signed n m : Int) : ℚ) = if n then -(m : ℚ) else m := by
  cases n <;> simp [signed]

theorem Num.rat_fin (n : Bool) (m : Nat) (e : Int) : (Num.fin n m e).rat = (signed n m : Int) * (2 : ℚ) ^ e := by
  rw [cast_signed]
  rfl

theorem Num.exists_fin_of_isFin {v : Num} (h : v.isFin = true) : ∃ n m e, v = .fin n m e := by
  cases v with
  | fin n m e => exact ⟨n, m, e, rfl⟩
  | nan => cases h
  | inf n => cases h

theorem abs_signed (n : Bool) (m : Nat) : |((signed n m : Int) : ℚ)| = m := by
  rw [cast_signed]
  cases n <;> simp

theorem Num.abs_rat_fin (n : Bool) (m : Nat) (e : Int) : |(Num.fin n m e).rat| = m * (2 : ℚ) ^ e := by
  rw [Num.rat_fin, abs_mul, abs_signed, abs_of_pos (two_zpow_pos e)]

theorem Num.rat_fin_eq_zero_iff {n : Bool} {m : Nat} {e : Int} : (Num.fin n m e).rat = 0 ↔ m = 0 := by
  rw [← abs_eq_zero, Num.abs_rat_fin]
  simp [(two_zpow_pos e).ne']

theorem Num.rat_fin_neg_iff {n : Bool} {m : Nat} {e : Int} : (Num.fin n m e).rat < 0 ↔ n = true ∧ m ≠ 0 := by
  have hp := two_zpow_pos e
  rw [Num.rat_fin, cast_signed]
  cases n
  · simpa using mul_nonneg (Nat.cast_nonneg m) hp.le
  · rw [if_pos rfl, neg_mul, neg_lt_zero, mul_pos_iff_of_pos_right hp]
    simp [Nat.pos_iff_ne_zero]

@[simp] theorem Num.rat_zero : Num.zero.rat = 0 := by simp [Num.zero, Num.rat]

@[simp] theorem Num.isFin_zero : Num.zero.isFin = true := rfl

theorem signed_decide_neg (x : Int) : signed (decide (x < 0)) x.natAbs = x := by
  unfold signed
  split <;> rename_i h
  · have := of_decide_eq_true h
    omega
  · have : ¬ x < 0 := fun hx => h (decide_eq_true hx)
    omega

@[simp] theorem Num.rat_ofInt (x : Int) : (Num.ofInt x).rat = x := by
  rw [Num.ofInt, Num.rat_fin, signed_decide_neg]
  simp

@[simp] theorem Num.isFin_ofInt (x : Int) : (Num.ofInt x).isFin = true := rfl

/-! ### Exact arithmetic -/

@[simp] theorem Num.isFin_neg (v : Num) : v.neg.isFin = v.isFin := by cases v <;> rfl

@[simp] theorem Num.isNan_neg (v : Num) : v.neg.isNan = v.isNan := by cases v <;> rfl

@[simp] theorem Num.rat_neg (v : Num) : v.neg.rat = -v.rat := by
  cases v with
  | fin n m e =>
    rw [Num.neg, Num.rat_fin, Num.rat_fin, cast_signed, cast_signed]
    cases n <;> simp
  | nan => exact neg_zero.symm
  | inf n => exact neg_zero.symm

@[simp] theorem Num.isFin_scale (v : Num) (k : Int) : (v.scale k).isFin = v.isFin := by cases v <;> rfl

@[simp] theorem Num.rat_scale (v : Num) (k : Int) : (v.scale k).rat = v.rat * (2 : ℚ) ^ k := by
  cases v with
  | fin n m e => rw [Num.scale, Num.rat_fin, Num.rat_fin, two_zpow_add, mul_assoc]
  | nan => exact (zero_mul _).symm
  | inf n => exact (zero_mul _).symm

@[simp] theorem Num.scale_zero (v : Num) : v.scale 0 = v := by
  cases v <;> simp [Num.scale]

theorem Num.isNan_of_isFin {v : Num} (h : v.isFin = true) : v.isNan = false := by
  cases v with
  | fin n m e => rfl
  | nan => cases h
  | inf n => cases h

theorem alignTo_mul {m e f : Int} (h : f ≤ e) : ((alignTo m e f : Int) : ℚ) * 2 ^ f = m * 2 ^ e := by
  rw [alignTo, two_zpow_toNat h]
  push_cast
  ring

/-- The aligned difference of two finite values has the sign of their difference. -/
theorem cmpFin_mul (na : Bool) (ma : Nat) (ea : Int) (nb : Bool) (mb : Nat) (eb : Int) :
    ((cmpFin na ma ea nb mb eb : Int) : ℚ) * 2 ^ min ea eb = (Num.fin na ma ea).rat - (Num.fin nb mb eb).rat := by
  rw [cmpFin, Int.cast_sub, sub_mul, alignTo_mul (min_le_left ea eb), alignTo_mul (min_le_right ea eb), Num.rat_fin, Num.rat_fin]

theorem cmpFin_neg_iff {na : Bool} {ma : Nat} {ea : Int} {nb : Bool} {mb : Nat} {eb : Int} :
    cmpFin na ma ea nb mb eb < 0 ↔ (Num.fin na ma ea).rat < (Num.fin nb mb eb).rat := by
  rw [← sub_neg (a := Num.rat _), ← cmpFin_mul, ← Int.cast_lt_zero (R := ℚ)]
  exact ⟨fun h => mul_neg_of_neg_of_pos h (two_zpow_pos _), fun h => neg_of_mul_neg_left h (two_zpow_pos _).le⟩

theorem cmpFin_pos_iff {na : Bool} {ma : Nat} {ea : Int} {nb : Bool} {mb : Nat} {eb : Int} :
    0 < cmpFin na ma ea nb mb eb ↔ (Num.fin nb mb eb).rat < (Num.fin na ma ea).rat := by
  rw [← sub_pos (a := Num.rat _), ← cmpFin_mul, mul_pos_iff_of_pos_right (two_zpow_pos _), Int.cast_pos]

theorem cmpFin_nonpos_iff {na : Bool} {ma : Nat} {ea : Int} {nb : Bool} {mb : Nat} {eb : Int} :
    cmpFin na ma ea nb mb eb ≤ 0 ↔ (Num.fin na ma ea).rat ≤ (Num.fin nb mb eb).rat := by
  rw [← not_lt, cmpFin_pos_iff, not_lt]

theorem Num.lt_eq_decide {a b : Num} (ha : a.isFin = true) (hb : b.isFin = true) : a.lt b = decide (a.rat < b.rat) := by
  obtain ⟨na, ma, ea, rfl⟩ := Num.exists_fin_of_isFin ha
  obtain ⟨nb, mb, eb, rfl⟩ := Num.exists_fin_of_isFin hb
  exact decide_eq_decide.mpr cmpFin_neg_iff

theorem Num.eqv_eq_decide {a b : Num} (ha : a.isFin = true) (hb : b.isFin = true) : a.eqv b = decide (a.rat = b.rat) := by
  have hlt := Num.lt_eq_decide ha hb
  have hgt := Num.lt_eq_decide hb ha
  obtain ⟨na, ma, ea, rfl⟩ := Num.exists_fin_of_isFin ha
  obtain ⟨nb, mb, eb, rfl⟩ := Num.exists_fin_of_isFin hb
  change (!Num.lt _ _ && !Num.lt _ _) = _
  rw [hlt, hgt, ← decide_not, ← decide_not, ← Bool.decide_and, decide_eq_decide, not_lt, not_lt, ← le_antisymm_iff, eq_comm]

/-- The sum of two finite values is exact. -/
theorem Num.add_fin {a b : Num} (ha : a.isFin = true) (hb : b.isFin = true) :
    (a.add b).2 = false ∧ (a.add b).1.isFin = true ∧ (a.add b).1.rat = a.rat + b.rat := by
  obtain ⟨na, ma, ea, rfl⟩ := Num.exists_fin_of_isFin ha
  obtain ⟨nb, mb, eb, rfl⟩ := Num.exists_fin_of_isFin hb
  have hsum : ((alignTo (signed na ma) ea (min ea eb) + alignTo (signed nb mb) eb (min ea eb) : Int) : ℚ) * 2 ^ min ea eb
      = (Num.fin na ma ea).rat + (Num.fin nb mb eb).rat := by
    rw [Int.cast_add, add_mul, alignTo_mul (min_le_left ea eb), alignTo_mul (min_le_right ea eb), Num.rat_fin, Num.rat_fin]
  unfold Num.add
  dsimp only
  split_ifs with h0
  · refine ⟨rfl, rfl, ?_⟩
    rw [← hsum, h0, Num.rat_fin_eq_zero_iff.mpr rfl]
    simp
  · refine ⟨rfl, rfl, ?_⟩
    rw [← hsum, Num.rat_fin, signed_decide_neg]

theorem signed_mul (na nb : Bool) (ma mb : Nat) : signed (na != nb) (ma * mb) = signed na ma * signed nb mb := by
  cases na <;> cases nb <;> simp [signed]

/-- The product of two finite values is exact. -/
theorem Num.mul_fin {a b : Num} (ha : a.isFin = true) (hb : b.isFin = true) :
    (a.mul b).2 = false ∧ (a.mul b).1.isFin = true ∧ (a.mul b).1.rat = a.rat * b.rat := by
  obtain ⟨na, ma, ea, rfl⟩ := Num.exists_fin_of_isFin ha
  obtain ⟨nb, mb, eb, rfl⟩ := Num.exists_fin_of_isFin hb
  refine ⟨rfl, rfl, ?_⟩
  change (Num.fin _ _ _).rat = _
  rw [Num.rat_fin, Num.rat_fin, Num.rat_fin, signed_mul, two_zpow_add]
  push_cast
  ring

@[simp] theorem Num.nan_add (b : Num) : Num.nan.add b = (.nan, false) := rfl

@[simp] theorem Num.add_nan (a : Num) : a.add .nan = (.nan, false) := by cases a <;> rfl

@[simp] theorem Num.nan_mul (b : Num) : Num.nan.mul b = (.nan, false) := rfl

@[simp] theorem Num.mul_nan (a : Num) : a.mul .nan = (.nan, false) := by cases a <;> rfl

theorem Num.eq_nan_of_isNan {v : Num} (h : v.isNan = true) : v = .nan := by
  cases v with
  | nan => rfl
  | fin n m e => cases h
  | inf n => cases h

/-! ### Rounding to the nearest, ties to even -/

/-- `q` is the integer nearest to `x`, and the even one of two. -/
def Nearest (x : ℚ) (q : Int) : Prop := 2 * |x - q| ≤ 1 ∧ (2 * |x - q| = 1 → q % 2 = 0)

theorem nearest_intCast (q : Int) : Nearest q q := by simp [Nearest]

theorem Nearest.neg {x : ℚ} {q : Int} (h : Nearest x q) : Nearest (-x) (-q) := by
  have habs : |-x - ((-q : Int) : ℚ)| = |x - q| := by
    rw [← abs_neg]
    congr 1
    push_cast
    ring
  unfold Nearest
  rw [habs]
  exact ⟨h.1, fun ht => by have := h.2 ht; omega⟩

theorem nearest_signed {x : ℚ} {q : Nat} (n : Bool) (h : Nearest x q) : Nearest (if n then -x else x) (signed n q) := by
  cases n
  · exact h
  · exact h.neg

/-- No other integer is nearer, and of two that are equally near the even one stands. -/
theorem Nearest.le {x : ℚ} {q : Int} (h : Nearest x q) (k : Int) : |x - q| ≤ |x - k| ∧ (k ≠ q → |x - k| = |x - q| → q % 2 = 0) := by
  obtain ⟨hle, heven⟩ := h
  by_cases hk : k = q
  · subst hk
    exact ⟨le_rfl, fun h => absurd rfl h⟩
  · have hone : (1 : ℚ) ≤ |(q : ℚ) - k| := by
      have : (1 : Int) ≤ |q - k| := Int.one_le_abs (by omega)
      exact_mod_cast this
    have htri : |(q : ℚ) - k| ≤ |x - q| + |x - k| := by
      rw [abs_sub_comm x q]
      have := abs_sub_le (q : ℚ) x k
      exact this
    exact ⟨by linarith, fun _ he => heven (by linarith)⟩

theorem Nearest.le_of_le {x : ℚ} {q k : Int} (h : Nearest x q) (hk : x ≤ k) : q ≤ k := by
  by_contra hlt
  have hone : (k : ℚ) + 1 ≤ q := by exact_mod_cast Int.add_one_le_of_lt (not_le.mp hlt)
  have hle := h.1
  rw [abs_of_neg (by linarith)] at hle
  linarith

theorem Nearest.le_of_ge {x : ℚ} {q k : Int} (h : Nearest x q) (hk : k ≤ x) : k ≤ q := by
  by_contra hlt
  have hone : (q : ℚ) + 1 ≤ k := by exact_mod_cast Int.add_one_le_of_lt (not_le.mp hlt)
  have hle := h.1
  rw [abs_of_pos (by linarith)] at hle
  linarith

/-- A remainder below the divisor, as a nearest quotient. -/
theorem nearest_div {m d : Nat} (hd : 0 < d) :
    Nearest ((m : ℚ) / d) ((if decide (d < 2 * (m % d)) || (2 * (m % d) == d && m / d % 2 == 1) then m / d + 1 else m / d : Nat) : Int) := by
  have hdq : (0 : ℚ) < d := by exact_mod_cast hd
  have hm : (m : ℚ) / d = (m / d : Nat) + ((m % d : Nat) : ℚ) / d := by
    rw [eq_comm, ← mul_left_inj' hdq.ne', add_mul, div_mul_cancel₀ _ hdq.ne', div_mul_cancel₀ _ hdq.ne']
    exact_mod_cast Nat.div_add_mod' m d
  have hr := Nat.mod_lt m hd
  set r := m % d
  set q := m / d
  have hfrac : (0 : ℚ) ≤ (r : ℚ) / d := by positivity
  split_ifs with hup
  · simp only [Bool.or_eq_true, decide_eq_true_eq, Bool.and_eq_true, beq_iff_eq] at hup
    have hhalf : (1 : ℚ) ≤ 2 * ((r : ℚ) / d) := by
      rw [← mul_div_assoc, le_div_iff₀ hdq, one_mul]
      exact_mod_cast (show d ≤ 2 * r by omega)
    have hone : (r : ℚ) / d < 1 := by
      rw [div_lt_one hdq]
      exact_mod_cast hr
    have habs : |(m : ℚ) / d - ((q + 1 : Nat) : Int)| = 1 - (r : ℚ) / d := by
      rw [hm, abs_of_nonpos (by push_cast; linarith)]
      push_cast
      ring
    unfold Nearest
    rw [habs]
    refine ⟨by linarith, fun ht => ?_⟩
    have hreq : 2 * ((r : ℚ) / d) = 1 := by linarith
    rw [← mul_div_assoc, div_eq_one_iff_eq hdq.ne'] at hreq
    have : 2 * r = d := by exact_mod_cast hreq
    omega
  · simp only [Bool.or_eq_true, decide_eq_true_eq, Bool.and_eq_true, beq_iff_eq, not_or, not_and, not_lt] at hup
    obtain ⟨hlow, htie⟩ := hup
    have hhalf : 2 * ((r : ℚ) / d) ≤ 1 := by
      rw [← mul_div_assoc, div_le_one hdq]
      exact_mod_cast hlow
    have habs : |(m : ℚ) / d - ((q : Nat) : Int)| = (r : ℚ) / d := by
      rw [hm, abs_of_nonneg (by push_cast; linarith)]
      push_cast
      ring
    unfold Nearest
    rw [habs]
    refine ⟨hhalf, fun ht => ?_⟩
    rw [← mul_div_assoc, div_eq_one_iff_eq hdq.ne'] at ht
    have h2 : 2 * r = d := by exact_mod_cast ht
    have := htie h2
    omega

theorem two_zpow_div_grid (m : Nat) (e l : Int) : (m : ℚ) * 2 ^ e / 2 ^ l = m * 2 ^ (e - l) := by
  rw [zpow_sub₀ (by norm_num)]
  ring

/-- The rounded magnitude is the nearest multiple of the grid, and the flag says whether it is another value. -/
theorem roundMag_rne (n : Bool) (m : Nat) (e l : Int) :
    Nearest (m * (2 : ℚ) ^ (e - l)) (roundMag .rne n m e l).1
      ∧ ((roundMag .rne n m e l).2 = false ↔ ((roundMag .rne n m e l).1 : ℚ) = m * (2 : ℚ) ^ (e - l)) := by
  unfold roundMag
  split_ifs with hle
  · have hval : (m : ℚ) * 2 ^ (e - l) = ((m * 2 ^ (e - l).toNat : Nat) : Int) := by
      have hpow := two_zpow_toNat (show (0 : Int) ≤ e - l by omega)
      rw [sub_zero, zpow_zero, mul_one] at hpow
      rw [hpow]
      push_cast
      rfl
    refine ⟨?_, ?_⟩
    · rw [hval]
      exact nearest_intCast _
    · simp [hval]
  · have hd : 0 < 2 ^ (l - e).toNat := by positivity
    have hval : (m : ℚ) * 2 ^ (e - l) = (m : ℚ) / ((2 ^ (l - e).toNat : Nat) : ℚ) := by
      rw [Nat.cast_pow, Nat.cast_ofNat, ← zpow_natCast, Int.toNat_of_nonneg (by omega), div_eq_mul_inv, ← zpow_neg, neg_sub]
    dsimp only
    rw [hval]
    refine ⟨nearest_div hd, ?_⟩
    generalize hdd : 2 ^ (l - e).toNat = d at hd
    have hdq : (0 : ℚ) < d := by exact_mod_cast hd
    have hdm := Nat.div_add_mod m d
    rw [eq_div_iff hdq.ne', bne_eq_false_iff_eq]
    norm_cast
    constructor
    · intro hr
      rw [hr] at hdm ⊢
      rw [if_neg (by simp; omega), mul_comm]
      exact hdm
    · intro hq
      split_ifs at hq with hup
      · have hlt := Nat.mod_lt m hd
        rw [add_mul, one_mul, mul_comm] at hq
        omega
      · rw [mul_comm] at hq
        omega

end Sys2Proof.Machine
end

section
/-! PROOFS. Floating formats: the values of their codes, and rounding to the nearest code (R22, R24, R34, Table 2-6). -/

namespace Sys2Proof.Machine

/-! ### Rounding on a grid -/

/-- Of a grid of step 2^l and of the values below 2^b, none is nearer to a value at or above 2^b than its nearest grid point. -/
theorem nearest_grid_le {a y : ℚ} {b l q : Int} (hq : Nearest (a / 2 ^ l) q)
    (hy : (l ≤ b ∧ 2 ^ b ≤ a ∧ y < 2 ^ b) ∨ ∃ k : Int, y = k * 2 ^ l) :
    |a - q * 2 ^ l| ≤ |a - y| ∧ (y ≠ q * 2 ^ l → |a - y| = |a - q * 2 ^ l| → q % 2 = 0) := by
  have hp := two_zpow_pos l
  have hdist (k : Int) : |a - k * 2 ^ l| = |a / 2 ^ l - k| * 2 ^ l := by
    rw [← abs_of_pos hp, ← abs_mul, abs_of_pos hp, sub_mul, div_mul_cancel₀ _ hp.ne']
  have hgrid (k : Int) : |a - q * 2 ^ l| ≤ |a - k * 2 ^ l| ∧ (k ≠ q → |a - k * 2 ^ l| = |a - q * 2 ^ l| → q % 2 = 0) := by
    obtain ⟨hle, heven⟩ := hq.le k
    rw [hdist, hdist]
    exact ⟨mul_le_mul_of_nonneg_right hle hp.le, fun hk ht => heven hk (mul_right_cancel₀ hp.ne' ht)⟩
  rcases hy with ⟨hlb, hba, hyb⟩ | ⟨k, rfl⟩
  · have hpow : (2 : ℚ) ^ b = ((2 ^ (b - l).toNat : Int) : ℚ) * 2 ^ l := by
      rw [two_zpow_toNat hlb]
      push_cast
      rfl
    have hlt : |a - q * 2 ^ l| < |a - y| := by
      refine lt_of_le_of_lt (hgrid (2 ^ (b - l).toNat)).1 ?_
      rw [← hpow, abs_of_nonneg (by linarith), abs_of_nonneg (by linarith)]
      linarith
    exact ⟨hlt.le, fun _ he => absurd he hlt.ne'⟩
  · exact ⟨(hgrid k).1, fun hk => (hgrid k).2 fun h => hk (by rw [h])⟩

theorem two_pow_log2_le {m : Nat} (hm : m ≠ 0) : 2 ^ m.log2 ≤ m := Nat.log2_self_le hm

/-- The most significant bit brackets a magnitude. -/
theorem msbExp_bounds {m : Nat} (hm : m ≠ 0) (e : Int) :
    (2 : ℚ) ^ msbExp m e ≤ m * 2 ^ e ∧ (m : ℚ) * 2 ^ e < 2 ^ (msbExp m e + 1) := by
  have hp := two_zpow_pos e
  have hlo : ((2 ^ m.log2 : Nat) : ℚ) ≤ m := by exact_mod_cast two_pow_log2_le hm
  have hhi : (m : ℚ) < ((2 ^ (m.log2 + 1) : Nat) : ℚ) := by exact_mod_cast Nat.lt_log2_self
  rw [Nat.cast_pow, Nat.cast_ofNat, ← zpow_natCast] at hlo hhi
  unfold msbExp
  rw [add_right_comm, two_zpow_add, two_zpow_add _ e]
  push_cast at hhi
  exact ⟨mul_le_mul_of_nonneg_right hlo hp.le, mul_lt_mul_of_pos_right hhi hp⟩

/-! ### Codes and their values -/

/-- The floating formats of Tables 2-2 and 2-3. -/
def floatFmts : List FFmt := [fF32, fBF16, fF16, fE4M3, fE5M2, fE2M1]

section
variable {g : FFmt} (hg : g ∈ floatFmts)
include hg

theorem FFmt.two_le_prec : 2 ≤ g.prec := by revert g; decide

theorem FFmt.maxCode_lt : g.maxCode < 2 ^ (g.bits - 1) := by revert g; decide

theorem FFmt.two_pow_prec : 2 ^ g.prec = 2 * 2 ^ (g.prec - 1) := by revert g; decide

theorem FFmt.pow_le_maxCode : 2 ^ (g.prec - 1) ≤ g.maxCode := by revert g; decide

end

/-- The significand of a magnitude code. -/
def FFmt.sig (g : FFmt) (k : Nat) : Nat :=
  if k / 2 ^ (g.prec - 1) = 0 then k % 2 ^ (g.prec - 1) else k % 2 ^ (g.prec - 1) + 2 ^ (g.prec - 1)

/-- How often the step of a magnitude code doubles from the smallest. -/
def FFmt.level (g : FFmt) (k : Nat) : Nat := k / 2 ^ (g.prec - 1) - 1

/-- The value of a magnitude code, without a bound on the code. -/
def FFmt.magVal (g : FFmt) (k : Nat) : ℚ := g.sig k * (2 : ℚ) ^ (g.lmin + g.level k)

theorem FFmt.decode_of_le {g : FFmt} {b : Nat} (h : b % 2 ^ (g.bits - 1) ≤ g.maxCode) :
    g.decode b = .fin (bitOf b (g.bits - 1)) (g.sig (b % 2 ^ (g.bits - 1))) (g.lmin + g.level (b % 2 ^ (g.bits - 1))) := by
  unfold FFmt.decode FFmt.sig FFmt.level
  dsimp only
  rw [if_neg (Nat.not_lt.mpr h)]
  generalize b % 2 ^ (g.bits - 1) / 2 ^ (g.prec - 1) = ef
  split_ifs with h0
  · simp [h0]
  · congr 1
    omega

theorem FFmt.isFin_decode_iff {g : FFmt} (b : Nat) : (g.decode b).isFin = true ↔ b % 2 ^ (g.bits - 1) ≤ g.maxCode := by
  constructor
  · intro h
    by_contra hlt
    unfold FFmt.decode at h
    dsimp only at h
    rw [if_pos (Nat.not_le.mp hlt)] at h
    split at h
    · split at h <;> cases h
    · split at h <;> cases h
    · cases h
  · intro h
    rw [FFmt.decode_of_le h]
    rfl

theorem FFmt.abs_rat_decode {g : FFmt} {b : Nat} (h : b % 2 ^ (g.bits - 1) ≤ g.maxCode) :
    |(g.decode b).rat| = g.magVal (b % 2 ^ (g.bits - 1)) := by
  rw [FFmt.decode_of_le h, Num.abs_rat_fin]
  rfl

theorem FFmt.rat_decode {g : FFmt} {b : Nat} (h : b % 2 ^ (g.bits - 1) ≤ g.maxCode) :
    (g.decode b).rat = if bitOf b (g.bits - 1) then -g.magVal (b % 2 ^ (g.bits - 1)) else g.magVal (b % 2 ^ (g.bits - 1)) := by
  rw [FFmt.decode_of_le h, Num.rat_fin, cast_signed]
  unfold FFmt.magVal
  split <;> ring

theorem FFmt.magVal_nonneg (g : FFmt) (k : Nat) : 0 ≤ g.magVal k := mul_nonneg (Nat.cast_nonneg _) (two_zpow_pos _).le

theorem mul_add_div_of_lt {n p r : Nat} (hr : r < p) : (n * p + r) / p = n ∧ (n * p + r) % p = r := by
  rw [Nat.mul_comm]
  exact ⟨by rw [Nat.mul_add_div (by omega), Nat.div_eq_of_lt hr, Nat.add_zero], by rw [Nat.mul_add_mod, Nat.mod_eq_of_lt hr]⟩

section
variable {g : FFmt} (hg : g ∈ floatFmts)
include hg

/-- The code of a significand at a level holds it; a significand one too large is the smallest of the next level. -/
theorem FFmt.magVal_code {n q : Nat} (hq : q ≤ 2 ^ g.prec) (hn : n = 0 ∨ 2 ^ (g.prec - 1) ≤ q) :
    g.magVal (n * 2 ^ (g.prec - 1) + q) = q * (2 : ℚ) ^ (g.lmin + n) := by
  have hp : 0 < 2 ^ (g.prec - 1) := by positivity
  rw [FFmt.two_pow_prec hg] at hq
  unfold FFmt.magVal FFmt.sig FFmt.level
  generalize 2 ^ (g.prec - 1) = p at *
  rcases Nat.lt_or_ge q p with hlt | hge
  · obtain rfl : n = 0 := by omega
    obtain ⟨hdiv, hmod⟩ := mul_add_div_of_lt (n := 0) hlt
    rw [hdiv, hmod]
    simp
  rcases Nat.lt_or_ge q (2 * p) with hlt2 | hge2
  · have hk : n * p + q = (n + 1) * p + (q - p) := by
      rw [Nat.add_mul]
      omega
    obtain ⟨hdiv, hmod⟩ := mul_add_div_of_lt (n := n + 1) (show q - p < p by omega)
    rw [hk, hdiv, hmod, if_neg (by omega), Nat.sub_add_cancel hge]
    simp
  · obtain rfl : q = 2 * p := by omega
    have hk : n * p + 2 * p = (n + 2) * p + 0 := by ring
    obtain ⟨hdiv, hmod⟩ := mul_add_div_of_lt (n := n + 2) hp
    rw [hk, hdiv, hmod, if_neg (by omega), Nat.zero_add, show n + 2 - 1 = n + 1 by omega, Nat.cast_add, Nat.cast_one, ← add_assoc,
      two_zpow_add _ 1]
    push_cast
    ring

theorem FFmt.sig_lt (k : Nat) : g.sig k < 2 ^ g.prec := by
  have hmod := Nat.mod_lt k (show 0 < 2 ^ (g.prec - 1) by positivity)
  rw [FFmt.two_pow_prec hg]
  unfold FFmt.sig
  split <;> omega

omit hg in
theorem FFmt.level_eq_zero_or (k : Nat) : g.level k = 0 ∨ 2 ^ (g.prec - 1) ≤ g.sig k := by
  unfold FFmt.level FFmt.sig
  split <;> omega

omit hg in
theorem FFmt.code_eq (k : Nat) : g.level k * 2 ^ (g.prec - 1) + g.sig k = k := by
  have hdm := Nat.div_add_mod' k (2 ^ (g.prec - 1))
  unfold FFmt.level FFmt.sig
  split_ifs with h0
  · rw [h0] at hdm ⊢
    omega
  · obtain ⟨n, hn⟩ := Nat.exists_eq_succ_of_ne_zero h0
    rw [hn] at hdm ⊢
    rw [Nat.succ_mul] at hdm
    rw [Nat.succ_sub_one]
    omega

theorem FFmt.magVal_lt_succ (k : Nat) : g.magVal k < g.magVal (k + 1) := by
  have hlt := FFmt.sig_lt hg k
  have hor := g.level_eq_zero_or k
  have hsucc : g.magVal (k + 1) = ((g.sig k + 1 : Nat) : ℚ) * 2 ^ (g.lmin + g.level k) := by
    rw [← FFmt.magVal_code hg (by omega) (by omega), ← Nat.add_assoc, g.code_eq]
  rw [hsucc]
  unfold FFmt.magVal
  have := two_zpow_pos (g.lmin + g.level k)
  push_cast
  linarith

theorem FFmt.magVal_strictMono : StrictMono g.magVal := strictMono_nat_of_lt_succ (FFmt.magVal_lt_succ hg)

theorem FFmt.maxMag_rat : (Num.fin false g.maxMag.1 g.maxMag.2).rat = g.magVal g.maxCode := by
  have hpos : g.maxCode / 2 ^ (g.prec - 1) ≠ 0 :=
    (Nat.div_pos (FFmt.pow_le_maxCode hg) (by positivity)).ne'
  rw [Num.rat_fin]
  unfold FFmt.maxMag FFmt.magVal FFmt.sig FFmt.level
  rw [if_neg hpos]
  dsimp only [signed]
  rw [if_neg (by simp)]
  congr 2
  generalize g.maxCode / 2 ^ (g.prec - 1) = ef at *
  omega

end

/-! ### Encoding to the nearest -/

/-- No magnitude code is nearer to `a`, and of two that are equally near the even one stands. -/
def FFmt.IsNearest (g : FFmt) (a : ℚ) (c : Nat) : Prop :=
  ∀ k, |a - g.magVal c| ≤ |a - g.magVal k| ∧ (g.magVal k ≠ g.magVal c → |a - g.magVal k| = |a - g.magVal c| → c % 2 = 0)

section
variable {g : FFmt} (hg : g ∈ floatFmts)
include hg

/-- A rounded significand is at most one too large, and below the normal ones at the smallest step only. -/
theorem FFmt.round_bounds {m : Nat} (hm : m ≠ 0) {e l : Int} {q : Nat} (hl : l = max (msbExp m e - (g.prec : Int) + 1) g.lmin)
    (hq : Nearest (m * (2 : ℚ) ^ e / 2 ^ l) q) : q ≤ 2 ^ g.prec ∧ ((l - g.lmin).toNat = 0 ∨ 2 ^ (g.prec - 1) ≤ q) := by
  have hprec := FFmt.two_le_prec hg
  obtain ⟨hlo, hhi⟩ := msbExp_bounds hm e
  have hp := two_zpow_pos l
  have hpow (k : Nat) : (((2 ^ k : Nat) : Int) : ℚ) * 2 ^ l = 2 ^ (k + l) := by
    rw [two_zpow_add, zpow_natCast]
    push_cast
    rfl
  constructor
  · have hle := hq.le_of_le (k := (2 ^ g.prec : Nat)) <| by
      rw [div_le_iff₀ hp, hpow]
      exact hhi.le.trans (two_zpow_le_iff.mpr (by omega))
    exact_mod_cast hle
  · by_cases hll : l ≤ g.lmin
    · exact .inl (by omega)
    · have hge := hq.le_of_ge (k := (2 ^ (g.prec - 1) : Nat)) <| by
        rw [le_div_iff₀ hp, hpow]
        exact (two_zpow_le_iff.mpr (by omega)).trans hlo
      exact .inr (by exact_mod_cast hge)

/-- Every value of the format lies on the step of a magnitude, or below the magnitude's most significant bit. -/
theorem FFmt.magVal_grid {b l : Int} (hl : l = max (b - (g.prec : Int) + 1) g.lmin) (k : Nat) :
    (l ≤ b ∧ g.magVal k < 2 ^ b) ∨ ∃ j : Int, g.magVal k = j * 2 ^ l := by
  have hprec := FFmt.two_le_prec hg
  by_cases hu : l ≤ g.lmin + g.level k
  · refine .inr ⟨g.sig k * 2 ^ (g.lmin + g.level k - l).toNat, ?_⟩
    unfold FFmt.magVal
    rw [two_zpow_toNat hu]
    push_cast
    ring
  · refine .inl ⟨by omega, ?_⟩
    have hsig : (g.sig k : ℚ) < 2 ^ (g.prec : Int) := by exact_mod_cast FFmt.sig_lt hg k
    calc g.magVal k < 2 ^ (g.prec : Int) * 2 ^ (g.lmin + g.level k) := mul_lt_mul_of_pos_right hsig (two_zpow_pos _)
      _ ≤ 2 ^ b := by
        rw [← two_zpow_add]
        exact two_zpow_le_iff.mpr (by omega)

theorem FFmt.two_pow_prec_even : 2 ^ (g.prec - 1) % 2 = 0 := by revert g; decide

/-- A magnitude rounded on its own step, or the smallest, is the nearest value of the format. -/
theorem FFmt.isNearest_round {m : Nat} (hm : m ≠ 0) {e l : Int} {q : Nat} (hl : l = max (msbExp m e - (g.prec : Int) + 1) g.lmin)
    (hq : Nearest (m * (2 : ℚ) ^ e / 2 ^ l) q) :
    g.magVal ((l - g.lmin).toNat * 2 ^ (g.prec - 1) + q) = q * (2 : ℚ) ^ l
      ∧ g.IsNearest (m * (2 : ℚ) ^ e) ((l - g.lmin).toNat * 2 ^ (g.prec - 1) + q) := by
  obtain ⟨hqle, hqge⟩ := FFmt.round_bounds hg hm hl hq
  have hval : g.magVal ((l - g.lmin).toNat * 2 ^ (g.prec - 1) + q) = q * (2 : ℚ) ^ l := by
    rw [FFmt.magVal_code hg hqle hqge]
    congr 2
    omega
  refine ⟨hval, fun k => ?_⟩
  obtain ⟨hle, heven⟩ := nearest_grid_le hq ((FFmt.magVal_grid hg hl k).imp_left fun ⟨hlb, hlt⟩ => ⟨hlb, (msbExp_bounds hm e).1, hlt⟩)
  rw [hval]
  refine ⟨hle, fun hne ht => ?_⟩
  have hqeven := heven hne ht
  rw [Nat.add_mod, Nat.mul_mod, FFmt.two_pow_prec_even hg]
  omega

omit hg in
/-- The encoding of a value other than zero, step by step (R34). -/
theorem FFmt.encode_of_ne_zero (sat n : Bool) {m : Nat} (hm : m ≠ 0) {e l : Int} {q : Nat} {nx : Bool}
    (hl : l = max (msbExp m e - (g.prec : Int) + 1) g.lmin) (hq : roundMag .rne n m e l = (q, nx)) :
    g.encode .rne sat (.fin n m e) =
      if (Num.fin false g.maxMag.1 g.maxMag.2).rat < (Num.fin false q l).rat then (g.overflow .rne sat n, flagOF ||| flagNX)
      else (g.signBit n + if q = 0 then 0 else (l - g.lmin).toNat * 2 ^ (g.prec - 1) + q,
        (if nx then flagNX else 0) ||| if nx && decide (msbExp m e < g.lmin + (g.prec : Int) - 1) then flagUF else 0) := by
  subst hl
  rw [FFmt.encode.eq_4 _ _ _ _ _ _ hm]
  simp only [hq, decide_eq_true_iff, cmpFin_pos_iff]

/-- What a finite value encodes to: a nearest code, without a bound on it, decides between that code and the overflow result. -/
theorem FFmt.encode_fin (sat : Bool) (n : Bool) (m : Nat) (e : Int) :
    ∃ c, g.IsNearest (m * (2 : ℚ) ^ e) c
      ∧ (c ≤ g.maxCode → ∃ uf : Bool, g.encode .rne sat (.fin n m e) =
          (g.signBit n + c, if g.magVal c = m * (2 : ℚ) ^ e then 0 else flagNX ||| if uf then flagUF else 0))
      ∧ (g.maxCode < c → g.encode .rne sat (.fin n m e) = (g.overflow .rne sat n, flagOF ||| flagNX)) := by
  have hmono := FFmt.magVal_strictMono hg
  by_cases hm : m = 0
  · have hzero : g.magVal 0 = 0 := by simp [FFmt.magVal, FFmt.sig]
    subst hm
    refine ⟨0, fun k => ?_, fun _ => ⟨false, ?_⟩, fun h => absurd h (Nat.not_lt_zero _)⟩
    · simp [hzero]
    · simp [FFmt.encode, hzero]
  · set l := max (msbExp m e - (g.prec : Int) + 1) g.lmin with hl
    obtain ⟨⟨q, nx⟩, hq⟩ : ∃ x, roundMag .rne n m e l = x := ⟨_, rfl⟩
    obtain ⟨hround, hflag⟩ := roundMag_rne n m e l
    rw [hq] at hround hflag
    rw [← two_zpow_div_grid] at hround
    obtain ⟨hval, hnear⟩ := FFmt.isNearest_round hg hm hl hround
    have hcode : (if q = 0 then 0 else (l - g.lmin).toNat * 2 ^ (g.prec - 1) + q) = (l - g.lmin).toNat * 2 ^ (g.prec - 1) + q := by
      split_ifs with h0
      · obtain ⟨-, hnorm⟩ := FFmt.round_bounds hg hm hl hround
        have hpos : 0 < 2 ^ (g.prec - 1) := by positivity
        rw [hnorm.resolve_right (by omega), h0, Nat.zero_mul]
      · rfl
    have hexact : (q : ℚ) * 2 ^ l = m * 2 ^ e ↔ nx = false := by
      rw [hflag, ← two_zpow_div_grid, eq_div_iff (two_zpow_pos l).ne']
    have hover : (Num.fin false q l).rat = g.magVal ((l - g.lmin).toNat * 2 ^ (g.prec - 1) + q) := by
      rw [hval, Num.rat_fin]
      rfl
    rw [FFmt.encode_of_ne_zero sat n hm hl hq, FFmt.maxMag_rat hg, hover, hcode]
    refine ⟨_, hnear, fun hle => ⟨nx && decide (msbExp m e < g.lmin + (g.prec : Int) - 1), ?_⟩, fun hlt => if_pos (hmono hlt)⟩
    rw [if_neg (not_lt.mpr (hmono.monotone hle)), hval, Prod.mk.injEq]
    refine ⟨rfl, ?_⟩
    by_cases hx : (q : ℚ) * 2 ^ l = m * 2 ^ e
    · obtain rfl := hexact.mp hx
      simp [hx]
    · obtain rfl : nx = true := by simpa [hexact] using hx
      simp [hx]

end

/-! ### Signs -/

theorem FFmt.decode_signBit_add {g : FFmt} (hg : g ∈ floatFmts) {c : Nat} (hc : c ≤ g.maxCode) (n : Bool) :
    (g.decode (g.signBit n + c)).isFin = true
      ∧ (g.decode (g.signBit n + c)).rat = (if n then -g.magVal c else g.magVal c) := by
  have hlt : c < 2 ^ (g.bits - 1) := hc.trans_lt (FFmt.maxCode_lt hg)
  have hmod : (g.signBit n + c) % 2 ^ (g.bits - 1) = c := by
    unfold FFmt.signBit
    cases n
    · rw [if_neg (by simp), Nat.zero_add, Nat.mod_eq_of_lt hlt]
    · rw [if_pos rfl, Nat.add_mod_left, Nat.mod_eq_of_lt hlt]
  have hsign : bitOf (g.signBit n + c) (g.bits - 1) = n := by
    unfold FFmt.signBit bitOf
    cases n
    · rw [if_neg (by simp), Nat.zero_add, Nat.div_eq_of_lt hlt]
      rfl
    · rw [if_pos rfl, Nat.add_div_left _ (by positivity), Nat.div_eq_of_lt hlt]
      rfl
  have hle : (g.signBit n + c) % 2 ^ (g.bits - 1) ≤ g.maxCode := by rwa [hmod]
  exact ⟨(FFmt.isFin_decode_iff _).mpr hle, by rw [FFmt.rat_decode hle, hmod, hsign]⟩

theorem FFmt.signBit_even {g : FFmt} (hg : g ∈ floatFmts) (n : Bool) : g.signBit n % 2 = 0 := by
  revert g
  cases n <;> decide

theorem abs_ite_neg (n : Bool) (a b : ℚ) : |(if n then -a else a) - (if n then -b else b)| = |a - b| := by
  cases n
  · rfl
  · rw [if_pos rfl, if_pos rfl, neg_sub_neg, abs_sub_comm]

theorem FFmt.magVal_zero (g : FFmt) : g.magVal 0 = 0 := by simp [FFmt.magVal, FFmt.sig]

/-- Of two opposite values only one is at the distance of the magnitudes. -/
theorem eq_of_abs_sub_eq {a y z : ℚ} (ha : 0 ≤ a) (h0 : a = 0 → y = 0) (hz : |z| = y) (ht : |a - z| = |a - y|) : z = y := by
  have hy : 0 ≤ y := hz ▸ abs_nonneg z
  rcases (abs_eq hy).mp hz with h | h
  · exact h
  · rw [h, sub_neg_eq_add, abs_of_nonneg (by linarith)] at ht
    rcases abs_cases (a - y) with ⟨he, -⟩ | ⟨he, -⟩
    · linarith
    · have := h0 (by linarith)
      linarith

/-- The nearest magnitude with the sign of a value is its nearest code. -/
theorem FFmt.nearest_decode {g : FFmt} (hg : g ∈ floatFmts) {a : ℚ} (ha : 0 ≤ a) {c : Nat} (hc : c ≤ g.maxCode) (n : Bool)
    (hn : ∀ k ≤ g.maxCode, |a - g.magVal c| ≤ |a - g.magVal k|
      ∧ (g.magVal k ≠ g.magVal c → |a - g.magVal k| = |a - g.magVal c| → c % 2 = 0))
    {k : Nat} (hk : (g.decode k).isFin = true) :
    |(if n then -a else a) - (g.decode (g.signBit n + c)).rat| ≤ |(if n then -a else a) - (g.decode k).rat|
      ∧ ((g.decode k).rat ≠ (g.decode (g.signBit n + c)).rat →
          |(if n then -a else a) - (g.decode k).rat| = |(if n then -a else a) - (g.decode (g.signBit n + c)).rat| →
          (g.signBit n + c) % 2 = 0) := by
  have hkle := (FFmt.isFin_decode_iff k).mp hk
  obtain ⟨hle, heven⟩ := hn _ hkle
  rw [← FFmt.abs_rat_decode hkle] at hle heven
  rw [(FFmt.decode_signBit_add hg hc n).2, abs_ite_neg]
  set z := (g.decode k).rat
  set y := g.magVal c
  have hy : 0 ≤ y := g.magVal_nonneg c
  have habs : |if n then -a else a| = a := by cases n <;> simp [abs_of_nonneg ha]
  have hz : |a - (|z|)| ≤ |(if n then -a else a) - z| := by
    have := abs_abs_sub_abs_le (if n then -a else a) z
    rwa [habs] at this
  refine ⟨hle.trans hz, fun hne ht => ?_⟩
  by_cases hzy : |z| = y
  · have hzero : a = 0 → y = 0 := fun h0 => by
      have h00 := (hn 0 (Nat.zero_le _)).1
      rw [FFmt.magVal_zero, h0] at h00
      simpa using h00
    refine absurd ?_ hne
    cases n
    · exact eq_of_abs_sub_eq ha hzero hzy ht
    · have hneg : -z = y := eq_of_abs_sub_eq ha hzero (by rwa [abs_neg]) (by rw [← ht, if_pos rfl, ← abs_neg]; congr 1; ring)
      rw [if_pos rfl, ← hneg, neg_neg]
  · rw [Nat.add_mod, FFmt.signBit_even hg, heven hzy (le_antisymm (ht ▸ hz) hle)]

/-- `c` is the code of `g` whose value is nearest to `x`, of two equally near ones the even one. -/
def FFmt.Rounds (g : FFmt) (x : ℚ) (c : Nat) : Prop :=
  (g.decode c).isFin = true
    ∧ ∀ k, (g.decode k).isFin = true → |x - (g.decode c).rat| ≤ |x - (g.decode k).rat|
        ∧ ((g.decode k).rat ≠ (g.decode c).rat → |x - (g.decode k).rat| = |x - (g.decode c).rat| → c % 2 = 0)

theorem Num.rat_fin_eq_ite (n : Bool) (m : Nat) (e : Int) :
    (Num.fin n m e).rat = if n then -(m * (2 : ℚ) ^ e) else m * (2 : ℚ) ^ e := by
  rw [Num.rat_fin, cast_signed]
  cases n <;> simp

theorem FFmt.IsNearest.lt_of_overflow {g : FFmt} (hg : g ∈ floatFmts) {a : ℚ} {c : Nat} (h : g.IsNearest a c) (hc : g.maxCode < c) :
    g.magVal g.maxCode < a := by
  have hlt := FFmt.magVal_strictMono hg hc
  by_contra hle
  have hnear := (h g.maxCode).1
  rw [abs_of_nonpos (by linarith), abs_of_nonpos (by linarith)] at hnear
  linarith

/-- A finite value in the range of a format encodes to the nearest code, with NX exactly when that is another value (R34). -/
theorem FFmt.encode_fin_cases {g : FFmt} (hg : g ∈ floatFmts) (sat n : Bool) (m : Nat) (e : Int) :
    (g.Rounds (Num.fin n m e).rat (g.encode .rne sat (.fin n m e)).1
        ∧ ∃ uf : Bool, (g.encode .rne sat (.fin n m e)).2 =
          if (g.decode (g.encode .rne sat (.fin n m e)).1).rat = (Num.fin n m e).rat then 0 else flagNX ||| if uf then flagUF else 0)
      ∨ (g.encode .rne sat (.fin n m e) = (g.overflow .rne sat n, flagOF ||| flagNX)
        ∧ g.magVal g.maxCode < |(Num.fin n m e).rat|) := by
  have ha : (0 : ℚ) ≤ m * 2 ^ e := mul_nonneg (Nat.cast_nonneg m) (two_zpow_pos e).le
  obtain ⟨c, hn, hin, hover⟩ := FFmt.encode_fin hg sat n m e
  by_cases hc : c ≤ g.maxCode
  · left
    obtain ⟨uf, henc⟩ := hin hc
    obtain ⟨hfin, hrat⟩ := FFmt.decode_signBit_add hg hc n
    rw [henc]
    refine ⟨⟨hfin, fun k hk => ?_⟩, uf, ?_⟩
    · rw [Num.rat_fin_eq_ite]
      exact FFmt.nearest_decode hg ha hc n (fun k _ => hn k) hk
    · dsimp only
      have hiff : (if n then -g.magVal c else g.magVal c) = (if n then -(m * (2 : ℚ) ^ e) else m * 2 ^ e) ↔ g.magVal c = m * 2 ^ e := by
        cases n <;> simp
      simp only [hrat, Num.rat_fin_eq_ite, hiff]
  · right
    rw [Num.abs_rat_fin]
    exact ⟨hover (not_le.mp hc), hn.lt_of_overflow hg (not_le.mp hc)⟩

/-- Above the largest finite value that value is the nearest. -/
theorem FFmt.rounds_maxCode {g : FFmt} (hg : g ∈ floatFmts) {n : Bool} {m : Nat} {e : Int}
    (hlt : g.magVal g.maxCode < |(Num.fin n m e).rat|) : g.Rounds (Num.fin n m e).rat (g.signBit n + g.maxCode) := by
  rw [Num.abs_rat_fin] at hlt
  refine ⟨(FFmt.decode_signBit_add hg le_rfl n).1, fun k hk => ?_⟩
  rw [Num.rat_fin_eq_ite]
  refine FFmt.nearest_decode hg ((g.magVal_nonneg _).trans hlt.le) le_rfl n (fun j hj => ?_) hk
  have hle := (FFmt.magVal_strictMono hg).monotone hj
  rw [abs_of_nonneg (by linarith), abs_of_nonneg (by linarith)]
  exact ⟨by linarith, fun hne ht => absurd (by linarith) hne⟩

/-- The formats with infinities and NaNs of the vector engine (Table 15-2). -/
def ieeeFmts : List FFmt := [fF32, fBF16, fF16]

theorem mem_floatFmts_of_ieee {g : FFmt} (hg : g ∈ ieeeFmts) : g ∈ floatFmts := by
  revert g
  decide

theorem FFmt.overflow_ieee {g : FFmt} (hg : g ∈ ieeeFmts) (n : Bool) :
    g.decode (g.overflow .rne false n) = .inf n := by
  revert g
  cases n <;> decide

theorem FFmt.encode_nan {g : FFmt} (hg : g ∈ ieeeFmts) : g.encode .rne false .nan = (g.nanCode, 0) := by
  revert g
  decide

theorem ffmtOf_ieee {f : Nat} (hf : f ∈ [0x01, 0x02, 0x03]) : ∃ g ∈ ieeeFmts, ffmtOf f = some g := by
  revert f
  decide

end Sys2Proof.Machine
end

section
/-! PROOFS. Conversions and float lanes (R22, R34, R229, R231). -/

namespace Sys2Proof.Machine

/-! ### Conversion to a format with infinities -/

theorem flagOF_and_exact (p : Prop) [Decidable p] (uf : Bool) :
    ((if p then 0 else flagNX ||| if uf then flagUF else 0) &&& flagOF = 0)
      ∧ ((if p then 0 else flagNX ||| if uf then flagUF else 0) &&& flagNX = 0 ↔ p) := by
  by_cases hp : p <;> cases uf <;> simp only [hp, if_true, if_false, iff_true, iff_false] <;> decide

theorem Num.decide_rat_neg {n : Bool} {m : Nat} {e : Int} (h : (Num.fin n m e).rat ≠ 0) : decide ((Num.fin n m e).rat < 0) = n := by
  have hm : m ≠ 0 := fun h0 => h (Num.rat_fin_eq_zero_iff.mpr h0)
  rw [Bool.eq_iff_iff, decide_eq_true_iff, Num.rat_fin_neg_iff]
  exact and_iff_left hm

theorem FFmt.maxCode_rat {g : FFmt} (hg : g ∈ floatFmts) : (g.decode g.maxCode).rat = g.magVal g.maxCode := by
  have h := (FFmt.decode_signBit_add hg le_rfl false).2
  simpa [FFmt.signBit] using h

theorem encode_ieee {g : FFmt} (hg : g ∈ ieeeFmts) {v : Num} (hv : v.isFin = true) {c : Nat × BitVec 8}
    (hc : c = g.encode .rne false v) :
    (c.2 &&& flagOF = 0 → g.Rounds v.rat c.1 ∧ (c.2 &&& flagNX = 0 ↔ (g.decode c.1).rat = v.rat))
      ∧ (c.2 &&& flagOF ≠ 0 → c.2 = flagOF ||| flagNX ∧ g.decode c.1 = .inf (decide (v.rat < 0))
          ∧ (g.decode g.maxCode).rat < |v.rat|) := by
  have hf := mem_floatFmts_of_ieee hg
  obtain ⟨n, m, e, rfl⟩ := Num.exists_fin_of_isFin hv
  subst hc
  rcases FFmt.encode_fin_cases hf false n m e with ⟨hround, uf, hflags⟩ | ⟨henc, hlt⟩
  · obtain ⟨hof, hnx⟩ := flagOF_and_exact ((g.decode (g.encode .rne false (.fin n m e)).1).rat = (Num.fin n m e).rat) uf
    rw [hflags]
    exact ⟨fun _ => ⟨hround, hnx⟩, fun h => absurd hof h⟩
  · rw [henc]
    refine ⟨fun h => absurd h (show ¬ (flagOF ||| flagNX) &&& flagOF = 0 by decide), fun _ => ⟨rfl, ?_, ?_⟩⟩
    · have hne : (Num.fin n m e).rat ≠ 0 := fun h0 => by
        rw [h0, abs_zero] at hlt
        exact absurd (g.magVal_nonneg g.maxCode) (not_le.mpr hlt)
      rw [Num.decide_rat_neg hne]
      exact FFmt.overflow_ieee hg n
    · rw [FFmt.maxCode_rat hf]
      exact hlt

/-! ### Two sources -/

theorem fltRes_of_valid (g : FFmt) (v : Num) : fltRes g (v, false) = g.encode .rne false v := by
  unfold fltRes
  simp

theorem fltRes_nan {g : FFmt} (hg : g ∈ ieeeFmts) (b : Bool) : fltRes g (.nan, b) = (g.nanCode, if b then flagNV else 0) := by
  unfold fltRes
  dsimp only
  rw [FFmt.encode_nan hg]
  cases b <;> simp

theorem fltRes_fin {g : FFmt} {x : Num × Bool} {y : ℚ} (h : x.2 = false ∧ x.1.isFin = true ∧ x.1.rat = y) :
    ∃ v : Num, v.isFin = true ∧ v.rat = y ∧ fltRes g x = g.encode .rne false v := by
  obtain ⟨hvalid, hfin, hrat⟩ := h
  refine ⟨x.1, hfin, hrat, ?_⟩
  rw [← fltRes_of_valid, ← hvalid]

theorem binLane_of_float {f : Nat} {g : FFmt} (h : ffmtOf f = some g) (op : Bin) (a b : Nat) : binLane op f a b = fltBin op g a b := by
  unfold binLane
  rw [h]

theorem fltMin_of_nan {g : FFmt} {a b : Nat} (h : (g.decode a).isNan = true ∨ (g.decode b).isNan = true) : fltMin g a b = g.nanCode := by
  unfold fltMin
  dsimp only
  rw [if_pos (by simpa using h)]

theorem fltMax_of_nan {g : FFmt} {a b : Nat} (h : (g.decode a).isNan = true ∨ (g.decode b).isNan = true) : fltMax g a b = g.nanCode := by
  unfold fltMax
  dsimp only
  rw [if_pos (by simpa using h)]

theorem fltMin_of_fin {g : FFmt} {a b : Nat} (ha : (g.decode a).isFin = true) (hb : (g.decode b).isFin = true) :
    (fltMin g a b = a ∨ fltMin g a b = b) ∧ (g.decode (fltMin g a b)).rat = min (g.decode a).rat (g.decode b).rat := by
  unfold fltMin
  simp only [Num.isNan_of_isFin ha, Num.isNan_of_isFin hb, Num.lt_eq_decide ha hb, Num.lt_eq_decide hb ha, Bool.or_false,
    Bool.false_eq_true, if_false, decide_eq_true_eq]
  split_ifs with hba hab hsign
  · exact ⟨.inr rfl, (min_eq_right hba.le).symm⟩
  · exact ⟨.inl rfl, (min_eq_left hab.le).symm⟩
  · exact ⟨.inr rfl, (min_eq_right (not_lt.mp hab)).symm⟩
  · exact ⟨.inl rfl, (min_eq_left (not_lt.mp hba)).symm⟩

theorem fltMax_of_fin {g : FFmt} {a b : Nat} (ha : (g.decode a).isFin = true) (hb : (g.decode b).isFin = true) :
    (fltMax g a b = a ∨ fltMax g a b = b) ∧ (g.decode (fltMax g a b)).rat = max (g.decode a).rat (g.decode b).rat := by
  unfold fltMax
  simp only [Num.isNan_of_isFin ha, Num.isNan_of_isFin hb, Num.lt_eq_decide ha hb, Num.lt_eq_decide hb ha, Bool.or_false,
    Bool.false_eq_true, if_false, decide_eq_true_eq]
  split_ifs with hab hba hsign
  · exact ⟨.inr rfl, (max_eq_right hab.le).symm⟩
  · exact ⟨.inl rfl, (max_eq_left hba.le).symm⟩
  · exact ⟨.inr rfl, (max_eq_right (not_lt.mp hba)).symm⟩
  · exact ⟨.inl rfl, (max_eq_left (not_lt.mp hab)).symm⟩

theorem fltBin_of_nan {g : FFmt} (hg : g ∈ ieeeFmts) (op : Bin) {a b : Nat}
    (h : (g.decode a).isNan = true ∨ (g.decode b).isNan = true) : fltBin op g a b = (g.nanCode, 0) := by
  have hnan : ∀ x : Num × Bool, x = (.nan, false) → fltRes g x = (g.nanCode, 0) := fun x hx => by rw [hx, fltRes_nan hg]; rfl
  cases op with
  | min => exact congrArg (·, 0) (fltMin_of_nan h)
  | max => exact congrArg (·, 0) (fltMax_of_nan h)
  | add | mul =>
    refine hnan _ ?_
    rcases h with h | h <;> simp [Num.eq_nan_of_isNan h]
  | sub =>
    refine hnan _ ?_
    rcases h with h | h <;> simp [Num.eq_nan_of_isNan h, Num.neg]

theorem Num.mul_inf_zero {v : Num} (n : Bool) (hv : v.isFin = true) (h0 : v.rat = 0) : (Num.inf n).mul v = (.nan, true) := by
  obtain ⟨k, m, e, rfl⟩ := Num.exists_fin_of_isFin hv
  exact if_pos (Num.rat_fin_eq_zero_iff.mp h0)

theorem Num.mul_zero_inf {v : Num} (n : Bool) (hv : v.isFin = true) (h0 : v.rat = 0) : v.mul (.inf n) = (.nan, true) := by
  obtain ⟨k, m, e, rfl⟩ := Num.exists_fin_of_isFin hv
  exact if_pos (Num.rat_fin_eq_zero_iff.mp h0)

theorem Num.inf_add_inf_not (n : Bool) : (Num.inf n).add (.inf !n) = (.nan, true) := by cases n <;> rfl

theorem Num.sub_fin {a b : Num} (ha : a.isFin = true) (hb : b.isFin = true) :
    (a.add b.neg).2 = false ∧ (a.add b.neg).1.isFin = true ∧ (a.add b.neg).1.rat = a.rat - b.rat := by
  have h := Num.add_fin ha ((Num.isFin_neg b).trans hb)
  rwa [Num.rat_neg, ← sub_eq_add_neg] at h

/-! ### Products and sums -/

theorem fmaLane_of_nan (negP negC : Bool) {f a b c : Nat} {g : FFmt} (hf : ffmtOf f = some g)
    (h : (g.decode a).isNan = true ∨ (g.decode b).isNan = true ∨ (g.decode c).isNan = true) :
    fmaLane negP negC f a b c = (g.nanCode, 0) := by
  unfold fmaLane
  rw [hf]
  dsimp only
  rw [if_pos]
  have hz : (if negC then (g.decode c).neg else g.decode c).isNan = (g.decode c).isNan := by split <;> simp
  rw [hz]
  simpa [or_assoc] using h

/-- The product with its sign. -/
theorem Num.rat_neg_if (b : Bool) (v : Num) : (if b then v.neg else v).rat = (if b then -1 else 1) * v.rat := by
  cases b <;> simp

theorem Num.isFin_neg_if (b : Bool) (v : Num) : (if b then v.neg else v).isFin = v.isFin := by
  cases b <;> simp

theorem fmaLane_of_not_nan (negP negC : Bool) {f a b c : Nat} {g : FFmt} (hf : ffmtOf f = some g)
    (ha : (g.decode a).isNan = false) (hb : (g.decode b).isNan = false) (hc : (g.decode c).isNan = false) :
    fmaLane negP negC f a b c =
      fltRes g (((if negP then ((g.decode a).mul (g.decode b)).1.neg else ((g.decode a).mul (g.decode b)).1).add
          (if negC then (g.decode c).neg else g.decode c)).1,
        ((g.decode a).mul (g.decode b)).2 ||
          ((if negP then ((g.decode a).mul (g.decode b)).1.neg else ((g.decode a).mul (g.decode b)).1).add
            (if negC then (g.decode c).neg else g.decode c)).2) := by
  unfold fmaLane
  rw [hf]
  dsimp only
  rw [if_neg]
  have hz : (if negC then (g.decode c).neg else g.decode c).isNan = (g.decode c).isNan := by split <;> simp
  simp [ha, hb, hc, hz]

theorem fmaLane_of_fin (negP negC : Bool) {f a b c : Nat} {g : FFmt} (hf : ffmtOf f = some g)
    (ha : (g.decode a).isFin = true) (hb : (g.decode b).isFin = true) (hc : (g.decode c).isFin = true) :
    ∃ v : Num, v.isFin = true
      ∧ v.rat = (if negP then -1 else 1) * ((g.decode a).rat * (g.decode b).rat) + (if negC then -1 else 1) * (g.decode c).rat
      ∧ fmaLane negP negC f a b c = g.encode .rne false v := by
  obtain ⟨hpv, hpf, hpr⟩ := Num.mul_fin ha hb
  obtain ⟨hsv, hsf, hsr⟩ := Num.add_fin (a := if negP then ((g.decode a).mul (g.decode b)).1.neg else ((g.decode a).mul (g.decode b)).1)
    (b := if negC then (g.decode c).neg else g.decode c) (by rw [Num.isFin_neg_if, hpf]) (by rw [Num.isFin_neg_if, hc])
  rw [fmaLane_of_not_nan negP negC hf (Num.isNan_of_isFin ha) (Num.isNan_of_isFin hb) (Num.isNan_of_isFin hc)]
  refine fltRes_fin ⟨?_, hsf, ?_⟩
  · rw [hpv, hsv]
    rfl
  · rw [hsr, Num.rat_neg_if, Num.rat_neg_if, hpr]

theorem fmaLane_of_inf_zero (negP negC : Bool) {f a b c : Nat} {g : FFmt} (hg : g ∈ ieeeFmts) (hf : ffmtOf f = some g) {n : Bool}
    (ha : g.decode a = .inf n) (hb : (g.decode b).isFin = true) (hb0 : (g.decode b).rat = 0) (hc : (g.decode c).isNan = false) :
    fmaLane negP negC f a b c = (g.nanCode, flagNV) := by
  rw [fmaLane_of_not_nan negP negC hf (by rw [ha]; rfl) (Num.isNan_of_isFin hb) hc, ha, Num.mul_inf_zero n hb hb0]
  have hneg : (if negP then Num.nan.neg else .nan) = .nan := by split <;> rfl
  dsimp only
  rw [hneg, Num.nan_add]
  exact fltRes_nan hg true

end Sys2Proof.Machine
end

section
/-! PROOFS. The elements of a vector as a pop delivers them (R25, R144, R145). -/

namespace Sys2Proof.Machine

/-! ### Lists of numbers -/

theorem upFrom_eq_range' (a n : Nat) : upFrom a n = List.range' a n := by
  induction n generalizing a with
  | zero => rfl
  | succ n ih => rw [upFrom, ih, List.range'_succ]

@[simp] theorem upFrom_zero (n : Nat) : upFrom 0 n = List.range n := by
  rw [upFrom_eq_range', List.range_eq_range']

theorem getD_map_range {α : Type} (f : Nat → α) (d : α) (n k : Nat) : ((List.range n).map f).getD k d = if k < n then f k else d := by
  rw [List.getD_eq_getElem?_getD, List.getElem?_map]
  split_ifs with h
  · rw [List.getElem?_range h]
    rfl
  · rw [List.getElem?_eq_none (by simpa using h)]
    rfl

/-! ### Numbers of bytes and of nibbles -/

theorem leNat_take_drop (l : List Byte) (a w : Nat) :
    leNat ((l.drop a).take w) = ((List.range w).map fun t => (l.getD (a + t) 0).toNat * 256 ^ t).sum := by
  have htake (w : Nat) : ∀ m : List Byte, leNat (m.take w) = ((List.range w).map fun t => (m.getD t 0).toNat * 256 ^ t).sum := by
    induction w with
    | zero => exact fun m => rfl
    | succ w ih =>
      intro m
      rw [List.range_succ_eq_map, List.map_cons, List.sum_cons, List.map_map]
      cases m with
      | nil =>
        simp [leNat, Function.comp_def]
      | cons b m =>
        rw [List.take_succ_cons, leNat, ih, ← List.sum_map_mul_left]
        simp only [Function.comp_def, List.getD_cons_zero, List.getD_cons_succ, Nat.pow_succ, pow_zero, mul_one]
        congr 3
        funext t
        ring
  rw [htake]
  simp [List.getD_eq_getElem?_getD, List.getElem?_drop]

/-- The nibbles of a string of bytes, lowest first. -/
theorem getD_nibbles (bytes : List Byte) (i : Nat) :
    (bytes.flatMap fun b => [nibOf b false, nibOf b true]).getD i 0 = nibOf (bytes.getD (i / 2) 0) (i % 2 == 1) := by
  induction bytes generalizing i with
  | nil => simp [nibOf]
  | cons b bytes ih =>
    rw [List.flatMap_cons]
    match i with
    | 0 => rfl
    | 1 => rfl
    | i + 2 =>
      rw [show (i + 2) / 2 = i / 2 + 1 by omega, show (i + 2) % 2 = i % 2 by omega]
      exact ih i

theorem nibOf_pair (b : Byte) : nibOf b false + 16 * nibOf b true = b.toNat := by
  unfold nibOf
  simp only [if_true, if_false, Bool.false_eq_true]
  omega

theorem sum_range_pairs (f : Nat → Nat) (w : Nat) :
    ((List.range (2 * w)).map f).sum = ((List.range w).map fun t => f (2 * t) + f (2 * t + 1)).sum := by
  induction w with
  | zero => rfl
  | succ w ih =>
    rw [Nat.mul_succ, List.range_succ, List.range_succ, List.range_succ]
    simp only [List.map_append, List.sum_append, List.map_cons, List.map_nil, List.sum_cons, List.sum_nil, ih]
    ring

/-- A number of whole bytes, from its nibbles. -/
theorem nibNum_bytes (w : Nat) (bytes : List Byte) (i : Nat) :
    nibNum (2 * w) (bytes.flatMap fun b => [nibOf b false, nibOf b true]) i = leNat ((bytes.drop (w * i)).take w) := by
  rw [leNat_take_drop, nibNum, sum_range_pairs]
  congr 1
  refine List.map_congr_left fun t _ => ?_
  rw [getD_nibbles, getD_nibbles, ← nibOf_pair]
  have hlo : (2 * w * i + 2 * t) / 2 = w * i + t := by rw [Nat.mul_assoc]; omega
  have hhi : (2 * w * i + (2 * t + 1)) / 2 = w * i + t := by rw [Nat.mul_assoc]; omega
  have hlo2 : (2 * w * i + 2 * t) % 2 = 0 := by rw [Nat.mul_assoc]; omega
  have hhi2 : (2 * w * i + (2 * t + 1)) % 2 = 1 := by rw [Nat.mul_assoc]; omega
  rw [hlo, hhi, hlo2, hhi2, show (256 : Nat) = 16 ^ 2 by norm_num, ← Nat.pow_mul]
  simp only [beq_self_eq_true, show ((0 : Nat) == 1) = false from rfl]
  ring

/-! ### Elements of plain formats -/

theorem fmtStore_mem (f : Nat) : fmtStore f ∈ [4, 8, 16, 32, 64] := by
  unfold fmtStore fmtBits
  split_ifs with h
  · decide
  · split <;> simp_all

/-- An element occupies a nibble, or whole bytes (Table 2-1). -/
theorem fmtStore_cases (f : Nat) : fmtStore f = 4 ∨ ∃ w, 0 < w ∧ fmtStore f = 8 * w := by
  have hmem := fmtStore_mem f
  simp only [List.mem_cons, List.not_mem_nil, or_false] at hmem
  rcases hmem with h | h
  · exact .inl h
  · exact .inr ⟨fmtStore f / 8, by omega, by omega⟩

theorem elemNibs_of_plain {f : Nat} (hf : fmtBlock f = false) : elemNibs f = fmtStore f / 4 := by
  unfold elemNibs
  rw [hf]
  rfl

/-- Element `k` of a string of bytes of a plain format: bits 7 and 6 of an LNS6 byte are ignored (R25). -/
def plainElem (f : Nat) (bytes : List Byte) (k : Nat) : Nat :=
  let n := nibNum (elemNibs f) (bytes.flatMap fun b => [nibOf b false, nibOf b true]) k
  if f = 0x0D then n % 64 else n

theorem plainElems_eq {f : Nat} (hf : fmtBlock f = false) (n : Nat) (bytes : List Byte) :
    plainElems f n bytes = (List.range n).map (plainElem f bytes) := by
  unfold plainElems
  rw [upFrom_zero]
  rcases fmtStore_cases f with h4 | ⟨w, -, hw⟩
  · rw [if_pos h4]
    refine List.map_congr_left fun i _ => ?_
    have hne : f ≠ 0x0D := fun h => by rw [h] at h4; exact absurd h4 (by decide)
    unfold plainElem
    rw [elemNibs_of_plain hf, h4, if_neg hne, nibNum]
    rw [show 4 / 4 = 1 from rfl, List.range_one, List.map_singleton, List.sum_singleton, Nat.one_mul, Nat.add_zero, pow_zero, Nat.mul_one,
      getD_nibbles]
    unfold nibOf
    rcases Nat.mod_two_eq_zero_or_one i with h | h <;> simp [h]
  · rw [if_neg (by omega)]
    refine List.map_congr_left fun i _ => ?_
    unfold plainElem
    rw [elemNibs_of_plain hf, hw, show 8 * w / 4 = 2 * w by omega, show 8 * w / 8 = w by omega, nibNum_bytes]

/-! ### Pops of plain formats -/

/-- What EDGE gives the lanes past a vector's elements, the last of which is given (R145). -/
def edgeLane (h : HRec) (last : Option Lane) : Option Lane :=
  if hEdge h = 1 then some (if hFmt h = 0x0D then 0x20 else 0, 0) else if hEdge h = 2 then last else none

section
variable {h : HRec} (hf : fmtBlock (hFmt h) = false) (hb : hBcast h 0 = false)
include hf hb

theorem popLanes_of_plain (v : Nat) (bytes : List Byte) :
    popLanes h v bytes = ((List.range (hVecLanes h v)).map (fun k => some (plainElem (hFmt h) bytes k, 0))
      ++ List.replicate (fmtLanes (hFmt h) - hVecLanes h v)
          (edgeLane h ((List.range (hVecLanes h v)).map fun k => (plainElem (hFmt h) bytes k, (0 : Int))).getLast?), false) := by
  unfold popLanes edgeLane
  simp only [hf, hb, Bool.false_eq_true, if_false, plainElems_eq hf, List.map_map, Function.comp_def]
  congr 3
  split
  case h_1 he => rw [he, if_pos rfl]
  case h_2 he => rw [he, if_neg (by decide), if_pos rfl]
  case h_3 h1 h2 => rw [if_neg h1, if_neg h2]

theorem popLanes_getD_lt {v k : Nat} (bytes : List Byte) (hk : k < hVecLanes h v) :
    (popLanes h v bytes).1.getD k none = some (plainElem (hFmt h) bytes k, 0) := by
  rw [popLanes_of_plain hf hb]
  dsimp only
  rw [List.getD_append _ _ _ _ (by simpa using hk), getD_map_range, if_pos hk]

theorem popLanes_getD_ge {v k : Nat} (bytes : List Byte) (hk : hVecLanes h v ≤ k) (hl : k < fmtLanes (hFmt h)) :
    (popLanes h v bytes).1.getD k none =
      edgeLane h ((List.range (hVecLanes h v)).map fun k => (plainElem (hFmt h) bytes k, (0 : Int))).getLast? := by
  rw [popLanes_of_plain hf hb]
  dsimp only
  rw [List.getD_append_right _ _ _ _ (by simpa using hk)]
  simp only [List.length_map, List.length_range]
  rw [List.getD_replicate _ (by omega)]

theorem popLanes_edge {v k : Nat} (bytes : List Byte) (hk : hVecLanes h v ≤ k) (hl : k < fmtLanes (hFmt h)) :
    (hEdge h = 0 → (popLanes h v bytes).1.getD k none = none)
      ∧ (hEdge h = 1 → (popLanes h v bytes).1.getD k none = some (if hFmt h = 0x0D then 0x20 else 0, 0))
      ∧ (hEdge h = 2 → 0 < hVecLanes h v →
          (popLanes h v bytes).1.getD k none = some (plainElem (hFmt h) bytes (hVecLanes h v - 1), 0)) := by
  rw [popLanes_getD_ge hf hb bytes hk hl]
  unfold edgeLane
  refine ⟨fun he => by simp [he], fun he => by simp [he], fun he hpos => ?_⟩
  rw [if_neg (by omega), if_pos he, List.getLast?_map, List.getLast?_range, if_neg (by omega)]
  rfl

end

end Sys2Proof.Machine
end

section
/-! PROOFS. Planned writes: the nibbles that masked bytes write, byte by byte and granule by granule (R142, R144, R145). -/

namespace Sys2Proof.Machine

/-! ### The nibbles of masked bytes -/

/-- A nibble of a byte is among those that a mask lets through (1 low, 2 high). -/
def maskHas (m : Nat) (hi : Bool) : Bool := if hi then decide (2 ≤ m) else m % 2 == 1

theorem nibIn_eq (at_ : Int) (data : List (Byte × Nat)) (a : Int) (hi : Bool) :
    nibIn at_ data a hi = if a < at_ ∨ at_ + data.length ≤ a then none
      else if maskHas (data.getD (a - at_).toNat (0, 0)).2 hi then some (nibOf (data.getD (a - at_).toNat (0, 0)).1 hi) else none := rfl

theorem nibIn_eq_some_iff {at_ : Int} {data : List (Byte × Nat)} {a : Int} {hi : Bool} {v : Nat} :
    nibIn at_ data a hi = some v ↔
      ∃ (n : Nat) (d : Byte × Nat), data[n]? = some d ∧ at_ + n = a ∧ maskHas d.2 hi = true ∧ nibOf d.1 hi = v := by
  rw [nibIn_eq]
  constructor
  · intro h
    split_ifs at h with hout hmask
    have hn : (a - at_).toNat < data.length := by omega
    refine ⟨(a - at_).toNat, _, List.getElem?_eq_getElem hn, by omega, ?_, ?_⟩
    · rwa [List.getD_eq_getElem _ _ hn] at hmask
    · rw [List.getD_eq_getElem _ _ hn] at h
      exact Option.some.inj h
  · rintro ⟨n, d, hd, rfl, hmask, rfl⟩
    obtain ⟨hn, rfl⟩ := List.getElem?_eq_some_iff.mp hd
    have hsub : (at_ + n - at_).toNat = n := by omega
    rw [if_neg (by omega), hsub, List.getD_eq_getElem _ _ hn]
    exact if_pos hmask

/-! ### Runs of written bytes -/

theorem maskHas_zero (hi : Bool) : maskHas 0 hi = false := by cases hi <;> rfl

/-- A byte of a run, by its place among all the bytes. -/
def InRuns (l : List (Nat × List (Byte × Nat))) (k : Nat) (d : Byte × Nat) : Prop := ∃ x ∈ l, ∃ n, x.2[n]? = some d ∧ x.1 + n = k

theorem inRuns_cons {x : Nat × List (Byte × Nat)} {l : List (Nat × List (Byte × Nat))} {k : Nat} {d : Byte × Nat} :
    InRuns (x :: l) k d ↔ (∃ n, x.2[n]? = some d ∧ x.1 + n = k) ∨ InRuns l k d := by
  simp [InRuns]

theorem exists_getElem?_cons {d y : Byte × Nat} {l : List (Byte × Nat)} {i k : Nat} :
    (∃ n, (d :: l)[n]? = some y ∧ i + n = k) ↔ (y = d ∧ k = i) ∨ ∃ n, l[n]? = some y ∧ i + 1 + n = k := by
  constructor
  · rintro ⟨n, hn, rfl⟩
    cases n with
    | zero => exact .inl ⟨(Option.some.inj hn).symm, rfl⟩
    | succ n => exact .inr ⟨n, hn, by omega⟩
  · rintro (⟨rfl, rfl⟩ | ⟨n, hn, rfl⟩)
    · exact ⟨0, rfl, rfl⟩
    · exact ⟨n + 1, hn, by omega⟩

/-- The runs hold each byte that has a nibble to write, at its place, and no other. -/
theorem inRuns_writtenRuns (data : List (Byte × Nat)) : ∀ {i k : Nat} {y : Byte × Nat},
    InRuns (writtenRuns i data) k y ↔ (∃ n, data[n]? = some y ∧ i + n = k) ∧ y.2 ≠ 0 := by
  induction data with
  | nil =>
    intro i k y
    simp [writtenRuns, InRuns]
  | cons d rest ih =>
    intro i k y
    rw [exists_getElem?_cons, writtenRuns]
    split_ifs with h0
    · rw [ih]
      constructor
      · exact fun ⟨h, hy⟩ => ⟨.inr h, hy⟩
      · rintro ⟨⟨rfl, -⟩ | h, hy⟩
        · exact absurd h0 hy
        · exact ⟨h, hy⟩
    · have hsplit : ∀ P : Prop, ((y = d ∧ k = i) ∨ P) ∧ y.2 ≠ 0 ↔ (y = d ∧ k = i) ∨ (P ∧ y.2 ≠ 0) := fun P => by
        constructor
        · rintro ⟨h | h, hy⟩
          · exact .inl h
          · exact .inr ⟨h, hy⟩
        · rintro (⟨rfl, rfl⟩ | ⟨h, hy⟩)
          · exact ⟨.inl ⟨rfl, rfl⟩, h0⟩
          · exact ⟨.inr h, hy⟩
      rw [hsplit, ← ih]
      split
      · rename_i j run more heq
        rw [heq]
        split_ifs with hj
        · rw [inRuns_cons, inRuns_cons, exists_getElem?_cons, hj, or_assoc]
        · rw [inRuns_cons, exists_getElem?_cons]
          simp
      · rename_i heq
        rw [heq, inRuns_cons, exists_getElem?_cons]
        simp

/-! ### Granules -/

theorem granules_inside : ∀ (fuel : Nat) (a : Int) (n : Nat) {g : Int × Nat}, g ∈ granules fuel a n →
    a ≤ g.1 ∧ g.1 + g.2 ≤ a + n
  | 0, _, _, _, h => by cases h
  | fuel + 1, a, n, g, h => by
    rw [granules] at h
    split_ifs at h with h0
    · cases h
    · rcases List.mem_cons.mp h with rfl | h
      · exact ⟨le_rfl, by dsimp only; omega⟩
      · have := granules_inside fuel _ _ h
        omega

/-- With enough fuel the granules hold every byte of the range. -/
theorem exists_granule : ∀ (fuel : Nat) (a : Int) (n : Nat), (n : Int) + a % 64 ≤ 64 * fuel → ∀ {y : Int}, a ≤ y → y < a + n →
    ∃ g ∈ granules fuel a n, g.1 ≤ y ∧ y < g.1 + g.2
  | 0, a, n, hf, y, h1, h2 => by omega
  | fuel + 1, a, n, hf, y, h1, h2 => by
    rw [granules, if_neg (by omega)]
    dsimp only
    generalize hk : min n (64 - (a % 64).toNat) = k
    by_cases hy : y < a + k
    · exact ⟨(a, k), List.mem_cons_self, h1, hy⟩
    · obtain ⟨g, hg, hgy⟩ := exists_granule fuel (a + k) (n - k) (by omega) (y := y) (by omega) (by omega)
      exact ⟨g, List.mem_cons_of_mem _ hg, hgy⟩

/-! ### The writes of masked bytes -/

theorem mem_outsOf {t p sp : Nat} {a : Int} {data : List (Byte × Nat)} {o : Out} :
    o ∈ outsOf t p sp a data ↔ ∃ x ∈ writtenRuns 0 data, ∃ g ∈ granules (x.2.length / 64 + 2) (a + x.1) x.2.length,
      o = { at_ := t, port := p, space := sp, addr := g.1, data := (x.2.drop (g.1 - (a + x.1)).toNat).take g.2 } := by
  unfold outsOf
  simp only [List.mem_flatMap, List.mem_map, eq_comm]

/-- Cut into granules, the writes give each nibble what the masked bytes give it, and no other nibble anything. -/
theorem exists_outsOf_writes {t p sp : Nat} {at_ : Int} {data : List (Byte × Nat)} {a : Int} {hi : Bool} {v : Nat} :
    (∃ o ∈ outsOf t p sp at_ data, o.writes a hi v) ↔ nibIn at_ data a hi = some v := by
  constructor
  · rintro ⟨o, ho, hw⟩
    obtain ⟨x, hx, g, hg, rfl⟩ := mem_outsOf.mp ho
    obtain ⟨n, d, hd, hn, hmask, hval⟩ := nibIn_eq_some_iff.mp hw
    dsimp only at hd hn
    obtain ⟨hlo, hhi⟩ := granules_inside _ _ _ hg
    have hlt : n < g.2 := by
      by_contra hge
      rw [List.getElem?_take_eq_none (by omega)] at hd
      cases hd
    rw [List.getElem?_take_of_lt hlt, List.getElem?_drop] at hd
    have hrun : InRuns (writtenRuns 0 data) (x.1 + ((g.1 - (at_ + x.1)).toNat + n)) d := ⟨x, hx, _, hd, rfl⟩
    obtain ⟨⟨m, hm, hmk⟩, -⟩ := (inRuns_writtenRuns data).mp hrun
    exact nibIn_eq_some_iff.mpr ⟨m, d, hm, by omega, hmask, hval⟩
  · intro h
    obtain ⟨n, d, hd, rfl, hmask, hval⟩ := nibIn_eq_some_iff.mp h
    have h0 : d.2 ≠ 0 := fun h0 => by
      rw [h0, maskHas_zero] at hmask
      cases hmask
    obtain ⟨x, hx, m, hm, hmk⟩ := (inRuns_writtenRuns data (i := 0) (k := n)).mpr ⟨⟨n, hd, Nat.zero_add n⟩, h0⟩
    obtain ⟨hlen, -⟩ := List.getElem?_eq_some_iff.mp hm
    obtain ⟨g, hg, hlo, hhi⟩ := exists_granule (x.2.length / 64 + 2) (at_ + x.1) x.2.length (by omega) (y := at_ + n)
      (by omega) (by omega)
    obtain ⟨hglo, -⟩ := granules_inside _ _ _ hg
    refine ⟨_, mem_outsOf.mpr ⟨x, hx, g, hg, rfl⟩, nibIn_eq_some_iff.mpr ⟨(at_ + n - g.1).toNat, d, ?_, by dsimp only; omega, hmask, hval⟩⟩
    dsimp only
    rw [List.getElem?_take_of_lt (by omega), List.getElem?_drop, ← hm]
    congr 1
    omega

theorem mem_keepOut {o p : Out} : ∀ {l : List Out}, o ∈ keepOut p l ↔ o = p ∨ o ∈ l
  | [] => by simp [keepOut]
  | q :: l => by
    rw [keepOut]
    split
    · simp
    · rw [List.mem_cons, mem_keepOut, List.mem_cons]
      exact or_left_comm

theorem mem_foldl_keepOut {o : Out} (l : List Out) : ∀ {m : List Out}, o ∈ l.foldl (fun m p => keepOut p m) m ↔ o ∈ l ∨ o ∈ m := by
  induction l with
  | nil => simp
  | cons p l ih =>
    intro m
    rw [List.foldl_cons, ih, mem_keepOut, List.mem_cons]
    exact or_left_comm.trans or_assoc.symm

/-- A planned write joins those that are planned. -/
theorem Run.mem_out_outs {r : Run} {t p sp : Nat} {a : Int} {data : List (Byte × Nat)} {o : Out} :
    o ∈ (r.out t p sp a data).w.outs ↔ o ∈ outsOf (t + r.w.gap) p sp a data ∨ o ∈ r.w.outs :=
  mem_foldl_keepOut _

theorem at_space_of_mem_outsOf {t p sp : Nat} {a : Int} {data : List (Byte × Nat)} {o : Out} (h : o ∈ outsOf t p sp a data) :
    o.at_ = t ∧ o.space = sp := by
  obtain ⟨x, -, g, -, rfl⟩ := mem_outsOf.mp h
  exact ⟨rfl, rfl⟩

/-! ### Bytes from nibbles -/

theorem nibOf_ofNat {lo hi : Nat} (hlo : lo < 16) (hhi : hi < 16) :
    nibOf (BitVec.ofNat 8 (lo + 16 * hi)) false = lo ∧ nibOf (BitVec.ofNat 8 (lo + 16 * hi)) true = hi := by
  unfold nibOf
  rw [BitVec.toNat_ofNat]
  simp only [if_true, if_false, Bool.false_eq_true]
  omega

theorem maskHas_pair (lo hi : Bool) :
    maskHas ((if lo then 1 else 0) + (if hi then 2 else 0)) false = lo ∧ maskHas ((if lo then 1 else 0) + (if hi then 2 else 0)) true = hi := by
  cases lo <;> cases hi <;> decide

/-- The bytes made of nibbles write those that are to be written, each at its place. -/
theorem nibIn_nibBytes {l : List (Nat × Bool)} (hl : ∀ x ∈ l, x.1 < 16) {at_ a : Int} {hi : Bool} {v : Nat} :
    nibIn at_ (nibBytes l) a hi = some v ↔
      ∃ n : Nat, l[n]? = some (v, true) ∧ at_ + ((n / 2 : Nat) : Int) = a ∧ (n % 2 == 1) = hi := by
  have key (l : List (Nat × Bool)) (hl : ∀ x ∈ l, x.1 < 16) : ∀ i, (∃ d, (nibBytes l)[i]? = some d ∧ maskHas d.2 hi = true ∧ nibOf d.1 hi = v)
      ↔ l[2 * i + hi.toNat]? = some (v, true) := by
    induction l using nibBytes.induct with
    | case1 => simp [nibBytes]
    | case2 lo =>
      have hlo := hl lo (by simp)
      intro i
      have hval := nibOf_ofNat hlo (show 0 < 16 by decide)
      have hmask := maskHas_pair lo.2 false
      simp only [Nat.mul_zero, Nat.add_zero, Bool.false_eq_true, if_false] at hval hmask
      cases i with
      | zero =>
        cases hi
        · simp [nibBytes, hval, hmask, Prod.ext_iff, and_comm]
        · simp [nibBytes, hmask]
      | succ i => simp [nibBytes, Nat.mul_succ, Nat.add_right_comm]
    | case3 lo hi' r ih =>
      intro i
      have hval := nibOf_ofNat (hl lo (by simp)) (hl hi' (by simp))
      have hmask := maskHas_pair lo.2 hi'.2
      cases i with
      | zero =>
        cases hi <;> simp [nibBytes, hval, hmask, Prod.ext_iff, and_comm]
      | succ i =>
        have := ih (fun x hx => hl x (by simp [hx])) i
        simpa [nibBytes, Nat.mul_succ, Nat.add_right_comm] using this
  rw [nibIn_eq_some_iff]
  constructor
  · rintro ⟨i, d, hd, rfl, hmask, hval⟩
    refine ⟨2 * i + hi.toNat, (key l hl i).mp ⟨d, hd, hmask, hval⟩, ?_, ?_⟩
    · cases hi
      · simp
      · simp
        omega
    · cases hi <;> simp
  · rintro ⟨n, hn, rfl, rfl⟩
    have hn2 : 2 * (n / 2) + (n % 2 == 1).toNat = n := by
      rcases Nat.mod_two_eq_zero_or_one n with h | h <;> simp [h] <;> omega
    obtain ⟨d, hd, hmask, hval⟩ := (key l hl (n / 2)).mpr (hn2.symm ▸ hn)
    exact ⟨n / 2, d, hd, rfl, hmask, hval⟩

end Sys2Proof.Machine
end

section
/-! PROOFS. The lanes that a push writes, and one step of an elementwise vector word (R224 to R226, R229, R231). -/

namespace Sys2Proof.Machine

/-! ### Lanes as nibbles -/

theorem getElem?_flatMap_const {α β : Type} {f : α → List β} {w : Nat} (hw : 0 < w) (l : List α) (hf : ∀ x ∈ l, (f x).length = w) :
    ∀ n, (l.flatMap f)[n]? = (l[n / w]?).bind fun x => (f x)[n % w]? := by
  induction l with
  | nil => simp
  | cons x l ih =>
    intro n
    have hx := hf x List.mem_cons_self
    rw [List.flatMap_cons]
    by_cases hn : n < w
    · rw [List.getElem?_append_left (by omega), Nat.div_eq_of_lt hn, Nat.mod_eq_of_lt hn]
      rfl
    · have hdiv : n / w = (n - w) / w + 1 := by
        rw [← Nat.add_div_right _ hw, Nat.sub_add_cancel (by omega)]
      rw [List.getElem?_append_right (by omega), hx, ih (fun y hy => hf y (List.mem_cons_of_mem _ hy)), hdiv,
        ← Nat.mod_eq_sub_mod (by omega)]
      rfl

theorem fmtStore_div_pos (f : Nat) : 0 < fmtStore f / 4 := by
  rcases fmtStore_cases f with h | ⟨w, hw, h⟩ <;> omega

theorem length_nibsOf (f : Nat) (o : Option Nat) : (nibsOf f o).length = fmtStore f / 4 := by
  cases o <;> simp [nibsOf]

theorem nibsOf_lt {f : Nat} {o : Option Nat} {x : Nat × Bool} (h : x ∈ nibsOf f o) : x.1 < 16 := by
  cases o with
  | none =>
    rw [List.eq_of_mem_replicate h]
    decide
  | some b =>
    obtain ⟨i, -, rfl⟩ := List.mem_map.mp h
    exact Nat.mod_lt _ (by decide)

theorem nibsOf_getElem?_eq_some {f : Nat} {o : Option Nat} {d v : Nat} (hd : d < fmtStore f / 4) :
    (nibsOf f o)[d]? = some (v, true) ↔ ∃ c, o = some c ∧ c / 16 ^ d % 16 = v := by
  cases o with
  | none =>
    rw [nibsOf, List.getElem?_replicate_of_lt hd]
    simp
  | some b =>
    rw [nibsOf, upFrom_zero, List.getElem?_map, List.getElem?_range hd]
    simp

/-- The nibbles that lanes write from an address on: those of the lanes that hold a code. -/
theorem nibIn_lanes (f : Nat) (vals : List (Option Nat)) {at_ a : Int} {hi : Bool} {v : Nat} :
    nibIn at_ (nibBytes (vals.flatMap (nibsOf f))) a hi = some v ↔
      ∃ k d c, vals.getD k none = some c ∧ d < fmtStore f / 4
        ∧ at_ + (((k * (fmtStore f / 4) + d) / 2 : Nat) : Int) = a ∧ ((k * (fmtStore f / 4) + d) % 2 == 1) = hi ∧ c / 16 ^ d % 16 = v := by
  have hw := fmtStore_div_pos f
  have hlt : ∀ x ∈ vals.flatMap (nibsOf f), x.1 < 16 := fun x hx => by
    obtain ⟨o, -, ho⟩ := List.mem_flatMap.mp hx
    exact nibsOf_lt ho
  have hflat := getElem?_flatMap_const hw vals (fun o _ => length_nibsOf f o)
  rw [nibIn_nibBytes hlt]
  constructor
  · rintro ⟨n, hn, rfl, rfl⟩
    have hd := Nat.mod_lt n hw
    rw [hflat] at hn
    obtain ⟨o, ho, hv⟩ := Option.bind_eq_some_iff.mp hn
    obtain ⟨c, rfl, hc⟩ := (nibsOf_getElem?_eq_some hd).mp hv
    refine ⟨n / (fmtStore f / 4), n % (fmtStore f / 4), c, ?_, hd, ?_, ?_, hc⟩
    · rw [List.getD_eq_getElem?_getD, ho]
      rfl
    · rw [Nat.div_add_mod']
    · rw [Nat.div_add_mod']
  · rintro ⟨k, d, c, hk, hd, rfl, rfl, hc⟩
    obtain ⟨hdiv, hmod⟩ := mul_add_div_of_lt (n := k) hd
    refine ⟨k * (fmtStore f / 4) + d, ?_, rfl, rfl⟩
    rw [hflat, hdiv, hmod]
    have hget : vals[k]? = some (some c) := by
      rw [List.getD_eq_getElem?_getD] at hk
      cases h : vals[k]? with
      | none => rw [h] at hk; cases hk
      | some o => rw [h] at hk; exact congrArg some hk
    rw [hget]
    exact (nibsOf_getElem?_eq_some hd).mpr ⟨c, rfl, hc⟩

theorem getD_take_none {α : Type} (l : List (Option α)) (n k : Nat) {c : α} :
    (l.take n).getD k none = some c ↔ k < n ∧ l.getD k none = some c := by
  by_cases h : k < n
  · rw [List.getD_eq_getElem?_getD, List.getElem?_take_of_lt h, ← List.getD_eq_getElem?_getD]
    exact (and_iff_right h).symm
  · rw [List.getD_eq_getElem?_getD, List.getElem?_take_eq_none (by omega)]
    simp [h]

/-! ### Sources side by side -/

theorem sideBySide_append (n : Nat) (l : List (List (Option Lane))) (x : List (Option Lane)) :
    sideBySide n (l ++ [x]) = List.zipWith (fun a b => a.bind fun u => b.map fun w => u ++ [w]) (sideBySide n l) x := by
  unfold sideBySide
  rw [List.foldl_append]
  rfl

/-- Lane `k` of sources side by side holds the lane of each, when none is masked. -/
theorem sideBySide_getD {n : Nat} {l : List (List (Option Lane))} (hl : ∀ x ∈ l, n ≤ x.length) {k : Nat} (hk : k < n) :
    (sideBySide n l).length = n ∧ (sideBySide n l).getD k none = l.mapM fun x => x.getD k none := by
  induction l using List.reverseRecOn with
  | nil =>
    refine ⟨List.length_replicate, ?_⟩
    rw [sideBySide, List.foldl_nil, List.getD_replicate _ hk]
    rfl
  | append_singleton l x ih =>
    obtain ⟨hlen, hget⟩ := ih fun y hy => hl y (List.mem_append_left _ hy)
    have hx := hl x (by simp)
    rw [sideBySide_append]
    refine ⟨by rw [List.length_zipWith, hlen]; omega, ?_⟩
    rw [List.getD_eq_getElem?_getD, List.getElem?_zipWith, List.mapM_append]
    rw [List.getD_eq_getElem _ _ (by omega)] at hget
    rw [List.getElem?_eq_getElem (by omega), List.getElem?_eq_getElem (by omega), hget]
    simp only [List.mapM_cons, List.mapM_nil, List.getD_eq_getElem _ _ (show k < x.length by omega)]
    cases l.mapM fun x => x.getD k none <;> cases x[k] <;> rfl

end Sys2Proof.Machine
end

section
/-! PROOFS. Steps of a run: what counting, pushing and going on leave alone, and what pops deliver (R144, R147, R224). -/

namespace Sys2Proof.Machine

/-! ### Counters, flags and times -/

@[simp] theorem Run.flag_s (r : Run) (f : BitVec 8) : (r.flag f).s = r.s := rfl
@[simp] theorem Run.flag_outs (r : Run) (f : BitVec 8) : (r.flag f).w.outs = r.w.outs := rfl
@[simp] theorem Run.flag_gap (r : Run) (f : BitVec 8) : (r.flag f).w.gap = r.w.gap := rfl
@[simp] theorem Run.flag_xres (r : Run) (f : BitVec 8) : (r.flag f).w.xres = r.w.xres := rfl
@[simp] theorem Run.flag_word (r : Run) (f : BitVec 8) : (r.flag f).w.word = r.w.word := rfl
@[simp] theorem Run.flag_st (r : Run) (f : BitVec 8) : (r.flag f).w.st = r.w.st := rfl

@[simp] theorem Run.count_s (r : Run) (f : Steps → Steps) : (r.count f).s = r.s := rfl
@[simp] theorem Run.count_outs (r : Run) (f : Steps → Steps) : (r.count f).w.outs = r.w.outs := rfl
@[simp] theorem Run.count_flags (r : Run) (f : Steps → Steps) : (r.count f).w.flags = r.w.flags := rfl
@[simp] theorem Run.count_gap (r : Run) (f : Steps → Steps) : (r.count f).w.gap = r.w.gap := rfl
@[simp] theorem Run.count_xres (r : Run) (f : Steps → Steps) : (r.count f).w.xres = r.w.xres := rfl
@[simp] theorem Run.count_word (r : Run) (f : Steps → Steps) : (r.count f).w.word = r.w.word := rfl

@[simp] theorem Run.at_s (r : Run) (t : Option Nat) : (r.at_ t).s = r.s := rfl
@[simp] theorem Run.at_outs (r : Run) (t : Option Nat) : (r.at_ t).w.outs = r.w.outs := rfl
@[simp] theorem Run.at_flags (r : Run) (t : Option Nat) : (r.at_ t).w.flags = r.w.flags := rfl
@[simp] theorem Run.at_gap (r : Run) (t : Option Nat) : (r.at_ t).w.gap = r.w.gap := rfl
@[simp] theorem Run.at_xres (r : Run) (t : Option Nat) : (r.at_ t).w.xres = r.w.xres := rfl
@[simp] theorem Run.at_word (r : Run) (t : Option Nat) : (r.at_ t).w.word = r.w.word := rfl
@[simp] theorem Run.at_st (r : Run) (t : Option Nat) : (r.at_ t).w.st = r.w.st := rfl

@[simp] theorem Run.accepts_s (r : Run) (t : Nat) : (r.accepts t).s = r.s := rfl
@[simp] theorem Run.accepts_outs (r : Run) (t : Nat) : (r.accepts t).w.outs = r.w.outs := rfl
@[simp] theorem Run.accepts_flags (r : Run) (t : Nat) : (r.accepts t).w.flags = r.w.flags := rfl
@[simp] theorem Run.accepts_gap (r : Run) (t : Nat) : (r.accepts t).w.gap = r.w.gap := rfl
@[simp] theorem Run.accepts_xres (r : Run) (t : Nat) : (r.accepts t).w.xres = r.w.xres := rfl
@[simp] theorem Run.accepts_word (r : Run) (t : Nat) : (r.accepts t).w.word = r.w.word := rfl
@[simp] theorem Run.accepts_st (r : Run) (t : Nat) : (r.accepts t).w.st = r.w.st := rfl

@[simp] theorem Run.writesNext_s (r : Run) (a : List (Nat × Int)) : (r.writesNext a).s = r.s := rfl
@[simp] theorem Run.writesNext_outs (r : Run) (a : List (Nat × Int)) : (r.writesNext a).w.outs = r.w.outs := rfl
@[simp] theorem Run.writesNext_flags (r : Run) (a : List (Nat × Int)) : (r.writesNext a).w.flags = r.w.flags := rfl
@[simp] theorem Run.writesNext_gap (r : Run) (a : List (Nat × Int)) : (r.writesNext a).w.gap = r.w.gap := rfl
@[simp] theorem Run.writesNext_xres (r : Run) (a : List (Nat × Int)) : (r.writesNext a).w.xres = r.w.xres := rfl
@[simp] theorem Run.writesNext_word (r : Run) (a : List (Nat × Int)) : (r.writesNext a).w.word = r.w.word := rfl
@[simp] theorem Run.writesNext_st (r : Run) (a : List (Nat × Int)) : (r.writesNext a).w.st = r.w.st := rfl

@[simp] theorem Run.pushesNext_s (r : Run) (qs : List Nat) : (r.pushesNext qs).s = r.s := rfl
@[simp] theorem Run.pushesNext_outs (r : Run) (qs : List Nat) : (r.pushesNext qs).w.outs = r.w.outs := rfl
@[simp] theorem Run.pushesNext_flags (r : Run) (qs : List Nat) : (r.pushesNext qs).w.flags = r.w.flags := rfl
@[simp] theorem Run.pushesNext_gap (r : Run) (qs : List Nat) : (r.pushesNext qs).w.gap = r.w.gap := rfl
@[simp] theorem Run.pushesNext_xres (r : Run) (qs : List Nat) : (r.pushesNext qs).w.xres = r.w.xres := rfl
@[simp] theorem Run.pushesNext_word (r : Run) (qs : List Nat) : (r.pushesNext qs).w.word = r.w.word := rfl
@[simp] theorem Run.pushesNext_st (r : Run) (qs : List Nat) : (r.pushesNext qs).w.st = r.w.st := rfl

@[simp] theorem Run.step_s (r : Run) (q : Nat) : (r.step q).s = r.s := rfl
@[simp] theorem Run.step_outs (r : Run) (q : Nat) : (r.step q).w.outs = r.w.outs := rfl
@[simp] theorem Run.step_flags (r : Run) (q : Nat) : (r.step q).w.flags = r.w.flags := rfl
@[simp] theorem Run.step_gap (r : Run) (q : Nat) : (r.step q).w.gap = r.w.gap := rfl
@[simp] theorem Run.step_xres (r : Run) (q : Nat) : (r.step q).w.xres = r.w.xres := rfl
@[simp] theorem Run.step_word (r : Run) (q : Nat) : (r.step q).w.word = r.w.word := rfl
@[simp] theorem Run.flag_flags (r : Run) (f : BitVec 8) : (r.flag f).w.flags = r.w.flags ||| f := rfl

@[simp] theorem Run.count_st (r : Run) (f : Steps → Steps) : (r.count f).w.st = f r.w.st := rfl

theorem Run.goOn_eq (r : Run) (k n t comp : Nat) :
    r.goOn k n t comp = if k < n then (r.count fun c => { c with t := t, i := 0, k := k, buf := [] }).at_ (some t)
      else ((r.count fun c => { c with t := t, i := 0, k := k, buf := [] }).at_ none).ends (comp + r.w.gap) := rfl

@[simp] theorem Run.goOn_s (r : Run) (k n t comp : Nat) : (r.goOn k n t comp).s = r.s := by
  rw [Run.goOn_eq]; split <;> rfl

@[simp] theorem Run.goOn_outs (r : Run) (k n t comp : Nat) : (r.goOn k n t comp).w.outs = r.w.outs := by
  rw [Run.goOn_eq]; split <;> rfl

@[simp] theorem Run.goOn_flags (r : Run) (k n t comp : Nat) : (r.goOn k n t comp).w.flags = r.w.flags := by
  rw [Run.goOn_eq]; split <;> rfl

@[simp] theorem Run.goOn_gap (r : Run) (k n t comp : Nat) : (r.goOn k n t comp).w.gap = r.w.gap := by
  rw [Run.goOn_eq]; split <;> rfl

@[simp] theorem Run.goOn_xres (r : Run) (k n t comp : Nat) : (r.goOn k n t comp).w.xres = r.w.xres := by
  rw [Run.goOn_eq]; split <;> rfl

@[simp] theorem Run.goOn_word (r : Run) (k n t comp : Nat) : (r.goOn k n t comp).w.word = r.w.word := by
  rw [Run.goOn_eq]; split <;> rfl

@[simp] theorem Run.goOn_st (r : Run) (k n t comp : Nat) :
    (r.goOn k n t comp).w.st = { r.w.st with t := t, i := 0, k := k, buf := [] } := by
  rw [Run.goOn_eq]; split <;> rfl

@[simp] theorem Run.ite_accepts_s (p : Prop) [Decidable p] (r : Run) (t : Nat) :
    (if p then r else r.accepts t).s = r.s := by
  split <;> rfl

@[simp] theorem Run.ite_accepts_outs (p : Prop) [Decidable p] (r : Run) (t : Nat) :
    (if p then r else r.accepts t).w.outs = r.w.outs := by
  split <;> rfl

@[simp] theorem Run.ite_accepts_flags (p : Prop) [Decidable p] (r : Run) (t : Nat) :
    (if p then r else r.accepts t).w.flags = r.w.flags := by
  split <;> rfl

@[simp] theorem Run.ite_accepts_gap (p : Prop) [Decidable p] (r : Run) (t : Nat) :
    (if p then r else r.accepts t).w.gap = r.w.gap := by
  split <;> rfl

@[simp] theorem Run.ite_accepts_xres (p : Prop) [Decidable p] (r : Run) (t : Nat) :
    (if p then r else r.accepts t).w.xres = r.w.xres := by
  split <;> rfl

@[simp] theorem Run.ite_accepts_st (p : Prop) [Decidable p] (r : Run) (t : Nat) :
    (if p then r else r.accepts t).w.st = r.w.st := by
  split <;> rfl

/-! ### Pushes -/

/-- The time of a push: after the word's last one. -/
def Run.pushTime (r : Run) (t : Nat) : Nat :=
  match r.w.st.prev with | some p => max (t + r.w.st.shift) (p + 1) | none => t + r.w.st.shift

theorem Run.le_pushTime (r : Run) (t : Nat) : t ≤ r.pushTime t := by
  unfold Run.pushTime
  split <;> omega

section
variable (r : Run) (q t : Nat) (data : List (Byte × Nat)) (f : BitVec 8)

theorem Run.push_outs : (r.push q t data f).w.outs =
    (r.out (r.pushTime t) q (hSpace (r.s.portRec q)) (hVecAddr (r.s.portRec q) (r.idx q)) data).w.outs := rfl

@[simp] theorem Run.push_s : (r.push q t data f).s = r.s := rfl

@[simp] theorem Run.push_flags : (r.push q t data f).w.flags = r.w.flags ||| f := rfl

@[simp] theorem Run.push_gap : (r.push q t data f).w.gap = r.w.gap := rfl

@[simp] theorem Run.push_xres : (r.push q t data f).w.xres = r.w.xres := rfl

@[simp] theorem Run.push_word : (r.push q t data f).w.word = r.w.word := rfl

theorem Run.push_st : (r.push q t data f).w.st =
    { r.w.st with idx := sset 0 r.w.st.idx q (nextVec (r.s.portRec q) (r.idx q)), prev := some (r.pushTime t)
                  shift := r.w.st.shift + (r.pushTime t - (t + r.w.st.shift)) } := rfl

end

/-! ### Pops -/

/-- A run whose pops have gone on in the ports' sweeps and set flags. -/
def Run.advanced (r : Run) (f : BitVec 8) (ix : SMap Nat) : Run :=
  { r with w := { r.w with flags := f, st := { r.w.st with idx := ix } } }

theorem Run.popped_eq (r : Run) (q : Nat) (bytes : List Byte) :
    r.popped q bytes =
      (r.advanced (if (popLanes (r.s.portRec q) (r.idx q) bytes).2 then r.w.flags ||| flagHDR else r.w.flags)
        (sset 0 r.w.st.idx q (nextVec (r.s.portRec q) (r.idx q))), (popLanes (r.s.portRec q) (r.idx q) bytes).1) := by
  unfold Run.popped
  dsimp only
  split <;> rfl

/-- The flags that pops of some ports set: HDR where a block's header is another's (R31). -/
def Run.popFlags (r : Run) (qs : List Nat) (bytes : Nat → List Byte) : BitVec 8 :=
  if qs.any fun q => (popLanes (r.s.portRec q) (r.idx q) (bytes q)).2 then flagHDR else 0

theorem Run.popFlags_cons (r : Run) (q : Nat) (qs : List Nat) (bytes : Nat → List Byte) :
    r.popFlags (q :: qs) bytes =
      (if (popLanes (r.s.portRec q) (r.idx q) (bytes q)).2 then flagHDR else 0) ||| r.popFlags qs bytes := by
  unfold Run.popFlags
  rw [List.any_cons]
  cases (popLanes (r.s.portRec q) (r.idx q) (bytes q)).2 <;> cases qs.any _ <;> decide

/-- Each port is popped once, from where it stands. -/
theorem Run.foldl_popped_eq (bytes : Nat → List Byte) (qs : List Nat) : ∀ (r : Run) (acc : List (Nat × List (Option Lane))), qs.Nodup →
    ∃ ix, (List.zip qs (qs.map bytes)).foldl
        (fun (acc : Run × List (Nat × List (Option Lane))) e => let x := acc.1.popped e.1 e.2; (x.1, acc.2 ++ [(e.1, x.2)])) (r, acc)
        = (r.advanced (r.w.flags ||| r.popFlags qs bytes) ix,
            acc ++ qs.map fun q => (q, (popLanes (r.s.portRec q) (r.idx q) (bytes q)).1))
      ∧ ∀ p, p ∉ qs → sget 0 ix p = r.idx p := by
  induction qs with
  | nil => exact fun r acc _ => ⟨r.w.st.idx, by simp [Run.popFlags, Run.advanced], fun p _ => rfl⟩
  | cons q qs ih =>
    intro r acc hnd
    obtain ⟨hq, hqs⟩ := List.nodup_cons.mp hnd
    rw [List.map_cons, List.zip_cons_cons, List.foldl_cons]
    dsimp only
    rw [Run.popped_eq]
    dsimp only
    set ix1 := sset 0 r.w.st.idx q (nextVec (r.s.portRec q) (r.idx q)) with hix1
    set r1 := r.advanced (if (popLanes (r.s.portRec q) (r.idx q) (bytes q)).2 then r.w.flags ||| flagHDR else r.w.flags) ix1 with hr1
    have hidx (p : Nat) (hp : p ≠ q) : r1.idx p = r.idx p := sget_sset_other 0 _ _ hp
    obtain ⟨ix, hfold, hix⟩ := ih r1 (acc ++ [(q, (popLanes (r.s.portRec q) (r.idx q) (bytes q)).1)]) hqs
    refine ⟨ix, ?_, fun p hp => ?_⟩
    · have hmap : qs.map (fun q => (q, (popLanes (r1.s.portRec q) (r1.idx q) (bytes q)).1))
          = qs.map fun q => (q, (popLanes (r.s.portRec q) (r.idx q) (bytes q)).1) :=
        List.map_congr_left fun p hp => by rw [hidx p fun h => hq (h ▸ hp)]; rfl
      have hany : r1.popFlags qs bytes = r.popFlags qs bytes := by
        unfold Run.popFlags
        congr 2
        rw [Bool.eq_iff_iff, List.any_eq_true, List.any_eq_true]
        refine exists_congr fun p => and_congr_right fun hp => ?_
        rw [hidx p fun h => hq (h ▸ hp)]
        rfl
      have hflags : r1.w.flags ||| r.popFlags qs bytes = r.w.flags ||| r.popFlags (q :: qs) bytes := by
        rw [Run.popFlags_cons, ← BitVec.or_assoc]
        congr 1
        change (if _ then _ else _) = _
        split <;> simp
      rw [hfold, hmap, hany, hflags, List.map_cons, List.append_assoc]
      rfl
    · rw [hix p (fun h => hp (List.mem_cons_of_mem _ h)), hidx p fun h => hp (h ▸ List.mem_cons_self)]

theorem Run.takeLanes_eq (r : Run) (bytes : Nat → List Byte) {qs : List Nat} (hqs : qs.Nodup) :
    ∃ ix, r.takeLanes qs (qs.map bytes) = (r.advanced (r.w.flags ||| r.popFlags qs bytes) ix,
            qs.map fun q => (q, (popLanes (r.s.portRec q) (r.idx q) (bytes q)).1))
      ∧ ∀ p, p ∉ qs → sget 0 ix p = r.idx p :=
  Run.foldl_popped_eq bytes qs r [] hqs

theorem Run.popFlags_of_plain {r : Run} {qs : List Nat} (bytes : Nat → List Byte)
    (h : ∀ q ∈ qs, fmtBlock (hFmt (r.s.portRec q)) = false) : r.popFlags qs bytes = 0 := by
  unfold Run.popFlags
  rw [if_neg]
  rw [List.any_eq_true]
  rintro ⟨q, hq, hbad⟩
  have hplain : (popLanes (r.s.portRec q) (r.idx q) (bytes q)).2 = false := by
    unfold popLanes
    simp only [h q hq, Bool.false_eq_true, if_false]
    split <;> rfl
  rw [hplain] at hbad
  cases hbad

theorem lanesOf_map_self (f : Nat → List (Option Lane)) {qs : List Nat} {q : Nat} (hq : q ∈ qs) :
    lanesOf (qs.map fun q => (q, f q)) q = f q := by
  unfold lanesOf
  induction qs with
  | nil => cases hq
  | cons p qs ih =>
    rw [List.map_cons, List.find?_cons]
    by_cases hp : p = q
    · subst hp
      simp
    · rw [beq_eq_false_iff_ne.mpr hp]
      exact ih ((List.mem_cons.mp hq).resolve_left (Ne.symm hp))

/-- The lanes that pops of distinct ports delivered, joined to none. -/
theorem joinLanes_nil (qs : List Nat) (f : Nat → List (Option Lane)) :
    joinLanes qs [] (qs.map fun q => (q, f q)) = qs.map fun q => (q, f q) := by
  unfold joinLanes
  refine List.map_congr_left fun q hq => ?_
  rw [lanesOf_map_self f hq]
  rfl

theorem length_plainElems {f : Nat} (n : Nat) (bytes : List Byte) : (plainElems f n bytes).length = n := by
  unfold plainElems
  split <;> simp

end Sys2Proof.Machine
end

section
/-! PROOFS. One step of an elementwise vector word (R224 to R226, R229, R231). -/

namespace Sys2Proof.Machine

/-! ### Flags that join -/

theorem and_or_of_and {n : Nat} {x f : BitVec n} (g : BitVec n) (h : x &&& f = x) : x &&& (f ||| g) = x := by
  rw [BitVec.and_or_distrib_left, h]
  ext i
  simpa using fun hx _ => hx

theorem and_or_right {n : Nat} (x f : BitVec n) : x &&& (f ||| x) = x := by
  rw [BitVec.or_comm]
  exact and_or_of_and f BitVec.and_self

theorem and_foldl_or_of_and {α : Type} {n : Nat} (g : α → BitVec n) (l : List α) : ∀ {a x : BitVec n}, x &&& a = x →
    x &&& l.foldl (fun f y => f ||| g y) a = x := by
  induction l with
  | nil => exact fun h => h
  | cons y l ih => exact fun h => ih (and_or_of_and (g y) h)

/-- The flags of every element are among those that they join to. -/
theorem and_foldl_or {α : Type} {n : Nat} (g : α → BitVec n) {l : List α} {y : α} (hy : y ∈ l) (a : BitVec n) :
    g y &&& l.foldl (fun f y => f ||| g y) a = g y := by
  induction l generalizing a with
  | nil => cases hy
  | cons z l ih =>
    rcases List.mem_cons.mp hy with rfl | hy
    · exact and_foldl_or_of_and g l (and_or_right _ _)
    · exact ih hy _

/-- The flags of a list of lanes that may be masked. -/
theorem foldl_optional_flags (l : List (Option (Nat × BitVec 8))) (a : BitVec 8) :
    l.foldl (fun f o => match o with | some x => f ||| x.2 | none => f) a = l.foldl (fun f o => f ||| o.elim 0 Prod.snd) a := by
  congr 1
  funext f o
  cases o
  · exact (BitVec.or_zero).symm
  · rfl

/-! ### A lane operation on every active lane -/

theorem mapM_option_map {α β γ : Type} (g : α → Option β) (h : β → γ) (l : List α) :
    (l.mapM g).map (List.map h) = l.mapM fun x => (g x).map h := by
  induction l with
  | nil => rfl
  | cons x l ih =>
    rw [List.mapM_cons, List.mapM_cons, ← ih]
    cases g x <;> cases l.mapM g <;> rfl

/-- The lanes side by side, with what the operation makes of each. -/
def laneResults (op : List Nat → Nat × BitVec 8) (n : Nat) (srcs : List (List (Option Lane))) : List (Option (Nat × BitVec 8)) :=
  (sideBySide n srcs).map fun l => l.map fun x => op (x.map Prod.fst)

theorem laneResults_getD (op : List Nat → Nat × BitVec 8) {n : Nat} {srcs : List (List (Option Lane))} (hl : ∀ x ∈ srcs, n ≤ x.length)
    {k : Nat} (hk : k < n) :
    (laneResults op n srcs)[k]? = some ((srcs.mapM fun x => (List.getD x k none).map Prod.fst).map op) := by
  obtain ⟨hlen, hget⟩ := sideBySide_getD hl hk
  rw [List.getD_eq_getElem _ _ (by omega)] at hget
  rw [laneResults, List.getElem?_map, List.getElem?_eq_getElem (by omega), hget, ← mapM_option_map]
  simp [Function.comp_def]

theorem emitLanes_eq (op : List Nat → Nat × BitVec 8) (h : HRec) (n : Nat) (srcs : List (List (Option Lane))) :
    emitLanes op h n srcs = (nibBytes ((((laneResults op n srcs).take n).map (Option.map Prod.fst)).flatMap (nibsOf (hFmt h))),
      (laneResults op n srcs).foldl (fun f o => f ||| o.elim 0 Prod.snd) 0) := by
  rw [← foldl_optional_flags, List.flatMap_map]
  rfl

section
variable (op : List Nat → Nat × BitVec 8) {h : HRec} {n : Nat} {srcs : List (List (Option Lane))} (hl : ∀ x ∈ srcs, n ≤ x.length)
include hl

theorem nibIn_emitLanes {at_ a : Int} {hi : Bool} {v : Nat} :
    nibIn at_ (emitLanes op h n srcs).1 a hi = some v ↔
      ∃ k d l, k < n ∧ d < fmtStore (hFmt h) / 4 ∧ (srcs.mapM fun x => (List.getD x k none).map Prod.fst) = some l
        ∧ at_ + (((k * (fmtStore (hFmt h) / 4) + d) / 2 : Nat) : Int) = a ∧ ((k * (fmtStore (hFmt h) / 4) + d) % 2 == 1) = hi
        ∧ (op l).1 / 16 ^ d % 16 = v := by
  have hval (k : Nat) (c : Nat) : (((laneResults op n srcs).take n).map (Option.map Prod.fst)).getD k none = some c ↔
      k < n ∧ ∃ l, (srcs.mapM fun x => (List.getD x k none).map Prod.fst) = some l ∧ (op l).1 = c := by
    rw [← List.map_take.symm, getD_take_none]
    refine and_congr_right fun hk => ?_
    rw [List.getD_eq_getElem?_getD, List.getElem?_map, laneResults_getD op hl hk]
    simp
  rw [emitLanes_eq, nibIn_lanes]
  constructor
  · rintro ⟨k, d, c, hk, hd, ha, hhi, hv⟩
    obtain ⟨hkn, l, hl, rfl⟩ := (hval k c).mp hk
    exact ⟨k, d, l, hkn, hd, hl, ha, hhi, hv⟩
  · rintro ⟨k, d, l, hkn, hd, hl, ha, hhi, hv⟩
    exact ⟨k, d, _, (hval k _).mpr ⟨hkn, l, hl, rfl⟩, hd, ha, hhi, hv⟩

theorem flags_emitLanes {k : Nat} {l : List Nat} (hk : k < n) (hk' : (srcs.mapM fun x => (List.getD x k none).map Prod.fst) = some l) :
    (op l).2 &&& (emitLanes op h n srcs).2 = (op l).2 := by
  have hmem : some (op l) ∈ laneResults op n srcs := by
    refine List.mem_of_getElem? (i := k) ?_
    rw [laneResults_getD op hl hk, hk']
    rfl
  rw [emitLanes_eq]
  exact and_foldl_or (fun o : Option (Nat × BitVec 8) => o.elim 0 Prod.snd) hmem 0

end

/-! ### One step -/

theorem length_popLanes {h : HRec} (hf : fmtBlock (hFmt h) = false) (v : Nat) (bytes : List Byte) :
    (popLanes h v bytes).1.length = fmtLanes (hFmt h) := by
  have hle : hVecLanes h v ≤ fmtLanes (hFmt h) := min_le_left _ _
  unfold popLanes
  simp only [hf, Bool.false_eq_true, if_false]
  split <;> simp [length_plainElems] <;> omega

/-- A step of one pop and one push: the lanes that the pops delivered go to the next vector of the destination. -/
theorem stepTake_single {src : List Nat} {d occ delay : Nat} (emit : Emit) {r : Run} (bytes : Nat → List Byte) (hi : r.w.st.i = 0)
    (hbuf : r.w.st.buf = []) (hshape : stepShape (r.s.portRec (src.headD 0)) (r.s.portRec d) r.w.st.k = (1, 1)) (hd : d ∉ src)
    {e : List (Byte × Nat) × BitVec 8} {u : Run}
    (he : e = emit (r.s.portRec d) (hVecLanes (r.s.portRec d) (r.idx d))
      (src.map fun q => (popLanes (r.s.portRec q) (r.idx q) (bytes q)).1.take (fmtLanes (hFmt (r.s.portRec d)))))
    (hu : u = stepTake src d occ delay emit r ((distinctPorts src).map bytes)) :
    u.s = r.s ∧ u.w.st.k = r.w.st.k + 1 ∧ u.w.flags = r.w.flags ||| r.popFlags (distinctPorts src) bytes ||| e.2
      ∧ ∃ t, r.w.st.t + delay ≤ t ∧ u.w.outs = (r.out t d (hSpace (r.s.portRec d)) (hVecAddr (r.s.portRec d) (r.idx d)) e.1).w.outs := by
  have hnd : (distinctPorts src).Nodup := List.nodup_dedup src
  obtain ⟨ix, htake, hix⟩ := r.takeLanes_eq bytes hnd
  have hidx : (r.advanced (r.w.flags ||| r.popFlags (distinctPorts src) bytes) ix).idx d = r.idx d :=
    hix d (by simpa [distinctPorts] using hd)
  have hlanes : src.map (fun q => ((lanesOf ((distinctPorts src).map fun q => (q, (popLanes (r.s.portRec q) (r.idx q) (bytes q)).1)) q).drop
      (0 * fmtLanes (hFmt (r.s.portRec d)))).take (fmtLanes (hFmt (r.s.portRec d))))
      = src.map fun q => (popLanes (r.s.portRec q) (r.idx q) (bytes q)).1.take (fmtLanes (hFmt (r.s.portRec d))) :=
    List.map_congr_left fun q hq => by
      rw [lanesOf_map_self _ (by simpa [distinctPorts] using hq)]
      simp
  subst hu
  unfold stepTake
  dsimp only
  rw [htake, hshape, hi, hbuf, joinLanes_nil]
  dsimp only
  rw [if_neg (by decide), upFrom_zero, List.range_one, List.foldl_cons, List.foldl_nil, hidx, hlanes, ← he]
  refine ⟨by simp; rfl, by simp, by simp; rfl, ?_⟩
  refine ⟨_, ?_, by simp only [Run.pushesNext_outs, Run.goOn_outs, Run.ite_accepts_outs, Run.push_outs, hidx]; rfl⟩
  refine le_trans ?_ (Run.le_pushTime _ _)
  simp

end Sys2Proof.Machine
end

section
/-! PROOFS. The elementwise vector words on floats (R22, R34, R224, R229, R231). -/

namespace Sys2Proof.Machine

/-- An elementwise word works each lane by its row of operations (Table 15-4). -/
theorem VKind.emit_of_laneRow {kind : VKind} {fd fa : Nat} (fb : Nat) {xb xc : Word} {op : List Nat → Nat × BitVec 8}
    (h : laneRow fd fa xb xc kind = some op) : kind.emit fd fa fb xb xc = emitLanes op := by
  cases kind with
  | mov =>
    unfold laneRow at h
    split_ifs at h with hb
    cases h
    exact if_neg hb
  | spec fn =>
    unfold laneRow at h
    obtain ⟨g, hg, rfl⟩ := Option.map_eq_some_iff.mp h
    unfold VKind.emit
    dsimp only
    rw [hg]
  | _ => cases h <;> rfl

/-- The step of an elementwise word (R224, R229): its pushes come `laneDelay` ticks after its last pop. -/
theorem VForm.take_of_laneRow {f : VForm} {r : Run} {op : List Nat → Nat × BitVec 8} (got : List (List Byte))
    (h : laneRow (hFmt (r.s.portRec (f.dst.headD 0))) (hFmt (r.s.portRec (f.src.headD 0))) (r.w.word.xv 2) (r.w.word.xv 3) f.kind = some op) :
    ∃ occ, f.take r got = stepTake f.src (f.dst.headD 0) occ (laneDelay f.kind) (emitLanes op) r got := by
  rw [← VKind.emit_of_laneRow (hFmt (r.s.portRec ((f.src.drop 1).headD 0))) h]
  unfold VForm.take
  generalize f.kind = kind at h
  cases kind with
  | spec fn => exact ⟨4, rfl⟩
  | quant | dequant | red | redx | scan | topk | splat | iota | randU | randB | extr | perm => cases h
  | _ => exact ⟨1, rfl⟩

/-- The lanes of the sources of an elementwise word of equal widths, each whole. -/
theorem mapM_getD_pops {src : List Nat} {n k : Nat} {pops : Nat → List (Option Lane)} (h : ∀ q ∈ src, (pops q).length = n) :
    ((src.map fun q => (pops q).take n).mapM fun x => (List.getD x k none).map Prod.fst)
      = src.mapM fun q => ((pops q).getD k none).map Prod.fst := by
  have hmap : (src.map fun q => (pops q).take n) = src.map pops :=
    List.map_congr_left fun q hq => List.take_of_length_le (h q hq).le
  rw [hmap, List.mapM_map]
  rfl

theorem elementwiseStep {f : VForm} {r u : Run} {bytes : Nat → List Byte} {hd : HRec} {op : List Nat → Nat × BitVec 8}
    {lanes : Nat → Option (List Nat)} (hhd : hd = r.s.portRec (f.dst.headD 0))
    (hrow : laneRow (hFmt hd) (hFmt (r.s.portRec (f.src.headD 0))) (r.w.word.xv 2) (r.w.word.xv 3) f.kind = some op)
    (hdst : f.dst.headD 0 ∉ f.src) (hplain : ∀ q ∈ f.src, fmtBlock (hFmt (r.s.portRec q)) = false)
    (hwidth : ∀ q ∈ f.src, fmtLanes (hFmt (r.s.portRec q)) = fmtLanes (hFmt hd)) (hi : r.w.st.i = 0) (hbuf : r.w.st.buf = [])
    (houts : r.w.outs = []) (hu : u = f.take r ((distinctPorts f.src).map bytes))
    (hshape : stepShape (r.s.portRec (f.src.headD 0)) hd r.w.st.k = (1, 1))
    (hlanes : lanes = fun k => f.src.mapM fun q => ((popLanes (r.s.portRec q) (r.idx q) (bytes q)).1.getD k none).map Prod.fst) :
    u.s = r.s ∧ u.w.st.k = r.w.st.k + 1
      ∧ (∃ t, r.w.st.t + laneDelay f.kind ≤ t ∧ ∀ o ∈ u.w.outs, o.at_ = t + r.w.gap ∧ o.space = hSpace hd)
      ∧ (∀ k l, k < hVecLanes hd (r.idx (f.dst.headD 0)) → lanes k = some l → (op l).2 &&& u.w.flags = (op l).2)
      ∧ ∀ a hi v, (∃ o ∈ u.w.outs, o.writes a hi v) ↔
          ∃ k d l, k < hVecLanes hd (r.idx (f.dst.headD 0)) ∧ d < fmtStore (hFmt hd) / 4 ∧ lanes k = some l
            ∧ hVecAddr hd (r.idx (f.dst.headD 0)) + (((k * (fmtStore (hFmt hd) / 4) + d) / 2 : Nat) : Int) = a
            ∧ ((k * (fmtStore (hFmt hd) / 4) + d) % 2 == 1) = hi ∧ (op l).1 / 16 ^ d % 16 = v := by
  subst hhd
  set d := f.dst.headD 0
  set hd := r.s.portRec d
  obtain ⟨occ, htake⟩ := f.take_of_laneRow ((distinctPorts f.src).map bytes) hrow
  have hlen : ∀ q ∈ f.src, (popLanes (r.s.portRec q) (r.idx q) (bytes q)).1.length = fmtLanes (hFmt hd) := fun q hq => by
    rw [length_popLanes (hplain q hq), hwidth q hq]
  set srcs := f.src.map fun q => (popLanes (r.s.portRec q) (r.idx q) (bytes q)).1.take (fmtLanes (hFmt hd)) with hsrcs
  have hvec : hVecLanes hd (r.idx d) ≤ fmtLanes (hFmt hd) := min_le_left _ _
  have hl : ∀ x ∈ srcs, hVecLanes hd (r.idx d) ≤ x.length := fun x hx => by
    obtain ⟨q, hq, rfl⟩ := List.mem_map.mp hx
    rw [List.length_take, hlen q hq]
    omega
  have hrow (k : Nat) : (srcs.mapM fun x => (List.getD x k none).map Prod.fst) = lanes k := by
    rw [hlanes]
    exact mapM_getD_pops hlen
  obtain ⟨hs, hk, hflags, t, ht, houts'⟩ := stepTake_single (emitLanes op) bytes hi hbuf hshape hdst rfl (hu.trans htake)
  have hmem (o : Out) : o ∈ u.w.outs ↔ o ∈ outsOf (t + r.w.gap) d (hSpace hd) (hVecAddr hd (r.idx d))
      (emitLanes op hd (hVecLanes hd (r.idx d)) srcs).1 := by
    rw [houts', Run.mem_out_outs, houts]
    simp [hsrcs, hd]
  refine ⟨hs, hk, ⟨t, ht, fun o ho => at_space_of_mem_outsOf ((hmem o).mp ho)⟩, fun k l hk hlk => ?_, fun a hi v => ?_⟩
  · rw [hflags]
    refine (congrArg _ (BitVec.or_comm _ _)).trans (and_or_of_and _ ?_)
    exact flags_emitLanes op hl hk ((hrow k).trans hlk)
  · simp only [hmem]
    rw [exists_outsOf_writes, nibIn_emitLanes op hl]
    simp only [hrow]

/-! ### The clauses of the statement -/

theorem mem_ieeeFmts_of_ffmtOf {f : Nat} (hf : f ∈ [0x01, 0x02, 0x03]) {g : FFmt} (hg : ffmtOf f = some g) : g ∈ ieeeFmts := by
  obtain ⟨g', hg', hf'⟩ := ffmtOf_ieee hf
  exact Option.some.inj (hg.symm.trans hf') ▸ hg'

/-- A conversion from a finite value: nearest, ties to even, or infinity with OF and NX (R22, R34). -/
theorem encode_ieee_nearest {g : FFmt} (hg : g ∈ ieeeFmts) {v : Num} (hv : v.isFin = true) {c : Nat × BitVec 8} (hc : c = g.encode .rne false v) :
    (c.2 &&& flagOF = 0 → (g.decode c.1).isFin = true
        ∧ (∀ k, (g.decode k).isFin = true → |v.rat - (g.decode c.1).rat| ≤ |v.rat - (g.decode k).rat|)
        ∧ (∀ k, (g.decode k).isFin = true → (g.decode k).rat ≠ (g.decode c.1).rat →
            |v.rat - (g.decode k).rat| = |v.rat - (g.decode c.1).rat| → c.1 % 2 = 0)
        ∧ (c.2 &&& flagNX = 0 ↔ (g.decode c.1).rat = v.rat))
      ∧ (c.2 &&& flagOF ≠ 0 → c.2 = flagOF ||| flagNX ∧ g.decode c.1 = .inf (decide (v.rat < 0))
          ∧ (g.decode g.maxCode).rat < |v.rat|) := by
  obtain ⟨hfin, hover⟩ := encode_ieee hg hv hc
  refine ⟨fun h => ?_, hover⟩
  obtain ⟨⟨hdec, hnear⟩, hnx⟩ := hfin h
  exact ⟨hdec, fun k hk => (hnear k hk).1, fun k hk => (hnear k hk).2, hnx⟩

theorem binLane_of_fin {f a b : Nat} {g : FFmt} (hf : ffmtOf f = some g) (op : Bin)
    (ha : (g.decode a).isFin = true) (hb : (g.decode b).isFin = true) :
    (op = .add → ∃ v : Num, v.isFin = true ∧ v.rat = (g.decode a).rat + (g.decode b).rat ∧ binLane op f a b = g.encode .rne false v)
      ∧ (op = .sub → ∃ v : Num, v.isFin = true ∧ v.rat = (g.decode a).rat - (g.decode b).rat ∧ binLane op f a b = g.encode .rne false v)
      ∧ (op = .mul → ∃ v : Num, v.isFin = true ∧ v.rat = (g.decode a).rat * (g.decode b).rat ∧ binLane op f a b = g.encode .rne false v)
      ∧ (op = .min → (binLane op f a b = (a, 0) ∨ binLane op f a b = (b, 0))
          ∧ (g.decode (binLane op f a b).1).rat = min (g.decode a).rat (g.decode b).rat)
      ∧ (op = .max → (binLane op f a b = (a, 0) ∨ binLane op f a b = (b, 0))
          ∧ (g.decode (binLane op f a b).1).rat = max (g.decode a).rat (g.decode b).rat) := by
  rw [binLane_of_float hf]
  refine ⟨?_, ?_, ?_, ?_, ?_⟩ <;> rintro rfl
  · exact fltRes_fin (Num.add_fin ha hb)
  · exact fltRes_fin (Num.sub_fin ha hb)
  · exact fltRes_fin (Num.mul_fin ha hb)
  · obtain ⟨hone, hval⟩ := fltMin_of_fin ha hb
    exact ⟨hone.imp (congrArg (·, 0)) (congrArg (·, 0)), hval⟩
  · obtain ⟨hone, hval⟩ := fltMax_of_fin ha hb
    exact ⟨hone.imp (congrArg (·, 0)) (congrArg (·, 0)), hval⟩

/-- Infinity less infinity, and infinity times zero. -/
theorem binLane_of_inf_left {f a b : Nat} {g : FFmt} (hg : g ∈ ieeeFmts) (hf : ffmtOf f = some g) (op : Bin) {n : Bool}
    (ha : g.decode a = .inf n) :
    (op = .add → g.decode b = .inf !n → binLane op f a b = (g.nanCode, flagNV))
      ∧ (op = .sub → g.decode b = .inf n → binLane op f a b = (g.nanCode, flagNV))
      ∧ (op = .mul → (g.decode b).isFin = true → (g.decode b).rat = 0 → binLane op f a b = (g.nanCode, flagNV)) := by
  have hnan : ∀ x : Num × Bool, x = (.nan, true) → fltRes g x = (g.nanCode, flagNV) := fun x hx => by rw [hx, fltRes_nan hg]; rfl
  rw [binLane_of_float hf]
  refine ⟨?_, ?_, ?_⟩ <;> rintro rfl
  · intro hb
    refine hnan _ ?_
    rw [ha, hb, Num.inf_add_inf_not]
  · intro hb
    refine hnan _ ?_
    rw [ha, hb]
    exact Num.inf_add_inf_not n
  · intro hb hb0
    refine hnan _ ?_
    rw [ha, Num.mul_inf_zero n hb hb0]

theorem binLane_of_inf_right {f a b : Nat} {g : FFmt} (hg : g ∈ ieeeFmts) (hf : ffmtOf f = some g) {n : Bool}
    (hb : g.decode b = .inf n) (ha : (g.decode a).isFin = true) (ha0 : (g.decode a).rat = 0) :
    binLane .mul f a b = (g.nanCode, flagNV) := by
  rw [binLane_of_float hf]
  change fltRes g ((g.decode a).mul (g.decode b)) = _
  rw [hb, Num.mul_zero_inf n ha ha0, fltRes_nan hg]
  rfl

/-- Settles O40: conversions round to the nearest grid point, float lanes are exact before that one rounding, and a step of equal widths
writes lane by lane what its sources' pops delivered. -/
theorem floatVectorEffects : Obligations.FloatVectorEffects := by
  unfold Obligations.FloatVectorEffects
  refine ⟨fun g v c hg hv hc => encode_ieee_nearest hg hv hc, fun op f a b g hf hfg => ?_, fun negP negC f a b c g hf hfg => ?_,
    fun h v k bytes x hf hb hx => ?_, ?_⟩
  · have hg := mem_ieeeFmts_of_ffmtOf hf hfg
    refine ⟨fun h => (binLane_of_float hfg op a b).trans (fltBin_of_nan hg op h), binLane_of_fin hfg op,
      fun n ha => binLane_of_inf_left hg hfg op ha, ?_⟩
    rintro n hb rfl
    exact binLane_of_inf_right hg hfg hb
  · exact ⟨fmaLane_of_nan negP negC hfg, fmaLane_of_fin negP negC hfg,
      fun n => fmaLane_of_inf_zero negP negC (mem_ieeeFmts_of_ffmtOf hf hfg) hfg⟩
  · subst hx
    exact ⟨popLanes_getD_lt hf hb bytes, popLanes_edge hf hb bytes⟩
  · intro f r u bytes hd fa w op lanes hhd hfa hw hrow _ hdst _ hplain hwidth hi hbuf houts hu hshape hlanes
    subst hfa hw
    exact ⟨rfl, elementwiseStep hhd hrow hdst hplain hwidth hi hbuf houts hu hshape hlanes⟩

end Sys2Proof.Machine
end

section
/-! PROOFS. Reductions and scans (R41, R238 to R240). -/

namespace Sys2Proof.Machine

/-! ### The order of values -/

/-- Where a value that is no NaN lies on the line of the finite values and both infinities. -/
def Num.place : Num → WithBot (WithTop ℚ)
  | .inf false => ((⊤ : WithTop ℚ) : WithBot (WithTop ℚ))
  | .fin n m e => (((Num.fin n m e).rat : WithTop ℚ) : WithBot (WithTop ℚ))
  | _ => ⊥

theorem Num.place_of_isFin {v : Num} (h : v.isFin = true) : v.place = ((v.rat : WithTop ℚ) : WithBot (WithTop ℚ)) := by
  obtain ⟨n, m, e, rfl⟩ := Num.exists_fin_of_isFin h
  rfl

theorem Num.lt_iff_place {a b : Num} (ha : a ≠ .nan) (hb : b ≠ .nan) : a.lt b = true ↔ a.place < b.place := by
  match a, b with
  | .nan, _ => exact absurd rfl ha
  | _, .nan => exact absurd rfl hb
  | .inf true, .inf true | .inf false, .inf false | .inf true, .inf false | .inf false, .inf true => simp [Num.lt, Num.place]
  | .inf true, .fin n m e | .inf false, .fin n m e | .fin n m e, .inf true => simp [Num.lt, Num.place]
  | .fin n m e, .inf false => exact iff_of_true rfl (WithBot.coe_lt_coe.mpr (WithTop.coe_lt_top _))
  | .fin na ma ea, .fin nb mb eb =>
    rw [Num.lt_eq_decide rfl rfl, Num.place_of_isFin rfl, Num.place_of_isFin rfl, decide_eq_true_iff]
    simp

theorem Num.lt_eq_false_of_place_le {a b : Num} (h : b.place ≤ a.place) : a.lt b = false := by
  cases ha : a with
  | nan => rfl
  | _ =>
    cases hb : b with
    | nan => rfl
    | _ =>
      rw [← ha, ← hb, Bool.eq_false_iff]
      exact fun hlt => absurd ((Num.lt_iff_place (by simp [ha]) (by simp [hb])).mp hlt) (not_lt.mpr h)

theorem Num.place_le_of_below {a b : Num} (ha : a ≠ .nan) (hb : b ≠ .nan) (h : a.below b = true) : a.place ≤ b.place := by
  unfold Num.below at h
  rcases Bool.or_eq_true_iff.mp h with h | h
  · exact ((Num.lt_iff_place ha hb).mp h).le
  · have heq := (Bool.and_eq_true_iff.mp h).1
    by_contra hlt
    have := (Num.lt_iff_place hb ha).mpr (not_le.mp hlt)
    simp [Num.eqv, this] at heq

theorem Num.place_le_of_not_below {a b : Num} (ha : a ≠ .nan) (hb : b ≠ .nan) (h : a.below b = false) : b.place ≤ a.place := by
  unfold Num.below at h
  by_contra hlt
  rw [(Num.lt_iff_place ha hb).mpr (not_le.mp hlt)] at h
  cases h

/-! ### Folding lanes -/

/-- The value that a maximum or minimum keeps of two. -/
def Red.pick (k : Red) (w v : Num) : Num :=
  match k with
  | .min => if v.below w then v else w
  | _ => if w.below v then v else w

/-- `m` is as good for the reduction as `w`. -/
def Red.Beats (k : Red) (m w : Num) : Prop :=
  match k with
  | .min => m.place ≤ w.place
  | _ => w.place ≤ m.place

theorem Red.Beats.trans {k : Red} {a b c : Num} (h : k.Beats a b) (h' : k.Beats b c) : k.Beats a c := by
  cases k
  · exact le_trans h' h
  · exact le_trans h' h
  · exact le_trans h h'

theorem Red.beats_refl (k : Red) (a : Num) : k.Beats a a := by
  cases k <;> exact le_refl a.place

theorem Red.pick_mem (k : Red) (w v : Num) : k.pick w v = w ∨ k.pick w v = v := by
  cases k <;> unfold Red.pick <;> dsimp only <;> split <;> simp

theorem Red.pick_beats (k : Red) {w v : Num} (hw : w ≠ .nan) (hv : v ≠ .nan) : k.Beats (k.pick w v) w ∧ k.Beats (k.pick w v) v := by
  have hmax (b : Bool) (hb : w.below v = b) : w.place ≤ (if b then v else w).place ∧ v.place ≤ (if b then v else w).place := by
    cases b
    · exact ⟨le_rfl, Num.place_le_of_not_below hw hv hb⟩
    · exact ⟨Num.place_le_of_below hw hv hb, le_rfl⟩
  have hmin (b : Bool) (hb : v.below w = b) : (if b then v else w).place ≤ w.place ∧ (if b then v else w).place ≤ v.place := by
    cases b
    · exact ⟨le_rfl, Num.place_le_of_not_below hv hw hb⟩
    · exact ⟨Num.place_le_of_below hv hw hb, le_rfl⟩
  cases k
  · exact hmax _ rfl
  · exact hmax _ rfl
  · exact hmin _ rfl

section
variable {k : Red} {r : RedAcc} {v : Num}

theorem RedAcc.push_nan : (r.push k v).nan = true ↔ r.nan = true ∨ v = .nan := by
  cases v with
  | nan => simp [RedAcc.push]
  | inf n => cases n <;> cases k <;> simp [RedAcc.push]
  | fin n m e => cases k <;> simp [RedAcc.push]

theorem RedAcc.push_pinf : (r.push k v).pinf = true ↔ r.pinf = true ∨ v = .inf false := by
  cases v with
  | nan => simp [RedAcc.push]
  | inf n => cases n <;> cases k <;> simp [RedAcc.push]
  | fin n m e => cases k <;> simp [RedAcc.push]

theorem RedAcc.push_ninf : (r.push k v).ninf = true ↔ r.ninf = true ∨ v = .inf true := by
  cases v with
  | nan => simp [RedAcc.push]
  | inf n => cases n <;> cases k <;> simp [RedAcc.push]
  | fin n m e => cases k <;> simp [RedAcc.push]

theorem RedAcc.push_val_add (hv : v.isFin = true) : (r.push .add v).val = some ((r.val.getD .zero).add v).1 := by
  obtain ⟨n, m, e, rfl⟩ := Num.exists_fin_of_isFin hv
  rfl

theorem RedAcc.push_val_of_some (hk : k ≠ .add) (hv : v ≠ .nan) {w : Num} (hw : r.val = some w) : (r.push k v).val = some (k.pick w v) := by
  cases k with
  | add => exact absurd rfl hk
  | _ =>
    cases v with
    | nan => exact absurd rfl hv
    | inf n => cases n <;> simp [RedAcc.push, hw, Red.pick]
    | fin n m e => simp [RedAcc.push, hw, Red.pick]

theorem RedAcc.push_val_of_none (hk : k ≠ .add) (hv : v ≠ .nan) (hr : r.val = none) : (r.push k v).val = some v := by
  cases k with
  | add => exact absurd rfl hk
  | _ =>
    cases v with
    | nan => exact absurd rfl hv
    | inf n => cases n <;> simp [RedAcc.push, hr]
    | fin n m e => simp [RedAcc.push, hr]

end

theorem RedAcc.lanes_eq (k : Red) (f : Nat) (r : RedAcc) (l : List (Option Lane)) :
    r.lanes k f l = (l.filterMap (Option.map fun x => elemVal f x.1)).foldl (RedAcc.push k) r := by
  unfold RedAcc.lanes
  induction l generalizing r with
  | nil => rfl
  | cons x l ih =>
    cases x with
    | none => exact ih r
    | some v => exact ih _

/-- What a field of the accumulator says after a fold: it was said before, or a lane says it. -/
theorem RedAcc.foldl_flag {k : Red} {flag : RedAcc → Bool} {a : Num} (h : ∀ r v, flag (RedAcc.push k r v) = true ↔ flag r = true ∨ v = a)
    (vs : List Num) : ∀ r, flag (vs.foldl (RedAcc.push k) r) = true ↔ flag r = true ∨ a ∈ vs := by
  induction vs with
  | nil => simp
  | cons v vs ih =>
    intro r
    rw [List.foldl_cons, ih, h, List.mem_cons, or_assoc, eq_comm (a := v)]

theorem RedAcc.foldl_add (vs : List Num) : ∀ r : RedAcc, (r.val.getD .zero).isFin = true → (∀ v ∈ vs, v.isFin = true) →
    ((vs.foldl (RedAcc.push .add) r).val.getD .zero).isFin = true
      ∧ ((vs.foldl (RedAcc.push .add) r).val.getD .zero).rat = (r.val.getD .zero).rat + (vs.map Num.rat).sum := by
  induction vs with
  | nil => exact fun r hr _ => ⟨hr, by simp⟩
  | cons v vs ih =>
    intro r hr hvs
    have hv := hvs v List.mem_cons_self
    obtain ⟨-, hfin, hrat⟩ := Num.add_fin hr hv
    have hpush := RedAcc.push_val_add (r := r) hv
    obtain ⟨hf, hs⟩ := ih (r.push .add v) (by rw [hpush]; exact hfin) fun w hw => hvs w (List.mem_cons_of_mem _ hw)
    refine ⟨hf, ?_⟩
    rw [List.foldl_cons, hs, hpush, Option.getD_some, hrat, List.map_cons, List.sum_cons, add_assoc]

theorem RedAcc.foldl_pick {k : Red} (hk : k ≠ .add) (vs : List Num) : ∀ (r : RedAcc) (w : Num), r.val = some w → w ≠ .nan → .nan ∉ vs →
    ∃ m, (vs.foldl (RedAcc.push k) r).val = some m ∧ m ∈ w :: vs ∧ ∀ x ∈ w :: vs, k.Beats m x := by
  induction vs with
  | nil => exact fun r w hr _ _ => ⟨w, hr, by simp, by simpa using k.beats_refl w⟩
  | cons v vs ih =>
    intro r w hr hw hvs
    obtain ⟨hv, hvs⟩ : v ≠ .nan ∧ .nan ∉ vs := by simpa [eq_comm] using hvs
    have hpick := k.pick_mem w v
    have hnan : k.pick w v ≠ .nan := by
      rcases hpick with h | h <;> rwa [h]
    obtain ⟨hbw, hbv⟩ := k.pick_beats hw hv
    obtain ⟨m, hm, hmem, hbeat⟩ := ih (r.push k v) (k.pick w v) (RedAcc.push_val_of_some hk hv hr) hnan hvs
    have hp := hbeat _ List.mem_cons_self
    refine ⟨m, hm, ?_, fun x hx => ?_⟩
    · rcases List.mem_cons.mp hmem with rfl | h
      · rcases hpick with h | h <;> simp [h]
      · simp [h]
    · rcases List.mem_cons.mp hx with rfl | hx
      · exact hp.trans hbw
      · rcases List.mem_cons.mp hx with rfl | hx
        · exact hp.trans hbv
        · exact hbeat x (List.mem_cons_of_mem _ hx)

/-- A maximum or minimum over some lanes is one of them, and as good as each (R41). -/
theorem RedAcc.exists_pick {k : Red} (hk : k ≠ .add) {vs : List Num} (hne : vs ≠ []) (hvs : .nan ∉ vs) :
    ∃ m ∈ vs, (vs.foldl (RedAcc.push k) {}).val = some m ∧ ∀ x ∈ vs, k.Beats m x := by
  cases vs with
  | nil => exact absurd rfl hne
  | cons v vs =>
    obtain ⟨hv, hvs⟩ : v ≠ .nan ∧ .nan ∉ vs := by simpa [eq_comm] using hvs
    obtain ⟨m, hm, hmem, hbeat⟩ := RedAcc.foldl_pick hk vs (RedAcc.push k {} v) v (RedAcc.push_val_of_none hk hv rfl) hv hvs
    exact ⟨m, hmem, hm, hbeat⟩

/-! ### Float reductions -/

theorem RedAcc.code_of_float {k : Red} {fd : Nat} {g : FFmt} (hg : ffmtOf fd = some g) (r : RedAcc) : r.code k fd = fltRes g (r.result k) := by
  unfold RedAcc.code
  rw [hg]

section
variable {k : Red} {vs : List Num} {r : RedAcc} (hr : r = vs.foldl (RedAcc.push k) {})
include hr

theorem RedAcc.fold_nan : r.nan = true ↔ .nan ∈ vs := by
  subst hr
  simpa using RedAcc.foldl_flag (k := k) (flag := RedAcc.nan) (fun _ _ => RedAcc.push_nan) vs {}

theorem RedAcc.fold_pinf : r.pinf = true ↔ .inf false ∈ vs := by
  subst hr
  simpa using RedAcc.foldl_flag (k := k) (flag := RedAcc.pinf) (fun _ _ => RedAcc.push_pinf) vs {}

theorem RedAcc.fold_ninf : r.ninf = true ↔ .inf true ∈ vs := by
  subst hr
  simpa using RedAcc.foldl_flag (k := k) (flag := RedAcc.ninf) (fun _ _ => RedAcc.push_ninf) vs {}

theorem RedAcc.result_of_both_inf (hk : k = .add) (hp : .inf false ∈ vs) (hn : .inf true ∈ vs) : r.result k = (.nan, true) := by
  unfold RedAcc.result
  rw [hk]
  simp [(RedAcc.fold_pinf hr).mpr hp, (RedAcc.fold_ninf hr).mpr hn]

theorem RedAcc.result_of_nan (hnan : .nan ∈ vs) (h : k = .add → ∀ n, .inf n ∈ vs → .inf (!n) ∉ vs) : r.result k = (.nan, false) := by
  have hn := (RedAcc.fold_nan hr).mpr hnan
  unfold RedAcc.result
  cases k with
  | add =>
    have hinf : (r.pinf && r.ninf) = false := by
      rw [Bool.eq_false_iff, Ne, Bool.and_eq_true, RedAcc.fold_pinf hr, RedAcc.fold_ninf hr]
      exact fun hboth => h rfl false hboth.1 hboth.2
    simp [hinf, hn]
  | max => simp [hn]
  | min => simp [hn]

theorem RedAcc.result_of_sum (hk : k = .add) (hfin : ∀ v ∈ vs, v.isFin = true) :
    (r.result k).2 = false ∧ (r.result k).1.isFin = true ∧ (r.result k).1.rat = (vs.map Num.rat).sum := by
  have hno (a : Num) (ha : a.isFin = false) : a ∉ vs := fun h => absurd (hfin a h) (by simp [ha])
  have hn : r.nan = false := by rw [Bool.eq_false_iff, Ne, RedAcc.fold_nan hr]; exact hno _ rfl
  have hp : r.pinf = false := by rw [Bool.eq_false_iff, Ne, RedAcc.fold_pinf hr]; exact hno _ rfl
  have hm : r.ninf = false := by rw [Bool.eq_false_iff, Ne, RedAcc.fold_ninf hr]; exact hno _ rfl
  subst hk
  obtain ⟨hf, hs⟩ := RedAcc.foldl_add vs {} rfl hfin
  have hres : r.result .add = (r.val.getD .zero, false) := by simp [RedAcc.result, hn, hp, hm]
  rw [hres, hr]
  exact ⟨rfl, hf, by simpa using hs⟩

theorem RedAcc.result_of_inf (hk : k = .add) (hnan : .nan ∉ vs) {n : Bool} (hinf : .inf n ∈ vs) (hno : .inf (!n) ∉ vs) :
    r.result k = (.inf n, false) := by
  have hn : r.nan = false := by rw [Bool.eq_false_iff, Ne, RedAcc.fold_nan hr]; exact hnan
  subst hk
  cases n
  · have hm : r.ninf = false := by rw [Bool.eq_false_iff, Ne, RedAcc.fold_ninf hr]; exact hno
    simp [RedAcc.result, hn, hm, (RedAcc.fold_pinf hr).mpr hinf]
  · have hp : r.pinf = false := by rw [Bool.eq_false_iff, Ne, RedAcc.fold_pinf hr]; exact hno
    simp [RedAcc.result, hn, hp, (RedAcc.fold_ninf hr).mpr hinf]

theorem RedAcc.result_of_pick (hk : k ≠ .add) (hne : vs ≠ []) (hnan : .nan ∉ vs) :
    ∃ m ∈ vs, r.result k = (m, false) ∧ ∀ x ∈ vs, k.Beats m x := by
  have hn : r.nan = false := by rw [Bool.eq_false_iff, Ne, RedAcc.fold_nan hr]; exact hnan
  obtain ⟨m, hmem, hval, hbeat⟩ := RedAcc.exists_pick hk hne hnan
  refine ⟨m, hmem, ?_, hbeat⟩
  cases k with
  | add => exact absurd rfl hk
  | max => simp [RedAcc.result, hn, hr ▸ hval]
  | min => simp [RedAcc.result, hn, hr ▸ hval]

end

/-- The value of a float reduction over no lane (R41). -/
def Red.overNone (k : Red) : Num := match k with | .add => .fin false 0 0 | .max => .inf true | .min => .inf false

theorem floatReduction {k : Red} {fs fd : Nat} {g : FFmt} {l : List (Option Lane)} {vs : List Num} {c : Nat × BitVec 8}
    (hfd : fd ∈ [0x01, 0x02, 0x03]) (hg : ffmtOf fd = some g) (hvs : vs = l.filterMap (Option.map fun x => elemVal fs x.1))
    (hc : c = (RedAcc.lanes k fs {} l).code k fd) :
    (vs = [] → c = g.encode .rne false k.overNone)
      ∧ (k = .add → .inf false ∈ vs → .inf true ∈ vs → c = (g.nanCode, flagNV))
      ∧ (.nan ∈ vs → (k = .add → ∀ n, .inf n ∈ vs → .inf (!n) ∉ vs) → c = (g.nanCode, 0))
      ∧ (.nan ∉ vs →
          (k = .add → (∀ v ∈ vs, v.isFin = true) → ∃ v : Num, v.isFin = true ∧ v.rat = (vs.map Num.rat).sum ∧ c = g.encode .rne false v)
          ∧ (∀ n, k = .add → .inf n ∈ vs → .inf (!n) ∉ vs → c = g.encode .rne false (.inf n))
          ∧ (k = .max → vs ≠ [] → ∃ v ∈ vs, (∀ w ∈ vs, v.lt w = false) ∧ c = g.encode .rne false v)
          ∧ (k = .min → vs ≠ [] → ∃ v ∈ vs, (∀ w ∈ vs, w.lt v = false) ∧ c = g.encode .rne false v)) := by
  have hgi := mem_ieeeFmts_of_ffmtOf hfd hg
  obtain ⟨r, hr⟩ : ∃ r, r = vs.foldl (RedAcc.push k) {} := ⟨_, rfl⟩
  rw [RedAcc.lanes_eq, ← hvs, ← hr, RedAcc.code_of_float hg] at hc
  subst hc
  refine ⟨fun hnil => ?_, fun hk hp hn => ?_, fun hnan h => ?_, fun hnan => ⟨fun hk hfin => ?_, fun n hk hinf hno => ?_, ?_, ?_⟩⟩
  · rw [hr, hnil]
    cases k <;> exact fltRes_of_valid g _
  · rw [RedAcc.result_of_both_inf hr hk hp hn, fltRes_nan hgi]
    rfl
  · rw [RedAcc.result_of_nan hr hnan h, fltRes_nan hgi]
    rfl
  · exact fltRes_fin (RedAcc.result_of_sum hr hk hfin)
  · rw [RedAcc.result_of_inf hr hk hnan hinf hno, fltRes_of_valid]
  · rintro rfl hne
    obtain ⟨m, hmem, hres, hbeat⟩ := RedAcc.result_of_pick hr (by decide) hne hnan
    exact ⟨m, hmem, fun w hw => Num.lt_eq_false_of_place_le (hbeat w hw), by rw [hres, fltRes_of_valid]⟩
  · rintro rfl hne
    obtain ⟨m, hmem, hres, hbeat⟩ := RedAcc.result_of_pick hr (by decide) hne hnan
    exact ⟨m, hmem, fun w hw => Num.lt_eq_false_of_place_le (hbeat w hw), by rw [hres, fltRes_of_valid]⟩

/-! ### Integer reductions -/

theorem elemVal_of_int {f : Nat} (hf : f ∈ [0x04, 0x05, 0x06, 0x07, 0x08, 0x0F]) (b : Nat) : elemVal f b = Num.ofInt (intVal f b) := by
  have hmod : f % 128 = f ∧ ffmtOf f = none ∧ fmtInt f = true := by
    revert f
    decide
  obtain ⟨hmod, hflt, hint⟩ := hmod
  unfold elemVal
  dsimp only
  rw [hmod, hflt, hint, Num.scale_zero]
  rfl

theorem Num.place_ofInt (x : Int) : (Num.ofInt x).place = (((x : ℚ) : WithTop ℚ) : WithBot (WithTop ℚ)) := by
  rw [Num.place_of_isFin rfl, Num.rat_ofInt]

theorem Num.ofInt_ne_nan (x : Int) : Num.ofInt x ≠ .nan := nofun

theorem Num.place_ofInt_le {x y : Int} : (Num.ofInt x).place ≤ (Num.ofInt y).place ↔ x ≤ y := by
  rw [Num.place_ofInt, Num.place_ofInt]
  simp

theorem Num.add_units (na nb : Bool) (ma mb : Nat) :
    ∃ n m, ((Num.fin na ma 0).add (.fin nb mb 0)).1 = .fin n m 0 ∧ signed n m = signed na ma + signed nb mb := by
  have halign (x : Int) : alignTo x 0 (min 0 0) = x := by simp [alignTo]
  unfold Num.add
  simp only [halign]
  by_cases h0 : signed na ma + signed nb mb = 0
  · exact ⟨na && nb, 0, by rw [if_pos h0], by rw [h0]; cases na <;> cases nb <;> rfl⟩
  · refine ⟨_, _, ?_, signed_decide_neg _⟩
    rw [if_neg h0]
    rfl

theorem RedAcc.foldl_add_units (xs : List Int) : ∀ (r : RedAcc) (n : Bool) (m : Nat), r.val = some (.fin n m 0) →
    ∃ n' m', ((xs.map Num.ofInt).foldl (RedAcc.push .add) r).val = some (.fin n' m' 0) ∧ signed n' m' = signed n m + xs.sum := by
  induction xs with
  | nil => exact fun r n m h => ⟨n, m, h, by simp⟩
  | cons x xs ih =>
    intro r n m h
    obtain ⟨n1, m1, hadd, hs1⟩ := Num.add_units n (decide (x < 0)) m x.natAbs
    have hpush : (r.push .add (Num.ofInt x)).val = some (.fin n1 m1 0) := by
      rw [RedAcc.push_val_add rfl, h, ← hadd]
      rfl
    obtain ⟨n2, m2, hval, hs2⟩ := ih _ n1 m1 hpush
    refine ⟨n2, m2, hval, ?_⟩
    rw [hs2, hs1, signed_decide_neg, List.sum_cons, add_assoc]

/-- The integer that an integer reduction clamps. -/
def RedAcc.int (k : Red) (f : Nat) (r : RedAcc) : Int :=
  match r.val with
  | some (.fin n m e) => signed n (m * 2 ^ e.toNat)
  | _ => (match k with | .add => 0 | .max => (intRange f).1 | .min => (intRange f).2)

theorem RedAcc.code_of_int {k : Red} {fd : Nat} (hf : ffmtOf fd = none) (r : RedAcc) :
    r.code k fd = (intBits (fmtBits fd) (clampInt (intRange fd) (r.int k fd)).1,
      if (clampInt (intRange fd) (r.int k fd)).2 then flagSAT else 0) := by
  unfold RedAcc.code
  rw [hf]
  rfl

theorem RedAcc.int_of_units {k : Red} {fd : Nat} {r : RedAcc} {n : Bool} {m : Nat} (h : r.val = some (.fin n m 0)) : r.int k fd = signed n m := by
  unfold RedAcc.int
  rw [h]
  simp

theorem RedAcc.int_of_ofInt {k : Red} {fd : Nat} {r : RedAcc} {x : Int} (h : r.val = some (Num.ofInt x)) : r.int k fd = x :=
  (RedAcc.int_of_units h).trans (signed_decide_neg x)

/-- `x` is the result of a reduction over integers, before it is clamped to `lo` and `hi` (R41). -/
def Red.IsIntResult (k : Red) (xs : List Int) (lo hi x : Int) : Prop :=
  match k with
  | .add => x = xs.sum
  | .max => if xs = [] then x = lo else x ∈ xs ∧ ∀ y ∈ xs, y ≤ x
  | .min => if xs = [] then x = hi else x ∈ xs ∧ ∀ y ∈ xs, x ≤ y

/-- An integer reduction is the sum, or the greatest or least of its lanes, or the end of the destination's range over none (R41). -/
theorem RedAcc.int_eq (k : Red) {fd : Nat} {xs : List Int} {x : Int}
    (hx : k.IsIntResult xs (intRange fd).1 (intRange fd).2 x) :
    RedAcc.int k fd ((xs.map Num.ofInt).foldl (RedAcc.push k) {}) = x := by
  have hnan : Num.nan ∉ xs.map Num.ofInt := by
    rw [List.mem_map]
    rintro ⟨y, -, hy⟩
    exact Num.ofInt_ne_nan y hy
  cases k with
  | add =>
    cases xs with
    | nil => exact hx.symm
    | cons y ys =>
      obtain ⟨n1, m1, hadd, hs1⟩ := Num.add_units false (decide (y < 0)) 0 y.natAbs
      obtain ⟨n, m, hval, hsum⟩ := RedAcc.foldl_add_units ys (RedAcc.push .add {} (Num.ofInt y)) n1 m1 (congrArg some hadd)
      rw [List.map_cons, List.foldl_cons, RedAcc.int_of_units hval, hsum, hs1, signed_decide_neg, hx]
      simp [signed]
  | max =>
    by_cases hnil : xs = []
    · subst hnil
      exact hx.symm
    · unfold Red.IsIntResult at hx
      dsimp only at hx
      rw [if_neg hnil] at hx
      obtain ⟨m, hmem, hval, hbeat⟩ := RedAcc.exists_pick (k := .max) (by decide) (by simpa using hnil) hnan
      obtain ⟨y, hy, rfl⟩ := List.mem_map.mp hmem
      rw [RedAcc.int_of_ofInt hval]
      exact le_antisymm (hx.2 y hy) (Num.place_ofInt_le.mp (hbeat _ (List.mem_map_of_mem hx.1)))
  | min =>
    by_cases hnil : xs = []
    · subst hnil
      exact hx.symm
    · unfold Red.IsIntResult at hx
      dsimp only at hx
      rw [if_neg hnil] at hx
      obtain ⟨m, hmem, hval, hbeat⟩ := RedAcc.exists_pick (k := .min) (by decide) (by simpa using hnil) hnan
      obtain ⟨y, hy, rfl⟩ := List.mem_map.mp hmem
      rw [RedAcc.int_of_ofInt hval]
      exact le_antisymm (Num.place_ofInt_le.mp (hbeat _ (List.mem_map_of_mem hx.1))) (hx.2 y hy)

theorem intReduction {k : Red} {fs fd : Nat} {l : List (Option Lane)} {xs : List Int} {c : Nat × BitVec 8} {x lo hi : Int}
    (hfs : fs ∈ intCodes) (hfd : fd ∈ intCodes) (hlo : lo = if fd = 0x07 then 0 else -2 ^ (fmtBits fd - 1))
    (hhi : hi = if fd = 0x07 then 255 else 2 ^ (fmtBits fd - 1) - 1) (hxs : xs = l.filterMap (Option.map fun x => intVal fs x.1))
    (hc : c = (RedAcc.lanes k fs {} l).code k fd)
    (hx : k.IsIntResult xs lo hi x) :
    intVal fd c.1 = max lo (min hi x) ∧ c.2 = if intVal fd c.1 = x then 0 else flagSAT := by
  have hrange : intRange fd = (lo, hi) := by rw [hlo, hhi]; exact intRange_eq hfd
  have hvs : l.filterMap (Option.map fun x => elemVal fs x.1) = xs.map Num.ofInt := by
    rw [hxs, List.map_filterMap]
    congr 1
    funext o
    cases o with
    | none => rfl
    | some v => exact congrArg some (elemVal_of_int hfs v.1)
  have hint : (RedAcc.lanes k fs {} l).int k fd = x := by
    rw [RedAcc.lanes_eq, hvs]
    refine RedAcc.int_eq k ?_
    rw [hrange]
    exact hx
  rw [RedAcc.code_of_int (ffmtOf_intCodes hfd), hint] at hc
  have hval : intVal fd c.1 = max lo (min hi x) := by
    rw [hc, intVal_clampInt hfd, hrange]
  refine ⟨hval, ?_⟩
  rw [hval, hc, clampInt_eq (intRange_le hfd), hrange]
  by_cases h : max lo (min hi x) = x <;> simp [h]

/-! ### Scans -/

theorem and_or_left_self {n : Nat} (x f : BitVec n) : x &&& (x ||| f) = x := by
  rw [BitVec.or_comm]
  exact and_or_right x f

/-- Each active lane of a scan holds the reduction of the lanes up to it (R240). -/
theorem scanLanes_spec (k : Red) (fd fs : Nat) (l : List (Option Lane)) : ∀ r : RedAcc,
    (scanLanes k fd fs r l).1.length = l.length ∧ (scanLanes k fd fs r l).2.2 = r.lanes k fs l
      ∧ ∀ j, j < l.length →
          (l.getD j none = none → (scanLanes k fd fs r l).1.getD j none = none)
          ∧ ∀ x, l.getD j none = some x → (scanLanes k fd fs r l).1.getD j none = some ((r.lanes k fs (l.take (j + 1))).code k fd).1
              ∧ ((r.lanes k fs (l.take (j + 1))).code k fd).2 &&& (scanLanes k fd fs r l).2.1
                  = ((r.lanes k fs (l.take (j + 1))).code k fd).2 := by
  induction l with
  | nil => exact fun r => ⟨rfl, rfl, fun j hj => absurd hj (Nat.not_lt_zero j)⟩
  | cons o l ih =>
    intro r
    cases o with
    | none =>
      obtain ⟨hlen, hacc, hlane⟩ := ih r
      refine ⟨congrArg (· + 1) hlen, hacc, fun j hj => ?_⟩
      cases j with
      | zero => exact ⟨fun _ => rfl, nofun⟩
      | succ j => exact hlane j (Nat.lt_of_succ_lt_succ hj)
    | some v =>
      obtain ⟨hlen, hacc, hlane⟩ := ih (r.push k (elemVal fs v.1))
      refine ⟨congrArg (· + 1) hlen, hacc, fun j hj => ?_⟩
      cases j with
      | zero => exact ⟨nofun, fun x _ => ⟨rfl, and_or_left_self _ _⟩⟩
      | succ j =>
        obtain ⟨hnone, hsome⟩ := hlane j (Nat.lt_of_succ_lt_succ hj)
        refine ⟨hnone, fun x hx => ?_⟩
        obtain ⟨hval, hfl⟩ := hsome x hx
        exact ⟨hval, (congrArg _ (BitVec.or_comm _ _)).trans (and_or_of_and _ hfl)⟩

end Sys2Proof.Machine
end

section
/-! PROOFS. Steps of the vector words over whole runs: VRED, VREDX, VSCAN, VEXTR and the fills (R238 to R240, R244 to R246). -/

namespace Sys2Proof.Machine

/-! ### What a push of plain lanes writes -/

theorem pushBytes_of_plain {h : HRec} (hb : hBcast h 0 = false) (v : Nat) (vals : List (Option Nat)) :
    pushBytes h v vals = nibBytes ((vals.take (hVecLanes h v)).flatMap (nibsOf (hFmt h))) := by
  unfold pushBytes
  dsimp only
  rw [if_neg (by simp [hb])]

theorem nibIn_pushBytes {h : HRec} (hb : hBcast h 0 = false) (v : Nat) (vals : List (Option Nat)) {at_ a : Int} {hi : Bool} {x : Nat} :
    nibIn at_ (pushBytes h v vals) a hi = some x ↔
      ∃ k d c, k < hVecLanes h v ∧ vals.getD k none = some c ∧ d < fmtStore (hFmt h) / 4
        ∧ at_ + (((k * (fmtStore (hFmt h) / 4) + d) / 2 : Nat) : Int) = a ∧ ((k * (fmtStore (hFmt h) / 4) + d) % 2 == 1) = hi
        ∧ c / 16 ^ d % 16 = x := by
  rw [pushBytes_of_plain hb, nibIn_lanes]
  simp only [getD_take_none, and_assoc]

/-! ### Words of one source port -/

theorem Run.takeLanes_single (r : Run) (a : Nat) (bytes : List Byte) :
    ∃ ix, r.takeLanes [a] [bytes] =
        (r.advanced (r.w.flags ||| r.popFlags [a] fun _ => bytes) ix, [(a, (popLanes (r.s.portRec a) (r.idx a) bytes).1)])
      ∧ ∀ p, p ≠ a → sget 0 ix p = r.idx p := by
  obtain ⟨ix, htake, hix⟩ := r.takeLanes_eq (fun _ => bytes) (List.nodup_singleton a)
  exact ⟨ix, htake, fun p hp => hix p (by simpa using hp)⟩

theorem lanesOf_single (a : Nat) (l : List (Option Lane)) : lanesOf [(a, l)] a = l :=
  lanesOf_map_self (fun _ => l) (List.mem_singleton_self a)

theorem VForm.want_single {f : VForm} {a : Nat} (h : f.src = [a]) (r : Run) : f.want r = [r.popReq a] := by
  unfold VForm.want
  rw [h]
  rfl

section
variable (r : Run) (f : BitVec 8) (ix : SMap Nat)

@[simp] theorem Run.advanced_s : (r.advanced f ix).s = r.s := rfl
@[simp] theorem Run.advanced_outs : (r.advanced f ix).w.outs = r.w.outs := rfl
@[simp] theorem Run.advanced_flags : (r.advanced f ix).w.flags = f := rfl
@[simp] theorem Run.advanced_gap : (r.advanced f ix).w.gap = r.w.gap := rfl
@[simp] theorem Run.advanced_xres : (r.advanced f ix).w.xres = r.w.xres := rfl
@[simp] theorem Run.advanced_word : (r.advanced f ix).w.word = r.w.word := rfl
@[simp] theorem Run.advanced_st : (r.advanced f ix).w.st = { r.w.st with idx := ix } := rfl

end

/-- What a push plans depends on what is planned, the gap, the port's record and where it stands. -/
theorem Run.push_outs_congr {r r' : Run} {q : Nat} (t : Nat) (data : List (Byte × Nat)) (f : BitVec 8) (ho : r'.w.outs = r.w.outs)
    (hg : r'.w.gap = r.w.gap) (hs : r'.s = r.s) (hi : r'.idx q = r.idx q) :
    (r'.push q t data f).w.outs =
      (r.out (r'.pushTime t) q (hSpace (r.s.portRec q)) (hVecAddr (r.s.portRec q) (r.idx q)) data).w.outs := by
  rw [Run.push_outs, hi, hs]
  unfold Run.out
  dsimp only
  rw [ho, hg]

/-! ### VRED -/

theorem VForm.take_red {f : VForm} {k : Red} {d a : Nat} (hk : f.kind = .red k) (hd : f.dst = [d]) (ha : f.src = [a]) (r : Run)
    (got : List (List Byte)) : f.take r got = redTake k a d (hFmt (r.s.portRec a)) r got := by
  unfold VForm.take
  rw [hk, hd, ha]
  rfl

section
variable {k : Red} {d a : Nat} {r u : Run} {bytes : List Byte} {acc : RedAcc} {c : Nat × BitVec 8} {res : List Nat}
  (hda : d ≠ a) (hu : u = redTake k a d (hFmt (r.s.portRec a)) r [bytes])
  (hacc : acc = r.w.st.acc.lanes k (hFmt (r.s.portRec a)) (popLanes (r.s.portRec a) (r.idx a) bytes).1)
  (hc : c = acc.code k (hFmt (r.s.portRec d))) (hres : res = r.w.st.res ++ [c.1])
include hu hacc

/-- A pop of VRED before the last of a run. -/
theorem redTake_inside (hi : r.w.st.i + 1 < hRunVecs (r.s.portRec a)) :
    u.s = r.s ∧ u.w.st.acc = acc ∧ u.w.st.res = r.w.st.res ∧ u.w.outs = r.w.outs := by
  obtain ⟨ix, htake, -⟩ := r.takeLanes_single a bytes
  subst hacc hu
  unfold redTake
  dsimp only
  rw [if_pos hi, htake]
  dsimp only
  rw [lanesOf_single]
  exact ⟨rfl, rfl, rfl, rfl⟩

include hda hc hres

/-- The last pop of a run of VRED. -/
theorem redTake_last (hi : hRunVecs (r.s.portRec a) ≤ r.w.st.i + 1) :
    u.s = r.s ∧ u.w.st.acc = {} ∧ c.2 &&& u.w.flags = c.2
      ∧ (r.w.st.k + 1 < hRuns (r.s.portRec a) → res.length < hVecLanes (r.s.portRec d) (r.idx d) → u.w.st.res = res ∧ u.w.outs = r.w.outs)
      ∧ (hRuns (r.s.portRec a) ≤ r.w.st.k + 1 ∨ hVecLanes (r.s.portRec d) (r.idx d) ≤ res.length → u.w.st.res = []
          ∧ ∃ t, u.w.outs = (r.out t d (hSpace (r.s.portRec d)) (hVecAddr (r.s.portRec d) (r.idx d))
              (pushBytes (r.s.portRec d) (r.idx d) (res.map some))).w.outs) := by
  obtain ⟨ix, htake, hix⟩ := r.takeLanes_single a bytes
  have hidx : ((r.advanced (r.w.flags ||| r.popFlags [a] fun _ => bytes) ix).flag c.2).idx d = r.idx d := hix d hda
  subst hu
  unfold redTake
  dsimp only
  rw [if_neg (by omega), htake]
  dsimp only
  rw [lanesOf_single, ← hacc, ← hc, ← hres, hidx]
  by_cases hfull : hRuns (r.s.portRec a) ≤ r.w.st.k + 1 ∨ hVecLanes (r.s.portRec d) (r.idx d) ≤ res.length
  · simp only [hfull, decide_true, if_true]
    refine ⟨by simp, by simp, ?_, fun h h' => by omega, fun _ => ⟨by simp, ?_⟩⟩
    · simp only [Run.pushesNext_flags, Run.goOn_flags, Run.ite_accepts_flags, Run.count_flags, Run.push_flags, Run.flag_flags]
      exact and_or_of_and _ (and_or_right _ _)
    · simp only [Run.pushesNext_outs, Run.goOn_outs, Run.ite_accepts_outs, Run.count_outs]
      exact ⟨_, Run.push_outs_congr _ _ _ rfl rfl rfl hidx⟩
  · simp only [hfull, decide_false, Bool.false_eq_true, if_false]
    refine ⟨by simp, by simp, ?_, fun _ _ => by simp, fun h => absurd h id⟩
    simp only [Run.pushesNext_flags, Run.goOn_flags, Run.ite_accepts_flags, Run.count_flags, Run.flag_flags]
    exact and_or_right _ _

end

/-! ### VREDX -/

theorem VForm.take_redx {f : VForm} {k : Red} {a : Nat} (hk : f.kind = .redx k) (ha : f.src = [a]) (r : Run) (got : List (List Byte)) :
    f.take r got = redxTake k a (hFmt (r.s.portRec a)) r got := by
  unfold VForm.take
  rw [hk, ha]
  rfl

theorem redxTake_spec {k : Red} {a : Nat} {r u : Run} {bytes : List Byte} {acc : RedAcc} {c : Nat × BitVec 8}
    (hu : u = redxTake k a (hFmt (r.s.portRec a)) r [bytes])
    (hacc : acc = r.w.st.acc.lanes k (hFmt (r.s.portRec a)) (popLanes (r.s.portRec a) (r.idx a) bytes).1)
    (hc : c = acc.code k (if fmtFloat (hFmt (r.s.portRec a)) then 0x01 else 0x0F)) :
    u.s = r.s ∧ u.w.outs = r.w.outs ∧ u.w.st.acc = acc
      ∧ (r.w.st.i + 1 < hNV (r.s.portRec a) → u.w.xres = r.w.xres)
      ∧ (hNV (r.s.portRec a) ≤ r.w.st.i + 1 → u.w.xres = r.w.xres.map (fun e => (e.1, BitVec.ofNat 64 c.1)) ∧ c.2 &&& u.w.flags = c.2) := by
  obtain ⟨ix, htake, -⟩ := r.takeLanes_single a bytes
  subst hu
  unfold redxTake
  dsimp only
  rw [htake]
  dsimp only
  rw [lanesOf_single, ← hacc, ← hc, Run.count_s, Run.advanced_s]
  split
  case isTrue hi => exact ⟨by simp, by simp, by simp, fun _ => by simp, fun h => absurd hi (not_lt.mpr h)⟩
  case isFalse hi => exact ⟨by simp, by simp, by simp, fun h => absurd h hi, fun _ => ⟨by simp, and_or_right _ _⟩⟩

/-! ### VSCAN -/

theorem VForm.take_scan {f : VForm} {k : Red} {d a : Nat} (hk : f.kind = .scan k) (hd : f.dst = [d]) (ha : f.src = [a]) (r : Run)
    (got : List (List Byte)) : f.take r got = scanTake k a d (hFmt (r.s.portRec a)) r got := by
  unfold VForm.take
  rw [hk, hd, ha]
  rfl

theorem scanTake_spec {k : Red} {d a : Nat} {r u : Run} {bytes : List Byte} {y : List (Option Nat) × BitVec 8 × RedAcc} (hda : d ≠ a)
    (hu : u = scanTake k a d (hFmt (r.s.portRec a)) r [bytes])
    (hy : y = scanLanes k (hFmt (r.s.portRec d)) (hFmt (r.s.portRec a)) r.w.st.acc
      ((popLanes (r.s.portRec a) (r.idx a) bytes).1.take (hVecLanes (r.s.portRec d) (r.idx d)))) :
    u.s = r.s ∧ y.2.1 &&& u.w.flags = y.2.1
      ∧ u.w.st.acc = (if r.w.st.i + 1 < hRunVecs (r.s.portRec a) then y.2.2 else {})
      ∧ ∃ t, u.w.outs = (r.out t d (hSpace (r.s.portRec d)) (hVecAddr (r.s.portRec d) (r.idx d))
          (pushBytes (r.s.portRec d) (r.idx d) y.1)).w.outs := by
  obtain ⟨ix, htake, hix⟩ := r.takeLanes_single a bytes
  set r1 := r.advanced (r.w.flags ||| r.popFlags [a] fun _ => bytes) ix
  have hidx : r1.idx d = r.idx d := hix d hda
  have hpush (t : Nat) : ∃ t', (r1.push d t (pushBytes (r.s.portRec d) (r.idx d) y.1) y.2.1).w.outs =
      (r.out t' d (hSpace (r.s.portRec d)) (hVecAddr (r.s.portRec d) (r.idx d)) (pushBytes (r.s.portRec d) (r.idx d) y.1)).w.outs :=
    ⟨_, Run.push_outs_congr _ _ _ rfl rfl rfl hidx⟩
  subst hu
  unfold scanTake
  dsimp only
  rw [htake]
  dsimp only
  rw [lanesOf_single, ← hy]
  by_cases hi : r.w.st.i + 1 < hRunVecs (r.s.portRec a)
  · rw [if_pos hi, if_pos hi]
    simp only [Run.pushesNext_outs, Run.at_outs, Run.count_outs]
    refine ⟨by simp [r1], ?_, by simp, hpush _⟩
    simp only [Run.pushesNext_flags, Run.at_flags, Run.count_flags, Run.push_flags]
    exact and_or_right _ _
  · rw [if_neg hi, if_neg hi]
    simp only [Run.pushesNext_outs, Run.goOn_outs, Run.ite_accepts_outs, Run.count_outs]
    refine ⟨by simp [r1], ?_, by simp, hpush _⟩
    simp only [Run.pushesNext_flags, Run.goOn_flags, Run.ite_accepts_flags, Run.count_flags, Run.push_flags]
    exact and_or_right _ _

/-! ### VEXTR -/

theorem extrTake_spec {f : VForm} {a : Nat} {r u : Run} {bytes : List Byte} {o : Option Lane} (hk : f.kind = .extr) (ha : f.src = [a])
    (hu : u = f.take r [bytes]) (ho : o = (popLanes (r.s.portRec a) (r.idx a) bytes).1.getD (r.w.word.xv 3).toNat none) :
    u.s = r.s ∧ u.w.outs = r.w.outs ∧ u.w.xres = r.w.xres.map fun e => (e.1, extrVal (hFmt (r.s.portRec a)) o) := by
  obtain ⟨ix, htake, -⟩ := r.takeLanes_single a bytes
  subst hu
  unfold VForm.take
  rw [hk, ha]
  dsimp only [List.headD_cons]
  rw [htake]
  dsimp only
  rw [lanesOf_single, ← ho]
  exact ⟨rfl, rfl, rfl⟩

/-! ### Fills -/

theorem toNat_mul_ofNat (x : BitVec 32) {c : Nat} (hc : c < 2 ^ 32) : (x * BitVec.ofNat 32 c).toNat = x.toNat * c % 2 ^ 32 := by
  rw [BitVec.toNat_mul, BitVec.toNat_ofNat, Nat.mod_eq_of_lt hc]

theorem randVal_eq_randRow (key counter lane : Nat) : randVal key counter lane = randRow key counter lane := by
  unfold randVal randRow
  dsimp only
  rw [BitVec.toNat_xor, BitVec.toNat_ushiftRight, toNat_mul_ofNat _ (by decide), BitVec.toNat_xor, BitVec.toNat_ushiftRight,
    toNat_mul_ofNat _ (by decide), BitVec.toNat_xor, BitVec.toNat_ofNat, BitVec.toNat_ofNat, Nat.shiftRight_eq_div_pow,
    Nat.shiftRight_eq_div_pow]

theorem randUniform_eq (z : Nat) : randUniform z = (fF32.encode .rne false (.fin false (z / 256) (-24))).1 := rfl

/-- VRANDU's row through the model's own conversion (R43, R246). -/
theorem fillRow_randU (fd : Nat) (xb xc : Word) :
    fillRow fd xb xc .randU = some fun j k => randUniform (randVal xb.toNat xc.toNat (j * 128 + k)) := by
  refine congrArg some (funext fun j => funext fun k => ?_)
  rw [randVal_eq_randRow]
  exact (randUniform_eq _).symm

/-- The step of a fill (R244, R246). -/
theorem VForm.take_fill {f : VForm} {d : Nat} {r : Run} {val : Nat → Nat → Nat} (hd : f.dst = [d])
    (hval : fillRow (hFmt (r.s.portRec d)) (r.w.word.xv 2) (r.w.word.xv 3) f.kind = some val) :
    f.take r [] = fillTake d (if f.kind = .randU ∨ f.kind = .randB then 4 else 2) val r := by
  unfold VForm.take
  rw [hd]
  cases hk : f.kind with
  | splat | iota =>
    rw [hk] at hval
    cases hval
    rfl
  | randU =>
    rw [hk, fillRow_randU] at hval
    obtain rfl := Option.some.inj hval
    rfl
  | randB =>
    rw [hk] at hval
    obtain rfl := Option.some.inj hval
    rw [if_pos (.inr rfl)]
    dsimp only [List.headD_cons]
    simp only [randVal_eq_randRow]
  | _ =>
    rw [hk] at hval
    cases hval

theorem fillTake_spec {d delay w : Nat} {r u : Run} {hd : HRec} {val : Nat → Nat → Nat} (hhd : hd = r.s.portRec d)
    (hw : w = fmtStore (hFmt hd) / 4) (hb : hBcast hd 0 = false) (houts : r.w.outs = []) (hu : u = fillTake d delay val r) :
    u.s = r.s ∧ u.w.flags = r.w.flags
      ∧ (∃ t, r.w.st.t + delay ≤ t ∧ ∀ o ∈ u.w.outs, o.at_ = t + r.w.gap ∧ o.space = hSpace hd)
      ∧ ∀ a hi v, (∃ o ∈ u.w.outs, o.writes a hi v) ↔
          ∃ k n, k < hVecLanes hd (r.idx d) ∧ n < w
            ∧ hVecAddr hd (r.idx d) + (((k * w + n) / 2 : Nat) : Int) = a ∧ ((k * w + n) % 2 == 1) = hi
            ∧ val (r.idx d) k / 16 ^ n % 16 = v := by
  subst hhd hw hu
  unfold fillTake
  dsimp only
  set vals : List (Option Nat) := (upFrom 0 (hVecLanes (r.s.portRec d) (r.idx d))).map fun k => some (val (r.idx d) k) with hvals
  have hget (k c : Nat) : vals.getD k none = some c ↔ k < hVecLanes (r.s.portRec d) (r.idx d) ∧ val (r.idx d) k = c := by
    rw [hvals, upFrom_zero, getD_map_range]
    split_ifs with hk <;> simp [hk]
  simp only [Run.pushesNext_outs, Run.goOn_outs, Run.push_outs, Run.pushesNext_flags, Run.goOn_flags, Run.push_flags,
    Run.pushesNext_s, Run.goOn_s, Run.push_s]
  simp only [Run.mem_out_outs, houts, List.not_mem_nil, or_false]
  refine ⟨trivial, BitVec.or_zero, ⟨r.pushTime (r.w.st.t + delay), r.le_pushTime _, fun o ho => at_space_of_mem_outsOf ho⟩, fun a hi v => ?_⟩
  rw [exists_outsOf_writes, nibIn_pushBytes hb]
  constructor
  · rintro ⟨k, n, c, hk, hc, hn, ha, hhi, hv⟩
    obtain ⟨-, rfl⟩ := (hget k c).mp hc
    exact ⟨k, n, hk, hn, ha, hhi, hv⟩
  · rintro ⟨k, n, hk, hn, ha, hhi, hv⟩
    exact ⟨k, n, _, hk, (hget k _).mpr ⟨hk, rfl⟩, hn, ha, hhi, hv⟩

end Sys2Proof.Machine
end

section
/-! PROOFS. VTOPK: the order of R241, insertion, and the run that it sorts. -/

namespace Sys2Proof.Machine

/-! ### The order of candidates -/

/-- Where a value stands in the order of VTOPK: NaNs below all others. -/
def Num.topPlace (v : Num) : WithBot (WithBot (WithTop ℚ)) := if v.isNan then ⊥ else (v.place : WithBot (WithBot (WithTop ℚ)))

/-- The key of a candidate: descending values, then ascending indices (R241). -/
def topKey (g : FFmt) (x : Nat × Nat) : (WithBot (WithBot (WithTop ℚ)))ᵒᵈ ×ₗ Nat := toLex (OrderDual.toDual (g.decode x.2).topPlace, x.1)

theorem topKey_lt_iff {g : FFmt} {x y : Nat × Nat} : topKey g x < topKey g y ↔
    (g.decode y.2).topPlace < (g.decode x.2).topPlace ∨ ((g.decode x.2).topPlace = (g.decode y.2).topPlace ∧ x.1 < y.1) := by
  unfold topKey
  rw [Prod.Lex.toLex_lt_toLex]
  simp

theorem Num.topPlace_lt_iff {a b : Num} : b.topPlace < a.topPlace ↔ a.isNan = false ∧ (b.isNan = true ∨ b.lt a = true) := by
  unfold Num.topPlace
  by_cases ha : a.isNan = true
  · simp [ha]
  · by_cases hb : b.isNan = true
    · simp [ha, hb]
    · have hne {v : Num} (h : ¬ v.isNan = true) : v ≠ .nan := fun hv => h (hv ▸ rfl)
      simp only [ha, hb, Bool.false_eq_true, if_false, WithBot.coe_lt_coe, false_or, Num.lt_iff_place (hne hb) (hne ha)]
      simp

theorem Num.eqv_of_not_nan {a b : Num} (ha : ¬ a.isNan = true) (hb : ¬ b.isNan = true) : a.eqv b = (!a.lt b && !b.lt a) := by
  cases a with
  | nan => exact absurd rfl ha
  | _ =>
    cases b with
    | nan => exact absurd rfl hb
    | _ => rfl

theorem Num.topPlace_eq_iff {a b : Num} : a.topPlace = b.topPlace ↔ a.isNan = b.isNan ∧ (a.isNan = true ∨ a.eqv b = true) := by
  unfold Num.topPlace
  by_cases ha : a.isNan = true
  · by_cases hb : b.isNan = true <;> simp [ha, hb]
  · by_cases hb : b.isNan = true
    · simp [ha, hb]
    · have hne {v : Num} (h : ¬ v.isNan = true) : v ≠ .nan := fun hv => h (hv ▸ rfl)
      have heqv : a.eqv b = true ↔ a.place = b.place := by
        rw [Num.eqv_of_not_nan ha hb, Bool.and_eq_true, Bool.not_eq_true', Bool.not_eq_true', Bool.eq_false_iff, Bool.eq_false_iff, Ne, Ne,
          Num.lt_iff_place (hne ha) (hne hb), Num.lt_iff_place (hne hb) (hne ha), not_lt, not_lt]
        exact ⟨fun h => le_antisymm h.2 h.1, fun h => ⟨h.ge, h.le⟩⟩
      simp [ha, hb, heqv]

theorem topBefore_iff {g : FFmt} {x y : Nat × Nat} : topBefore g x y = true ↔ topKey g x < topKey g y := by
  rw [topKey_lt_iff, Num.topPlace_lt_iff, Num.topPlace_eq_iff]
  unfold topBefore
  dsimp only
  generalize g.decode x.2 = a
  generalize g.decode y.2 = b
  by_cases ha : a.isNan = true
  · cases hb : b.isNan <;> simp [ha]
  · by_cases hb : b.isNan = true
    · simp [ha, hb]
    · rw [Num.eqv_of_not_nan ha hb]
      cases b.lt a <;> cases a.lt b <;> simp [ha, hb]

/-! ### Insertion -/

theorem topIns_perm (g : FFmt) (x : Nat × Nat) (l : List (Nat × Nat)) : (topIns g x l).Perm (x :: l) := by
  induction l with
  | nil => exact .refl _
  | cons y l ih =>
    unfold topIns
    split
    · exact .refl _
    · exact (ih.cons y).trans (.swap x y l)

theorem topIns_sorted {g : FFmt} {x : Nat × Nat} {l : List (Nat × Nat)} (hl : l.Pairwise fun a b => topKey g a < topKey g b)
    (hx : ∀ y ∈ l, topKey g y ≠ topKey g x) : (topIns g x l).Pairwise fun a b => topKey g a < topKey g b := by
  induction l with
  | nil => exact List.pairwise_singleton _ _
  | cons y l ih =>
    obtain ⟨hy, hl⟩ := List.pairwise_cons.mp hl
    unfold topIns
    split
    case isTrue h =>
      have hxy := topBefore_iff.mp h
      refine List.pairwise_cons.mpr ⟨fun z hz => ?_, List.pairwise_cons.mpr ⟨hy, hl⟩⟩
      rcases List.mem_cons.mp hz with rfl | hz
      · exact hxy
      · exact hxy.trans (hy z hz)
    case isFalse h =>
      have hyx : topKey g y < topKey g x :=
        lt_of_le_of_ne (not_lt.mp fun hlt => h (topBefore_iff.mpr hlt)) (hx y List.mem_cons_self)
      refine List.pairwise_cons.mpr ⟨fun z hz => ?_, ih hl fun z hz => hx z (List.mem_cons_of_mem _ hz)⟩
      rcases List.mem_cons.mp ((topIns_perm g x l).mem_iff.mp hz) with rfl | hz
      · exact hyx
      · exact hy z hz

theorem topKey_ne_of_index {g : FFmt} {x y : Nat × Nat} (h : x.1 ≠ y.1) : topKey g x ≠ topKey g y := fun heq => by
  have := congrArg (fun z => (ofLex z).2) heq
  exact h this

/-- The candidates of a run in the order of R241. -/
def topSorted (g : FFmt) (els : List Nat) : List (Nat × Nat) := els.zipIdx.foldl (fun l e => topIns g (e.2, e.1) l) []

theorem foldl_topIns (g : FFmt) (l : List (Nat × Nat)) : ∀ acc : List (Nat × Nat), (acc ++ l.map Prod.swap).Pairwise (fun a b => a.1 ≠ b.1) →
    acc.Pairwise (fun a b => topKey g a < topKey g b) →
    (l.foldl (fun m e => topIns g (e.2, e.1) m) acc).Perm (acc ++ l.map Prod.swap)
      ∧ (l.foldl (fun m e => topIns g (e.2, e.1) m) acc).Pairwise fun a b => topKey g a < topKey g b := by
  induction l with
  | nil => exact fun acc _ hs => ⟨by simp, hs⟩
  | cons e l ih =>
    intro acc hd hs
    have hperm : (topIns g e.swap acc ++ l.map Prod.swap).Perm (acc ++ (e :: l).map Prod.swap) :=
      ((topIns_perm g e.swap acc).append_right _).trans List.perm_middle.symm
    have hne : ∀ y ∈ acc, topKey g y ≠ topKey g e.swap := fun y hy =>
      topKey_ne_of_index ((List.pairwise_append.mp hd).2.2 y hy e.swap (by simp))
    obtain ⟨hp, hsorted⟩ := ih (topIns g e.swap acc) (hperm.symm.pairwise hd fun h => h.symm) (topIns_sorted hs hne)
    exact ⟨hp.trans hperm, hsorted⟩

theorem map_swap_zipIdx_eq (els : List Nat) : els.zipIdx.map Prod.swap = (List.range els.length).map fun i => (i, els.getD i 0) := by
  refine List.ext_getElem (by simp) fun i h h' => ?_
  have hi : i < els.length := by simpa using h
  simp [hi]

theorem topSorted_spec (g : FFmt) (els : List Nat) :
    (topSorted g els).Perm ((List.range els.length).map fun i => (i, els.getD i 0))
      ∧ (topSorted g els).Pairwise fun a b => topKey g a < topKey g b := by
  have h := foldl_topIns g els.zipIdx []
  rw [List.nil_append, map_swap_zipIdx_eq] at h
  refine h ?_ List.Pairwise.nil
  rw [List.pairwise_map]
  exact (List.pairwise_lt_range).imp fun h => h.ne

/-- The indices of the candidates, best first. -/
def topOrder (g : FFmt) (els : List Nat) : List Nat := (topSorted g els).map Prod.fst

theorem topOrder_perm (g : FFmt) (els : List Nat) : (topOrder g els).Perm (List.range els.length) := by
  have h := (topSorted_spec g els).1.map Prod.fst
  rwa [List.map_map, show (Prod.fst ∘ fun i => (i, els.getD i 0)) = id from rfl, List.map_id] at h

theorem topSorted_eq (g : FFmt) (els : List Nat) : topSorted g els = (topOrder g els).map fun i => (i, els.getD i 0) := by
  rw [topOrder, List.map_map]
  conv_lhs => rw [← List.map_id (topSorted g els)]
  refine List.map_congr_left fun e he => ?_
  obtain ⟨i, -, rfl⟩ := List.mem_map.mp ((topSorted_spec g els).1.mem_iff.mp he)
  rfl

theorem topOrder_sorted (g : FFmt) (els : List Nat) :
    (topOrder g els).Pairwise fun i j => topKey g (i, els.getD i 0) < topKey g (j, els.getD j 0) := by
  have h := (topSorted_spec g els).2
  rwa [topSorted_eq, List.pairwise_map] at h

theorem topK_eq (g : FFmt) (k : Nat) (els : List Nat) : topK g k els =
    (((topOrder g els).take k).map (fun i => if (g.decode (els.getD i 0)).isNan then g.nanCode else els.getD i 0)
        ++ List.replicate (els.length - k) (g.signBit true + g.infCode),
      (topOrder g els).take k ++ List.replicate (els.length - k) 0xFFFF) := by
  unfold topK
  dsimp only
  rw [show els.zipIdx.foldl (fun l e => topIns g (e.2, e.1) l) [] = topSorted g els from rfl, topSorted_eq]
  simp [List.map_take, Function.comp_def]

theorem decode_minus_infinity {g : FFmt} (hg : g ∈ ieeeFmts) : g.decode (g.signBit true + g.infCode) = .inf true := by
  revert g
  decide

/-- `i` comes before `j` in VTOPK's order (R241). -/
def TopBefore (g : FFmt) (els : List Nat) (i j : Nat) : Prop :=
  let a := g.decode (els.getD i 0)
  let b := g.decode (els.getD j 0)
  (a.isNan = false ∧ (b.isNan = true ∨ b.lt a = true)) ∨ ((a.isNan = b.isNan ∧ (a.isNan = true ∨ a.eqv b = true)) ∧ i < j)

theorem topBefore_iff_key {g : FFmt} {els : List Nat} {i j : Nat} :
    TopBefore g els i j ↔ topKey g (i, els.getD i 0) < topKey g (j, els.getD j 0) := by
  rw [topKey_lt_iff, Num.topPlace_lt_iff, Num.topPlace_eq_iff]
  rfl

theorem topK_spec {g : FFmt} (hg : g ∈ ieeeFmts) {k : Nat} {els : List Nat} (hk : k ≤ els.length) {y : List Nat × List Nat}
    (hy : y = topK g k els) :
    y.1.length = els.length ∧ y.2.length = els.length ∧ (y.2.take k).Nodup ∧ (∀ i ∈ y.2.take k, i < els.length)
      ∧ (∀ n, n < k → y.1.getD n 0 =
          if (g.decode (els.getD (y.2.getD n 0) 0)).isNan then g.nanCode else els.getD (y.2.getD n 0) 0)
      ∧ (∀ m n, m < n → n < k → TopBefore g els (y.2.getD m 0) (y.2.getD n 0))
      ∧ (∀ n j, n < k → j < els.length → j ∉ y.2.take k → TopBefore g els (y.2.getD n 0) j)
      ∧ ∀ n, k ≤ n → n < els.length → g.decode (y.1.getD n 0) = .inf true ∧ y.2.getD n 0 = 0xFFFF := by
  have hperm := topOrder_perm g els
  have hlen : (topOrder g els).length = els.length := hperm.length_eq.trans List.length_range
  have htake : ((topOrder g els).take k).length = k := by rw [List.length_take]; omega
  have hnodup : (topOrder g els).Nodup := hperm.nodup_iff.mpr List.nodup_range
  have hmem (i : Nat) : i ∈ topOrder g els ↔ i < els.length := hperm.mem_iff.trans List.mem_range
  have hsorted := topOrder_sorted g els
  rw [topK_eq] at hy
  subst hy
  have hget (n : Nat) (hn : n < k) :
      ((topOrder g els).take k ++ List.replicate (els.length - k) 0xFFFF).getD n 0 = (topOrder g els)[n]'(by omega) := by
    rw [List.getD_append _ _ _ _ (by omega), List.getD_eq_getElem _ _ (by omega), List.getElem_take]
  have hfirst : ((topOrder g els).take k ++ List.replicate (els.length - k) 0xFFFF).take k = (topOrder g els).take k :=
    List.take_left' htake
  refine ⟨?_, ?_, ?_, ?_, fun n hn => ?_, fun m n hmn hn => ?_, fun n j hn hj hnot => ?_, fun n hkn hn => ⟨?_, ?_⟩⟩
  · simp only [List.length_append, List.length_map, List.length_replicate, htake]
    omega
  · simp only [List.length_append, List.length_replicate, htake]
    omega
  · rw [hfirst]
    exact hnodup.sublist (List.take_sublist _ _)
  · rw [hfirst]
    exact fun i hi => (hmem i).mp (List.mem_of_mem_take hi)
  · rw [hget n hn, List.getD_append _ _ _ _ (by rw [List.length_map]; omega), List.getD_eq_getElem _ _ (by rw [List.length_map]; omega),
      List.getElem_map, List.getElem_take]
  · rw [hget m (by omega), hget n hn, topBefore_iff_key]
    exact List.pairwise_iff_getElem.mp hsorted m n _ _ hmn
  · rw [hfirst] at hnot
    rw [hget n hn, topBefore_iff_key]
    have hj' : j ∈ (topOrder g els).drop k := by
      have hor := (hmem j).mpr hj
      rw [← List.take_append_drop k (topOrder g els), List.mem_append] at hor
      exact hor.resolve_left hnot
    rw [← List.take_append_drop k (topOrder g els), List.pairwise_append] at hsorted
    refine hsorted.2.2 _ ?_ j hj'
    rw [List.mem_take_iff_getElem]
    exact ⟨n, by omega, rfl⟩
  · rw [List.getD_append_right _ _ _ _ (by rw [List.length_map]; omega), List.getD_replicate _ (by rw [List.length_map]; omega)]
    exact decode_minus_infinity hg
  · rw [List.getD_append_right _ _ _ _ (by omega), List.getD_replicate _ (by omega)]

/-! ### The step -/

theorem VForm.take_topk {f : VForm} {d b a : Nat} {g : FFmt} {r : Run} (hk : f.kind = .topk) (hd : f.dst = [d, b]) (ha : f.src = [a])
    (hg : ffmtOf (hFmt (r.s.portRec d)) = some g) (got : List (List Byte)) :
    f.take r got = topTake a d b (r.w.word.xv 3).toNat g r got := by
  unfold VForm.take
  rw [hk, hd, ha]
  dsimp only [List.headD_cons]
  rw [hg]
  rfl

/-- A destination whose runs are one vector takes them in one push. -/
theorem topPush_single {q t : Nat} {vals : List Nat} {r : Run} (h : hRunVecs (r.s.portRec q) = 1) :
    topPush q t vals r = r.push q t (pushBytes (r.s.portRec q) (r.idx q) (vals.map some)) 0 := by
  have hle : hVecLanes (r.s.portRec q) (r.idx q) ≤ fmtLanes (hFmt (r.s.portRec q)) := min_le_left _ _
  have hbytes : pushBytes (r.s.portRec q) (r.idx q) (((vals.drop (fmtLanes (hFmt (r.s.portRec q)) * 0)).take
      (fmtLanes (hFmt (r.s.portRec q)))).map some) = pushBytes (r.s.portRec q) (r.idx q) (vals.map some) := by
    unfold pushBytes
    rw [Nat.mul_zero, List.drop_zero, ← List.map_take, ← List.map_take, List.take_take, min_eq_left hle]
  unfold topPush
  dsimp only
  rw [h, upFrom_zero, List.range_one, List.foldl_cons, List.foldl_nil, hbytes]
  rfl

section
variable {d b a k : Nat} {g : FFmt} {r u : Run} {bytes : List Byte} (hu : u = topTake a d b k g r [bytes])
include hu

theorem topTake_inside (hi : r.w.st.i + 1 < hRunVecs (r.s.portRec a)) :
    u.s = r.s ∧ u.w.outs = r.w.outs ∧ lanesOf u.w.st.buf a = lanesOf r.w.st.buf a ++ (popLanes (r.s.portRec a) (r.idx a) bytes).1 := by
  obtain ⟨ix, htake, -⟩ := r.takeLanes_single a bytes
  subst hu
  unfold topTake
  dsimp only
  rw [if_pos hi, htake]
  refine ⟨rfl, rfl, ?_⟩
  simp only [Run.at_st, Run.count_st]
  unfold joinLanes
  rw [List.map_singleton, lanesOf_single, lanesOf_single]

/-- After the last pop of a run the values are pushed, and then the indices (R241). -/
theorem topTake_last {y : List Nat × List Nat} (hda : d ≠ a) (hba : b ≠ a) (hdb : d ≠ b) (hnd : hRunVecs (r.s.portRec d) = 1)
    (hnb : hRunVecs (r.s.portRec b) = 1)
    (hy : y = topK g k (((lanesOf r.w.st.buf a ++ (popLanes (r.s.portRec a) (r.idx a) bytes).1).take (hExt (r.s.portRec a) 0)).map
      fun o => (o.getD (0, 0)).1)) (hi : hRunVecs (r.s.portRec a) ≤ r.w.st.i + 1) :
    u.s = r.s ∧ ∃ t t', u.w.outs =
      ((r.out t d (hSpace (r.s.portRec d)) (hVecAddr (r.s.portRec d) (r.idx d)) (pushBytes (r.s.portRec d) (r.idx d) (y.1.map some))).out t' b
        (hSpace (r.s.portRec b)) (hVecAddr (r.s.portRec b) (r.idx b)) (pushBytes (r.s.portRec b) (r.idx b) (y.2.map some))).w.outs := by
  obtain ⟨ix, htake, hix⟩ := r.takeLanes_single a bytes
  obtain ⟨r1, hr1⟩ : ∃ r1, r1 = r.advanced (r.w.flags ||| r.popFlags [a] fun _ => bytes) ix := ⟨_, rfl⟩
  have hs1 : r1.s = r.s := by rw [hr1]; rfl
  have hid : r1.idx d = r.idx d := by rw [hr1]; exact hix d hda
  have hib : r1.idx b = r.idx b := by rw [hr1]; exact hix b hba
  have ho1 : r1.w.outs = r.w.outs := by rw [hr1]; rfl
  have hg1 : r1.w.gap = r.w.gap := by rw [hr1]; rfl
  subst hu
  unfold topTake
  dsimp only
  rw [if_neg (by omega), htake, ← hr1]
  dsimp only
  unfold joinLanes runSlice
  rw [List.map_singleton, lanesOf_single, lanesOf_single, List.drop_zero, Nat.sub_zero, ← hy, topPush_single (q := d) (r := r1) (by rw [hs1]; exact hnd)]
  generalize r.w.st.t + hRunVecs (r.s.portRec a) + 8 * clog2 (max (hExt (r.s.portRec a) 0) 2) = t0
  obtain ⟨r2, hr2⟩ : ∃ r2, r2 = r1.push d (t0 + 4) (pushBytes (r1.s.portRec d) (r1.idx d) (y.1.map some)) 0 := ⟨_, rfl⟩
  have hs2 : r2.s = r.s := by rw [hr2, Run.push_s, hs1]
  have hib2 : r2.idx b = r.idx b := by rw [hr2]; exact (sget_sset_other 0 _ _ hdb.symm).trans hib
  have ho2 : r2.w.outs = (r.out (r1.pushTime (t0 + 4)) d (hSpace (r.s.portRec d)) (hVecAddr (r.s.portRec d) (r.idx d))
      (pushBytes (r.s.portRec d) (r.idx d) (y.1.map some))).w.outs := by
    rw [hr2, Run.push_outs_congr _ _ _ ho1 hg1 hs1 hid, hs1, hid]
  have hg2 : r2.w.gap = r.w.gap := by rw [hr2, Run.push_gap, hg1]
  rw [← hr2, topPush_single (q := b) (r := r2) (by rw [hs2]; exact hnb)]
  refine ⟨by simp [hs2], r1.pushTime (t0 + 4), r2.pushTime (t0 + 4 + hRunVecs (r.s.portRec d)), ?_⟩
  simp only [Run.pushesNext_outs, Run.goOn_outs, Run.ite_accepts_outs]
  rw [hs2, hib2]
  exact Run.push_outs_congr _ _ _ ho2 hg2 hs2 hib2

end

end Sys2Proof.Machine
end

section
/-! PROOFS. VPERM, and the values that an encoding keeps exactly (R43, R243). -/

namespace Sys2Proof.Machine

/-! ### Exact encodings -/

/-- A magnitude with no bit below its own step, or the smallest, is the value of a code. -/
theorem FFmt.exists_magVal_eq {g : FFmt} (hg : g ∈ floatFmts) {m : Nat} (hm : m ≠ 0) {e : Int}
    (he : max (msbExp m e - (g.prec : Int) + 1) g.lmin ≤ e) : ∃ c, g.magVal c = m * (2 : ℚ) ^ e := by
  set l := max (msbExp m e - (g.prec : Int) + 1) g.lmin with hl
  have hq : (m : ℚ) * 2 ^ e / 2 ^ l = ((m * 2 ^ (e - l).toNat : Nat) : Int) := by
    rw [two_zpow_toNat he, ← mul_assoc, mul_div_cancel_right₀ _ (two_zpow_pos l).ne']
    push_cast
    rfl
  obtain ⟨hval, -⟩ := FFmt.isNearest_round hg hm hl (q := m * 2 ^ (e - l).toNat) (hq ▸ nearest_intCast _)
  refine ⟨_, hval.trans ?_⟩
  rw [two_zpow_toNat he]
  push_cast
  ring

/-- A value of the format is encoded as it is. -/
theorem FFmt.encode_exact {g : FFmt} (hg : g ∈ floatFmts) (sat n : Bool) {m c : Nat} {e : Int} (hc : c ≤ g.maxCode)
    (hval : g.magVal c = m * (2 : ℚ) ^ e) :
    (g.decode (g.encode .rne sat (.fin n m e)).1).rat = (Num.fin n m e).rat := by
  rcases FFmt.encode_fin_cases hg sat n m e with ⟨⟨-, hnear⟩, -⟩ | ⟨-, hlt⟩
  · obtain ⟨hfin, hrat⟩ := FFmt.decode_signBit_add hg hc n
    have hle := (hnear _ hfin).1
    rw [hrat, hval, ← Num.rat_fin_eq_ite, sub_self, abs_zero] at hle
    exact (sub_eq_zero.mp (abs_nonpos_iff.mp hle)).symm
  · rw [Num.abs_rat_fin, ← hval] at hlt
    exact absurd ((FFmt.magVal_strictMono hg).monotone hc) (not_le.mpr hlt)

/-- Numbers of 24 bits in units of 2^-24 are FP32 values (R43). -/
theorem fF32_encode_24 {n : Nat} (hn : n < 2 ^ 24) :
    (fF32.decode (fF32.encode .rne false (.fin false n (-24))).1).rat = (n : ℚ) / 2 ^ 24 := by
  have hg : fF32 ∈ floatFmts := by decide
  have hrat : (Num.fin false n (-24)).rat = (n : ℚ) / 2 ^ 24 := by
    rw [Num.rat_fin_eq_ite, if_neg (by simp)]
    norm_num [zpow_neg]
    ring
  rw [← hrat]
  by_cases h0 : n = 0
  · subst h0
    refine FFmt.encode_exact hg false false (c := 0) (Nat.zero_le _) ?_
    rw [FFmt.magVal_zero]
    simp
  · have hlog : n.log2 < 24 := (Nat.log2_lt h0).mpr hn
    have he : max (msbExp n (-24) - (fF32.prec : Int) + 1) fF32.lmin ≤ -24 := by
      unfold msbExp
      change max _ (-149) ≤ _
      change max (((n.log2 : Nat) : Int) + (-24) - 24 + 1) (-149) ≤ -24
      omega
    obtain ⟨c, hc⟩ := FFmt.exists_magVal_eq hg h0 he
    refine FFmt.encode_exact hg false false ?_ hc
    by_contra hlt
    have hbig := FFmt.magVal_strictMono hg (not_le.mp hlt)
    have hmax : (1 : ℚ) ≤ fF32.magVal fF32.maxCode := by
      have hsig : fF32.sig fF32.maxCode = 2 ^ 24 - 1 ∧ fF32.level fF32.maxCode = 253 := by decide
      unfold FFmt.magVal
      rw [hsig.1, hsig.2]
      norm_num [fF32]
    have hsmall : (n : ℚ) * 2 ^ (-24 : Int) < 1 := by
      have : (n : ℚ) < 2 ^ 24 := by exact_mod_cast hn
      rw [zpow_neg, ← div_eq_mul_inv, div_lt_one (by positivity)]
      exact_mod_cast this
    linarith

/-! ### VPERM -/

theorem VForm.take_perm {f : VForm} {a b : Nat} (hk : f.kind = .perm) (hs : f.src = [a, b]) (r : Run) (got : List (List Byte)) :
    f.take r got = stepTake f.src (f.dst.headD 0) 1 4 (emitPerm (hFmt (r.s.portRec b))) r got := by
  unfold VForm.take
  rw [hk, hs]
  rfl

/-- What VPERM makes of the lanes of one step: the data lane that the index names, or zero (R243). -/
def permLane (fi n : Nat) (data : List (Option Lane)) (x : Nat) : Nat :=
  let i := intVal fi x
  if 0 ≤ i ∧ i < n then ((data.getD i.toNat none).map Prod.fst).getD 0 else 0

theorem emitPerm_eq (fi : Nat) (h : HRec) (n : Nat) (data idx : List (Option Lane)) :
    emitPerm fi h n [data, idx] = (nibBytes ((((sideBySide n [data, idx]).map fun o => o.map fun x =>
      permLane fi (fmtLanes (hFmt h)) data ((x.drop 1).headD (0, 0)).1).take n).flatMap (nibsOf (hFmt h))), 0) := rfl

theorem sideBySide_pair {n k : Nat} {A B : List (Option Lane)} (hA : n ≤ A.length) (hB : n ≤ B.length) (hk : k < n) :
    (sideBySide n [A, B])[k]? = some ((A.getD k none).bind fun x => (B.getD k none).map fun y => [x, y]) := by
  obtain ⟨hlen, hget⟩ := sideBySide_getD (l := [A, B]) (by simp [hA, hB]) hk
  rw [List.getElem?_eq_getElem (by omega), ← List.getD_eq_getElem _ none (by omega), hget]
  simp only [List.mapM_cons, List.mapM_nil]
  cases A.getD k none <;> cases B.getD k none <;> rfl

theorem nibIn_emitPerm (fi : Nat) (h : HRec) {n : Nat} {A B : List (Option Lane)} (hA : n ≤ A.length) (hB : n ≤ B.length)
    {at_ a : Int} {hi : Bool} {v : Nat} :
    nibIn at_ (emitPerm fi h n [A, B]).1 a hi = some v ↔
      ∃ k d x y, k < n ∧ d < fmtStore (hFmt h) / 4 ∧ A.getD k none = some x ∧ B.getD k none = some y
        ∧ at_ + (((k * (fmtStore (hFmt h) / 4) + d) / 2 : Nat) : Int) = a ∧ ((k * (fmtStore (hFmt h) / 4) + d) % 2 == 1) = hi
        ∧ permLane fi (fmtLanes (hFmt h)) A y.1 / 16 ^ d % 16 = v := by
  have hval (k c : Nat) : (((sideBySide n [A, B]).map fun o => o.map fun x =>
        permLane fi (fmtLanes (hFmt h)) A ((x.drop 1).headD (0, 0)).1).take n).getD k none = some c ↔
      k < n ∧ ∃ x y, A.getD k none = some x ∧ B.getD k none = some y ∧ permLane fi (fmtLanes (hFmt h)) A y.1 = c := by
    rw [getD_take_none]
    refine and_congr_right fun hk => ?_
    rw [List.getD_eq_getElem?_getD, List.getElem?_map, sideBySide_pair hA hB hk]
    cases A.getD k none <;> cases B.getD k none <;> simp
  rw [emitPerm_eq, nibIn_lanes]
  constructor
  · rintro ⟨k, d, c, hc, hd, ha, hhi, hv⟩
    obtain ⟨hk, x, y, hx, hy, rfl⟩ := (hval k c).mp hc
    exact ⟨k, d, x, y, hk, hd, hx, hy, ha, hhi, hv⟩
  · rintro ⟨k, d, x, y, hk, hd, hx, hy, ha, hhi, hv⟩
    exact ⟨k, d, _, (hval k _).mpr ⟨hk, x, y, hx, hy, rfl⟩, hd, ha, hhi, hv⟩

theorem permStep {f : VForm} {a b : Nat} {r u : Run} {bytes : Nat → List Byte} {hd : HRec} (hk : f.kind = .perm) (hs : f.src = [a, b])
    (hhd : hd = r.s.portRec (f.dst.headD 0)) (hdst : f.dst.headD 0 ∉ f.src)
    (hplain : ∀ q ∈ f.src, fmtBlock (hFmt (r.s.portRec q)) = false) (hwidth : ∀ q ∈ f.src, fmtLanes (hFmt (r.s.portRec q)) = fmtLanes (hFmt hd))
    (hi : r.w.st.i = 0) (hbuf : r.w.st.buf = []) (houts : r.w.outs = []) (hshape : stepShape (r.s.portRec a) hd r.w.st.k = (1, 1))
    (hu : u = f.take r ((distinctPorts f.src).map bytes)) :
    u.s = r.s ∧ u.w.flags = r.w.flags
      ∧ ∀ at_ hi v, (∃ o ∈ u.w.outs, o.writes at_ hi v) ↔
          ∃ k d x y, k < hVecLanes hd (r.idx (f.dst.headD 0)) ∧ d < fmtStore (hFmt hd) / 4
            ∧ (popLanes (r.s.portRec a) (r.idx a) (bytes a)).1.getD k none = some x
            ∧ (popLanes (r.s.portRec b) (r.idx b) (bytes b)).1.getD k none = some y
            ∧ hVecAddr hd (r.idx (f.dst.headD 0)) + (((k * (fmtStore (hFmt hd) / 4) + d) / 2 : Nat) : Int) = at_
            ∧ ((k * (fmtStore (hFmt hd) / 4) + d) % 2 == 1) = hi
            ∧ permLane (hFmt (r.s.portRec b)) (fmtLanes (hFmt hd)) (popLanes (r.s.portRec a) (r.idx a) (bytes a)).1 y.1 / 16 ^ d % 16 = v := by
  subst hhd
  set d := f.dst.headD 0
  set hd := r.s.portRec d with hhd
  have hlen (q : Nat) (hq : q ∈ f.src) : (popLanes (r.s.portRec q) (r.idx q) (bytes q)).1.length = fmtLanes (hFmt hd) := by
    rw [length_popLanes (hplain q hq), hwidth q hq]
  have ha : a ∈ f.src := by simp [hs]
  have hb : b ∈ f.src := by simp [hs]
  have hvec : hVecLanes hd (r.idx d) ≤ fmtLanes (hFmt hd) := min_le_left _ _
  have hsrcs : (f.src.map fun q => (popLanes (r.s.portRec q) (r.idx q) (bytes q)).1.take (fmtLanes (hFmt hd)))
      = [(popLanes (r.s.portRec a) (r.idx a) (bytes a)).1, (popLanes (r.s.portRec b) (r.idx b) (bytes b)).1] := by
    rw [hs, List.map_cons, List.map_singleton, List.take_of_length_le (hlen a ha).le, List.take_of_length_le (hlen b hb).le]
  rw [VForm.take_perm hk hs] at hu
  obtain ⟨hst, -, hflags, t, -, houts'⟩ := stepTake_single (emitPerm (hFmt (r.s.portRec b))) bytes hi hbuf
    (by rw [hs]; exact hshape) hdst rfl hu
  rw [← hhd, hsrcs] at hflags houts'
  refine ⟨hst, ?_, fun at_ hi v => ?_⟩
  · rw [hflags, Run.popFlags_of_plain bytes fun q hq => hplain q (by simpa [distinctPorts] using hq)]
    simp [emitPerm_eq]
  · rw [houts']
    simp only [Run.mem_out_outs, houts, List.not_mem_nil, or_false]
    rw [exists_outsOf_writes, nibIn_emitPerm _ _ (by rw [hlen a ha]; exact hvec) (by rw [hlen b hb]; exact hvec)]

end Sys2Proof.Machine
end

section
/-! PROOFS. Blocks: their bytes, their scale, and their elements (R30 to R32, R34, R236, R237). -/

namespace Sys2Proof.Machine

/-! ### Conversions to the narrow formats -/

theorem elemCode_of_int {f : Nat} (hf : f ∈ intCodes) (rm : Rnd) (sat : Bool) (v : Num) :
    elemCode f rm sat v = (intBits (fmtBits f) (toIntFmt f rm v).1, (toIntFmt f rm v).2) := by
  unfold elemCode
  rw [ffmtOf_intCodes hf, if_pos ((fmtInt_iff f).mpr hf)]

/-- A finite value rounds to the nearest integer and is clamped (R34). -/
theorem toIntFmt_fin (f : Nat) {v : Num} (hv : v.isFin = true) :
    ∃ n : Int, Nearest v.rat n ∧ toIntFmt f .rne v = ((clampInt (intRange f) n).1,
      if (clampInt (intRange f) n).2 then flagSAT ||| flagNX else if (n : ℚ) = v.rat then 0 else flagNX) := by
  obtain ⟨s, m, e, rfl⟩ := Num.exists_fin_of_isFin hv
  obtain ⟨hnear, hflag⟩ := roundMag_rne s m e 0
  rw [sub_zero] at hnear hflag
  have hrat : (Num.fin s m e).rat = if s then -((m : ℚ) * 2 ^ e) else m * 2 ^ e := Num.rat_fin_eq_ite s m e
  refine ⟨signed s (roundMag .rne s m e 0).1, ?_, ?_⟩
  · rw [hrat]
    exact nearest_signed s hnear
  · have hexact : ((signed s (roundMag .rne s m e 0).1 : Int) : ℚ) = (Num.fin s m e).rat ↔ (roundMag .rne s m e 0).2 = false := by
      rw [hflag, hrat, cast_signed]
      cases s <;> simp
    unfold toIntFmt roundInt
    dsimp only
    congr 2
    simp only [hexact]
    cases (roundMag .rne s m e 0).2 <;> rfl

/-- An integer element holds the nearest integer, clamped, and says so in its flags. -/
theorem elemCode_int_fin {f : Nat} (hf : f ∈ intCodes) {v : Num} (hv : v.isFin = true) {c : Nat × BitVec 8} (hc : c = elemCode f .rne true v) :
    ∃ n : Int, Nearest v.rat n ∧ intVal f c.1 = max (intRange f).1 (min (intRange f).2 n)
      ∧ (c.2 &&& flagSAT = 0 ↔ intVal f c.1 = n) ∧ (c.2 &&& flagNX = 0 ↔ (intVal f c.1 : ℚ) = v.rat) := by
  obtain ⟨n, hnear, hto⟩ := toIntFmt_fin f hv
  rw [elemCode_of_int hf, hto] at hc
  have hval : intVal f c.1 = max (intRange f).1 (min (intRange f).2 n) := by rw [hc, intVal_clampInt hf]
  refine ⟨n, hnear, hval, ?_⟩
  rw [hval, hc, clampInt_eq (intRange_le hf)]
  generalize max (intRange f).1 (min (intRange f).2 n) = x
  have hclamp : (x : ℚ) = v.rat → x = n := fun h =>
    le_antisymm (hnear.le_of_ge h.le) (hnear.le_of_le h.ge)
  by_cases hx : x = n
  · subst hx
    by_cases hr : (x : ℚ) = v.rat
    · simp [hr]
    · simp only [ne_eq, not_true, decide_false, Bool.false_eq_true, if_false, hr, iff_false, iff_true]
      decide
  · have hr : ¬ (x : ℚ) = v.rat := fun h => hx (hclamp h)
    simp only [ne_eq, hx, not_false_iff, decide_true, if_true, hr, iff_false]
    decide

/-- The formats whose conversion saturates in blocks. -/
theorem overflow_saturates {f : Nat} (hf : f ∈ [0x0A, 0x0B, 0x0C]) {g : FFmt} (hg : ffmtOf f = some g) :
    g ∈ floatFmts ∧ ∀ n, g.overflow .rne true n = g.signBit n + g.maxCode := by
  have h : ∀ f ∈ [0x0A, 0x0B, 0x0C], ∃ g, ffmtOf f = some g ∧ g ∈ floatFmts ∧ ∀ n, g.overflow .rne true n = g.signBit n + g.maxCode := by
    decide
  obtain ⟨g', hg', hmem, hover⟩ := h f hf
  obtain rfl := Option.some.inj (hg.symm.trans hg')
  exact ⟨hmem, hover⟩

theorem elemCode_of_float {f : Nat} {g : FFmt} (hg : ffmtOf f = some g) (rm : Rnd) (sat : Bool) (v : Num) :
    elemCode f rm sat v = g.encode rm sat v := by
  unfold elemCode
  rw [hg]

/-- A narrow float rounds to its nearest code, the largest at most (R34). -/
theorem elemCode_narrow {f : Nat} (hf : f ∈ [0x0A, 0x0B, 0x0C]) {g : FFmt} (hg : ffmtOf f = some g) {v : Num} (hv : v.isFin = true)
    {c : Nat × BitVec 8} (hc : c = elemCode f .rne true v) : g.Rounds v.rat c.1 ∧ (c.2 &&& flagNX = 0 ↔ (g.decode c.1).rat = v.rat) := by
  obtain ⟨hmem, hover⟩ := overflow_saturates hf hg
  obtain ⟨n, m, e, rfl⟩ := Num.exists_fin_of_isFin hv
  rw [elemCode_of_float hg] at hc
  subst hc
  rcases FFmt.encode_fin_cases hmem true n m e with ⟨hround, uf, hflags⟩ | ⟨henc, hlt⟩
  · rw [hflags]
    exact ⟨hround, (flagOF_and_exact _ uf).2⟩
  · rw [henc, hover]
    refine ⟨FFmt.rounds_maxCode hmem hlt, iff_of_false (show ¬ (flagOF ||| flagNX) &&& flagNX = 0 by decide) fun heq => ?_⟩
    dsimp only at heq
    rw [← heq, (FFmt.decode_signBit_add hmem le_rfl n).2] at hlt
    have habs : |if n then -g.magVal g.maxCode else g.magVal g.maxCode| = g.magVal g.maxCode := by
      cases n <;> simp [abs_of_nonneg (g.magVal_nonneg _)]
    rw [habs] at hlt
    exact lt_irrefl _ hlt

/-! ### The bytes of a block -/

/-- The elements of a block as one number (R30). -/
def packed (w : Nat) (els : List Nat) : Nat := els.zipIdx.foldl (fun acc e => acc + e.1 % 2 ^ w * 2 ^ (w * e.2)) 0

theorem packed_append (w : Nat) (els : List Nat) (x : Nat) : packed w (els ++ [x]) = packed w els + x % 2 ^ w * 2 ^ (w * els.length) := by
  unfold packed
  rw [List.zipIdx_append, List.foldl_append]
  simp

theorem packed_lt (w : Nat) (els : List Nat) : packed w els < 2 ^ (w * els.length) := by
  induction els using List.reverseRecOn with
  | nil => exact Nat.one_pos
  | append_singleton els x ih =>
    have hx := Nat.mod_lt x (show 0 < 2 ^ w by positivity)
    rw [packed_append, List.length_append, List.length_singleton, Nat.mul_add, Nat.mul_one, Nat.pow_add]
    calc packed w els + x % 2 ^ w * 2 ^ (w * els.length) < 2 ^ (w * els.length) + x % 2 ^ w * 2 ^ (w * els.length) := by omega
      _ = (x % 2 ^ w + 1) * 2 ^ (w * els.length) := by ring
      _ ≤ 2 ^ w * 2 ^ (w * els.length) := Nat.mul_le_mul_right _ hx
      _ = 2 ^ (w * els.length) * 2 ^ w := Nat.mul_comm _ _

theorem packed_digit (w : Nat) (els : List Nat) {i : Nat} (hi : i < els.length) :
    packed w els / 2 ^ (w * i) % 2 ^ w = els.getD i 0 % 2 ^ w := by
  induction els using List.reverseRecOn with
  | nil => exact absurd hi (Nat.not_lt_zero i)
  | append_singleton els x ih =>
    have hp : 0 < 2 ^ (w * i) := by positivity
    rw [packed_append]
    rw [List.length_append, List.length_singleton] at hi
    by_cases hlast : i = els.length
    · subst hlast
      rw [Nat.add_mul_div_right _ _ hp, Nat.div_eq_of_lt (packed_lt w els), Nat.zero_add, Nat.mod_mod,
        List.getD_append_right _ _ _ _ le_rfl, Nat.sub_self]
      rfl
    · obtain ⟨j, hj⟩ : ∃ j, els.length = i + (j + 1) := ⟨els.length - i - 1, by omega⟩
      have hpow : x % 2 ^ w * 2 ^ (w * els.length) = x % 2 ^ w * 2 ^ (w * j) * 2 ^ w * 2 ^ (w * i) := by
        rw [hj]
        ring
      rw [hpow, Nat.add_mul_div_right _ _ hp, Nat.add_mul_mod_self_right, ih (by omega), List.getD_append _ _ _ _ (by omega)]

theorem blockBytes_eq (f : Nat) (scale : Int) (els : List Nat) :
    blockBytes f scale els = BitVec.ofNat 8 f :: BitVec.ofInt 8 scale :: leBytes 62 (packed (fmtBits f) els) := rfl

/-- The block forms (Table 2-1). -/
def blockCodes : List Nat := [0x86, 0x87, 0x88, 0x8A, 0x8B, 0x8C, 0x8D]

theorem blockCodes_facts {f : Nat} (hf : f ∈ blockCodes) :
    fmtBits f ≤ 8 ∧ f < 256 ∧ fmtBlock f = true ∧ fmtBits f = fmtBits (f % 128) ∧ f % 128 < 128 := by
  revert f
  decide

theorem blockBytes_elem {f : Nat} (hf : f ∈ blockCodes) (scale : Int) {els : List Nat} (hlen : els.length = 48) {i : Nat} (hi : i < 48) :
    leNat ((blockBytes f scale els).drop 2) / 2 ^ (fmtBits f * i) % 2 ^ fmtBits f = els.getD i 0 % 2 ^ fmtBits f := by
  have hw := (blockCodes_facts hf).1
  have hlt : packed (fmtBits f) els < 256 ^ 62 := by
    refine (packed_lt _ _).trans_le ?_
    rw [hlen]
    exact (Nat.pow_le_pow_right (by decide) (by omega)).trans (Nat.pow_mul 2 8 62).le
  rw [blockBytes_eq, List.drop_succ_cons, List.drop_succ_cons, List.drop_zero, leNat_leBytes, Nat.mod_eq_of_lt hlt]
  exact packed_digit _ _ (by omega)

/-! ### The scale of a block -/

/-- A magnitude pair's value. -/
def magRat (x : Nat × Int) : ℚ := x.1 * (2 : ℚ) ^ x.2

theorem rat_of_not_fin {v : Num} (h : v.isFin = false) : v.rat = 0 := by
  cases v with
  | fin n m e => cases h
  | _ => rfl

/-- The greater of a magnitude and that of a value (R236). -/
def maxMagStep (b : Nat × Int) (v : Num) : Nat × Int :=
  match v with
  | .fin _ m e => if decide (0 < cmpFin false m e false b.1 b.2) then (m, e) else b
  | _ => b

theorem magRat_maxMagStep (b : Nat × Int) (v : Num) : magRat (maxMagStep b v) = max (magRat b) |v.rat| := by
  have hb : 0 ≤ magRat b := mul_nonneg (Nat.cast_nonneg _) (two_zpow_pos _).le
  cases v with
  | fin n m e =>
    have hfin (x : Nat × Int) : (Num.fin false x.1 x.2).rat = magRat x := by
      rw [Num.rat_fin_eq_ite]
      exact if_neg (by simp)
    have hpos : 0 < cmpFin false m e false b.1 b.2 ↔ magRat b < magRat (m, e) := by rw [cmpFin_pos_iff, ← hfin b, ← hfin (m, e)]
    rw [Num.abs_rat_fin]
    unfold maxMagStep
    simp only [hpos, decide_eq_true_iff]
    split_ifs with h
    · exact (max_eq_right h.le).symm
    · exact (max_eq_left (not_lt.mp h)).symm
  | _ =>
    rw [rat_of_not_fin rfl, abs_zero, max_eq_left hb]
    rfl

theorem maxMagOf_eq (l : List Num) : maxMagOf l = l.foldl maxMagStep (0, 0) := by
  unfold maxMagOf
  congr 1

theorem magRat_foldl (l : List Num) : ∀ b, magRat b ≤ magRat (l.foldl maxMagStep b) ∧ (∀ v ∈ l, |v.rat| ≤ magRat (l.foldl maxMagStep b))
    ∧ (magRat (l.foldl maxMagStep b) = magRat b ∨ ∃ v ∈ l, magRat (l.foldl maxMagStep b) = |v.rat|) := by
  induction l with
  | nil => exact fun b => ⟨le_rfl, nofun, .inl rfl⟩
  | cons v l ih =>
    intro b
    obtain ⟨hle, hall, hor⟩ := ih (maxMagStep b v)
    rw [magRat_maxMagStep] at hle hor
    refine ⟨(le_max_left _ _).trans hle, fun w hw => ?_, ?_⟩
    · rcases List.mem_cons.mp hw with rfl | hw
      · exact (le_max_right _ _).trans hle
      · exact hall w hw
    · rcases hor with h | ⟨w, hw, h⟩
      · rcases max_choice (magRat b) |v.rat| with hm | hm
        · exact .inl (h.trans hm)
        · exact .inr ⟨v, List.mem_cons_self, h.trans hm⟩
      · exact .inr ⟨w, List.mem_cons_of_mem _ hw, h⟩

/-- The largest magnitude is that of each greatest value. -/
theorem magRat_maxMagOf {l : List Num} {x : Num} (hx : x ∈ l) (hmax : ∀ v ∈ l, |v.rat| ≤ |x.rat|) : magRat (maxMagOf l) = |x.rat| := by
  obtain ⟨-, hall, hor⟩ := magRat_foldl l (0, 0)
  rw [maxMagOf_eq]
  refine le_antisymm ?_ (hall x hx)
  rcases hor with h | ⟨w, hw, h⟩
  · rw [h, magRat]
    simp
  · rw [h]
    exact hmax w hw

/-- The largest magnitude of a block form's elements (R236). -/
theorem blockMax_rat {f : Nat} (hf : f ∈ blockCodes) : magRat (blockMax f) = (if f = 0x86 then 127 else if f = 0x87 then 255 else if f = 0x88 then 7
    else if f = 0x8A then 448 else if f = 0x8B then 57344 else if f = 0x8C then 6 else 0xD745 / 2 ^ 15) ∧ (blockMax f).1 ≠ 0 := by
  simp only [blockCodes, List.mem_cons, List.not_mem_nil, or_false] at hf
  rcases hf with rfl | rfl | rfl | rfl | rfl | rfl | rfl <;> refine ⟨?_, by decide⟩ <;> norm_num [magRat, blockMax]

theorem blockScale_of_zero {f : Nat} {l : List Num} (h : ∀ v ∈ l, v.rat = 0) : blockScale f l = 0 := by
  obtain ⟨-, -, hor⟩ := magRat_foldl l (0, 0)
  have hzero : magRat (maxMagOf l) = 0 := by
    rw [maxMagOf_eq]
    rcases hor with h0 | ⟨v, hv, h0⟩
    · rw [h0, magRat]
      simp
    · rw [h0, h v hv, abs_zero]
  have hm : (maxMagOf l).1 = 0 := by
    rcases mul_eq_zero.mp hzero with h0 | h0
    · exact_mod_cast h0
    · exact absurd h0 (two_zpow_pos _).ne'
  unfold blockScale
  dsimp only
  rw [if_pos hm]

/-- The scale is the least at which the greatest magnitude fits, clamped (R236). -/
theorem blockScale_of_max {f : Nat} {l : List Num} {x top : ℚ} (htop : magRat (blockMax f) = top) (hne : (blockMax f).1 ≠ 0)
    (hx : magRat (maxMagOf l) = x) (hx0 : x ≠ 0) :
    ∃ s : Int, x ≤ top * (2 : ℚ) ^ s ∧ top * (2 : ℚ) ^ (s - 1) < x ∧ blockScale f l = max (-128) (min 127 s) := by
  have hm : (maxMagOf l).1 ≠ 0 := fun h => hx0 (by rw [← hx, magRat, h]; simp)
  obtain ⟨hxlo, hxhi⟩ := msbExp_bounds hm (maxMagOf l).2
  obtain ⟨htlo, hthi⟩ := msbExp_bounds hne (blockMax f).2
  change _ ≤ magRat (maxMagOf l) at hxlo
  change magRat (maxMagOf l) < _ at hxhi
  change _ ≤ magRat (blockMax f) at htlo
  change magRat (blockMax f) < _ at hthi
  rw [hx] at hxlo hxhi
  rw [htop] at htlo hthi
  unfold blockScale
  dsimp only
  rw [if_neg hm]
  generalize hg : msbExp (maxMagOf l).1 (maxMagOf l).2 - msbExp (blockMax f).1 (blockMax f).2 = g
  have hok (s : Int) : cmpFin false (maxMagOf l).1 ((maxMagOf l).2 - s) false (blockMax f).1 (blockMax f).2 ≤ 0 ↔ x ≤ top * (2 : ℚ) ^ s := by
    have hp := two_zpow_pos s
    rw [cmpFin_nonpos_iff, Num.rat_fin_eq_ite, Num.rat_fin_eq_ite, if_neg (by simp), if_neg (by simp), ← htop, ← hx, magRat, magRat,
      sub_eq_add_neg, two_zpow_add, zpow_neg, ← div_eq_mul_inv, mul_div_assoc', div_le_iff₀ hp]
  have htop0 : 0 < top := lt_of_lt_of_le (two_zpow_pos _) htlo
  have habove : x ≤ top * (2 : ℚ) ^ (g + 1) := by
    calc x ≤ 2 ^ (msbExp (maxMagOf l).1 (maxMagOf l).2 + 1) := hxhi.le
      _ = 2 ^ msbExp (blockMax f).1 (blockMax f).2 * 2 ^ (g + 1) := by
        rw [← two_zpow_add]
        congr 1
        omega
      _ ≤ top * 2 ^ (g + 1) := mul_le_mul_of_nonneg_right htlo (two_zpow_pos _).le
  have hbelow : top * (2 : ℚ) ^ (g - 1 - 1) < x := by
    calc top * (2 : ℚ) ^ (g - 1 - 1) < 2 ^ (msbExp (blockMax f).1 (blockMax f).2 + 1) * 2 ^ (g - 1 - 1) :=
          mul_lt_mul_of_pos_right hthi (two_zpow_pos _)
      _ = 2 ^ (msbExp (maxMagOf l).1 (maxMagOf l).2 - 1) := by
        rw [← two_zpow_add]
        congr 1
        omega
      _ ≤ 2 ^ msbExp (maxMagOf l).1 (maxMagOf l).2 := two_zpow_le_iff.mpr (by omega)
      _ ≤ x := hxlo
  simp only [hok, decide_eq_true_iff]
  split_ifs with h1 h2
  · exact ⟨g - 1, h1, hbelow, rfl⟩
  · exact ⟨g, h2, not_le.mp h1, rfl⟩
  · exact ⟨g + 1, habove, by rw [add_sub_cancel_right]; exact not_le.mp h2, rfl⟩

/-! ### The elements of a block -/

theorem quantElem_lns (s : Int) (v : Num) : quantElem 0x8D s v = toLns s v := rfl

theorem quantElem_eq {f : Nat} (hf : f ∈ blockCodes) (hlns : f ≠ 0x8D) (s : Int) (v : Num) : quantElem f s v =
    if f = 0x87 ∧ v.isNeg = true then ((elemCode (f % 128) .rne true (v.scale (-s))).1,
      (elemCode (f % 128) .rne true (v.scale (-s))).2 ||| flagSAT ||| flagNX) else elemCode (f % 128) .rne true (v.scale (-s)) := by
  have hmod : f % 128 ≠ 0x0D ∧ (f % 128 = 0x07 ↔ f = 0x87) := by
    revert f
    decide
  unfold quantElem
  dsimp only
  rw [if_neg hmod.1]
  simp only [hmod.2]

theorem quantElem_of_not_fin {f : Nat} (hf : f ∈ blockCodes) (hlns : f ≠ 0x8D) (s : Int) {v : Num} (hv : v.isFin = false) :
    quantElem f s v = elemCode (f % 128) .rne true v := by
  have hscale : v.scale (-s) = v := by
    cases v with
    | fin n m e => cases hv
    | _ => rfl
  rw [quantElem_eq hf hlns, hscale]
  split_ifs with h
  · obtain ⟨rfl, hneg⟩ := h
    cases v with
    | fin n m e => cases hv
    | nan => cases hneg
    | inf n =>
      cases n
      · cases hneg
      · decide
  · rfl

theorem quantElem_scaled {f : Nat} (hf : f ∈ blockCodes) (hlns : f ≠ 0x8D) (s : Int) (v : Num) :
    (quantElem f s v).1 = (elemCode (f % 128) .rne true (v.scale (-s))).1
      ∧ (elemCode (f % 128) .rne true (v.scale (-s))).2 &&& (quantElem f s v).2 = (elemCode (f % 128) .rne true (v.scale (-s))).2 := by
  rw [quantElem_eq hf hlns]
  split_ifs
  · exact ⟨rfl, and_or_of_and _ (and_or_of_and _ BitVec.and_self)⟩
  · exact ⟨rfl, BitVec.and_self⟩

/-- A negative value becomes zero in bui8, with SAT. -/
theorem quantElem_negative (s : Int) {v : Num} (hv : v.isFin = true) (hneg : v.rat < 0) :
    (quantElem 0x87 s v).1 = 0 ∧ (quantElem 0x87 s v).2 &&& flagSAT = flagSAT := by
  have hisneg : v.isNeg = true := by
    rw [Num.isNeg, Num.lt_eq_decide hv rfl, Num.rat_zero]
    exact decide_eq_true hneg
  rw [quantElem_eq (by decide) (by decide), if_pos ⟨rfl, hisneg⟩]
  constructor
  · obtain ⟨n, hnear, hto⟩ := toIntFmt_fin 0x07 ((Num.isFin_scale v (-s)).trans hv)
    have hn : n ≤ 0 := hnear.le_of_le (k := 0) <| by
      rw [Num.rat_scale, Int.cast_zero]
      exact mul_nonpos_of_nonpos_of_nonneg hneg.le (two_zpow_pos _).le
    change (elemCode 0x07 .rne true (v.scale (-s))).1 = 0
    rw [elemCode_of_int (by decide), hto, clampInt_eq (by decide)]
    have hclamp : max (intRange 0x07).1 (min (intRange 0x07).2 n) = 0 := by
      change max 0 (min 255 n) = 0
      omega
    rw [hclamp]
    rfl
  · rw [BitVec.and_comm]
    exact and_or_of_and _ (and_or_right _ _)

/-! ### Quantisation -/

theorem quantBlock_eq (f : Nat) (fixed : Option Int) (l : List Num) : quantBlock f fixed l =
    (blockBytes f (fixed.getD (blockScale f l)) ((l.map (quantElem f (fixed.getD (blockScale f l)))).map Prod.fst),
      (l.map (quantElem f (fixed.getD (blockScale f l)))).foldl (fun fl e => fl ||| e.2) 0) := rfl

theorem quantBlock_spec {f : Nat} {fixed : Option Int} {l : List Num} {q : List Byte × BitVec 8} {w : Nat} {top : ℚ} (hf : f ∈ blockCodes)
    (hlen : l.length = 48) (hq : q = quantBlock f fixed l) (hw : w = fmtBits f)
    (htop : top = (if f = 0x86 then 127 else if f = 0x87 then 255 else if f = 0x88 then 7 else if f = 0x8A then 448
      else if f = 0x8B then 57344 else if f = 0x8C then 6 else 0xD745 / 2 ^ 15)) :
    ∃ (sig : Int) (c : Nat → Nat × BitVec 8), q.1.length = 64 ∧ (q.1.getD 0 0).toNat = f ∧ q.1.getD 1 0 = BitVec.ofInt 8 sig
      ∧ (∀ s, fixed = some s → sig = s)
      ∧ (fixed = none → (∀ v ∈ l, v.rat = 0) → sig = 0)
      ∧ (∀ x ∈ l, fixed = none → x.rat ≠ 0 → (∀ v ∈ l, |v.rat| ≤ |x.rat|) →
          ∃ s : Int, |x.rat| ≤ top * (2 : ℚ) ^ s ∧ top * (2 : ℚ) ^ (s - 1) < |x.rat| ∧ sig = max (-128) (min 127 s))
      ∧ ∀ i v, i < 48 → l[i]? = some v →
          leNat (q.1.drop 2) / 2 ^ (w * i) % 2 ^ w = (c i).1 % 2 ^ w ∧ (c i).2 &&& q.2 = (c i).2
          ∧ (f = 0x8D → c i = toLns sig v)
          ∧ (f ≠ 0x8D → v.isFin = false → c i = elemCode (f % 128) .rne true v)
          ∧ (f ≠ 0x8D → v.isFin = true → ∃ x : Num, x.isFin = true ∧ x.rat = v.rat * (2 : ℚ) ^ (-sig)
              ∧ (c i).1 = (elemCode (f % 128) .rne true x).1
              ∧ (elemCode (f % 128) .rne true x).2 &&& (c i).2 = (elemCode (f % 128) .rne true x).2)
          ∧ (f = 0x87 → v.isFin = true → v.rat < 0 → (c i).1 = 0 ∧ (c i).2 &&& flagSAT = flagSAT) := by
  obtain ⟨-, hlt, -⟩ := blockCodes_facts hf
  obtain ⟨hmax, hmax0⟩ := blockMax_rat hf
  rw [← htop] at hmax
  subst hw
  obtain ⟨sig, hsig⟩ : ∃ sig, sig = fixed.getD (blockScale f l) := ⟨_, rfl⟩
  rw [quantBlock_eq, ← hsig] at hq
  refine ⟨sig, fun i => quantElem f sig (l.getD i .zero), ?_, ?_, ?_, ?_, ?_, ?_, ?_⟩
  · rw [hq, blockBytes_eq]
    simp
  · rw [hq, blockBytes_eq, List.getD_cons_zero, BitVec.toNat_ofNat, Nat.mod_eq_of_lt hlt]
  · rw [hq, blockBytes_eq, List.getD_cons_succ, List.getD_cons_zero]
  · rintro s rfl
    exact hsig
  · rintro rfl h0
    exact hsig.trans (blockScale_of_zero h0)
  · rintro x hx rfl hx0 hall
    obtain ⟨s, hle, hlt, hs⟩ := blockScale_of_max hmax hmax0 (magRat_maxMagOf hx hall) (abs_ne_zero.mpr hx0)
    exact ⟨s, hle, hlt, hsig.trans hs⟩
  · intro i v hi hv
    have hget : l.getD i .zero = v := by rw [List.getD_eq_getElem?_getD, hv]; rfl
    have hmem : quantElem f sig v ∈ l.map (quantElem f sig) := List.mem_map_of_mem (List.mem_of_getElem? hv)
    dsimp only
    rw [hget, hq]
    refine ⟨?_, and_foldl_or Prod.snd hmem 0, ?_, fun hlns hfin => quantElem_of_not_fin hf hlns sig hfin, fun hlns hfin => ?_, ?_⟩
    · rw [blockBytes_elem hf sig (by simpa using hlen) hi]
      congr 1
      rw [List.map_map, List.getD_eq_getElem?_getD, List.getElem?_map, hv]
      rfl
    · rintro rfl
      exact quantElem_lns sig v
    · obtain ⟨hcode, hflags⟩ := quantElem_scaled hf hlns sig v
      exact ⟨v.scale (-sig), (Num.isFin_scale v _).trans hfin, Num.rat_scale v _, hcode, hflags⟩
    · rintro rfl hfin hneg
      exact quantElem_negative sig hfin hneg

end Sys2Proof.Machine
end

section
/-! PROOFS. Steps of VQUANT and VDEQUANT, and pops of blocks (R30, R31, R236, R237). -/

namespace Sys2Proof.Machine

/-! ### VDEQUANT's vector -/

theorem dequantVec_eq {fd : Nat} {g : FFmt} (hg : ffmtOf fd = some g) (fs : Nat) (els : List (Option Lane)) :
    dequantVec fd fs els = (nibBytes (((els.map fun o => o.map fun l => g.encode .rne false (elemVal fs l.1 l.2)).map
        (Option.map Prod.fst)).flatMap (nibsOf fd)),
      (els.map fun o => o.map fun l => g.encode .rne false (elemVal fs l.1 l.2)).foldl (fun f o => f ||| o.elim 0 Prod.snd) 0) := by
  rw [← foldl_optional_flags, List.flatMap_map]
  unfold dequantVec
  dsimp only
  rw [hg]
  simp only [fltRes_of_valid] <;> rfl

theorem dequantVec_spec {fd fs : Nat} {g : FFmt} (hg : ffmtOf fd = some g) (els : List (Option Lane)) {a : Int} {hi : Bool} {v : Nat} :
    (nibIn 0 (dequantVec fd fs els).1 a hi = some v ↔
      ∃ k d x, els.getD k none = some x ∧ d < fmtStore fd / 4 ∧ (((k * (fmtStore fd / 4) + d) / 2 : Nat) : Int) = a
        ∧ ((k * (fmtStore fd / 4) + d) % 2 == 1) = hi ∧ (g.encode .rne false (elemVal fs x.1 x.2)).1 / 16 ^ d % 16 = v)
      ∧ ∀ k x, els.getD k none = some x →
          (g.encode .rne false (elemVal fs x.1 x.2)).2 &&& (dequantVec fd fs els).2 = (g.encode .rne false (elemVal fs x.1 x.2)).2 := by
  rw [dequantVec_eq hg]
  have hval (k c : Nat) : ((els.map fun o => o.map fun l => g.encode .rne false (elemVal fs l.1 l.2)).map (Option.map Prod.fst)).getD k none
      = some c ↔ ∃ x, els.getD k none = some x ∧ (g.encode .rne false (elemVal fs x.1 x.2)).1 = c := by
    simp only [List.getD_eq_getElem?_getD, List.getElem?_map]
    cases h : els[k]? with
    | none => simp
    | some o => cases o <;> simp
  refine ⟨?_, fun k x hx => ?_⟩
  · rw [nibIn_lanes]
    constructor
    · rintro ⟨k, d, c, hc, hd, ha, hhi, hv⟩
      obtain ⟨x, hx, rfl⟩ := (hval k c).mp hc
      exact ⟨k, d, x, hx, hd, by rwa [zero_add] at ha, hhi, hv⟩
    · rintro ⟨k, d, x, hx, hd, ha, hhi, hv⟩
      exact ⟨k, d, _, (hval k _).mpr ⟨x, hx, rfl⟩, hd, by rwa [zero_add], hhi, hv⟩
  · have hmem : some x ∈ els := by
      rw [List.getD_eq_getElem?_getD] at hx
      cases h : els[k]? with
      | none => rw [h] at hx; cases hx
      | some o =>
        rw [h] at hx
        exact List.mem_of_getElem? (h.trans (congrArg some hx))
    exact and_foldl_or (y := some (g.encode .rne false (elemVal fs x.1 x.2))) (fun o : Option (Nat × BitVec 8) => o.elim 0 Prod.snd)
      (List.mem_map.mpr ⟨_, hmem, rfl⟩) 0

/-! ### Values of block elements -/

theorem lnsVal_scale (b : Nat) (s : Int) : (lnsVal b s).isFin = true ∧ (lnsVal b s).rat = (lnsVal b 0).rat * (2 : ℚ) ^ s := by
  unfold lnsVal
  dsimp only
  split
  · simp
  · refine ⟨rfl, ?_⟩
    rw [Num.rat_fin, Num.rat_fin, add_zero, two_zpow_add, mul_assoc]

theorem blockCodes_class {f : Nat} (hf : f ∈ blockCodes) (hlns : f ≠ 0x8D) :
    (∃ g, ffmtOf (f % 128) = some g) ∨ (ffmtOf (f % 128) = none ∧ fmtInt (f % 128) = true) := by
  have h : ∀ f ∈ blockCodes, f ≠ 0x8D → (ffmtOf (f % 128)).isSome = true ∨ (ffmtOf (f % 128) = none ∧ fmtInt (f % 128) = true) := by decide
  exact (h f hf hlns).imp_left Option.isSome_iff_exists.mp

/-- An element of a block has its own value, times two to the scale (R26, R30). -/
theorem elemVal_block {f : Nat} (hf : f ∈ blockCodes) (b : Nat) (s : Int) (hfin : (elemVal (f % 128) b 0).isFin = true) :
    (elemVal f b s).isFin = true ∧ (elemVal f b s).rat = (elemVal (f % 128) b 0).rat * (2 : ℚ) ^ s := by
  have hmod : f % 128 % 128 = f % 128 := Nat.mod_mod _ _
  by_cases hlns : f = 0x8D
  · subst hlns
    exact lnsVal_scale b s
  · have hscale (t : Int) : ∃ X : Num, ∀ t, (elemVal f b t = X.scale t ∧ elemVal (f % 128) b t = X.scale t) := by
      unfold elemVal
      dsimp only
      rw [hmod]
      rcases blockCodes_class hf hlns with ⟨g, hg⟩ | ⟨hno, hint⟩
      · rw [hg]
        exact ⟨_, fun t => ⟨rfl, rfl⟩⟩
      · rw [hno, hint]
        exact ⟨Num.ofInt (intVal (f % 128) b), fun t => ⟨rfl, rfl⟩⟩
    obtain ⟨X, hX⟩ := hscale s
    rw [(hX 0).2] at hfin ⊢
    rw [(hX s).1]
    rw [Num.scale_zero] at hfin ⊢
    exact ⟨(Num.isFin_scale X s).trans hfin, Num.rat_scale X s⟩

/-! ### Pops of blocks -/

theorem toSInt_8_toNat (b : Byte) : toSInt 8 b.toNat = b.toInt := by
  unfold toSInt
  rw [BitVec.toInt_eq_toNat_cond]
  split <;> split <;> omega

theorem length_blockElems (f : Nat) (bytes : List Byte) : (blockElems f bytes).1.length = 48 := by
  unfold blockElems
  split
  · simp
  · simp

theorem length_blocksElems (f : Nat) : ∀ (n : Nat) (bytes : List Byte), (blocksElems f n bytes).1.length = 48 * n
  | 0, _ => rfl
  | n + 1, bytes => by
    unfold blocksElems
    dsimp only
    rw [List.length_append, length_blockElems, length_blocksElems f n]
    omega

/-- Element `k` of blocks one after the other is that of its block; a block with a wrong header shows in the flag. -/
theorem blocksElems_getD (f : Nat) : ∀ (n : Nat) (bytes : List Byte) {k : Nat}, k < 48 * n →
    (blocksElems f n bytes).1[k]? = (blockElems f ((bytes.drop (64 * (k / 48))).take 64)).1[k % 48]?
      ∧ ((blockElems f ((bytes.drop (64 * (k / 48))).take 64)).2 = true → (blocksElems f n bytes).2 = true)
  | 0, _, _, hk => absurd hk (Nat.not_lt_zero _)
  | n + 1, bytes, k, hk => by
    have hlen := length_blockElems f (bytes.take 64)
    unfold blocksElems
    dsimp only
    by_cases hlt : k < 48
    · rw [Nat.div_eq_of_lt hlt, Nat.mod_eq_of_lt hlt, Nat.mul_zero, List.drop_zero, List.getElem?_append_left (by omega)]
      exact ⟨rfl, fun h => by rw [h, Bool.true_or]⟩
    · obtain ⟨hget, hbad⟩ := blocksElems_getD f n (bytes.drop 64) (k := k - 48) (by omega)
      have hdiv : k / 48 = (k - 48) / 48 + 1 := by omega
      have hmod : k % 48 = (k - 48) % 48 := by omega
      rw [List.drop_drop] at hget hbad
      rw [List.getElem?_append_right (by omega), hlen, hdiv, hmod, Nat.mul_add, Nat.mul_one, Nat.add_comm (64 * _)]
      exact ⟨hget, fun h => by rw [hbad h, Bool.or_true]⟩

theorem popLanes_of_block {h : HRec} (hf : fmtBlock (hFmt h) = true) (hb : hBcast h 0 = false) (v : Nat) (bytes : List Byte) :
    popLanes h v bytes = ((blocksElems (hFmt h) (hVecLanes h v / 48) bytes).1.map some
        ++ List.replicate (fmtLanes (hFmt h) - hVecLanes h v) none, (blocksElems (hFmt h) (hVecLanes h v / 48) bytes).2) := by
  unfold popLanes
  simp only [hf, hb, if_true, Bool.false_eq_true, if_false]

theorem blockElems_getElem {f : Nat} (bytes : List Byte) {i : Nat} (hi : i < 48) :
    (blockElems f bytes).1[i]? = some (if (bytes.getD 0 0).toNat = f then
        (leNat (bytes.drop 2) / 2 ^ (fmtBits f * i) % 2 ^ fmtBits f, (bytes.getD 1 0).toInt) else (blockZero f, 0))
      ∧ ((blockElems f bytes).2 = true ↔ (bytes.getD 0 0).toNat ≠ f) := by
  unfold blockElems
  split_ifs with hh
  · refine ⟨?_, iff_of_false not_false (not_not.mpr hh)⟩
    dsimp only
    rw [upFrom_zero, List.getElem?_map, List.getElem?_range hi, toSInt_8_toNat]
    rfl
  · refine ⟨?_, iff_of_true rfl hh⟩
    dsimp only
    rw [List.getElem?_replicate_of_lt hi]

theorem getD_take_drop (l : List Byte) (a : Nat) {i n : Nat} (hi : i < n) : ((l.drop a).take n).getD i 0 = l.getD (a + i) 0 := by
  simp only [List.getD_eq_getElem?_getD]
  rw [List.getElem?_take_of_lt hi, List.getElem?_drop]

/-- A pop of blocks delivers each element with its block's scale, or zeros where the header is another's (R30, R31). -/
theorem popLanes_block_getD {h : HRec} (hf : hFmt h ∈ blockCodes) (hb : hBcast h 0 = false) {v k : Nat} (hv : hVecLanes h v % 48 = 0)
    (hk : k < hVecLanes h v) (bytes : List Byte) :
    if (bytes.getD (64 * (k / 48)) 0).toNat = hFmt h then
      (popLanes h v bytes).1.getD k none =
        some (leNat ((bytes.drop (64 * (k / 48) + 2)).take 62) / 2 ^ (fmtBits (hFmt h) * (k % 48)) % 2 ^ fmtBits (hFmt h),
          (bytes.getD (64 * (k / 48) + 1) 0).toInt)
    else (popLanes h v bytes).1.getD k none = some (if hFmt h = 0x8D then 0x20 else 0, 0) ∧ (popLanes h v bytes).2 = true := by
  obtain ⟨-, -, hblock, -⟩ := blockCodes_facts hf
  have hk48 : k < 48 * (hVecLanes h v / 48) := by omega
  obtain ⟨hget, hbad⟩ := blocksElems_getD (hFmt h) (hVecLanes h v / 48) bytes hk48
  obtain ⟨helem, hflag⟩ := blockElems_getElem (f := hFmt h) ((bytes.drop (64 * (k / 48))).take 64) (Nat.mod_lt k (by decide))
  have hlen := length_blocksElems (hFmt h) (hVecLanes h v / 48) bytes
  have hpop : (popLanes h v bytes).1.getD k none = (blocksElems (hFmt h) (hVecLanes h v / 48) bytes).1[k]? := by
    rw [popLanes_of_block hblock hb]
    dsimp only
    rw [List.getD_append _ _ _ _ (by rw [List.length_map]; omega), List.getD_eq_getElem?_getD, List.getElem?_map]
    cases (blocksElems (hFmt h) (hVecLanes h v / 48) bytes).1[k]? <;> rfl
  have hdrop : ((bytes.drop (64 * (k / 48))).take 64).drop 2 = (bytes.drop (64 * (k / 48) + 2)).take 62 := by
    rw [List.drop_take, List.drop_drop]
  have hzero : blockZero (hFmt h) = if hFmt h = 0x8D then 0x20 else 0 := by
    revert hf
    generalize hFmt h = f
    revert f
    decide
  rw [hpop, hget, helem]
  rw [getD_take_drop _ _ (by decide), Nat.add_zero] at hflag ⊢
  rw [getD_take_drop _ _ (by decide), hdrop, hzero]
  by_cases hhead : (bytes.getD (64 * (k / 48)) 0).toNat = hFmt h
  · rw [if_pos hhead, if_pos hhead]
  · rw [if_neg hhead, if_neg hhead]
    refine ⟨rfl, ?_⟩
    rw [popLanes_of_block hblock hb]
    exact hbad (hflag.mpr hhead)

/-! ### The step -/

/-- VQUANT's control: a fixed scale or none (Table 15-5). -/
def quantScale (x : Word) : Option Int := if x.getLsbD 8 then some (x.extractLsb' 0 8).toInt else none

theorem quantScale_eq (x : Word) : (if bitOf x.toNat 8 then some (toSInt 8 (x.toNat % 256)) else none) = quantScale x := by
  have hbit : bitOf x.toNat 8 = x.getLsbD 8 := by
    unfold bitOf BitVec.getLsbD
    rw [Nat.testBit_eq_decide_div_mod_eq, Bool.beq_eq_decide_eq]
  have hval : toSInt 8 (x.toNat % 256) = (x.extractLsb' 0 8).toInt := by
    rw [← toSInt_8_toNat, BitVec.extractLsb'_toNat, Nat.shiftRight_zero]
  unfold quantScale
  rw [hbit, hval]

theorem foldl_pairs {α β : Type} (g : α → List β × BitVec 8) (l : List α) : ∀ acc : List β × BitVec 8,
    (l.foldl (fun acc b => (acc.1 ++ (g b).1, acc.2 ||| (g b).2)) acc).1 = acc.1 ++ l.flatMap fun b => (g b).1 := by
  induction l with
  | nil => exact fun acc => (List.append_nil _).symm
  | cons b l ih =>
    intro acc
    rw [List.foldl_cons, ih, List.flatMap_cons, List.append_assoc]

/-- What one block adds to a vector of VQUANT (R236). -/
def quantPart (fd fs : Nat) (fixed : Option Int) (els : List (Option Lane)) (b : Nat) : List (Byte × Nat) × BitVec 8 :=
  let q := quantBlock fd fixed (((els.drop (48 * b)).take 48).map fun o => elemVal fs (o.getD (0, 0)).1)
  (q.1.map fun x => (x, 3), q.2)

theorem quantVec_eq (fd fs : Nat) (fixed : Option Int) (els : List (Option Lane)) : quantVec fd fs fixed els =
    (upFrom 0 (els.length / 48)).foldl
      (fun acc b => (acc.1 ++ (quantPart fd fs fixed els b).1, acc.2 ||| (quantPart fd fs fixed els b).2)) ([], 0) := rfl

theorem quantVec_fst (fd fs : Nat) (fixed : Option Int) (els : List (Option Lane)) :
    (quantVec fd fs fixed els).1 = (List.range (els.length / 48)).flatMap fun b =>
      (quantBlock fd fixed (((els.drop (48 * b)).take 48).map fun o => elemVal fs (o.getD (0, 0)).1)).1.map fun x => (x, 3) := by
  rw [quantVec_eq, upFrom_zero, foldl_pairs]
  rfl

theorem fmtLanes_pos (f : Nat) : 0 < fmtLanes f := by
  unfold fmtLanes
  split
  · decide
  · have h := fmtStore_mem f
    simp only [List.mem_cons, List.not_mem_nil, or_false] at h
    rcases h with h | h | h | h | h <;> rw [h] <;> decide

theorem hExt_le_of_hRunVecs {h : HRec} (h1 : hRunVecs h = 1) : hExt h 0 ≤ fmtLanes (hFmt h) := by
  have hpos := fmtLanes_pos (hFmt h)
  unfold hRunVecs ceilDiv at h1
  by_contra hlt
  have := Nat.div_le_div_right (c := fmtLanes (hFmt h)) (show 2 * fmtLanes (hFmt h) ≤ hExt h 0 + fmtLanes (hFmt h) - 1 by omega)
  rw [Nat.mul_div_cancel _ hpos, h1] at this
  omega

theorem vecsEnding_single {hs hd : HRec} (h1 : hRunVecs hs = 1) (hd1 : hRunVecs hd = 1) (hext : hExt hs 0 = hExt hd 0) :
    vecsEnding hs hd 0 = [0] := by
  have hpos := fmtLanes_pos (hFmt hs)
  have hle := hExt_le_of_hRunVecs h1
  have hzero : (vecEnd hd 0 - 1) / fmtLanes (hFmt hs) = 0 := by
    refine Nat.div_eq_of_lt ?_
    unfold vecEnd
    omega
  unfold vecsEnding
  rw [hd1, upFrom_zero]
  simp [hzero]

/-- The step of VQUANT or VDEQUANT on runs of one vector. -/
theorem blockTake_single {a d : Nat} {vec : List (Option Lane) → List (Byte × Nat) × BitVec 8} {r u : Run} {bytes : List Byte}
    {y : List (Byte × Nat) × BitVec 8} (hda : d ≠ a) (h1 : hRunVecs (r.s.portRec a) = 1) (hd1 : hRunVecs (r.s.portRec d) = 1)
    (hext : hExt (r.s.portRec a) 0 = hExt (r.s.portRec d) 0) (hi : r.w.st.i = 0) (hbuf : r.w.st.buf = []) (hu : u = blockTake a d vec r [bytes])
    (hy : y = vec ((popLanes (r.s.portRec a) (r.idx a) bytes).1.take (hExt (r.s.portRec d) 0))) :
    u.s = r.s ∧ y.2 &&& u.w.flags = y.2
      ∧ ∃ t, u.w.outs = (r.out t d (hSpace (r.s.portRec d)) (hVecAddr (r.s.portRec d) (r.idx d)) y.1).w.outs := by
  obtain ⟨ix, htake, hix⟩ := r.takeLanes_single a bytes
  obtain ⟨r1, hr1⟩ : ∃ r1, r1 = r.advanced (r.w.flags ||| r.popFlags [a] fun _ => bytes) ix := ⟨_, rfl⟩
  have hs1 : r1.s = r.s := by rw [hr1]; rfl
  have hid : r1.idx d = r.idx d := by rw [hr1]; exact hix d hda
  have ho1 : r1.w.outs = r.w.outs := by rw [hr1]; rfl
  have hg1 : r1.w.gap = r.w.gap := by rw [hr1]; rfl
  have hle := hExt_le_of_hRunVecs hd1
  have hlanes (l : List (Option Lane)) : (runSlice l (fmtLanes (hFmt (r.s.portRec d)) * 0) (vecEnd (r.s.portRec d) 0)).take
      (hVecLanes (r.s.portRec d) (r.idx d)) = l.take (hExt (r.s.portRec d) 0) := by
    have hvec : hVecLanes (r.s.portRec d) (r.idx d) = hExt (r.s.portRec d) 0 := by
      unfold hVecLanes
      rw [hd1, Nat.mod_one, Nat.zero_mul, Nat.sub_zero]
      exact min_eq_right hle
    have hend : vecEnd (r.s.portRec d) 0 = hExt (r.s.portRec d) 0 := by
      unfold vecEnd
      omega
    unfold runSlice
    rw [Nat.mul_zero, List.drop_zero, Nat.sub_zero, hvec, hend, List.take_take, min_self]
  subst hu
  unfold blockTake
  dsimp only
  rw [hi, hbuf, vecsEnding_single h1 hd1 hext, htake, ← hr1, if_neg (by omega)]
  dsimp only
  unfold joinLanes
  rw [List.map_singleton, lanesOf_single, List.foldl_cons, List.foldl_nil, hid, hlanes,
    show lanesOf [] a = [] from rfl, List.nil_append, lanesOf_single, ← hy]
  refine ⟨by simp [hs1], ?_, ?_⟩
  · simp only [Run.pushesNext_flags, Run.goOn_flags, Run.ite_accepts_flags, Run.push_flags]
    exact and_or_right _ _
  · simp only [Run.pushesNext_outs, Run.goOn_outs, Run.ite_accepts_outs]
    exact ⟨_, Run.push_outs_congr _ _ _ ho1 hg1 hs1 hid⟩

theorem VForm.take_block {f : VForm} {d a : Nat} (hk : f.kind = .quant ∨ f.kind = .dequant) (hd : f.dst = [d]) (ha : f.src = [a]) (r : Run)
    (got : List (List Byte)) : f.take r got = blockTake a d (if f.kind = .dequant then dequantVec (hFmt (r.s.portRec d)) (hFmt (r.s.portRec a))
      else quantVec (hFmt (r.s.portRec d)) (hFmt (r.s.portRec a)) (quantScale (r.w.word.xv 3))) r got := by
  rw [← quantScale_eq]
  unfold VForm.take
  rcases hk with hk | hk
  · rw [hk, hd, ha, if_neg (by decide)]
    rfl
  · rw [hk, hd, ha, if_pos rfl]
    rfl

end Sys2Proof.Machine
end

section
/-! PROOFS. The vector words on whole runs, and fills: the clauses of the statement put together (R236 to R246). -/

namespace Sys2Proof.Machine

/-- Settles O41: each word's result is computed exactly on the lanes that its pops delivered, and its step pushes that result. -/
theorem vectorEntryEffects : Obligations.VectorEntryEffects := by
  unfold Obligations.VectorEntryEffects
  refine ⟨?floatReductions, ?intReductions, ?scans, ?pushes, ?red, ?redx, ?scan, ?topK, ?topk, ?perm, ?fills, ?uniform, ?extr,
    ?blocks, ?narrow, ?ints, ?dequant, ?elements, ?blockPops, ?blockSteps⟩
  case floatReductions =>
    intro k fs fd g l vs c _ hfd hg hvs hc
    obtain ⟨hnone, hrest⟩ := floatReduction hfd hg hvs hc
    refine ⟨fun h => (hnone h).trans ?_, hrest⟩
    cases k <;> rfl
  case intReductions =>
    intro k fs fd l xs c x lo hi hfs hfd hlo hhi hxs hc hx
    have hsub : ∀ {f : Nat}, f ∈ [0x04, 0x05, 0x06, 0x07, 0x0F] → f ∈ intCodes := by decide
    refine intReduction (hsub hfs) (hsub hfd) hlo hhi hxs hc ?_
    cases k <;> exact hx
  case scans =>
    rintro k fd fs r l y rfl
    exact scanLanes_spec k fd fs l r
  case pushes =>
    intro h v vals a hi x hb _
    rw [nibIn_pushBytes hb]
    simp only [zero_add]
  case red =>
    intro f k d a r u bytes hs hd acc c res hk hfd hfa hda hhs hhd hu hacc hc hres
    subst hhs hhd
    rw [VForm.take_red hk hfd hfa] at hu
    rcases Nat.lt_or_ge (r.w.st.i + 1) (hRunVecs (r.s.portRec a)) with hi | hi
    · obtain ⟨hst, hin⟩ := redTake_inside hu hacc hi
      exact ⟨f.want_single hfa r, hst, fun _ => hin, fun h => absurd hi (not_lt.mpr h)⟩
    · obtain ⟨hst, hlast⟩ := redTake_last hda hu hacc hc hres hi
      exact ⟨f.want_single hfa r, hst, fun h => absurd h (not_lt.mpr hi), fun _ => hlast⟩
  case redx =>
    intro f k a r u bytes hs acc c hk hfa hhs hu hacc hc
    subst hhs
    rw [VForm.take_redx hk hfa] at hu
    exact ⟨f.want_single hfa r, redxTake_spec hu hacc hc⟩
  case scan =>
    intro f k d a r u bytes hs hd y hk hfd hfa hda hhs hhd hu hy
    subst hhs hhd
    rw [VForm.take_scan hk hfd hfa] at hu
    exact ⟨f.want_single hfa r, scanTake_spec hda hu hy⟩
  case topK =>
    rintro g k els y before hg hk hy rfl
    exact topK_spec hg hk hy
  case topk =>
    intro f d b a g r u bytes hs hd hb y hk hfd hfa hda hba hdb hhs hhd hhb hg hnd hnb hu hy
    subst hhs hhd hhb
    rw [VForm.take_topk hk hfd hfa hg] at hu
    rcases Nat.lt_or_ge (r.w.st.i + 1) (hRunVecs (r.s.portRec a)) with hi | hi
    · obtain ⟨hst, hin⟩ := topTake_inside hu hi
      exact ⟨f.want_single hfa r, hst, fun _ => hin, fun h => absurd hi (not_lt.mpr h)⟩
    · obtain ⟨hst, hlast⟩ := topTake_last hu hda hba hdb hnd hnb hy hi
      exact ⟨f.want_single hfa r, hst, fun h => absurd h (not_lt.mpr hi), fun _ => hlast⟩
  case perm =>
    intro f a b r u bytes hd w lane res hk hfs hhd hdst hw hall hi hbuf houts hshape hu hlane hres
    subst hw hlane hres
    exact ⟨rfl, permStep hk hfs hhd hdst (fun q hq => (hall q (List.mem_cons_of_mem _ hq)).1)
      (fun q hq => (hall q (List.mem_cons_of_mem _ hq)).2) hi hbuf houts hshape hu⟩
  case fills =>
    intro f d r u hd w val hfd hhd hw hval _ hb houts hu
    subst hhd
    rw [VForm.take_fill hfd hval] at hu
    exact fillTake_spec rfl hw hb houts hu
  case uniform => exact fun n hn => fF32_encode_24 hn
  case extr =>
    intro f a r u bytes hs o v hk hfa hhs hu ho hv
    subst hhs
    obtain ⟨hst, hout, hx⟩ := extrTake_spec hk hfa hu ho
    refine ⟨f.want_single hfa r, hst, hout, hx.trans ?_⟩
    rw [hv]
    cases o <;> rfl
  case blocks => exact fun f fixed l q w top hf hlen hq hw htop => quantBlock_spec hf hlen hq hw htop
  case narrow =>
    intro f g v c hf hg hv hc
    obtain ⟨⟨hfin, hnear⟩, hnx⟩ := elemCode_narrow hf hg hv hc
    exact ⟨hfin, hnear, hnx⟩
  case ints =>
    intro f v c hf hv hc
    have hsub : ∀ f ∈ [0x06, 0x07, 0x08], f ∈ intCodes := by decide
    have hfi := hsub f hf
    obtain ⟨n, ⟨hle, heven⟩, hval, hsat, hnx⟩ := elemCode_int_fin hfi hv hc
    rw [intRange_eq hfi] at hval
    exact ⟨n, hle, heven, hval, hsat, hnx⟩
  case dequant => exact fun fd fs g els a hi v _ hg => dequantVec_spec hg els
  case elements => exact fun f b s hf hfin => elemVal_block hf b s hfin
  case blockPops =>
    rintro h v k w bytes hf hb hv hk rfl
    exact popLanes_block_getD hf hb hv hk bytes
  case blockSteps =>
    intro f d a r u bytes hs hd els y hk hfd hfa hda hhs hhd h1 hd1 hext hi hbuf hu hels hy
    subst hhs hhd hels
    rw [VForm.take_block hk hfd hfa] at hu
    refine ⟨f.want_single hfa r, ?_⟩
    obtain ⟨hst, hfl, hout⟩ := blockTake_single hda h1 hd1 hext hi hbuf hu (y := y) (hy.trans (by split <;> rfl))
    refine ⟨hst, hfl, fun hq => ?_, hout⟩
    rw [hy, if_neg (by rw [hq]; decide), quantVec_fst]

end Sys2Proof.Machine
end

section
/-! PROOFS. K-steps: when chunks are popped and added up, and the arithmetic of each kind of pair (R38 to R40, R195, R196, R198). -/

namespace Sys2Proof.Machine

/-! ### When chunks are taken (R198) -/

theorem chunkTimes_spec (R T n : Nat) : ∀ (j p e1 e2 : Nat), ∃ x, chunkTimes R T n j p e1 e2 = x ∧ x.1.length = n
    ∧ (∀ i, i < n → (x.1.getD i (0, 0, 0)).1 = j + i)
    ∧ (0 < n → (x.1.getD 0 (0, 0, 0)).2.1 = (if j = 0 then p else max (p + R) e2)
        ∧ (x.1.getD 0 (0, 0, 0)).2.2 = max ((x.1.getD 0 (0, 0, 0)).2.1 + R) e1)
    ∧ (∀ i, 0 < i → i < n →
        (x.1.getD i (0, 0, 0)).2.1 = max ((x.1.getD (i - 1) (0, 0, 0)).2.1 + R)
            (if i = 1 then e1 else (x.1.getD (i - 2) (0, 0, 0)).2.2 + T)
          ∧ (x.1.getD i (0, 0, 0)).2.2 = max ((x.1.getD i (0, 0, 0)).2.1 + R) ((x.1.getD (i - 1) (0, 0, 0)).2.2 + T))
    ∧ x.2 = if n = 0 then e1 else (x.1.getD (n - 1) (0, 0, 0)).2.2 + T := by
  induction n with
  | zero => exact fun j p e1 e2 => ⟨_, rfl, rfl, nofun, nofun, nofun, rfl⟩
  | succ n ih =>
    intro j p e1 e2
    obtain ⟨p', hp⟩ : ∃ p', p' = if j = 0 then p else max (p + R) e2 := ⟨_, rfl⟩
    obtain ⟨c', hc⟩ : ∃ c', c' = max (p' + R) e1 := ⟨_, rfl⟩
    obtain ⟨x, hx, hlen, hnum, hfirst, hnext, hend⟩ := ih (j + 1) p' (c' + T) e1
    have heq : chunkTimes R T (n + 1) j p e1 e2 = ((j, p', c') :: x.1, x.2) := by
      rw [chunkTimes, ← hp, ← hc, hx]
    refine ⟨_, heq, congrArg (· + 1) hlen, fun i hi => ?_, fun _ => ⟨hp, hc⟩, fun i h0 hi => ?_, ?_⟩
    · cases i with
      | zero => rfl
      | succ i =>
        rw [List.getD_cons_succ, hnum i (by omega)]
        omega
    · cases i with
      | zero => exact absurd h0 (Nat.lt_irrefl 0)
      | succ i =>
        rw [List.getD_cons_succ, Nat.add_sub_cancel]
        cases i with
        | zero =>
          obtain ⟨hp1, hc1⟩ := hfirst (by omega)
          rw [if_neg (by omega)] at hp1
          exact ⟨hp1, hc1⟩
        | succ i =>
          obtain ⟨hp1, hc1⟩ := hnext (i + 1) (by omega) (by omega)
          rw [Nat.add_sub_cancel] at hp1 hc1
          rw [List.getD_cons_succ, if_neg (by omega)]
          refine ⟨?_, hc1⟩
          cases i with
          | zero => exact hp1
          | succ i =>
            rw [if_neg (by omega)] at hp1
            exact hp1
    · rw [if_neg (by omega), Nat.add_sub_cancel, hend]
      cases n with
      | zero => rfl
      | succ n =>
        rw [if_neg (by omega), List.getD_cons_succ, Nat.add_sub_cancel]

/-! ### Integer K-steps (R39) -/

theorem Num.mul_ofInt (x y : Int) : ((Num.ofInt x).mul (Num.ofInt y)).1 = .fin (decide (x < 0) != decide (y < 0)) (x.natAbs * y.natAbs) 0 := rfl

theorem foldl_add_units {α : Type} (q : α → Num) (i : α → Int) (l : List α) (hq : ∀ x ∈ l, ∃ n m, q x = .fin n m 0 ∧ signed n m = i x) :
    ∀ (n : Bool) (m : Nat), ∃ n' m', l.foldl (fun (acc : Num) x => (acc.add (q x)).1) (.fin n m 0) = .fin n' m' 0
      ∧ signed n' m' = signed n m + (l.map i).sum := by
  induction l with
  | nil => exact fun n m => ⟨n, m, rfl, by simp⟩
  | cons x l ih =>
    intro n m
    obtain ⟨nx, mx, hqx, hix⟩ := hq x List.mem_cons_self
    obtain ⟨n1, m1, hadd, hs1⟩ := Num.add_units n nx m mx
    obtain ⟨n2, m2, hfold, hs2⟩ := ih (fun y hy => hq y (List.mem_cons_of_mem _ hy)) n1 m1
    refine ⟨n2, m2, ?_, ?_⟩
    · rw [List.foldl_cons, hqx, hadd, hfold]
    · rw [hs2, hs1, hix, List.map_cons, List.sum_cons, add_assoc]

theorem intSum_of_int {fa fb : Nat} (ha : fa ∈ intCodes) (hb : fb ∈ intCodes) {l : List (Lane × Lane)} (hl : ∀ x ∈ l, x.1.2 = 0 ∧ x.2.2 = 0) :
    intSum fa fb l = some (l.map fun x => intVal fa x.1.1 * intVal fb x.2.1).sum := by
  have hprod : ∀ x ∈ l, ∃ n m, ((elemVal fa x.1.1 x.1.2).mul (elemVal fb x.2.1 x.2.2)).1 = .fin n m 0
      ∧ signed n m = intVal fa x.1.1 * intVal fb x.2.1 := fun x hx => by
    obtain ⟨h1, h2⟩ := hl x hx
    rw [h1, h2, elemVal_of_int ha, elemVal_of_int hb, Num.mul_ofInt]
    exact ⟨_, _, rfl, by rw [signed_mul, signed_decide_neg, signed_decide_neg]⟩
  obtain ⟨n, m, hfold, hs⟩ := foldl_add_units (fun x => ((elemVal fa x.1.1 x.1.2).mul (elemVal fb x.2.1 x.2.2)).1)
    (fun x => intVal fa x.1.1 * intVal fb x.2.1) l hprod false 0
  unfold intSum
  dsimp only
  rw [show Num.zero = .fin false 0 0 from rfl, hfold]
  simp only [le_refl, if_true, Int.toNat_zero, pow_zero, Nat.mul_one]
  rw [hs, show signed false 0 = 0 from rfl, zero_add]

/-! ### Floating K-steps (R38) -/

/-- The second operand of a product: a weight of a weight-only pair as BF16 (R196). -/
def kOperand (k : PairKind) (fb : Nat) (x : Lane) : Num × BitVec 8 := match k with | .wgt => weightNum fb x | _ => (opNum fb x, 0)

/-- The product of two lanes and whether it is invalid. -/
def kProd (k : PairKind) (fa fb : Nat) (x : Lane × Lane) : Num × Bool := (opNum fa x.1).mul (kOperand k fb x.2).1

theorem foldl_kPush (k : PairKind) (fa fb : Nat) (l : List (Lane × Lane)) : ∀ acc : KAcc,
    l.foldl (fun (acc : KAcc) (x : Lane × Lane) => acc.push (opNum fa x.1) (kOperand k fb x.2).1 (kOperand k fb x.2).2) acc
      = { acc := (l.map fun x => (kProd k fa fb x).1).foldl (RedAcc.push .add) acc.acc
          bad := acc.bad || l.any fun x => (kProd k fa fb x).2
          flags := l.foldl (fun f x => f ||| (kOperand k fb x.2).2) acc.flags } := by
  induction l with
  | nil => exact fun acc => by simp
  | cons x l ih =>
    intro acc
    rw [List.foldl_cons, ih, List.any_cons, ← Bool.or_assoc]
    rfl

/-- What a floating K-step joins to the element. -/
def kSum (k : PairKind) (fa fb : Nat) (l : List (Lane × Lane)) : Num × Bool :=
  if (l.any fun x => (kProd k fa fb x).2) = true then (.nan, true)
  else ((l.map fun x => (kProd k fa fb x).1).foldl (RedAcc.push .add) {}).result .add

theorem kstepFlt_eq (k : PairKind) (fa fb old : Nat) (l : List (Lane × Lane)) : kstepFlt k fa fb old l =
    ((joinF32 old (kSum k fa fb l)).1, (joinF32 old (kSum k fa fb l)).2 ||| l.foldl (fun f x => f ||| (kOperand k fb x.2).2) 0) := by
  have hfold := foldl_kPush k fa fb l {}
  have hmodel : kstepFlt k fa fb old l =
      (let s := l.foldl (fun (acc : KAcc) (x : Lane × Lane) => acc.push (opNum fa x.1) (kOperand k fb x.2).1 (kOperand k fb x.2).2) {}
       ((joinF32 old (if s.bad then (.nan, true) else s.acc.result .add)).1,
        (joinF32 old (if s.bad then (.nan, true) else s.acc.result .add)).2 ||| s.flags)) := rfl
  rw [hmodel, hfold]
  simp only [Bool.false_or]
  rfl

theorem foldl_or_zero {α : Type} (f : α → BitVec 8) (l : List α) (hl : ∀ x ∈ l, f x = 0) : l.foldl (fun g x => g ||| f x) 0 = 0 := by
  induction l with
  | nil => rfl
  | cons x l ih =>
    rw [List.foldl_cons, hl x List.mem_cons_self]
    exact ih fun y hy => hl y (List.mem_cons_of_mem _ hy)

theorem kstepFlt_of_flt (fa fb old : Nat) (l : List (Lane × Lane)) : kstepFlt .flt fa fb old l = joinF32 old (kSum .flt fa fb l) := by
  rw [kstepFlt_eq, foldl_or_zero (fun x : Lane × Lane => (kOperand .flt fb x.2).2) l fun x _ => rfl]
  exact Prod.ext rfl BitVec.or_zero

theorem kSum_of_finite {k : PairKind} {fa fb : Nat} {l : List (Lane × Lane)}
    (hl : ∀ x ∈ l, (opNum fa x.1).isFin = true ∧ (kOperand k fb x.2).1.isFin = true) :
    ∃ v : Num, v.isFin = true ∧ v.rat = (l.map fun x => (opNum fa x.1).rat * (kOperand k fb x.2).1.rat).sum ∧ kSum k fa fb l = (v, false) := by
  have hprod : ∀ x ∈ l, (kProd k fa fb x).2 = false ∧ (kProd k fa fb x).1.isFin = true
      ∧ (kProd k fa fb x).1.rat = (opNum fa x.1).rat * (kOperand k fb x.2).1.rat := fun x hx =>
    Num.mul_fin (hl x hx).1 (hl x hx).2
  have hbad : ¬ (l.any fun x => (kProd k fa fb x).2) = true := by
    rw [List.any_eq_true]
    rintro ⟨x, hx, h⟩
    rw [(hprod x hx).1] at h
    cases h
  have hfin : ∀ v ∈ l.map fun x => (kProd k fa fb x).1, v.isFin = true := fun v hv => by
    obtain ⟨x, hx, rfl⟩ := List.mem_map.mp hv
    exact (hprod x hx).2.1
  obtain ⟨hval, hf, hrat⟩ := RedAcc.result_of_sum (k := .add) rfl rfl hfin
  refine ⟨_, hf, ?_, ?_⟩
  · rw [hrat, List.map_map]
    exact congrArg List.sum (List.map_congr_left fun x hx => (hprod x hx).2.2)
  · unfold kSum
    rw [if_neg hbad]
    exact Prod.ext rfl hval

theorem kSum_of_invalid {k : PairKind} {fa fb : Nat} {l : List (Lane × Lane)}
    (h : (∃ x ∈ l, (kProd k fa fb x).2 = true) ∨ ((∃ x ∈ l, (kProd k fa fb x).1 = .inf false) ∧ ∃ x ∈ l, (kProd k fa fb x).1 = .inf true)) :
    kSum k fa fb l = (.nan, true) := by
  unfold kSum
  split
  case isTrue => rfl
  case isFalse hbad =>
    rcases h with h | ⟨⟨x, hx, hp⟩, y, hy, hm⟩
    · exact absurd (List.any_eq_true.mpr h) hbad
    · exact RedAcc.result_of_both_inf rfl rfl (List.mem_map.mpr ⟨x, hx, hp⟩) (List.mem_map.mpr ⟨y, hy, hm⟩)

section
variable {k : PairKind} {fa fb : Nat} {l : List (Lane × Lane)} (hok : ∀ x ∈ l, (kProd k fa fb x).2 = false)
  (hinf : ∀ n, ¬ ((∃ x ∈ l, (kProd k fa fb x).1 = .inf n) ∧ ∃ x ∈ l, (kProd k fa fb x).1 = .inf !n))
include hok hinf

theorem kSum_of_nan (h : ∃ x ∈ l, (kProd k fa fb x).1 = .nan) : kSum k fa fb l = (.nan, false) := by
  have hbad : ¬ (l.any fun x => (kProd k fa fb x).2) = true := by simpa using hok
  unfold kSum
  rw [if_neg hbad]
  refine RedAcc.result_of_nan rfl (List.mem_map.mpr h) fun _ n h1 h2 => hinf n ⟨List.mem_map.mp h1, List.mem_map.mp h2⟩

theorem kSum_of_inf {n : Bool} (hnan : ∀ x ∈ l, (kProd k fa fb x).1 ≠ .nan) (h : ∃ x ∈ l, (kProd k fa fb x).1 = .inf n) :
    kSum k fa fb l = (.inf n, false) := by
  have hbad : ¬ (l.any fun x => (kProd k fa fb x).2) = true := by simpa using hok
  unfold kSum
  rw [if_neg hbad]
  refine RedAcc.result_of_inf rfl rfl (fun hm => ?_) (List.mem_map.mpr h) fun hno => hinf n ⟨h, List.mem_map.mp hno⟩
  obtain ⟨x, hx, hxn⟩ := List.mem_map.mp hm
  exact hnan x hx hxn

end

theorem Num.mul_inf (n m : Bool) (k : Nat) (e : Int) :
    (Num.inf n).mul (.fin m k e) = (if k = 0 then (.nan, true) else (.inf (n != m), false))
      ∧ (Num.fin m k e).mul (.inf n) = if k = 0 then (.nan, true) else (.inf (n != m), false) := by
  refine ⟨rfl, ?_⟩
  unfold Num.mul
  cases n <;> cases m <;> rfl

/-! ### Weights (R196) -/

theorem tinyNum_fin (n : Bool) (m : Nat) (e : Int) : tinyNum (.fin n m e) = true ↔ m ≠ 0 ∧ |(Num.fin n m e).rat| * 2 ^ 126 < 1 := by
  have hone : (Num.fin false 1 (-126)).rat = 1 / 2 ^ 126 := by
    rw [Num.rat_fin_eq_ite, if_neg (by simp), Nat.cast_one, one_mul, zpow_neg, one_div]
    norm_cast
  unfold tinyNum
  rw [Bool.and_eq_true, decide_eq_true_iff, cmpFin_neg_iff, hone, lt_div_iff₀ (by positivity), Num.abs_rat_fin, Num.rat_fin_eq_ite,
    if_neg (by simp)]
  simp

theorem weightNum_of_fin {f : Nat} {x : Lane} {n : Bool} {m : Nat} {e : Int} (h : elemVal f x.1 x.2 = .fin n m e) :
    weightNum f x = if decide (0 < cmpFin false m e false fBF16.maxMag.1 fBF16.maxMag.2) then (.fin n fBF16.maxMag.1 fBF16.maxMag.2, flagCLAMP)
      else if tinyNum (.fin n m e) then (.zero, 0) else (.fin n m e, 0) := by
  unfold weightNum
  rw [h]

theorem weightNum_spec {f : Nat} {x : Lane} {n : Bool} {m : Nat} {e : Int} {v : Num} {top : ℚ} (hv : v = .fin n m e)
    (h : elemVal f x.1 x.2 = v) (htop : top = (fBF16.decode fBF16.maxCode).rat) :
    (top < |v.rat| → (weightNum f x).2 = flagCLAMP ∧ (weightNum f x).1.rat = if n then -top else top)
      ∧ (|v.rat| ≤ top → (weightNum f x).2 = 0 ∧ (weightNum f x).1.rat = if |v.rat| * 2 ^ 126 < 1 then 0 else v.rat) := by
  subst hv
  have hg : fBF16 ∈ floatFmts := by decide
  have hmag : (Num.fin false fBF16.maxMag.1 fBF16.maxMag.2).rat = top := by rw [htop, FFmt.maxMag_rat hg, FFmt.maxCode_rat hg]
  have hcmp : 0 < cmpFin false m e false fBF16.maxMag.1 fBF16.maxMag.2 ↔ top < |(Num.fin n m e).rat| := by
    rw [cmpFin_pos_iff, hmag, Num.abs_rat_fin, Num.rat_fin_eq_ite, if_neg (by simp)]
  rw [weightNum_of_fin h]
  simp only [hcmp, decide_eq_true_iff]
  refine ⟨fun hlt => ?_, fun hle => ?_⟩
  · rw [if_pos hlt]
    refine ⟨rfl, ?_⟩
    rw [← hmag, Num.rat_fin_eq_ite, Num.rat_fin_eq_ite, if_neg (show ¬ false = true by simp)]
  · rw [if_neg (not_lt.mpr hle)]
    by_cases hm : m = 0
    · have hzero : (Num.fin n m e).rat = 0 := Num.rat_fin_eq_zero_iff.mpr hm
      have htiny : tinyNum (.fin n m e) = false := by
        rw [Bool.eq_false_iff, Ne, tinyNum_fin]
        exact fun h => h.1 hm
      simp [htiny, hzero]
    · by_cases ht : |(Num.fin n m e).rat| * 2 ^ 126 < 1
      · rw [if_pos ((tinyNum_fin n m e).mpr ⟨hm, ht⟩), if_pos ht]
        exact ⟨rfl, Num.rat_zero⟩
      · have htiny : tinyNum (.fin n m e) = false := by
          rw [Bool.eq_false_iff, Ne, tinyNum_fin]
          exact fun h => ht h.2
        rw [htiny, if_neg ht]
        exact ⟨rfl, rfl⟩

theorem weightNum_flags (f : Nat) (x : Lane) : (weightNum f x).2 = 0 ∨ (weightNum f x).2 = flagCLAMP := by
  unfold weightNum
  dsimp only
  split
  · split
    · exact .inr rfl
    · split <;> exact .inl rfl
  · exact .inl rfl

theorem foldl_or_flag {α : Type} (f : α → BitVec 8) (c : BitVec 8) (l : List α) (hl : ∀ x ∈ l, f x = 0 ∨ f x = c) :
    l.foldl (fun g x => g ||| f x) 0 = if ∃ x ∈ l, f x ≠ 0 then c else 0 := by
  by_cases h : ∃ x ∈ l, f x ≠ 0
  · rw [if_pos h]
    obtain ⟨x, hx, hne⟩ := h
    have hle : ∀ (l : List α), (∀ x ∈ l, f x = 0 ∨ f x = c) → ∀ a : BitVec 8, a = 0 ∨ a = c → l.foldl (fun g x => g ||| f x) a = 0
        ∨ l.foldl (fun g x => g ||| f x) a = c := by
      intro l hl
      induction l with
      | nil => exact fun a ha => ha
      | cons y l ih =>
        intro a ha
        refine ih (fun z hz => hl z (List.mem_cons_of_mem _ hz)) _ ?_
        rcases ha with rfl | rfl <;> rcases hl y List.mem_cons_self with h | h <;> simp [h]
    have hin := and_foldl_or f hx (0 : BitVec 8)
    rcases hle l hl 0 (.inl rfl) with h0 | hc
    · rw [h0] at hin
      exact absurd (hin.symm.trans BitVec.and_zero) hne
    · exact hc
  · rw [if_neg h]
    exact foldl_or_zero f l fun x hx => not_not.mp fun hne => h ⟨x, hx, hne⟩

/-! ### The two roundings of R38 -/

theorem fF32_mem : fF32 ∈ floatFmts := by decide

/-- A code of FP32 is a subnormal when its value is not zero and below the smallest normal one. -/
theorem fF32_tiny_iff (b : Nat) : ((fF32.decode b).rat ≠ 0 ∧ |(fF32.decode b).rat| * 2 ^ 126 < 1) ↔ b / 2 ^ 23 % 256 = 0 ∧ b % 2 ^ 23 ≠ 0 := by
  have hdm : b % 2 ^ 31 / 2 ^ 23 = b / 2 ^ 23 % 256 := by omega
  have hmm : b % 2 ^ 31 % 2 ^ 23 = b % 2 ^ 23 := by omega
  by_cases hfin : b % 2 ^ 31 ≤ fF32.maxCode
  · have hval : |(fF32.decode b).rat| = fF32.magVal (b % 2 ^ 31) := FFmt.abs_rat_decode (g := fF32) hfin
    have hform : |(fF32.decode b).rat| = ((if b / 2 ^ 23 % 256 = 0 then b % 2 ^ 23 else b % 2 ^ 23 + 2 ^ 23 : Nat) : ℚ)
        * 2 ^ ((-149 : Int) + ((b / 2 ^ 23 % 256 - 1 : Nat) : Int)) := by
      rw [hval]
      unfold FFmt.magVal FFmt.sig FFmt.level
      rw [show fF32.prec - 1 = 23 from rfl, hdm, hmm]
      rfl
    rw [← abs_ne_zero, hform]
    generalize b / 2 ^ 23 % 256 = ef
    have hfr : b % 2 ^ 23 < 2 ^ 23 := Nat.mod_lt _ (by positivity)
    generalize b % 2 ^ 23 = fr at hfr
    have hp (k : Int) : (2 : ℚ) ^ k * 2 ^ 126 = 2 ^ (k + 126) := by rw [two_zpow_add]; norm_cast
    by_cases h0 : ef = 0
    · subst h0
      simp only [if_true, true_and, mul_ne_zero_iff, ne_eq, Nat.cast_eq_zero]
      have hlt : (fr : ℚ) * 2 ^ ((-149 : Int) + ((0 - 1 : Nat) : Int)) * 2 ^ 126 < 1 := by
        rw [mul_assoc, hp, show (-149 : Int) + ((0 - 1 : Nat) : Int) + 126 = -(23 : Nat) from rfl, zpow_neg, zpow_natCast, ← div_eq_mul_inv,
          div_lt_one (by positivity)]
        exact_mod_cast hfr
      exact ⟨fun h => h.1.1, fun h => ⟨⟨h, (two_zpow_pos _).ne'⟩, hlt⟩⟩
    · simp only [h0, if_false, false_and, iff_false, not_and, not_lt]
      intro _
      rw [mul_assoc, hp]
      have hsig : (2 : ℚ) ^ (23 : Int) ≤ ((fr + 2 ^ 23 : Nat) : ℚ) := by
        norm_cast
        omega
      calc (1 : ℚ) = 2 ^ (23 : Int) * 2 ^ (-(23 : Int)) := by rw [← two_zpow_add]; norm_num
        _ ≤ ((fr + 2 ^ 23 : Nat) : ℚ) * 2 ^ ((-149 : Int) + ((ef - 1 : Nat) : Int) + 126) :=
          mul_le_mul hsig (two_zpow_le_iff.mpr (by omega)) (two_zpow_pos _).le (Nat.cast_nonneg _)
  · have hnot : (fF32.decode b).isFin = false := by
      rw [Bool.eq_false_iff, Ne, FFmt.isFin_decode_iff]
      exact hfin
    have hbig : 0x7F7FFFFF < b % 2 ^ 31 := not_le.mp hfin
    refine iff_of_false (fun h => h.1 (rat_of_not_fin hnot)) fun h => ?_
    omega

theorem flags_flush (f : BitVec 8) : (f &&& ~~~flagUF) ||| flagUF ||| flagNX = f ||| flagUF ||| flagNX := by
  revert f
  unfold flagUF flagNX
  decide

/-- The matrix engine's flush, through values (R23, R38). -/
theorem flushF32_eq {x : Nat × BitVec 8} (hx : x.1 < 2 ^ 32) : flushF32 x = flushRow x := by
  unfold flushF32 flushRow
  dsimp only
  simp only [fF32_tiny_iff]
  split_ifs with h hlow
  · rw [flags_flush, Nat.div_eq_of_lt hlow, Nat.zero_mul]
  · rw [flags_flush, show x.1 / 2 ^ 31 = 1 by omega, Nat.one_mul]
  · rfl

end Sys2Proof.Machine
end

section
/-! PROOFS. K-steps join the element: the two roundings of R38, and LNS6 products in their units (R26, R40). -/

namespace Sys2Proof.Machine

/-! ### Joining an FP32 element (R38) -/

theorem fF32_signBit_lt (n : Bool) {c : Nat} (hc : c < 2 ^ 31) : fF32.signBit n + c < 2 ^ 32 := by
  cases n
  · change 0 + c < 2 ^ 32
    omega
  · change 2 ^ 31 + c < 2 ^ 32
    omega

theorem fF32_encode_lt (v : Num) : (fF32.encode .rne false v).1 < 2 ^ 32 := by
  cases v with
  | nan => decide
  | inf n => exact fF32_signBit_lt n (c := fF32.infCode) (by decide)
  | fin n m e =>
    obtain ⟨c, -, hin, hover⟩ := FFmt.encode_fin fF32_mem false n m e
    by_cases hc : c ≤ fF32.maxCode
    · obtain ⟨uf, henc⟩ := hin hc
      rw [henc]
      exact fF32_signBit_lt n (hc.trans_lt (FFmt.maxCode_lt fF32_mem))
    · rw [hover (not_le.mp hc)]
      exact fF32_signBit_lt n (c := fF32.infCode) (by decide)

theorem f32Round_eq (v : Num) (inv : Bool) :
    f32Round (v, inv) = ((fF32.encode .rne false v).1, (fF32.encode .rne false v).2 ||| if inv then flagNV else 0) := rfl

theorem f32Round_of_valid (v : Num) : f32Round (v, false) = fF32.encode .rne false v := by
  rw [f32Round_eq]
  exact Prod.ext rfl BitVec.or_zero

theorem joinF32_eq (old : Nat) (v : Num) (inv : Bool) : joinF32 old (v, inv) =
    ((flushF32 (f32Add old (flushF32 (f32Round (v, inv))).1)).1,
      (flushF32 (f32Round (v, inv))).2 ||| (flushF32 (f32Add old (flushF32 (f32Round (v, inv))).1)).2) := rfl

theorem flushF32_nan : flushF32 (f32Round (.nan, false)) = (fF32.nanCode, 0) := by decide

theorem flushF32_invalid : flushF32 (f32Round (.nan, true)) = (fF32.nanCode, flagNV) := by decide

theorem flushF32_inf (n : Bool) : flushF32 (f32Round (.inf n, false)) = fF32.encode .rne false (.inf n) := by cases n <;> decide

theorem Num.inf_add_fin (n : Bool) {v : Num} (hv : v.isFin = true) : (Num.inf n).add v = (.inf n, false) ∧ v.add (.inf n) = (.inf n, false) := by
  obtain ⟨k, m, e, rfl⟩ := Num.exists_fin_of_isFin hv
  exact ⟨rfl, rfl⟩

theorem Num.inf_add_self (n : Bool) : (Num.inf n).add (.inf n) = (.inf n, false) := by cases n <;> rfl

/-- A sum joins an element in two roundings, each flushed: the sum first, then the addition (R38). -/
theorem joinF32_spec {old : Nat} {v : Num} {inv : Bool} {c t : Nat × BitVec 8} (hc : c = fF32.encode .rne false v)
    (ht : t = flushRow (c.1, c.2 ||| if inv then flagNV else 0)) :
    ∃ a : Nat × BitVec 8, joinF32 old (v, inv) = (a.1, t.2 ||| a.2)
      ∧ ((fF32.decode old).isFin = true → (fF32.decode t.1).isFin = true →
          ∃ w : Num, w.isFin = true ∧ w.rat = (fF32.decode old).rat + (fF32.decode t.1).rat ∧ a = flushRow (fF32.encode .rne false w))
      ∧ ((fF32.decode old).isNan = true ∨ (fF32.decode t.1).isNan = true → a = (fF32.nanCode, 0))
      ∧ ∀ n, (fF32.decode old = .inf n → fF32.decode t.1 = .inf !n → a = (fF32.nanCode, flagNV))
          ∧ (fF32.decode old = .inf n → (fF32.decode t.1).isFin = true ∨ fF32.decode t.1 = .inf n → a = fF32.encode .rne false (.inf n))
          ∧ ((fF32.decode old).isFin = true → fF32.decode t.1 = .inf n → a = fF32.encode .rne false (.inf n)) := by
  have hround : f32Round (v, inv) = (c.1, c.2 ||| if inv then flagNV else 0) := by rw [f32Round_eq, hc]
  have ht' : flushF32 (f32Round (v, inv)) = t := by
    rw [hround, ht]
    exact flushF32_eq (hc ▸ fF32_encode_lt v)
  have hadd {x : Num × Bool} (h : (fF32.decode old).add (fF32.decode t.1) = x) : flushF32 (f32Add old t.1) = flushF32 (f32Round x) :=
    congrArg (fun y => flushF32 (f32Round y)) h
  refine ⟨flushF32 (f32Add old t.1), by rw [joinF32_eq, ht'], fun h1 h2 => ?_, fun h => ?_, fun n => ⟨fun h1 h2 => ?_, fun h1 h2 => ?_, fun h1 h2 => ?_⟩⟩
  · obtain ⟨hval, hfin, hrat⟩ := Num.add_fin h1 h2
    refine ⟨_, hfin, hrat, ?_⟩
    rw [hadd (x := (((fF32.decode old).add (fF32.decode t.1)).1, false)) (Prod.ext rfl hval), f32Round_of_valid]
    exact flushF32_eq (fF32_encode_lt _)
  · refine (hadd ?_).trans flushF32_nan
    rcases h with h | h <;> simp [Num.eq_nan_of_isNan h]
  · refine (hadd ?_).trans flushF32_invalid
    rw [h1, h2, Num.inf_add_inf_not]
  · refine (hadd ?_).trans (flushF32_inf n)
    rcases h2 with h2 | h2
    · rw [h1, (Num.inf_add_fin n h2).1]
    · rw [h1, h2, Num.inf_add_self]
  · refine (hadd ?_).trans (flushF32_inf n)
    rw [h2, (Num.inf_add_fin n h1).2]

/-! ### LNS6 K-steps (R26, R40) -/

theorem signed_lnsProd (x : Lane × Lane) : signed (lnsProd x).1 (lnsProd x).2.1 = lnsProduct x := by
  have hbit {c : Nat} (hc : c < 64) : bitOf c 5 = decide (c / 32 = 1) := by
    unfold bitOf
    have : c / 2 ^ 5 < 2 := by omega
    rw [Nat.mod_eq_of_lt this, Bool.beq_eq_decide_eq]
    rfl
  have ha := Nat.mod_lt x.1.1 (show 0 < 64 by decide)
  have hb := Nat.mod_lt x.2.1 (show 0 < 64 by decide)
  have htab (s : Nat) : lnsT s = [0x8000, 0x9838, 0xB505, 0xD745].getD (s % 4) 0 := by
    have hs : s % 4 = 0 ∨ s % 4 = 1 ∨ s % 4 = 2 ∨ s % 4 = 3 := by omega
    unfold lnsT
    rcases hs with h | h | h | h <;> rw [h] <;> rfl
  unfold lnsProd lnsProduct
  dsimp only
  rw [hbit ha, hbit hb, htab]
  generalize x.1.1 % 64 = a at *
  generalize x.2.1 % 64 = b at *
  by_cases h0 : a = 0x20 ∨ b = 0x20
  · rw [if_pos h0, if_pos h0]
    unfold signed
    split <;> rfl
  · rw [if_neg h0, if_neg h0]
    have ha2 : a / 32 = 0 ∨ a / 32 = 1 := by omega
    have hb2 : b / 32 = 0 ∨ b / 32 = 1 := by omega
    rcases ha2 with h1 | h1 <;> rcases hb2 with h2 | h2 <;> simp [h1, h2, signed]

/-- A product of LNS6 codes in the units of the greatest scales of a K-step: the product and whether it was rounded (R40). -/
def lnsTerm (top : Int) (x : Lane × Lane) : Int × Bool :=
  let d := top - (x.1.2 + x.2.2)
  if d ≤ 9 then (signed (lnsProd x).1 ((lnsProd x).2.1 * 2 ^ (9 - d).toNat), false)
  else (signed (lnsProd x).1 (roundMag .rne false (lnsProd x).2.1 (9 - d) 0).1, (roundMag .rne false (lnsProd x).2.1 (9 - d) 0).2)

theorem foldl_max_spec {α : Type} (f : α → Int) (l : List α) : ∀ m : Int, m ≤ l.foldl (fun m x => max m (f x)) m
    ∧ (∀ x ∈ l, f x ≤ l.foldl (fun m x => max m (f x)) m)
    ∧ (l.foldl (fun m x => max m (f x)) m = m ∨ ∃ x ∈ l, l.foldl (fun m x => max m (f x)) m = f x) := by
  induction l with
  | nil => exact fun m => ⟨le_rfl, nofun, .inl rfl⟩
  | cons x l ih =>
    intro m
    obtain ⟨hle, hall, hor⟩ := ih (max m (f x))
    refine ⟨(le_max_left _ _).trans hle, fun y hy => ?_, ?_⟩
    · rcases List.mem_cons.mp hy with rfl | hy
      · exact (le_max_right _ _).trans hle
      · exact hall y hy
    · rcases hor with h | ⟨y, hy, h⟩
      · rcases max_choice m (f x) with hm | hm
        · exact .inl (h.trans hm)
        · exact .inr ⟨x, List.mem_cons_self, h.trans hm⟩
      · exact .inr ⟨y, List.mem_cons_of_mem _ hy, h⟩

/-- The greatest exponent of scales of a K-step's products (R40). -/
def lnsTop (l : List (Lane × Lane)) : Int :=
  match l.map lnsProd with | [] => 0 | p :: r => r.foldl (fun m x => max m x.2.2) p.2.2

theorem lnsTop_eq {l : List (Lane × Lane)} {top : Int} (hle : ∀ x ∈ l, x.1.2 + x.2.2 ≤ top) (hmax : ∃ x ∈ l, x.1.2 + x.2.2 = top) : lnsTop l = top := by
  cases l with
  | nil =>
    obtain ⟨x, hx, -⟩ := hmax
    cases hx
  | cons y l =>
    change (l.map lnsProd).foldl (fun m x => max m x.2.2) (y.1.2 + y.2.2) = top
    rw [List.foldl_map]
    obtain ⟨hy, hall, hor⟩ := foldl_max_spec (fun x : Lane × Lane => (lnsProd x).2.2) l (y.1.2 + y.2.2)
    refine le_antisymm ?_ ?_
    · rcases hor with h | ⟨x, hx, h⟩
      · rw [h]
        exact hle y List.mem_cons_self
      · rw [h]
        exact hle x (List.mem_cons_of_mem _ hx)
    · obtain ⟨x, hx, rfl⟩ := hmax
      rcases List.mem_cons.mp hx with rfl | hx
      · exact hy
      · exact hall x hx

theorem kstepLns_eq (old : Nat) (l : List (Lane × Lane)) : kstepLns old l =
    ((joinF32 old ((Num.ofInt (l.map fun x => (lnsTerm (lnsTop l) x).1).sum).scale (lnsTop l - 38), false)).1,
      (joinF32 old ((Num.ofInt (l.map fun x => (lnsTerm (lnsTop l) x).1).sum).scale (lnsTop l - 38), false)).2
        ||| if l.any fun x => (lnsTerm (lnsTop l) x).2 then flagNX else 0) := by
  have hmodel : kstepLns old l =
      (let terms := (l.map lnsProd).map fun p =>
         let d := lnsTop l - p.2.2
         if d ≤ 9 then (signed p.1 (p.2.1 * 2 ^ (9 - d).toNat), false)
         else (signed p.1 (roundMag .rne false p.2.1 (9 - d) 0).1, (roundMag .rne false p.2.1 (9 - d) 0).2)
       ((joinF32 old ((Num.ofInt (terms.map Prod.fst).sum).scale (lnsTop l - 38), false)).1,
         (joinF32 old ((Num.ofInt (terms.map Prod.fst).sum).scale (lnsTop l - 38), false)).2
           ||| (if terms.any Prod.snd then flagNX else 0))) := rfl
  have hterms : ((l.map lnsProd).map fun p =>
         let d := lnsTop l - p.2.2
         if d ≤ 9 then (signed p.1 (p.2.1 * 2 ^ (9 - d).toNat), false)
         else (signed p.1 (roundMag .rne false p.2.1 (9 - d) 0).1, (roundMag .rne false p.2.1 (9 - d) 0).2))
      = l.map (lnsTerm (lnsTop l)) := by
    rw [List.map_map]
    rfl
  rw [hmodel, hterms]
  simp only [List.map_map, List.any_map]
  rfl

theorem lnsTerm_near {top : Int} {x : Lane × Lane} (h : top - (x.1.2 + x.2.2) ≤ 9) :
    lnsTerm top x = (lnsProduct x * 2 ^ (9 - (top - (x.1.2 + x.2.2))).toNat, false) := by
  unfold lnsTerm
  dsimp only
  rw [if_pos h, ← signed_lnsProd]
  unfold signed
  split <;> push_cast <;> simp

/-- A product far below the greatest scales is rounded to the units of the sum, to nearest even (R40). -/
theorem lnsTerm_far {top : Int} {x : Lane × Lane} {d : Int} (hd : d = top - (x.1.2 + x.2.2)) (h : 9 < d) :
    Nearest ((lnsProduct x : ℚ) / 2 ^ (d - 9).toNat) (lnsTerm top x).1
      ∧ ((lnsTerm top x).2 = true ↔ lnsProduct x ≠ (lnsTerm top x).1 * 2 ^ (d - 9).toNat) := by
  obtain ⟨hnear, hflag⟩ := roundMag_rne false (lnsProd x).2.1 (9 - d) 0
  obtain ⟨k, hk⟩ : ∃ k : Nat, d - 9 = k := ⟨(d - 9).toNat, by omega⟩
  have hpow : (2 : ℚ) ^ (9 - d - 0) = (2 ^ k)⁻¹ := by rw [show 9 - d - 0 = -(k : Int) by omega, zpow_neg, zpow_natCast]
  rw [hpow, ← div_eq_mul_inv] at hnear hflag
  have hp : (0 : ℚ) < 2 ^ k := by positivity
  have hterm : lnsTerm top x = (signed (lnsProd x).1 (roundMag .rne false (lnsProd x).2.1 (9 - d) 0).1,
      (roundMag .rne false (lnsProd x).2.1 (9 - d) 0).2) := by
    unfold lnsTerm
    dsimp only
    rw [← hd, if_neg (by omega)]
  rw [hterm, hk, Int.toNat_natCast, ← signed_lnsProd]
  generalize (lnsProd x).2.1 = P at *
  generalize roundMag .rne false P (9 - d) 0 = q at *
  dsimp only
  constructor
  · have hsg := nearest_signed (lnsProd x).1 hnear
    have hx : ((signed (lnsProd x).1 P : Int) : ℚ) / 2 ^ k = if (lnsProd x).1 then -((P : ℚ) / 2 ^ k) else (P : ℚ) / 2 ^ k := by
      rw [cast_signed]
      split
      · rw [neg_div]
      · rfl
    rw [hx]
    exact hsg
  · rw [← Bool.not_eq_false, not_iff_not, hflag, eq_div_iff hp.ne']
    unfold signed
    split
    · rw [neg_mul, neg_inj]
      exact_mod_cast eq_comm
    · exact_mod_cast eq_comm

theorem Nearest.int_distance {x : ℚ} {q n : Int} {k : Nat} (h : Nearest (x / 2 ^ k) q) (hx : x = n) :
    2 * |n - q * 2 ^ k| ≤ 2 ^ k ∧ (2 * |n - q * 2 ^ k| = 2 ^ k → q % 2 = 0) := by
  have hp : (0 : ℚ) < 2 ^ k := by positivity
  obtain ⟨hle, heven⟩ := h
  have habs : |x / 2 ^ k - q| = (|n - q * 2 ^ k| : Int) / 2 ^ k := by
    rw [eq_div_iff hp.ne', ← abs_of_pos hp, ← abs_mul, abs_of_pos hp, sub_mul, div_mul_cancel₀ _ hp.ne', hx]
    push_cast
    rfl
  rw [habs] at hle heven
  constructor
  · rw [mul_div_assoc', div_le_one hp] at hle
    exact_mod_cast hle
  · intro heq
    refine heven ?_
    rw [mul_div_assoc', div_eq_one_iff_eq hp.ne']
    exact_mod_cast heq

theorem kstepLns_spec {old : Nat} {l : List (Lane × Lane)} {top : Int} {d : Lane × Lane → Int} (hle : ∀ x ∈ l, x.1.2 + x.2.2 ≤ top)
    (hmax : ∃ x ∈ l, x.1.2 + x.2.2 = top) (hd : d = fun x => top - (x.1.2 + x.2.2)) :
    ∃ (q : Lane × Lane → Int) (v : Num),
      (∀ x ∈ l, d x ≤ 9 → q x = lnsProduct x * 2 ^ (9 - d x).toNat)
      ∧ (∀ x ∈ l, 9 < d x → 2 * |lnsProduct x - q x * 2 ^ (d x - 9).toNat| ≤ 2 ^ (d x - 9).toNat
          ∧ (2 * |lnsProduct x - q x * 2 ^ (d x - 9).toNat| = 2 ^ (d x - 9).toNat → q x % 2 = 0))
      ∧ v.isFin = true ∧ v.rat = ((l.map q).sum : Int) * (2 : ℚ) ^ (top - 38)
      ∧ kstepLns old l = ((joinF32 old (v, false)).1, (joinF32 old (v, false)).2
          ||| (if ∃ x ∈ l, 9 < d x ∧ lnsProduct x ≠ q x * 2 ^ (d x - 9).toNat then flagNX else 0)) := by
  have hdx (x : Lane × Lane) : d x = top - (x.1.2 + x.2.2) := by rw [hd]
  have hany : (l.any fun x => (lnsTerm top x).2) = true ↔ ∃ x ∈ l, 9 < d x ∧ lnsProduct x ≠ (lnsTerm top x).1 * 2 ^ (d x - 9).toNat := by
    rw [List.any_eq_true]
    refine exists_congr fun x => and_congr_right fun hx => ?_
    by_cases h : d x ≤ 9
    · rw [lnsTerm_near (hdx x ▸ h)]
      exact iff_of_false Bool.false_ne_true fun hc => not_lt.mpr h hc.1
    · rw [(lnsTerm_far (hdx x) (not_le.mp h)).2]
      exact (and_iff_right (not_le.mp h)).symm
  refine ⟨fun x => (lnsTerm top x).1, (Num.ofInt (l.map fun x => (lnsTerm top x).1).sum).scale (top - 38), fun x _ h => ?_,
    fun x _ h => (lnsTerm_far (hdx x) h).1.int_distance rfl, ?_, ?_, ?_⟩
  · dsimp only
    rw [hdx] at h ⊢
    rw [lnsTerm_near h]
  · rw [Num.isFin_scale, Num.isFin_ofInt]
  · rw [Num.rat_scale, Num.rat_ofInt]
  · rw [kstepLns_eq, lnsTop_eq hle hmax]
    simp only [hany]

end Sys2Proof.Machine
end

section
/-! PROOFS. Rows of an accumulator bank: a word that writes row after row, from what each held (R204, R210). -/

namespace Sys2Proof.Machine

/-! ### One row -/

theorem length_flatMap_leBytes (n : Nat) (l : List Nat) : (l.flatMap (leBytes n)).length = n * l.length := by
  induction l with
  | nil => rfl
  | cons x l ih =>
    rw [List.flatMap_cons, List.length_append, length_leBytes, ih, List.length_cons]
    ring

theorem take_drop_flatMap_leBytes (n : Nat) (l : List Nat) : ∀ {c : Nat}, c < l.length →
    ((l.flatMap (leBytes n)).drop (n * c)).take n = leBytes n (l.getD c 0) := by
  induction l with
  | nil => exact fun h => absurd h (Nat.not_lt_zero _)
  | cons x l ih =>
    intro c hc
    have hlen := length_leBytes n x
    rw [List.flatMap_cons]
    cases c with
    | zero => rw [Nat.mul_zero, List.drop_zero, List.take_left' hlen, List.getD_cons_zero]
    | succ c =>
      rw [Nat.mul_succ, Nat.add_comm, ← List.drop_drop, List.drop_left' hlen, ih (Nat.lt_of_succ_lt_succ hc), List.getD_cons_succ]

theorem rdMems_wrMems_inside (m : Memory) (a : Nat) (bs : List Byte) {k n : Nat} (h : k + n ≤ bs.length) :
    rdMems (wrMems m a bs) (a + k) n = (bs.drop k).take n := by
  rw [rdMems_eq_map]
  refine List.ext_getElem (by simp; omega) fun i h1 h2 => ?_
  have hi : i < n := by simpa using h1
  rw [List.getElem_map, List.getElem_range, List.getElem_take, List.getElem_drop, Nat.add_assoc, rdMem_wrMems_in bs m a _ (by omega),
    List.getD_eq_getElem _ _ (by omega)]

section
variable (s : State) (bank m : Nat) (l : List Nat)

theorem State.rdMem_setAccRow_out {x : Nat} (h : x < s.accBase bank + 512 * m ∨ s.accBase bank + 512 * m + 4 * l.length ≤ x) :
    rdMem (s.setAccRow bank m l).mem x = rdMem s.mem x :=
  rdMem_wrMems_out _ _ _ _ (by rw [length_flatMap_leBytes]; exact h)

theorem State.leNat_setAccRow {c : Nat} (hc : c < l.length) :
    leNat (rdMems (s.setAccRow bank m l).mem (s.accBase bank + 4 * (128 * m + c)) 4) = l.getD c 0 % 2 ^ 32 := by
  have haddr : s.accBase bank + 4 * (128 * m + c) = s.accBase bank + 512 * m + 4 * c := by omega
  unfold State.setAccRow
  rw [haddr, rdMems_wrMems_inside _ _ _ (by rw [length_flatMap_leBytes]; omega), take_drop_flatMap_leBytes _ _ hc, leNat_leBytes,
    show 256 ^ 4 = 2 ^ 32 by norm_num]

end

/-! ### Row after row -/

/-- Write a row's results and take up their flags. -/
def Run.setRow (r : Run) (bank m : Nat) (res : List (Nat × BitVec 8)) : Run :=
  res.foldl (fun r e => r.flag e.2) { r with s := r.s.setAccRow bank m (res.map Prod.fst) }

/-- A run whose memory and flags have changed. -/
def Run.patched (r : Run) (mem : Memory) (f : BitVec 8) : Run := { r with s := { r.s with mem := mem }, w := { r.w with flags := f } }

theorem Run.foldl_flag {α : Type} (g : α → BitVec 8) (l : List α) : ∀ r : Run, l.foldl (fun r e => r.flag (g e)) r =
    { r with w := { r.w with flags := l.foldl (fun f e => f ||| g e) r.w.flags } } := by
  induction l with
  | nil => exact fun r => rfl
  | cons e l ih => exact fun r => (ih _).trans rfl

theorem Run.setRow_eq (r : Run) (bank m : Nat) (res : List (Nat × BitVec 8)) : r.setRow bank m res =
    r.patched (r.s.setAccRow bank m (res.map Prod.fst)).mem (res.foldl (fun f e => f ||| e.2) r.w.flags) := by
  unfold Run.setRow
  rw [Run.foldl_flag]
  rfl

/-- A word writes the rows of a list, one after the other, each from what it held before. -/
theorem foldl_setRow {bank : Nat} {r : Run} (f : Run → Nat → List (Nat × BitVec 8)) (res : Nat → List (Nat × BitVec 8)) (ms : List Nat)
    (hlen : ∀ m, (res m).length ≤ 128)
    (hf : ∀ m ∈ ms, ∀ mem fl, (∀ x, r.s.accBase bank + 512 * m ≤ x → x < r.s.accBase bank + 512 * m + 512 → rdMem mem x = rdMem r.s.mem x) →
      f (r.patched mem fl) m = res m) : ms.Nodup →
    ∃ mem fl, ms.foldl (fun r m => r.setRow bank m (f r m)) r = r.patched mem fl
      ∧ r.w.flags &&& fl = r.w.flags
      ∧ (∀ m ∈ ms, ∀ c, c < (res m).length → leNat (rdMems mem (r.s.accBase bank + 4 * (128 * m + c)) 4) = ((res m).getD c (0, 0)).1 % 2 ^ 32
          ∧ ((res m).getD c (0, 0)).2 &&& fl = ((res m).getD c (0, 0)).2)
      ∧ ∀ x, (∀ m ∈ ms, x < r.s.accBase bank + 512 * m ∨ r.s.accBase bank + 512 * m + 4 * (res m).length ≤ x) → rdMem mem x = rdMem r.s.mem x := by
  induction ms using List.reverseRecOn with
  | nil => exact fun _ => ⟨r.s.mem, r.w.flags, rfl, BitVec.and_self, nofun, fun x _ => rfl⟩
  | append_singleton ms m ih =>
    intro hnd
    obtain ⟨hms, -, hdisj⟩ := List.nodup_append.mp hnd
    have hm : m ∉ ms := fun h => hdisj m h m (List.mem_singleton_self m) rfl
    obtain ⟨mem, fl, hfold, hmono, hin, hout⟩ := ih (fun k hk => hf k (List.mem_append_left _ hk)) hms
    have hres : f (r.patched mem fl) m = res m := hf m (by simp) mem fl fun x h1 h2 => hout x fun k hk => by
      have hne : k ≠ m := fun h => hm (h ▸ hk)
      have := hlen k
      omega
    have hlenm : ((res m).map Prod.fst).length = (res m).length := List.length_map ..
    refine ⟨((r.patched mem fl).s.setAccRow bank m ((res m).map Prod.fst)).mem, (res m).foldl (fun f e => f ||| e.2) fl, ?_, ?_, ?_, ?_⟩
    · rw [List.foldl_append, hfold, List.foldl_cons, List.foldl_nil, hres, Run.setRow_eq]
      rfl
    · exact and_foldl_or_of_and _ _ hmono
    · intro k hk c hc
      rcases List.mem_append.mp hk with hk | hk
      · obtain ⟨hval, hfl⟩ := hin k hk c hc
        have hne : k ≠ m := fun h => hm (h ▸ hk)
        have hk128 := hlen k
        have hm128 := hlen m
        refine ⟨?_, and_foldl_or_of_and _ _ hfl⟩
        rw [← hval]
        refine congrArg leNat (rdMems_wrMems_other _ _ _ _ _ ?_)
        rw [length_flatMap_leBytes, hlenm]
        change r.s.accBase bank + 4 * (128 * k + c) + 4 ≤ r.s.accBase bank + 512 * m ∨ r.s.accBase bank + 512 * m + 4 * (res m).length ≤ _
        omega
      · obtain rfl := List.mem_singleton.mp hk
        refine ⟨?_, and_foldl_or Prod.snd (by rw [List.getD_eq_getElem _ _ hc]; exact List.getElem_mem hc) fl⟩
        refine ((r.patched mem fl).s.leNat_setAccRow bank k _ (by rw [hlenm]; exact hc)).trans ?_
        rw [List.getD_eq_getElem _ _ (by rw [hlenm]; exact hc), List.getElem_map, List.getD_eq_getElem _ _ hc]
    · intro x hx
      refine ((r.patched mem fl).s.rdMem_setAccRow_out bank m _ ?_).trans (hout x fun k hk => hx k (List.mem_append_left _ hk))
      rw [hlenm]
      exact hx m (by simp)

/-- What a list of rows says of memory that has its elements. -/
theorem sameMem_rows {r u : Run} {bank N : Nat} {n : Nat → Nat} {mem : Memory} {fl : BitVec 8} (hu : u = r.patched mem fl)
    (hout : ∀ x, (∀ m ∈ List.range N, x < r.s.accBase bank + 512 * m ∨ r.s.accBase bank + 512 * m + 4 * n m ≤ x) → rdMem mem x = rdMem r.s.mem x) :
    SameMem (fun x => ∃ m c, m < N ∧ c < n m ∧ r.s.accBase bank + 4 * (128 * m + c) ≤ x ∧ x < r.s.accBase bank + 4 * (128 * m + c) + 4) r.s u.s := by
  subst hu
  refine ⟨fun x hx => ?_, rfl⟩
  refine hout x fun m hm => ?_
  by_contra hin
  obtain ⟨hlo, hhi⟩ := not_or.mp hin
  exact hx ⟨m, (x - (r.s.accBase bank + 512 * m)) / 4, List.mem_range.mp hm, by omega, by omega, by omega⟩

end Sys2Proof.Machine
end

section
/-! PROOFS. What K-step words, drains, MSUM and MSCALE write (R203, R204, R206, R210, R212, R214, R215). -/

namespace Sys2Proof.Machine

/-! ### Rows by column -/

theorem zipIdx_eq_map_range {α : Type} (l : List α) (d : α) : l.zipIdx = (List.range l.length).map fun i => (l.getD i d, i) := by
  refine List.ext_getElem (by simp) fun i h1 h2 => ?_
  have hi : i < l.length := by simpa using h1
  simp [hi]

theorem zipIdx_map_range {α β : Type} (n : Nat) (o : Nat → α) (g : α × Nat → β) :
    ((List.range n).map o).zipIdx.map g = (List.range n).map fun c => g (o c, c) := by
  refine List.ext_getElem (by simp) fun i h1 h2 => ?_
  simp

theorem State.accRow_eq (s : State) (bank m n : Nat) :
    s.accRow bank m n = (List.range n).map fun c => leNat (rdMems s.mem (s.accBase bank + 4 * (128 * m + c)) 4) := by
  unfold State.accRow
  rw [upFrom_zero]

/-- A row reads as before while its bytes stand. -/
theorem Run.accRow_patched {r : Run} {bank m n : Nat} (hn : n ≤ 128) {mem : Memory} {fl : BitVec 8}
    (h : ∀ x, r.s.accBase bank + 512 * m ≤ x → x < r.s.accBase bank + 512 * m + 512 → rdMem mem x = rdMem r.s.mem x) :
    (r.patched mem fl).s.accRow bank m n = r.s.accRow bank m n := by
  rw [State.accRow_eq, State.accRow_eq]
  refine List.map_congr_left fun c hc => congrArg leNat ?_
  have hc' := List.mem_range.mp hc
  rw [rdMems_eq_map, rdMems_eq_map]
  refine List.map_congr_left fun i hi => ?_
  have hi' := List.mem_range.mp hi
  exact h _ (by change _ ≤ r.s.accBase bank + 4 * (128 * m + c) + i; omega) (by change r.s.accBase bank + 4 * (128 * m + c) + i < _; omega)

/-! ### K-steps on a tile part (R210) -/

/-- The active pairs of lanes of two operand rows. -/
def lanePairs (a b : List (Option Lane)) : List (Lane × Lane) := (List.zip a b).filterMap fun x => x.1.bind fun y => x.2.map fun z => (y, z)

/-- The lanes of K-step `t` of a row. -/
def kCut (kel e t : Nat) (l : List (Option Lane)) : List (Option Lane) := (l.drop (t * kel)).take (min kel (e - t * kel))

/-- What K-step `t` of chunk `j` makes of element `c` of a row from its value `old`. -/
def kElem (k : PairKind) (kel e steps j t draw : Nat) (isat : Bool) (a : Nat × List (Option Lane)) (b : List (Nat × List (Option Lane)))
    (m c old : Nat) : Nat × BitVec 8 :=
  kstep ((pairOf2 a.1 (b.getD c (0, [])).1).elim k Prod.fst) a.1 (b.getD c (0, [])).1 isat (draw, ((j * steps + t) * 64 + m) * 128 + c) old
    (lanePairs (kCut kel e t a.2) (kCut kel e t (b.getD c (0, [])).2))

/-- The results of a row. -/
def kRow (k : PairKind) (kel e steps j t draw : Nat) (isat : Bool) (f : MForm) (a b : List (Nat × List (Option Lane))) (r : Run) (m : Nat) :
    List (Nat × BitVec 8) :=
  (List.range b.length).map fun c => kElem k kel e steps j t draw isat (a.getD m (0, [])) b m c
    (if f.init = true ∧ j = 0 ∧ t = 0 then 0 else leNat (rdMems r.s.mem (r.s.accBase f.bank + 4 * (128 * m + c)) 4))

theorem kstepAll_row (k : PairKind) (kel e steps j t : Nat) (isat : Bool) (f : MForm) (a : Nat × List (Option Lane))
    (b : List (Nat × List (Option Lane))) (r : Run) (m : Nat) (cut : Nat × List (Option Lane) → Nat × List (Option Lane))
    (hcut : cut = fun l => (l.1, kCut kel e t l.2)) (pick : Option Lane × Option Lane → Option (Lane × Lane))
    (hpick : ∀ x, pick x = x.1.bind fun y => x.2.map fun z => (y, z)) :
    ((List.zip (if f.init && j == 0 && t == 0 then List.replicate (b.map cut).length 0 else r.s.accRow f.bank m (b.map cut).length)
        (b.map cut)).zipIdx.map fun x =>
      kstep ((pairOf2 (cut a).1 x.1.2.1).elim k Prod.fst) (cut a).1 x.1.2.1 isat (r.w.draw, ((j * steps + t) * 64 + m) * 128 + x.2) x.1.1
        ((List.zip (cut a).2 x.1.2.2).filterMap pick))
      = (List.range b.length).map fun c => kElem k kel e steps j t r.w.draw isat a b m c
          (if f.init = true ∧ j = 0 ∧ t = 0 then 0 else leNat (rdMems r.s.mem (r.s.accBase f.bank + 4 * (128 * m + c)) 4)) := by
  subst hcut
  obtain rfl : pick = fun x => x.1.bind fun y => x.2.map fun z => (y, z) := funext hpick
  have hold : (if f.init && j == 0 && t == 0 then List.replicate (b.map fun l => (l.1, kCut kel e t l.2)).length 0
      else r.s.accRow f.bank m (b.map fun l => (l.1, kCut kel e t l.2)).length)
      = (List.range b.length).map fun c => if f.init = true ∧ j = 0 ∧ t = 0 then 0
          else leNat (rdMems r.s.mem (r.s.accBase f.bank + 4 * (128 * m + c)) 4) := by
    have hcond : (f.init && j == 0 && t == 0) = true ↔ f.init = true ∧ j = 0 ∧ t = 0 := by simp [and_assoc]
    by_cases h : f.init = true ∧ j = 0 ∧ t = 0
    · rw [if_pos (hcond.mpr h), List.length_map]
      simp only [h, and_self, if_true]
      simp
    · rw [if_neg fun hc => h (hcond.mp hc), List.length_map, State.accRow_eq]
      simp only [h, if_false]
  rw [hold]
  refine List.ext_getElem (by simp) fun c h1 h2 => ?_
  have hc : c < b.length := by simpa using h2
  simp only [List.getElem_map, List.getElem_zipIdx, List.getElem_zip, List.getElem_range, Nat.zero_add]
  unfold kElem
  rw [List.getD_eq_getElem _ _ hc]
  rfl

theorem kstepAll_eq (k : PairKind) (kel e : Nat) (f : MForm) (a b : List (Nat × List (Option Lane))) (steps j t : Nat) (r : Run) :
    kstepAll k kel e f a b steps j t r =
      (List.range a.length).foldl (fun x m => x.setRow f.bank m (kRow k kel e steps j t x.w.draw (mIsat r.w.mode) f a b x m)) r := by
  unfold kstepAll
  rw [zipIdx_eq_map_range a (0, []), List.foldl_map]
  dsimp only
  congr 1
  funext x m
  refine congrArg (fun res : List (Nat × BitVec 8) => res.foldl (fun r e => r.flag e.2) { x with s := x.s.setAccRow f.bank m (res.map Prod.fst) })
    (kstepAll_row k kel e steps j t (mIsat r.w.mode) f (a.getD m (0, [])) b x m _ rfl _ ?_)
  rintro ⟨_ | _, _ | _⟩ <;> rfl

theorem kstepAll_spec {k : PairKind} {kel e steps j t : Nat} {f : MForm} {a b : List (Nat × List (Option Lane))} {r u : Run}
    {at_ : Nat → Nat → Nat} {res : Nat → Nat → Nat × BitVec 8} (hb : b.length ≤ 128) (hu : u = kstepAll k kel e f a b steps j t r)
    (hat : at_ = fun m c => r.s.accBase f.bank + 4 * (128 * m + c))
    (hres : res = fun m c => kElem k kel e steps j t r.w.draw (mIsat r.w.mode) (a.getD m (0, [])) b m c
      (if f.init = true ∧ j = 0 ∧ t = 0 then 0 else leNat (rdMems r.s.mem (at_ m c) 4))) :
    (∀ m c, m < a.length → c < b.length → leNat (rdMems u.s.mem (at_ m c) 4) = (res m c).1 % 2 ^ 32
        ∧ (res m c).2 &&& u.w.flags = (res m c).2)
      ∧ SameMem (fun x => ∃ m c, m < a.length ∧ c < b.length ∧ at_ m c ≤ x ∧ x < at_ m c + 4) r.s u.s := by
  subst hat
  have hlen (m : Nat) : (kRow k kel e steps j t r.w.draw (mIsat r.w.mode) f a b r m).length = b.length := by
    unfold kRow
    rw [List.length_map, List.length_range]
  have hget (m c : Nat) (hc : c < b.length) : (kRow k kel e steps j t r.w.draw (mIsat r.w.mode) f a b r m).getD c (0, 0) = res m c := by
    unfold kRow
    rw [getD_map_range, if_pos hc, hres]
  obtain ⟨mem, fl, hfold, -, hin, hout⟩ := foldl_setRow (bank := f.bank) (r := r)
    (fun x m => kRow k kel e steps j t x.w.draw (mIsat r.w.mode) f a b x m) (kRow k kel e steps j t r.w.draw (mIsat r.w.mode) f a b r)
    (List.range a.length) (fun m => by rw [hlen]; exact hb) (fun m _ mem fl hsame => by
      have hrow := Run.accRow_patched (fl := fl) hb hsame
      rw [State.accRow_eq, State.accRow_eq] at hrow
      unfold kRow
      refine List.map_congr_left fun c hc => ?_
      have hval := congrArg (fun l => l.getD c 0) hrow
      simp only [getD_map_range, if_pos (List.mem_range.mp hc)] at hval
      rw [hval]
      rfl) List.nodup_range
  rw [← kstepAll_eq, ← hu] at hfold
  simp only [hlen] at hin hout
  refine ⟨fun m c hm hc => ?_, sameMem_rows (n := fun _ => b.length) hfold hout⟩
  obtain ⟨hval, hfl⟩ := hin m (List.mem_range.mpr hm) c hc
  rw [hget m c hc] at hval hfl
  rw [hfold]
  exact ⟨hval, hfl⟩

/-! ### Drains (R206, R212) -/

theorem drainElem_of_int {fd : Nat} (hf : drainInt fd = true) (mode : BitVec 6) (r : BitVec 128) (acc : Nat) {x : Int} {e : Nat × Bool}
    (hx : x = (toSInt 32 acc + (r.extractLsb' 64 32).toInt) * (r.extractLsb' 0 32).toInt)
    (he : e = roundMag .rne (decide (x < 0)) x.natAbs (-((r.extractLsb' 32 6).toNat : Int)) 0) :
    drainElem fd mode r acc = (intBits (fmtBits fd)
        (clampInt (intRange fd) ((if mode.getLsbD 3 then max (signed (decide (x < 0)) e.1) 0 else signed (decide (x < 0)) e.1)
          + (r.extractLsb' 96 16).toInt)).1,
      (if (clampInt (intRange fd) ((if mode.getLsbD 3 then max (signed (decide (x < 0)) e.1) 0 else signed (decide (x < 0)) e.1)
          + (r.extractLsb' 96 16).toInt)).2 then flagSAT ||| flagNX else 0) ||| (if e.2 then flagNX else 0)) := by
  subst he hx
  unfold drainElem
  rw [if_pos hf]
  rfl

/-- An integer drain: one rounding to nearest even, ReLU, ZPO, and a clamp (R206). -/
theorem drainElem_int {fd acc : Nat} {mode : BitVec 6} {r : BitVec 128} {x : Int} (hf : fd ∈ [0x04, 0x05, 0x06, 0x07, 0x08])
    (hx : x = (toSInt 32 acc + (r.extractLsb' 64 32).toInt) * (r.extractLsb' 0 32).toInt) :
    ∃ q y : Int, 2 * |x - q * 2 ^ (r.extractLsb' 32 6).toNat| ≤ 2 ^ (r.extractLsb' 32 6).toNat
      ∧ (2 * |x - q * 2 ^ (r.extractLsb' 32 6).toNat| = 2 ^ (r.extractLsb' 32 6).toNat → q % 2 = 0)
      ∧ y = (if mode.getLsbD 3 then max q 0 else q) + (r.extractLsb' 96 16).toInt
      ∧ intVal fd (drainElem fd mode r acc).1 =
          max (if fd = 0x07 then 0 else -2 ^ (fmtBits fd - 1)) (min (if fd = 0x07 then 255 else 2 ^ (fmtBits fd - 1) - 1) y)
      ∧ (drainElem fd mode r acc).2 =
          (if intVal fd (drainElem fd mode r acc).1 = y then 0 else flagSAT ||| flagNX)
            ||| (if x = q * 2 ^ (r.extractLsb' 32 6).toNat then 0 else flagNX) := by
  have hsub : ∀ fd ∈ [0x04, 0x05, 0x06, 0x07, 0x08], fd ∈ intCodes ∧ drainInt fd = true := by decide
  obtain ⟨hfi, hfd⟩ := hsub fd hf
  obtain ⟨e, he⟩ : ∃ e, e = roundMag .rne (decide (x < 0)) x.natAbs (-((r.extractLsb' 32 6).toNat : Int)) 0 := ⟨_, rfl⟩
  rw [drainElem_of_int hfd mode r acc hx he]
  obtain ⟨hnear, hflag⟩ := roundMag_rne (decide (x < 0)) x.natAbs (-((r.extractLsb' 32 6).toNat : Int)) 0
  rw [← he, sub_zero, zpow_neg, zpow_natCast, ← div_eq_mul_inv] at hnear hflag
  generalize (r.extractLsb' 32 6).toNat = k at *
  have hp : (0 : ℚ) < 2 ^ k := by positivity
  have hsign : ((x : Int) : ℚ) = if decide (x < 0) then -(x.natAbs : ℚ) else x.natAbs := by
    rw [← cast_signed, signed_decide_neg]
  have hq : Nearest ((x : ℚ) / 2 ^ k) (signed (decide (x < 0)) e.1) := by
    have h := nearest_signed (decide (x < 0)) hnear
    rw [hsign]
    split
    · rename_i hneg
      rw [if_pos hneg] at h
      rwa [neg_div]
    · rename_i hneg
      rwa [if_neg hneg] at h
  obtain ⟨hle, heven⟩ := hq.int_distance rfl
  have hexact : x = signed (decide (x < 0)) e.1 * 2 ^ k ↔ e.2 = false := by
    rw [hflag, eq_div_iff hp.ne', ← Int.cast_inj (α := ℚ)]
    push_cast
    rw [cast_signed, hsign]
    split
    · rw [neg_mul, neg_inj]
      exact eq_comm
    · exact eq_comm
  refine ⟨_, _, hle, heven, rfl, ?_, ?_⟩
  · rw [intVal_clampInt hfi, intRange_eq hfi]
  · dsimp only
    rw [intVal_clampInt hfi, clampInt_eq (intRange_le hfi)]
    simp only [hexact]
    congr 1
    · split_ifs with h1 h2 h2 <;> simp_all
    · cases e.2 <;> rfl

theorem drainElem_of_flt {fd : Nat} (hf : drainInt fd = false) (mode : BitVec 6) (r : BitVec 128) (acc : Nat) :
    drainElem fd mode r acc =
      (let s := (fF32.decode acc).add (fF32.decode (r.extractLsb' 64 32).toNat)
       let y := s.1.mul (fF32.decode (r.extractLsb' 0 32).toNat)
       let c := elemCode fd .rne (mode.getLsbD 5) (if mode.getLsbD 3 && (y.1.isNeg || y.1.eqv .zero) then .zero else y.1)
       (c.1, c.2 ||| (if s.2 || y.2 then flagNV else 0))) := by
  unfold drainElem
  rw [if_neg (by simp [hf])]
  rfl

/-- A floating drain converts (acc + BIAS) * MULT, made non-negative under ReLU (R206). -/
theorem drainElem_flt {fd acc : Nat} {mode : BitVec 6} {r : BitVec 128} {y : ℚ} (hf : fd ∈ [0x01, 0x02, 0x03, 0x0A, 0x0B])
    (ha : (fF32.decode acc).isFin = true) (hb : (fF32.decode (r.extractLsb' 64 32).toNat).isFin = true)
    (hm : (fF32.decode (r.extractLsb' 0 32).toNat).isFin = true)
    (hy : y = ((fF32.decode acc).rat + (fF32.decode (r.extractLsb' 64 32).toNat).rat) * (fF32.decode (r.extractLsb' 0 32).toNat).rat) :
    ∃ v : Num, v.isFin = true ∧ v.rat = (if mode.getLsbD 3 then max y 0 else y) ∧ drainElem fd mode r acc = elemCode fd .rne (mode.getLsbD 5) v := by
  have hsub : ∀ fd ∈ [0x01, 0x02, 0x03, 0x0A, 0x0B], drainInt fd = false := by decide
  obtain ⟨hs2, hsf, hsr⟩ := Num.add_fin ha hb
  obtain ⟨hy2, hyf, hyr⟩ := Num.mul_fin hsf hm
  rw [hsr, ← hy] at hyr
  rw [drainElem_of_flt (hsub fd hf)]
  dsimp only
  rw [hs2, hy2]
  generalize (((fF32.decode acc).add (fF32.decode (r.extractLsb' 64 32).toNat)).1.mul (fF32.decode (r.extractLsb' 0 32).toNat)).1 = w at *
  have hneg : (w.isNeg || w.eqv .zero) = true ↔ y ≤ 0 := by
    rw [Bool.or_eq_true, Num.isNeg, Num.lt_eq_decide hyf rfl, Num.eqv_eq_decide hyf rfl, decide_eq_true_iff, decide_eq_true_iff, Num.rat_zero, hyr]
    exact le_iff_lt_or_eq.symm
  refine ⟨if mode.getLsbD 3 && (w.isNeg || w.eqv .zero) then .zero else w, ?_, ?_, Prod.ext rfl BitVec.or_zero⟩
  · split
    · rfl
    · exact hyf
  · cases hrelu : mode.getLsbD 3
    · simpa using hyr
    · by_cases h : y ≤ 0
      · rw [Bool.true_and, if_pos (hneg.mpr h), if_pos rfl, max_eq_right h, Num.rat_zero]
      · rw [Bool.true_and, if_neg fun hc => h (hneg.mp hc), if_pos rfl, max_eq_left (not_le.mp h).le, hyr]

theorem mem_zero_row {b : Byte} (h : b ∈ (List.replicate 128 0).flatMap (leBytes 4)) : b = 0 := by
  obtain ⟨x, hx, hb⟩ := List.mem_flatMap.mp h
  have hzero : leBytes 4 0 = List.replicate 4 0 := by decide
  rw [List.eq_of_mem_replicate hx, hzero] at hb
  exact List.eq_of_mem_replicate hb

theorem drainRow_spec {bank qd m : Nat} {zero : Bool} {r u : Run} {h : HRec} {res : Nat → Nat × BitVec 8} (hh : h = r.s.portRec qd)
    (hu : u = drainRow bank qd zero m r)
    (hres : res = fun c => drainElem (hFmt h) r.w.mode (r.s.cur.scaleRec c) (leNat (rdMems r.s.mem (r.s.accBase bank + 4 * (128 * m + c)) 4))) :
    u.w.outs = (r.out r.w.time qd (hSpace h) (hVecAddr h (r.idx qd))
        (pushBytes h (r.idx qd) ((List.range (hExt h 0)).map fun c => some (res c).1))).w.outs
      ∧ sget 0 u.w.st.idx qd = nextVec h (r.idx qd) ∧ (∀ c, c < hExt h 0 → (res c).2 &&& u.w.flags = (res c).2)
      ∧ (∀ x, x < 512 → zero = true → rdMem u.s.mem (r.s.accBase bank + 512 * m + x) = 0)
      ∧ SameMem (fun x => zero = true ∧ r.s.accBase bank + 512 * m ≤ x ∧ x < r.s.accBase bank + 512 * m + 512) r.s u.s := by
  subst hh
  have hrow : ((r.s.accRow bank m (hExt (r.s.portRec qd) 0)).zipIdx.map fun e =>
      drainElem (hFmt (r.s.portRec qd)) r.w.mode (r.s.cur.scaleRec e.2) e.1) = (List.range (hExt (r.s.portRec qd) 0)).map res := by
    rw [State.accRow_eq, zipIdx_map_range, hres]
  have hlen : ((List.replicate 128 0).flatMap (leBytes 4)).length = 512 := by
    rw [length_flatMap_leBytes, List.length_replicate]
  have hzeros : ∀ b ∈ (List.replicate 128 0).flatMap (leBytes 4), b = 0 := fun _ => mem_zero_row
  unfold drainRow at hu
  dsimp only at hu
  rw [hrow, Run.foldl_flag, List.map_map] at hu
  generalize List.replicate 128 0 = zeros at hu hlen hzeros
  have hflags (c : Nat) (hc : c < hExt (r.s.portRec qd) 0) :
      (res c).2 &&& ((List.range (hExt (r.s.portRec qd) 0)).map res).foldl (fun f e => f ||| e.2) r.w.flags = (res c).2 :=
    and_foldl_or Prod.snd (List.mem_map_of_mem (List.mem_range.mpr hc)) _
  cases zero
  · rw [if_neg (by simp)] at hu
    subst hu
    exact ⟨rfl, sget_sset_same 0 _ _ _, hflags, nofun, fun x _ => rfl, rfl⟩
  · rw [if_pos rfl] at hu
    subst hu
    refine ⟨rfl, sget_sset_same 0 _ _ _, hflags, fun x hx _ => ?_, fun x hx => ?_, rfl⟩
    · refine (rdMem_wrMems_in _ _ _ x (by rw [hlen]; exact hx)).trans ?_
      rw [List.getD_eq_getElem _ _ (by rw [hlen]; exact hx)]
      exact hzeros _ (List.getElem_mem _)
    · refine rdMem_wrMems_out _ _ _ x ?_
      rw [hlen]
      change x < r.s.accBase bank + 512 * m ∨ r.s.accBase bank + 512 * m + 512 ≤ x
      by_contra hin
      exact hx ⟨rfl, by omega, by omega⟩

/-! ### MSUM (R204, R214) -/

theorem rowSum_eq (fmt : Nat) (l : List (Option Lane)) : ∀ e : Nat,
    rowSum fmt e l = ((List.range e).map fun k => ((l.getD k none).map fun x => intVal fmt x.1).getD 0).sum := by
  induction l with
  | nil =>
    intro e
    unfold rowSum
    rw [List.take_nil]
    simp
  | cons x l ih =>
    intro e
    cases e with
    | zero => rfl
    | succ e =>
      have htail := ih e
      unfold rowSum at htail ⊢
      rw [List.take_succ_cons, List.map_cons, List.sum_cons, htail, List.range_succ_eq_map, List.map_cons, List.sum_cons, List.map_map]
      cases x <;> rfl

/-- MSUM takes one port's pop: it adds the sum of the row to its place. -/
def msumStep (f g i : Nat) (r : Run) (e : Nat × List Byte) : Run :=
  let x := r.popped e.1 e.2
  let at_ := i * g + (e.1 - f)
  x.1.count fun c =>
    { c with sums := c.sums.set at_ (c.sums.getD at_ 0 + rowSum (hFmt (r.s.portRec e.1)) (hExt (r.s.portRec e.1) 0) x.2) }

theorem msumStep_spec (f g i : Nat) (r : Run) (e : Nat × List Byte) :
    (msumStep f g i r e).s = r.s ∧ (∀ p, p ≠ e.1 → (msumStep f g i r e).idx p = r.idx p)
      ∧ (msumStep f g i r e).w.st.sums = r.w.st.sums.set (i * g + (e.1 - f)) (r.w.st.sums.getD (i * g + (e.1 - f)) 0
          + rowSum (hFmt (r.s.portRec e.1)) (hExt (r.s.portRec e.1) 0) (popLanes (r.s.portRec e.1) (r.idx e.1) e.2).1) := by
  unfold msumStep
  rw [Run.popped_eq]
  exact ⟨rfl, fun p hp => sget_sset_other 0 _ _ hp, rfl⟩

theorem getD_set_self {l : List Int} {k : Nat} (v : Int) (h : k < l.length) : (l.set k v).getD k 0 = v := by
  rw [List.getD_eq_getElem _ _ (by simpa using h), List.getElem_set_self]

theorem getD_set_ne {l : List Int} {j k : Nat} (v : Int) (h : j ≠ k) : (l.set j v).getD k 0 = l.getD k 0 := by
  rw [List.getD_eq_getElem?_getD, List.getElem?_set_ne h, ← List.getD_eq_getElem?_getD]

theorem foldl_msumStep (f g i : Nat) (l : List (Nat × List Byte)) : ∀ r : Run, (l.map Prod.fst).Nodup → (∀ e ∈ l, f ≤ e.1) →
    (l.foldl (msumStep f g i) r).s = r.s ∧ (l.foldl (msumStep f g i) r).w.st.sums.length = r.w.st.sums.length
      ∧ (∀ k, (∀ e ∈ l, k ≠ i * g + (e.1 - f)) → (l.foldl (msumStep f g i) r).w.st.sums.getD k 0 = r.w.st.sums.getD k 0)
      ∧ ∀ e ∈ l, i * g + (e.1 - f) < r.w.st.sums.length →
          (l.foldl (msumStep f g i) r).w.st.sums.getD (i * g + (e.1 - f)) 0 = r.w.st.sums.getD (i * g + (e.1 - f)) 0
            + rowSum (hFmt (r.s.portRec e.1)) (hExt (r.s.portRec e.1) 0) (popLanes (r.s.portRec e.1) (r.idx e.1) e.2).1 := by
  induction l with
  | nil => exact fun r _ _ => ⟨rfl, rfl, fun _ _ => rfl, nofun⟩
  | cons e l ih =>
    intro r hnd hf
    obtain ⟨he, hnd⟩ := List.nodup_cons.mp hnd
    obtain ⟨hs1, hidx1, hsums1⟩ := msumStep_spec f g i r e
    obtain ⟨hs, hlen, hkeep, hadd⟩ := ih (msumStep f g i r e) hnd fun x hx => hf x (List.mem_cons_of_mem _ hx)
    have hne (x : Nat × List Byte) (hx : x ∈ l) : x.1 ≠ e.1 := fun h => he (h ▸ List.mem_map_of_mem hx)
    have hplace (x : Nat × List Byte) (hx : x ∈ l) : i * g + (e.1 - f) ≠ i * g + (x.1 - f) := fun h => by
      have h1 := hf x (List.mem_cons_of_mem _ hx)
      have h2 := hf e List.mem_cons_self
      exact hne x hx (by omega)
    refine ⟨hs.trans hs1, hlen.trans (by rw [hsums1, List.length_set]), fun k hk => ?_, fun x hx hlt => ?_⟩
    · rw [List.foldl_cons, hkeep k fun x hx => hk x (List.mem_cons_of_mem _ hx), hsums1, getD_set_ne _ (hk e List.mem_cons_self).symm]
    · rw [List.foldl_cons]
      rcases List.mem_cons.mp hx with rfl | hx
      · rw [hkeep _ hplace, hsums1, getD_set_self _ hlt]
      · rw [hadd x hx (by rw [hsums1, List.length_set]; exact hlt), hsums1, getD_set_ne _ (hplace x hx), hs1, hidx1 _ (hne x hx)]

theorem msumTake_pops {bank f g i : Nat} {sideB : Bool} {r u : Run} {got : List (List Byte)} {qs : List Nat}
    (ht : r.w.time < r.w.fig.rd * r.w.fig.rate) (hi : i = r.w.time % r.w.fig.rate)
    (hqs : qs = (gang f g).filter fun q => decide (i < hExt (r.s.portRec q) 1)) (hgot : got.length = qs.length)
    (hu : u = msumTake bank sideB f g r got) :
    msumWant f g r = qs.map r.popReq ∧ u.s = r.s
      ∧ ∀ n k, n < qs.length → k = i * g + (qs.getD n 0 - f) → k < r.w.st.sums.length →
          u.w.st.sums.getD k 0 = r.w.st.sums.getD k 0 +
            rowSum (hFmt (r.s.portRec (qs.getD n 0))) (hExt (r.s.portRec (qs.getD n 0)) 0)
              (popLanes (r.s.portRec (qs.getD n 0)) (r.idx (qs.getD n 0)) (got.getD n [])).1 := by
  have hzip : (List.zip qs got).map Prod.fst = qs := List.map_fst_zip hgot.ge
  have hnd : ((List.zip qs got).map Prod.fst).Nodup := by
    rw [hzip, hqs]
    unfold gang
    rw [upFrom_eq_range']
    exact List.Nodup.filter _ List.nodup_range'
  have hle : ∀ e ∈ List.zip qs got, f ≤ e.1 := fun e he => by
    have hq : e.1 ∈ qs := hzip ▸ List.mem_map_of_mem he
    rw [hqs] at hq
    have hg := (List.mem_filter.mp hq).1
    unfold gang at hg
    rw [upFrom_eq_range', List.mem_range'_1] at hg
    exact hg.1
  obtain ⟨hs, -, -, hadd⟩ := foldl_msumStep f g i (List.zip qs got) r hnd hle
  have hu' : u = ((List.zip qs got).foldl (msumStep f g i) r).at_
      (some (if r.w.time + 1 < r.w.fig.rd * r.w.fig.rate then r.w.time + 1 else r.w.fig.rd * r.w.fig.rate + 15)) := by
    rw [hu, hqs, hi]
    unfold msumTake
    dsimp only
    rw [if_pos ht]
    rfl
  refine ⟨?_, by rw [hu']; exact hs, fun n k hn hk hlt => ?_⟩
  · unfold msumWant
    rw [if_pos ht, hqs, hi]
    rfl
  · have hmem : (qs.getD n 0, got.getD n []) ∈ List.zip qs got := by
      refine List.mem_of_getElem? (i := n) ?_
      rw [List.getElem?_zip_eq_some, List.getD_eq_getElem _ _ hn, List.getD_eq_getElem _ _ (by omega)]
      exact ⟨List.getElem?_eq_getElem _, List.getElem?_eq_getElem _⟩
    subst hk
    rw [hu']
    exact hadd _ hmem hlt

/-- The corrected elements of a row (R204). -/
def correctRow (isat sideB : Bool) (z : Int) (sums : List Int) (bank : Nat) (r : Run) (m : Nat) : List (Nat × BitVec 8) :=
  (List.range (if sideB then sums.length else 128)).map fun c =>
    joinInt isat (leNat (rdMems r.s.mem (r.s.accBase bank + 4 * (128 * m + c)) 4)) (-(z * sums.getD (if sideB then c else m) 0))

theorem msumCorrect_eq (bank : Nat) (sideB : Bool) (z : Int) (sums : List Int) (r : Run) : msumCorrect bank sideB z sums r =
    (List.range (if sideB then 64 else sums.length)).foldl
      (fun x m => x.setRow bank m (correctRow (mIsat r.w.mode) sideB z sums bank x m)) r := by
  unfold msumCorrect
  dsimp only
  rw [upFrom_zero]
  congr 1
  funext x m
  unfold Run.setRow correctRow
  rw [State.accRow_eq, zipIdx_map_range]
  rfl

theorem joinInt_lt (isat : Bool) (old : Nat) (s : Int) : (joinInt isat old s).1 < 2 ^ 32 := by
  cases isat
  · rw [joinInt_wrap]
    exact intBits_lt 32 _
  · rw [joinInt_sat]
    exact intBits_lt 32 _

theorem msumCorrect_spec {bank : Nat} {sideB : Bool} {z : Int} {sums : List Int} {r u : Run} {at_ : Nat → Nat → Nat}
    {res : Nat → Nat → Nat × BitVec 8} (hsums : sums.length ≤ if sideB then 128 else 64) (hu : u = msumCorrect bank sideB z sums r)
    (hat : at_ = fun m c => r.s.accBase bank + 4 * (128 * m + c))
    (hres : res = fun m c => joinInt (mIsat r.w.mode) (leNat (rdMems r.s.mem (at_ m c) 4)) (-(z * sums.getD (if sideB then c else m) 0))) :
    (∀ m c, m < (if sideB then 64 else sums.length) → c < (if sideB then sums.length else 128) →
        leNat (rdMems u.s.mem (at_ m c) 4) = (res m c).1 ∧ (res m c).2 &&& u.w.flags = (res m c).2)
      ∧ SameMem (fun x => ∃ m c, m < (if sideB then 64 else sums.length) ∧ c < (if sideB then sums.length else 128)
          ∧ at_ m c ≤ x ∧ x < at_ m c + 4) r.s u.s := by
  subst hat
  have hn : (if sideB then sums.length else 128) ≤ 128 := by
    cases sideB
    · exact le_rfl
    · exact hsums
  have hlen (m : Nat) : (correctRow (mIsat r.w.mode) sideB z sums bank r m).length = if sideB then sums.length else 128 := by
    unfold correctRow
    rw [List.length_map, List.length_range]
  have hget (m c : Nat) (hc : c < if sideB then sums.length else 128) :
      (correctRow (mIsat r.w.mode) sideB z sums bank r m).getD c (0, 0) = res m c := by
    unfold correctRow
    rw [getD_map_range, if_pos hc, hres]
  obtain ⟨mem, fl, hfold, -, hin, hout⟩ := foldl_setRow (bank := bank) (r := r)
    (fun x m => correctRow (mIsat r.w.mode) sideB z sums bank x m) (correctRow (mIsat r.w.mode) sideB z sums bank r)
    (List.range (if sideB then 64 else sums.length)) (fun m => by rw [hlen]; exact hn) (fun m _ mem fl hsame => by
      have hrow := Run.accRow_patched (fl := fl) hn hsame
      rw [State.accRow_eq, State.accRow_eq] at hrow
      unfold correctRow
      refine List.map_congr_left fun c hc => ?_
      have hval := congrArg (fun l => l.getD c 0) hrow
      simp only [getD_map_range, if_pos (List.mem_range.mp hc)] at hval
      rw [hval]) List.nodup_range
  rw [← msumCorrect_eq, ← hu] at hfold
  simp only [hlen] at hin hout
  refine ⟨fun m c hm hc => ?_, sameMem_rows (n := fun _ => if sideB then sums.length else 128) hfold hout⟩
  obtain ⟨hval, hfl⟩ := hin m (List.mem_range.mpr hm) c hc
  rw [hget m c hc] at hval hfl
  rw [hfold]
  refine ⟨hval.trans (Nat.mod_eq_of_lt ?_), hfl⟩
  rw [hres]
  exact joinInt_lt _ _ _

theorem take_msum {t : TCtl} {bank side : BitVec 1} {f gm c : BitVec 4} {r : Run} (got : List (List Byte))
    (hw : r.w.word.instr = .msum t bank side f gm c) (ht : r.w.fig.rd * r.w.fig.rate ≤ r.w.time) :
    (r.take got).s = (msumCorrect bank.toNat (side == 1) ((r.w.word.xv 3).extractLsb' 0 32).toInt r.w.st.sums r).s := by
  have htake : r.take got = msumTake bank.toNat (side == 1) f.toNat (gm.toNat + 1) r got := by
    unfold Run.take
    rw [hw]
    rfl
  rw [htake]
  unfold msumTake
  dsimp only
  rw [if_neg (not_lt.mpr ht)]
  rfl

/-! ### MSCALE (R215) -/

theorem mscaleTake_spec {q : Nat} {r : Run} {b : List Byte} {old : List (Nat × BitVec 128)} (hb : hBcast (r.s.portRec q) 0 = false)
    (hold : r.w.scale = some old) :
    (mscaleTake q r [b]).w.scale = some (old ++ (List.range 32).map fun i =>
        (32 * r.w.st.k + i, BitVec.ofNat 128 (leNat ((b.drop (16 * i)).take 16))))
      ∧ (mscaleTake q r [b]).w.st.k = r.w.st.k + 1 ∧ (mscaleTake q r [b]).s = r.s := by
  refine ⟨?_, rfl, rfl⟩
  unfold mscaleTake
  dsimp only [List.headD_cons]
  rw [hb, if_neg (by simp), upFrom_zero]
  exact congrArg (Option.map _) hold

theorem sget_foldl_sset {α : Type} [DecidableEq α] (d : α) (l : List (Nat × α)) : ∀ (m : SMap α) {n : Nat} {v : α}, (l.map Prod.fst).Nodup →
    ((n, v) ∈ l → sget d (l.foldl (fun m e => sset d m e.1 e.2) m) n = v)
      ∧ ((∀ e ∈ l, n ≠ e.1) → sget d (l.foldl (fun m e => sset d m e.1 e.2) m) n = sget d m n) := by
  induction l with
  | nil => exact fun m n v _ => ⟨nofun, fun _ => rfl⟩
  | cons e l ih =>
    intro m n v hnd
    obtain ⟨he, hnd⟩ := List.nodup_cons.mp hnd
    rw [List.foldl_cons]
    obtain ⟨hin, hout⟩ := ih (sset d m e.1 e.2) (n := n) (v := v) hnd
    refine ⟨fun hmem => ?_, fun hne => ?_⟩
    · rcases List.mem_cons.mp hmem with rfl | hmem
      · rw [hout fun x hx h => he (List.mem_map.mpr ⟨x, hx, h.symm⟩), sget_sset_same]
      · exact hin hmem
    · rw [hout fun x hx => hne x (List.mem_cons_of_mem _ hx), sget_sset_other _ _ _ (hne e List.mem_cons_self)]

/-- The records of an MSCALE are the scale state once it completes. -/
theorem scaleRec_completeWord {r : Running} (s : State) {l : List (Nat × BitVec 128)} {n : Nat} {v : BitVec 128} (hl : r.scale = some l)
    (hnd : (l.map Prod.fst).Nodup) (hmem : (n, v) ∈ l) : (completeWord r s).cur.scaleRec n = v := by
  have htabs := congrArg StrandTabs.scale (tabs_completeWord r s)
  rw [hl] at htabs
  change sget 1 (completeWord r s).cur.tabs.scale n = v
  rw [htabs]
  exact (sget_foldl_sset 1 l [] hnd).1 hmem

end Sys2Proof.Machine
end

section
/-! PROOFS. The matrix words (O39). -/

namespace Sys2Proof.Machine

/-- The recurrence of R198 from time 0. -/
theorem chunkTimes_from_zero {R T n : Nat} {x : List (Nat × Nat × Nat) × Nat} (hx : x = chunkTimes R T n 0 0 0 0) : x.1.length = n
    ∧ (∀ j, j < n → (x.1.getD j (0, 0, 0)).1 = j)
    ∧ (0 < n → (x.1.getD 0 (0, 0, 0)).2 = (0, R))
    ∧ (∀ j, 0 < j → j < n →
        (x.1.getD j (0, 0, 0)).2.1 = max ((x.1.getD (j - 1) (0, 0, 0)).2.1 + R)
            (if j = 1 then 0 else (x.1.getD (j - 2) (0, 0, 0)).2.2 + T)
          ∧ (x.1.getD j (0, 0, 0)).2.2 = max ((x.1.getD j (0, 0, 0)).2.1 + R) ((x.1.getD (j - 1) (0, 0, 0)).2.2 + T))
    ∧ x.2 = if n = 0 then 0 else (x.1.getD (n - 1) (0, 0, 0)).2.2 + T := by
  obtain ⟨y, hy, hlen, hnum, hfirst, hnext, hend⟩ := chunkTimes_spec R T n 0 0 0 0
  obtain rfl : y = x := hy.symm.trans hx.symm
  refine ⟨hlen, fun j hj => (hnum j hj).trans (Nat.zero_add j), fun hn => ?_, hnext, hend⟩
  obtain ⟨hpop, hstep⟩ := hfirst hn
  rw [if_pos rfl] at hpop
  refine Prod.ext hpop ?_
  rw [hstep, hpop, Nat.zero_add, Nat.max_zero]

theorem Num.mul_cases (a b : Num) (n m : Bool) (k : Nat) (e : Int) :
    (a.isNan = true ∨ b.isNan = true → a.mul b = (.nan, false))
      ∧ (a = .inf n → b = .inf m → a.mul b = (.inf (n != m), false))
      ∧ (a = .inf n ∧ b = .fin m k e ∨ a = .fin m k e ∧ b = .inf n → a.mul b = if k = 0 then (.nan, true) else (.inf (n != m), false)) := by
  refine ⟨?_, ?_, ?_⟩
  · rintro (h | h)
    · rw [Num.eq_nan_of_isNan h, Num.nan_mul]
    · rw [Num.eq_nan_of_isNan h, Num.mul_nan]
  · rintro rfl rfl
    rfl
  · rintro (⟨rfl, rfl⟩ | ⟨rfl, rfl⟩)
    · exact (Num.mul_inf n m k e).1
    · exact (Num.mul_inf n m k e).2

/-- A floating K-step with an invalid product, a NaN or an infinity (R38). -/
theorem kstep_special {fa fb old : Nat} {l : List (Lane × Lane)} {p : Lane × Lane → Num × Bool}
    (hp : p = fun x => (opNum fa x.1).mul (opNum fb x.2)) :
    ((∃ x ∈ l, (p x).2 = true) ∨ ((∃ x ∈ l, (p x).1 = .inf false) ∧ ∃ x ∈ l, (p x).1 = .inf true) →
        kstepFlt .flt fa fb old l = joinF32 old (.nan, true))
      ∧ ((∀ x ∈ l, (p x).2 = false) → (∀ n, ¬ ((∃ x ∈ l, (p x).1 = .inf n) ∧ ∃ x ∈ l, (p x).1 = .inf !n)) →
          ((∃ x ∈ l, (p x).1 = .nan) → kstepFlt .flt fa fb old l = joinF32 old (.nan, false))
          ∧ ∀ n, (∀ x ∈ l, (p x).1 ≠ .nan) → (∃ x ∈ l, (p x).1 = .inf n) → kstepFlt .flt fa fb old l = joinF32 old (.inf n, false)) := by
  obtain rfl : p = kProd .flt fa fb := hp
  rw [kstepFlt_of_flt]
  refine ⟨fun h => ?_, fun hok hinf => ⟨fun h => ?_, fun n hnan h => ?_⟩⟩
  · rw [kSum_of_invalid h]
  · rw [kSum_of_nan hok hinf h]
  · rw [kSum_of_inf hok hinf hnan h]

/-- A weight-only K-step: the weights in BF16, and CLAMP when one was clamped (R196). -/
theorem kstep_weights {fa fb old : Nat} {l : List (Lane × Lane)} (hl : ∀ x ∈ l, (opNum fa x.1).isFin = true ∧ (weightNum fb x.2).1.isFin = true) :
    ∃ v : Num, v.isFin = true ∧ v.rat = (l.map fun x => (opNum fa x.1).rat * (weightNum fb x.2).1.rat).sum
      ∧ kstepFlt .wgt fa fb old l = ((joinF32 old (v, false)).1,
          (joinF32 old (v, false)).2 ||| (if ∃ x ∈ l, (weightNum fb x.2).2 ≠ 0 then flagCLAMP else 0)) := by
  obtain ⟨v, hf, hrat, hsum⟩ := kSum_of_finite (k := .wgt) hl
  have hflags := foldl_or_flag (fun x : Lane × Lane => (weightNum fb x.2).2) flagCLAMP l fun x _ => weightNum_flags fb x.2
  refine ⟨v, hf, hrat, ?_⟩
  rw [kstepFlt_eq, hsum, ← hflags]
  rfl

/-- Settles O39: the arithmetic of each kind of K-step, the rows that a K-step, a drain and MSUM's correction write, and the pops. -/
theorem matrixEffects : Obligations.MatrixEffects := by
  unfold Obligations.MatrixEffects
  refine ⟨?times, ?int, ?finite, ?special, ?products, ?weights, ?weight, ?join, ?lns, ?element, ?drainInt, ?drainFlt, ?drainRow, ?pops,
    ?rows, ?correct, ?last, ?scale, ?scaled⟩
  case times => exact fun R T n x hx => chunkTimes_from_zero hx
  case int =>
    intro fa fb old isat draw l ha hb hl
    have hsub : ∀ f ∈ [0x06, 0x07], f ∈ intCodes := by decide
    change joinInt isat old ((intSum fa fb l).getD _) = _
    rw [intSum_of_int (hsub fa ha) (hsub fb hb) hl, Option.getD_some]
  case finite =>
    intro fa fb old isat draw l hl
    obtain ⟨v, hf, hrat, hsum⟩ := kSum_of_finite (k := .flt) hl
    refine ⟨v, hf, hrat, ?_⟩
    change kstepFlt .flt fa fb old l = _
    rw [kstepFlt_of_flt, hsum]
  case special => exact fun fa fb old isat draw l p hp => kstep_special hp
  case products => exact Num.mul_cases
  case weights => exact fun fa fb old isat draw l hl => kstep_weights hl
  case weight => exact fun f x n m e v top hv h htop => weightNum_spec hv h htop
  case join => exact fun old v inv c t hc ht => joinF32_spec hc ht
  case lns => exact fun fa fb old isat draw l top d hle hmax hd => kstepLns_spec hle hmax hd
  case element =>
    intro k kel e steps j t f a b r u cut at_ res _ hb hu hcut hat hres
    subst hcut
    exact kstepAll_spec hb hu hat hres
  case drainInt => exact fun fd acc mode r x hf hx => drainElem_int hf hx
  case drainFlt => exact fun fd acc mode r y hf ha hb hm hy => drainElem_flt hf ha hb hm hy
  case drainRow => exact fun bank qd m zero r u h res _ hh hu hres => drainRow_spec hh hu hres
  case pops => exact fun bank f g i sideB r u got qs ht hi hqs hgot hu => msumTake_pops ht hi hqs hgot hu
  case rows => exact fun fmt e l => rowSum_eq fmt l e
  case correct => exact fun bank sideB z sums r u at_ res hsums hu hat hres => msumCorrect_spec hsums hu hat hres
  case last => exact fun t bank side f gm c r got hw ht => take_msum got hw ht
  case scale => exact fun q r b old hb hold => mscaleTake_spec hb hold
  case scaled => exact fun r s l n v hl hnd hmem => scaleRec_completeWord s hl hnd hmem

end Sys2Proof.Machine
end

section
/-! PROOFS. The sum-product engine's arithmetic (R28, R29, R257). -/

namespace Sys2Proof.Machine

/-! ### Exact results -/

theorem spVal_fin (b : Nat) : (spVal b).isFin = true := by
  unfold spVal
  dsimp only
  split <;> rfl

/-- w × (l + r) for numbers. -/
theorem spWsum_of_fin {fp : Bool} {w a b : Nat} (hw : (spNum fp w).isFin = true) (ha : (spNum fp a).isFin = true) (hb : (spNum fp b).isFin = true) :
    ∃ z : Num, z.isFin = true ∧ z.rat = (spNum fp w).rat * ((spNum fp a).rat + (spNum fp b).rat) ∧ spWsum fp w a b = spRound fp (z, false) := by
  obtain ⟨hs, hsf, hsr⟩ := Num.add_fin ha hb
  obtain ⟨hp, hpf, hpr⟩ := Num.mul_fin hw hsf
  refine ⟨_, hpf, by rw [hpr, hsr], ?_⟩
  unfold spWsum
  dsimp only
  rw [if_neg (by rw [Num.isNan_of_isFin hw]; simp), hs, hp]
  rfl

/-- Products, sums and weighted sums of numbers are exact, and rounded once. -/
theorem spArith_of_fin {fp : Bool} {w a b : Nat} (hw : (spNum fp w).isFin = true) (ha : (spNum fp a).isFin = true) (hb : (spNum fp b).isFin = true) :
    ∃ x y z : Num, x.isFin = true ∧ y.isFin = true ∧ z.isFin = true
      ∧ x.rat = (spNum fp a).rat * (spNum fp b).rat ∧ spMul fp a b = spRound fp (x, false)
      ∧ y.rat = (spNum fp a).rat + (spNum fp b).rat ∧ spAdd fp a b = spRound fp (y, false)
      ∧ z.rat = (spNum fp w).rat * ((spNum fp a).rat + (spNum fp b).rat) ∧ spWsum fp w a b = spRound fp (z, false) := by
  obtain ⟨hp, hpf, hpr⟩ := Num.mul_fin ha hb
  obtain ⟨hs, hsf, hsr⟩ := Num.add_fin ha hb
  obtain ⟨z, hzf, hzr, hz⟩ := spWsum_of_fin hw ha hb
  exact ⟨_, _, z, hpf, hsf, hzf, hpr, congrArg (spRound fp) (Prod.ext rfl hp), hsr, congrArg (spRound fp) (Prod.ext rfl hs), hzr, hz⟩

/-! ### Rounding to SP32 (R28, R29) -/

theorem spVal_rat (k : Nat) : (spVal k).rat =
    if k / 2 ^ 22 % 1024 = 0 then 0 else ((2 ^ 22 + k % 2 ^ 22 : Nat) : ℚ) * 2 ^ (((k / 2 ^ 22 % 1024 : Nat) : Int) - 982) := by
  unfold spVal
  dsimp only
  split
  · exact Num.rat_zero
  · rw [Num.rat_fin_eq_ite, if_neg (by simp)]

/-- Every value of SP32 lies on the step of a magnitude, or below the magnitude's most significant bit. -/
theorem spVal_grid {b l : Int} (hl : l = b - 22) (k : Nat) : (l ≤ b ∧ (spVal k).rat < 2 ^ b) ∨ ∃ j : Int, (spVal k).rat = j * 2 ^ l := by
  rw [spVal_rat]
  split
  · exact .inr ⟨0, by simp⟩
  · have hlt : 2 ^ 22 + k % 2 ^ 22 < 2 ^ 23 := by omega
    generalize ((k / 2 ^ 22 % 1024 : Nat) : Int) - 982 = x
    generalize 2 ^ 22 + k % 2 ^ 22 = sig at *
    by_cases hx : l ≤ x
    · refine .inr ⟨sig * 2 ^ (x - l).toNat, ?_⟩
      rw [two_zpow_toNat hx]
      push_cast
      ring
    · refine .inl ⟨by omega, ?_⟩
      have hsig : (sig : ℚ) < 2 ^ (23 : Int) := by exact_mod_cast hlt
      calc (sig : ℚ) * 2 ^ x < 2 ^ (23 : Int) * 2 ^ x := mul_lt_mul_of_pos_right hsig (two_zpow_pos _)
        _ ≤ 2 ^ b := by
          rw [← two_zpow_add]
          exact two_zpow_le_iff.mpr (by omega)

/-- The code of a rounded significand of 23 bits, or of the next power of two. -/
def spCode (q : Nat) (l : Int) : Nat := ((if q = 2 ^ 23 then l + 23 else l + 22) + 960).toNat * 2 ^ 22 + (if q = 2 ^ 23 then 0 else q - 2 ^ 22)

theorem spCode_spec {q : Nat} {l : Int} (hlo : 2 ^ 22 ≤ q) (hhi : q ≤ 2 ^ 23) (hbot : -981 ≤ l) (htop : l ≤ 41) (hlast : l = 41 → q < 2 ^ 23) :
    spCode q l < 2 ^ 32 ∧ (spVal (spCode q l)).rat = q * (2 : ℚ) ^ l ∧ spCode q l % 2 = q % 2 := by
  obtain ⟨n, hn⟩ : ∃ n : Nat, l + 982 = n := ⟨(l + 982).toNat, by omega⟩
  rw [spVal_rat]
  unfold spCode
  by_cases hq : q = 2 ^ 23
  · simp only [if_pos hq]
    rw [show (l + 23 + 960).toNat = n + 1 by omega]
    have hdiv : ((n + 1) * 2 ^ 22 + 0) / 2 ^ 22 % 1024 = n + 1 := by omega
    have hmod : ((n + 1) * 2 ^ 22 + 0) % 2 ^ 22 = 0 := by omega
    refine ⟨by omega, ?_, by omega⟩
    rw [hdiv, hmod, if_neg (by omega), hq, show ((n + 1 : Nat) : Int) - 982 = 1 + l by omega, two_zpow_add]
    norm_num
    ring
  · simp only [if_neg hq]
    rw [show (l + 22 + 960).toNat = n by omega]
    have hdiv : (n * 2 ^ 22 + (q - 2 ^ 22)) / 2 ^ 22 % 1024 = n := by omega
    have hmod : 2 ^ 22 + (n * 2 ^ 22 + (q - 2 ^ 22)) % 2 ^ 22 = q := by omega
    refine ⟨by omega, ?_, by omega⟩
    rw [hdiv, hmod, if_neg (by omega), show ((n : Nat) : Int) - 982 = l by omega]

theorem log2_of_sig {q : Nat} (hlo : 2 ^ 22 ≤ q) (hhi : q ≤ 2 ^ 23) : q.log2 = if q = 2 ^ 23 then 23 else 22 := by
  split
  · subst q
    exact Nat.log2_two_pow
  · exact (Nat.log2_eq_iff (by omega)).mpr ⟨hlo, by omega⟩

theorem toSp_of_sig {m : Nat} {e l : Int} {q : Nat} {nx : Bool} (hm : m ≠ 0) (hl : l = msbExp m e - 22) (hq : roundMag .rne false m e l = (q, nx))
    (hlo : 2 ^ 22 ≤ q) (hhi : q ≤ 2 ^ 23) (hbot : -981 ≤ l) (htop : l ≤ 41) (hlast : l = 41 → q < 2 ^ 23) :
    toSp (.fin false m e) = (spCode q l, if nx then flagNX else 0) := by
  have hmsb : msbExp q l = if q = 2 ^ 23 then l + 23 else l + 22 := by
    unfold msbExp
    rw [log2_of_sig hlo hhi]
    split <;> omega
  have hrange : ¬ (if q = 2 ^ 23 then l + 23 else l + 22) < -959 ∧ ¬ 64 ≤ (if q = 2 ^ 23 then l + 23 else l + 22) := by
    split <;> omega
  unfold toSp
  dsimp only
  rw [if_neg hm, if_neg (by simp), ← hl, hq]
  dsimp only
  rw [hmsb, if_neg hrange.1, if_neg hrange.2]
  rfl

/-- A magnitude within the range of SP32 rounds to its nearest code, and the even one of two (R29). -/
theorem toSp_nearest {v : Num} {c : Nat × BitVec 8} (hf : v.isFin = true) (hlo : 2 ^ (-959 : ℤ) ≤ v.rat) (hhi : v.rat ≤ (2 ^ 64 - 2 ^ 41 : ℚ))
    (hc : c = toSp v) : c.1 < 2 ^ 32 ∧ (∀ k, k < 2 ^ 32 → |v.rat - (spVal c.1).rat| ≤ |v.rat - (spVal k).rat|)
      ∧ (∀ k, k < 2 ^ 32 → (spVal k).rat ≠ (spVal c.1).rat → |v.rat - (spVal k).rat| = |v.rat - (spVal c.1).rat| → c.1 % 2 = 0)
      ∧ c.2 = if (spVal c.1).rat = v.rat then 0 else flagNX := by
  obtain ⟨n, m, e, rfl⟩ := Num.exists_fin_of_isFin hf
  have hpos : 0 < (Num.fin n m e).rat := (two_zpow_pos _).trans_le hlo
  have hm : m ≠ 0 := fun h => hpos.ne' (Num.rat_fin_eq_zero_iff.mpr h)
  obtain rfl : n = false := by
    cases n
    · rfl
    · exact absurd (Num.rat_fin_neg_iff.mpr ⟨rfl, hm⟩) (not_lt.mpr hpos.le)
  have hrat : (Num.fin false m e).rat = m * 2 ^ e := by rw [Num.rat_fin_eq_ite, if_neg (by simp)]
  rw [hrat] at *
  obtain ⟨l, hl⟩ : ∃ l, l = msbExp m e - 22 := ⟨_, rfl⟩
  obtain ⟨⟨q, nx⟩, hq⟩ : ∃ x, roundMag .rne false m e l = x := ⟨_, rfl⟩
  obtain ⟨hmlo, hmhi⟩ := msbExp_bounds hm e
  obtain ⟨hnear, hflag⟩ := roundMag_rne false m e l
  rw [hq, ← two_zpow_div_grid] at hnear hflag
  have hp := two_zpow_pos l
  have hpow (k : Nat) : (((2 ^ k : Nat) : Int) : ℚ) * 2 ^ l = 2 ^ (k + l) := by
    rw [two_zpow_add, zpow_natCast]
    push_cast
    rfl
  have hqlo : 2 ^ 22 ≤ q := by
    have hge := hnear.le_of_ge (k := (2 ^ 22 : Nat)) <| by
      rw [le_div_iff₀ hp, hpow]
      exact (two_zpow_le_iff.mpr (by omega)).trans hmlo
    exact_mod_cast hge
  have hqhi : q ≤ 2 ^ 23 := by
    have hle := hnear.le_of_le (k := (2 ^ 23 : Nat)) <| by
      rw [div_le_iff₀ hp, hpow]
      exact hmhi.le.trans (two_zpow_le_iff.mpr (by omega))
    exact_mod_cast hle
  have hbot : -981 ≤ l := by
    have := two_zpow_lt_iff.mp (hlo.trans_lt hmhi)
    omega
  have htop : l ≤ 41 := by
    have hlt : (2 : ℚ) ^ msbExp m e < 2 ^ (64 : Int) := (hmlo.trans hhi).trans_lt (by norm_num)
    have := two_zpow_lt_iff.mp hlt
    omega
  have hlast : l = 41 → q < 2 ^ 23 := fun h41 => by
    have hle := hnear.le_of_le (k := (2 ^ 23 - 1 : Nat)) <| by
      rw [div_le_iff₀ hp, h41]
      exact hhi.trans (by norm_num)
    have : q ≤ 2 ^ 23 - 1 := by exact_mod_cast hle
    omega
  obtain ⟨hlt, hval, heven⟩ := spCode_spec hqlo hqhi hbot htop hlast
  rw [toSp_of_sig hm hl hq hqlo hqhi hbot htop hlast] at hc
  subst hc
  dsimp only
  have hgrid (k : Nat) := nearest_grid_le hnear ((spVal_grid hl k).imp_left fun ⟨h1, h2⟩ => ⟨by omega, hmlo, h2⟩)
  rw [hval, heven]
  refine ⟨hlt, fun k _ => (hgrid k).1, fun k _ hne ht => ?_, ?_⟩
  · have := (hgrid k).2 hne ht
    omega
  · have hexact : (q : ℚ) * 2 ^ l = m * 2 ^ e ↔ nx = false := by
      rw [hflag, eq_div_iff hp.ne']
    cases nx
    · rw [if_pos (hexact.mpr rfl)]
      rfl
    · rw [if_neg fun h => absurd (hexact.mp h) (by simp)]
      rfl

end Sys2Proof.Machine
end

section
/-! PROOFS. The passes over a tree (R253, R256, R258). -/

namespace Sys2Proof.Machine

/-! ### Presence (R251, R253) -/

theorem spPresentGo_succ (sh : Nat) (n : Nat) : ∀ {p : Nat}, spPresentGo sh n p = true → spPresentGo sh (n + 1) p = true := by
  induction n with
  | zero => exact fun h => absurd h (by simp [spPresentGo])
  | succ n ih =>
    intro p h
    rw [spPresentGo] at h ⊢
    by_cases hp : 16 ≤ p
    · rwa [if_pos hp] at h ⊢
    · rw [if_neg hp] at h ⊢
      by_cases hk : spKind sh p = 0
      · rw [if_pos hk] at h ⊢
        exact ih h
      · rw [if_neg hk, Bool.or_eq_true] at h ⊢
        exact h.imp ih ih

theorem inSubtree_iff {root p : Nat} : inSubtree root p = true ↔ root ≠ 0 ∧ root.log2 ≤ p.log2 ∧ p / 2 ^ (p.log2 - root.log2) = root := by
  unfold inSubtree
  simp [and_assoc]

theorem le_of_inSubtree {root p : Nat} (h : inSubtree root p = true) : root ≤ p := by
  obtain ⟨-, -, h⟩ := inSubtree_iff.mp h
  calc root = p / 2 ^ (p.log2 - root.log2) := h.symm
    _ ≤ p := Nat.div_le_self _ _

theorem inSubtree_child {root i c : Nat} (h0 : 1 ≤ i) (hc : c / 2 = i) (h : inSubtree root i = true) : inSubtree root c = true := by
  obtain ⟨hne, hle, hdiv⟩ := inSubtree_iff.mp h
  have hlog : c.log2 = i.log2 + 1 := by
    rw [Nat.log2_def, if_pos (by omega), hc]
  refine inSubtree_iff.mpr ⟨hne, by omega, ?_⟩
  rw [hlog, Nat.succ_sub hle, pow_succ', ← Nat.div_div_eq_div_mul, hc, hdiv]

/-- A present node has a present child: the left one when it is absent itself. -/
theorem spPresent_child {sh i : Nat} (h0 : 1 ≤ i) (hi : i < 16) (h : spPresent sh i = true) :
    if spKind sh i = 0 then spPresent sh (2 * i) = true else spPresent sh (2 * i) = true ∨ spPresent sh (2 * i + 1) = true := by
  obtain ⟨hin, hgo⟩ := Bool.and_eq_true_iff.mp h
  have hleft := inSubtree_child h0 (c := 2 * i) (by omega) hin
  have hright := inSubtree_child h0 (c := 2 * i + 1) (by omega) hin
  rw [spPresentGo, if_neg (by omega)] at hgo
  split
  case isTrue hk =>
    rw [if_pos hk] at hgo
    exact Bool.and_eq_true_iff.mpr ⟨hleft, spPresentGo_succ sh 4 hgo⟩
  case isFalse hk =>
    rw [if_neg hk, Bool.or_eq_true] at hgo
    exact hgo.imp (fun h => Bool.and_eq_true_iff.mpr ⟨hleft, spPresentGo_succ sh 4 h⟩)
      (fun h => Bool.and_eq_true_iff.mpr ⟨hright, spPresentGo_succ sh 4 h⟩)

theorem root_le_of_present {sh p : Nat} (h : spPresent sh p = true) : spRoot sh ≤ p := le_of_inSubtree (Bool.and_eq_true_iff.mp h).1

theorem spKind_lt (sh i : Nat) : spKind sh i < 4 := Nat.mod_lt _ (by decide)

/-! ### The upward pass (R256) -/

theorem SpRun.val_eq_of_sget {r : SpRun} {p v : Nat} (h : sget none r.vals p = some v) : r.val p = v := by
  unfold SpRun.val
  rw [h]
  rfl

theorem SpEnv.upNode_absent {e : SpEnv} {r : SpRun} {i : Nat} (h : spPresent e.sh i = false) : e.upNode r i = r := by
  unfold SpEnv.upNode
  dsimp only
  rw [if_pos (by simp [h])]

/-- A present node takes the value of R256. -/
theorem SpEnv.upNode_present {e : SpEnv} {r : SpRun} {i : Nat} (h0 : 1 ≤ i) (hi : i < 16) (h : spPresent e.sh i = true) :
    (e.upNode r i).vals = sset none r.vals i (some (upRow e r.val i).1) ∧ (e.upNode r i).flags = r.flags ||| (upRow e r.val i).2 := by
  have hchild := spPresent_child h0 hi h
  unfold SpEnv.upNode upRow spOnly SpEnv.weighted
  simp only [h]
  by_cases hk : spKind e.sh i = 0
  · simp [hk, SpRun.put]
  · rw [if_neg hk] at hchild
    cases hl : spPresent e.sh (2 * i) <;> cases hr : spPresent e.sh (2 * i + 1)
    · simp [hl, hr] at hchild
    all_goals
      simp only [hk, if_false, Bool.not_true, Bool.not_false, Bool.and_true, Bool.and_false, Bool.false_eq_true, if_true]
      split_ifs <;> exact ⟨rfl, rfl⟩

/-- A node's value comes from those of its children. -/
theorem upRow_congr {e : SpEnv} {f g : Nat → Nat} {i : Nat} (hl : f (2 * i) = g (2 * i)) (hr : f (2 * i + 1) = g (2 * i + 1)) :
    upRow e f i = upRow e g i := by
  unfold upRow
  dsimp only
  rw [hl, hr]

/-- Nodes taken in descending order. -/
theorem foldl_upNode (e : SpEnv) (l : List Nat) : l.Pairwise (· > ·) → (∀ i ∈ l, 1 ≤ i ∧ i < 16) → ∀ (r u : SpRun), u = l.foldl e.upNode r →
    (∀ p, p ∉ l → sget none u.vals p = sget none r.vals p)
      ∧ (∀ i ∈ l, spPresent e.sh i = true →
          sget none u.vals i = some (upRow e u.val i).1 ∧ (upRow e u.val i).2 &&& u.flags = (upRow e u.val i).2)
      ∧ ∀ f, f &&& r.flags = f → f &&& u.flags = f := by
  induction l with
  | nil =>
    rintro - - r u rfl
    exact ⟨fun _ _ => rfl, nofun, fun _ h => h⟩
  | cons i l ih =>
    intro hsort hrange r u hu
    obtain ⟨hgt, hsort⟩ := List.pairwise_cons.mp hsort
    obtain ⟨h0, hi⟩ := hrange i List.mem_cons_self
    obtain ⟨hkeep, hin, hmono⟩ := ih hsort (fun k hk => hrange k (List.mem_cons_of_mem _ hk)) (e.upNode r i) u hu
    have hnot {p : Nat} (hp : i ≤ p) : p ∉ l := fun hm => absurd (hgt p hm) (by omega)
    cases hpres : spPresent e.sh i
    · rw [SpEnv.upNode_absent hpres] at hkeep hmono
      refine ⟨fun p hp => hkeep p fun h => hp (List.mem_cons_of_mem _ h), fun k hk hkp => ?_, hmono⟩
      rcases List.mem_cons.mp hk with rfl | hk
      · rw [hpres] at hkp
        cases hkp
      · exact hin k hk hkp
    · obtain ⟨hvals, hflags⟩ := SpEnv.upNode_present (r := r) h0 hi hpres
      rw [hvals] at hkeep
      rw [hflags] at hmono
      have hchild {p : Nat} (hp : i < p) : u.val p = r.val p := by
        unfold SpRun.val
        rw [hkeep p (hnot hp.le), sget_sset_other _ _ _ hp.ne']
      have hrow := upRow_congr (e := e) (hchild (p := 2 * i) (by omega)) (hchild (p := 2 * i + 1) (by omega))
      refine ⟨fun p hp => ?_, fun k hk hkp => ?_, fun f hf => hmono f (and_or_of_and _ hf)⟩
      · obtain ⟨hne, hnl⟩ := not_or.mp fun h => hp (List.mem_cons.mpr h)
        rw [hkeep p hnl, sget_sset_other _ _ _ hne]
      · rcases List.mem_cons.mp hk with rfl | hk
        · rw [hrow, hkeep k (hnot le_rfl), sget_sset_same]
          exact ⟨rfl, hmono _ (and_or_right _ _)⟩
        · exact hin k hk hkp

/-- The run that has the values of the leaves. -/
def SpEnv.upLeaf (e : SpEnv) (r : SpRun) (j : Nat) : SpRun :=
  if spPresent e.sh (16 + j) then (r.rd (spLeafReg e.ls j)).put (16 + j) (e.reg (spLeafReg e.ls j), 0) else r

theorem foldl_upLeaf (e : SpEnv) (l : List Nat) : l.Nodup → ∀ r : SpRun,
    (∀ p, (∀ j ∈ l, p ≠ 16 + j) → sget none (l.foldl e.upLeaf r).vals p = sget none r.vals p)
      ∧ ∀ j ∈ l, spPresent e.sh (16 + j) = true → sget none (l.foldl e.upLeaf r).vals (16 + j) = some (e.reg (spLeafReg e.ls j)) := by
  induction l with
  | nil => exact fun _ r => ⟨fun _ _ => rfl, nofun⟩
  | cons j l ih =>
    intro hnd r
    obtain ⟨hj, hnd⟩ := List.nodup_cons.mp hnd
    obtain ⟨hkeep, hin⟩ := ih hnd (e.upLeaf r j)
    rw [List.foldl_cons]
    refine ⟨fun p hp => ?_, fun k hk hkp => ?_⟩
    · rw [hkeep p fun k hk => hp k (List.mem_cons_of_mem _ hk)]
      unfold SpEnv.upLeaf
      split
      · exact sget_sset_other _ _ _ (hp j List.mem_cons_self)
      · rfl
    · rcases List.mem_cons.mp hk with rfl | hk
      · rw [hkeep (16 + k) fun x hx h => hj (by rwa [show k = x by omega])]
        unfold SpEnv.upLeaf
        rw [if_pos hkp]
        exact sget_sset_same _ _ _ _
      · exact hin k hk hkp

/-- The upward pass (R256): every leaf and node, the saves in ascending order, and the root's value last. -/
theorem SpEnv.up_spec {e : SpEnv} {dest : Nat} {x : SpRun × List (Nat × Nat)} (hx : x = e.up dest) :
    (∀ j, j < 16 → spPresent e.sh (16 + j) = true → sget none x.1.vals (16 + j) = some (e.reg (spLeafReg e.ls j)))
      ∧ (∀ i, 1 ≤ i → i < 16 → spPresent e.sh i = true →
          sget none x.1.vals i = some (upRow e x.1.val i).1 ∧ (upRow e x.1.val i).2 &&& x.1.flags = (upRow e x.1.val i).2)
      ∧ x.2 = (((List.range 16).filter fun i => i != 0 && spPresent e.sh i && spSave e.ls i).map fun i => (spSaveReg e.ls i, x.1.val i))
          ++ [(dest, x.1.val (spRoot e.sh))] := by
  have hx1 : x.1 = (upFrom 1 15).reverse.foldl e.upNode ((upFrom 0 16).foldl e.upLeaf {}) := by
    rw [hx]
    rfl
  have hmem {i : Nat} : i ∈ (upFrom 1 15).reverse ↔ 1 ≤ i ∧ i < 16 := by
    rw [List.mem_reverse, upFrom_eq_range', List.mem_range'_1]
  obtain ⟨hkeep, hin, -⟩ := foldl_upNode e _ (by decide) (fun i hi => hmem.mp hi) _ _ hx1
  obtain ⟨-, hleaf⟩ := foldl_upLeaf e (upFrom 0 16) (by decide) {}
  refine ⟨fun j hj hp => ?_, fun i h0 hi hp => hin i (hmem.mpr ⟨h0, hi⟩) hp, ?_⟩
  · rw [hkeep (16 + j) fun h => absurd (hmem.mp h).2 (by omega)]
    exact hleaf j (by rw [upFrom_zero]; exact List.mem_range.mpr hj) hp
  · have hfilter : (List.range 16).filter (fun i => i != 0 && spPresent e.sh i && spSave e.ls i)
        = (upFrom 1 15).filter fun i => spPresent e.sh i && spSave e.ls i := by
      have hrange : List.range 16 = 0 :: upFrom 1 15 := by decide
      rw [hrange, List.filter_cons_of_neg (by simp)]
      refine List.filter_congr fun i hi => ?_
      have hne : i ≠ 0 := by
        have := (hmem.mp (List.mem_reverse.mpr hi)).1
        omega
      simp only [bne_iff_ne.mpr hne, Bool.true_and]
    rw [hfilter, hx]
    rfl

end Sys2Proof.Machine
end

section
/-! PROOFS. The downward pass (R258). -/

namespace Sys2Proof.Machine

/-- A position takes a gradient, when there is one. -/
def putRow (m : SMap (Option Nat)) (p : Nat) (o : Option (Nat × BitVec 8)) : SMap (Option Nat) := o.elim m fun y => sset none m p (some y.1)

theorem sget_putRow_same {m : SMap (Option Nat)} {p : Nat} (o : Option (Nat × BitVec 8)) (h : sget none m p = none) :
    sget none (putRow m p o) p = o.map Prod.fst := by
  cases o with
  | none => exact h
  | some y => exact sget_sset_same _ _ _ _

theorem sget_putRow_other {m : SMap (Option Nat)} {p k : Nat} (o : Option (Nat × BitVec 8)) (h : k ≠ p) :
    sget none (putRow m p o) k = sget none m k := by
  cases o with
  | none => rfl
  | some y => exact sget_sset_other _ _ _ h

/-- The flags of a gradient. -/
def rowFlags (o : Option (Nat × BitVec 8)) : BitVec 8 := o.elim 0 Prod.snd

/-- A value that the pass needs is there: a leaf's, or a saved one (R258). -/
def SpEnv.has (e : SpEnv) (p : Nat) : Bool := decide (16 ≤ p) || spSave e.ls p

theorem SpEnv.saved_spec (e : SpEnv) (r : SpRun) (p : Nat) :
    (e.saved r p).1.vals = r.vals ∧ (e.saved r p).1.flags = r.flags ∧ (e.saved r p).1.fault = (r.fault || !e.has p)
      ∧ (e.has p = true → (e.saved r p).2 = spRead e p) := by
  unfold SpEnv.saved SpEnv.has spRead
  by_cases h : 16 ≤ p
  · simp [h, SpRun.rd]
  · cases hs : spSave e.ls p <;> simp [h, SpRun.rd]

/-- A node whose gradients come from both its children's values: a product, or a maximum. -/
def SpEnv.reads (e : SpEnv) (i : Nat) : Bool :=
  spPresent e.sh (2 * i) && spPresent e.sh (2 * i + 1) && (spKind e.sh i == 2 || spKind e.sh i == 3 && spMax e.mode)

theorem SpEnv.downNode_none {e : SpEnv} {r : SpRun} {i : Nat} (h : sget none r.vals i = none) : e.downNode r i = r := by
  unfold SpEnv.downNode
  dsimp only
  rw [h]

/-- A node whose gradient goes to one child alone (R253). -/
theorem SpEnv.downNode_only {e : SpEnv} {r : SpRun} {i g c : Nat} (hg : sget none r.vals i = some g) (hc : spOnly e.sh i = some c) :
    e.downNode r i = if e.weighted i then (r.rd (spWReg e.ls i)).put c (spMul (spFp e.mode) g (e.reg (spWReg e.ls i))) else r.put c (g, 0) := by
  unfold SpEnv.downNode
  dsimp only
  rw [hg, hc]

/-- What a node passes to its only child. -/
def downOne (e : SpEnv) (i g : Nat) : Nat × BitVec 8 :=
  if spKind e.sh i == 3 && !spMax e.mode then spMul (spFp e.mode) g (e.reg (spWReg e.ls i)) else (g, 0)

/-- A present node has one present child, the left or the right, or both (R253). -/
theorem spOnly_cases {e : SpEnv} {i : Nat} (h0 : 1 ≤ i) (hi : i < 16) (h : spPresent e.sh i = true) :
    (spOnly e.sh i = some (2 * i) ∧ spPresent e.sh (2 * i) = true ∧ e.reads i = false ∧ ∀ g, downRow e i g = (some (downOne e i g), none))
      ∨ (spOnly e.sh i = some (2 * i + 1) ∧ spPresent e.sh (2 * i + 1) = true ∧ e.reads i = false ∧ ∀ g, downRow e i g = (none, some (downOne e i g)))
      ∨ spOnly e.sh i = none ∧ spKind e.sh i ≠ 0 ∧ spPresent e.sh (2 * i) = true ∧ spPresent e.sh (2 * i + 1) = true := by
  have hchild := spPresent_child h0 hi h
  unfold spOnly SpEnv.reads downRow
  by_cases hk : spKind e.sh i = 0
  · rw [if_pos hk] at hchild
    exact .inl (by simp [hk, hchild, downOne])
  · rw [if_neg hk] at hchild
    cases hl : spPresent e.sh (2 * i) <;> cases hr : spPresent e.sh (2 * i + 1)
    · simp [hl, hr] at hchild
    · exact .inr (.inl (by simp [hk, downOne]))
    · exact .inl (by simp [hk, downOne])
    · exact .inr (.inr (by simp [hk]))

theorem SpEnv.downNode_only_eq {e : SpEnv} {r : SpRun} {i g c : Nat} (hg : sget none r.vals i = some g) (hc : spOnly e.sh i = some c) :
    (e.downNode r i).fault = r.fault ∧ (e.downNode r i).vals = putRow r.vals c (some (downOne e i g))
      ∧ (e.downNode r i).flags = r.flags ||| (downOne e i g).2 := by
  rw [SpEnv.downNode_only hg hc]
  unfold SpEnv.weighted downOne
  split <;> exact ⟨rfl, rfl, rfl⟩

/-- A node with both children present (R258). -/
theorem SpEnv.downNode_both {e : SpEnv} {r : SpRun} {i g : Nat} (hg : sget none r.vals i = some g) (hc : spOnly e.sh i = none) :
    e.downNode r i =
      if spKind e.sh i = 1 then (r.put (2 * i) (g, 0)).put (2 * i + 1) (g, 0)
      else if spKind e.sh i = 2 then
        ((e.saved (e.saved r (2 * i)).1 (2 * i + 1)).1.put (2 * i) (spMul (spFp e.mode) g (e.saved (e.saved r (2 * i)).1 (2 * i + 1)).2)).put
          (2 * i + 1) (spMul (spFp e.mode) g (e.saved r (2 * i)).2)
      else if spMax e.mode then
        (e.saved (e.saved r (2 * i)).1 (2 * i + 1)).1.put
          (if spLeftMax (spFp e.mode) (e.saved r (2 * i)).2 (e.saved (e.saved r (2 * i)).1 (2 * i + 1)).2 then 2 * i else 2 * i + 1) (g, 0)
      else
        ((r.rd (spWReg e.ls i)).put (2 * i) (spMul (spFp e.mode) g (e.reg (spWReg e.ls i)))).put (2 * i + 1)
          (spMul (spFp e.mode) g (e.reg (spWReg e.ls i))) := by
  unfold SpEnv.downNode
  dsimp only
  rw [hg, hc]

/-- Both children's values, read one after the other. -/
theorem SpEnv.saved_pair (e : SpEnv) (r : SpRun) (p q : Nat) :
    (e.saved (e.saved r p).1 q).1.vals = r.vals ∧ (e.saved (e.saved r p).1 q).1.flags = r.flags
      ∧ (e.saved (e.saved r p).1 q).1.fault = (r.fault || !(e.has p && e.has q))
      ∧ (e.has p = true → (e.saved r p).2 = spRead e p) ∧ (e.has q = true → (e.saved (e.saved r p).1 q).2 = spRead e q) := by
  obtain ⟨hv, hf, hx, hr⟩ := e.saved_spec r p
  obtain ⟨hv', hf', hx', hr'⟩ := e.saved_spec (e.saved r p).1 q
  refine ⟨hv'.trans hv, hf'.trans hf, ?_, hr, hr'⟩
  rw [hx', hx]
  cases r.fault <;> cases e.has p <;> cases e.has q <;> rfl

/-- A reached node gives its children the gradients of R258; a product or a maximum needs the values of both. -/
theorem SpEnv.downNode_some {e : SpEnv} {r : SpRun} {i g : Nat} (h0 : 1 ≤ i) (hi : i < 16) (h : spPresent e.sh i = true)
    (hg : sget none r.vals i = some g) :
    (e.downNode r i).fault = (r.fault || (e.reads i && !(e.has (2 * i) && e.has (2 * i + 1))))
      ∧ ((e.downNode r i).fault = false →
          (e.downNode r i).vals = putRow (putRow r.vals (2 * i) (downRow e i g).1) (2 * i + 1) (downRow e i g).2
            ∧ (e.downNode r i).flags = r.flags ||| rowFlags (downRow e i g).1 ||| rowFlags (downRow e i g).2) := by
  rcases spOnly_cases h0 hi h with ⟨hc, -, hreads, hrow⟩ | ⟨hc, -, hreads, hrow⟩ | ⟨hc, hk, hl, hr⟩
  · obtain ⟨hfault, hvals, hflags⟩ := SpEnv.downNode_only_eq hg hc
    rw [hfault, hvals, hflags, hreads, hrow]
    exact ⟨by simp, fun _ => ⟨rfl, by simp [rowFlags]⟩⟩
  · obtain ⟨hfault, hvals, hflags⟩ := SpEnv.downNode_only_eq hg hc
    rw [hfault, hvals, hflags, hreads, hrow]
    exact ⟨by simp, fun _ => ⟨rfl, by simp [rowFlags]⟩⟩
  · obtain ⟨hpv, hpf, hpx, hpl, hpr⟩ := e.saved_pair r (2 * i) (2 * i + 1)
    have hboth : (r.fault || !(e.has (2 * i) && e.has (2 * i + 1))) = false → e.has (2 * i) = true ∧ e.has (2 * i + 1) = true := by simp
    have hlt := spKind_lt e.sh i
    rw [SpEnv.downNode_both hg hc]
    unfold SpEnv.reads downRow
    rw [hl, hr]
    obtain hk1 | hk2 | hk3 : spKind e.sh i = 1 ∨ spKind e.sh i = 2 ∨ spKind e.sh i = 3 := by omega
    · simp [hk1, SpRun.put, putRow, rowFlags]
    · simp only [hk2, SpRun.put, hpv, hpf, hpx]
      refine ⟨by simp, fun hno => ?_⟩
      obtain ⟨hleft, hright⟩ := hboth hno
      rw [hpl hleft, hpr hright]
      exact ⟨rfl, rfl⟩
    · cases hm : spMax e.mode
      · simp [hk3, SpRun.put, SpRun.rd, putRow, rowFlags]
      · simp only [hk3, SpRun.put, hpv, hpf, hpx]
        refine ⟨by simp, fun hno => ?_⟩
        obtain ⟨hleft, hright⟩ := hboth hno
        rw [hpl hleft, hpr hright]
        cases spLeftMax (spFp e.mode) (spRead e (2 * i)) (spRead e (2 * i + 1)) <;> simp [putRow, rowFlags]

/-! ### The nodes in ascending order -/

theorem SpEnv.fault_of_downNode {e : SpEnv} {r : SpRun} {i : Nat} (h : (e.downNode r i).fault = false) : r.fault = false := by
  cases hg : sget none r.vals i with
  | none => rwa [SpEnv.downNode_none hg] at h
  | some g =>
    cases hc : spOnly e.sh i with
    | some c => rwa [(SpEnv.downNode_only_eq hg hc).1] at h
    | none =>
      have hpair : (e.saved (e.saved r (2 * i)).1 (2 * i + 1)).1.fault = false → r.fault = false := fun h => by
        rw [(e.saved_pair r (2 * i) (2 * i + 1)).2.2.1] at h
        exact (Bool.or_eq_false_iff.mp h).1
      rw [SpEnv.downNode_both hg hc] at h
      split_ifs at h
      · exact h
      · exact hpair h
      · exact hpair h
      · exact hpair h
      · exact h

theorem SpEnv.fault_of_foldl {e : SpEnv} (l : List Nat) : ∀ {r : SpRun}, (l.foldl e.downNode r).fault = false → r.fault = false := by
  induction l with
  | nil => exact fun h => h
  | cons i l ih => exact fun h => SpEnv.fault_of_downNode (ih h)

/-- A gradient goes to present children alone. -/
theorem spPresent_of_downRow {e : SpEnv} {i g : Nat} (h0 : 1 ≤ i) (hi : i < 16) (h : spPresent e.sh i = true) :
    (∀ y, (downRow e i g).1 = some y → spPresent e.sh (2 * i) = true) ∧ ∀ y, (downRow e i g).2 = some y → spPresent e.sh (2 * i + 1) = true := by
  rcases spOnly_cases h0 hi h with ⟨-, hl, -, hrow⟩ | ⟨-, hr, -, hrow⟩ | ⟨-, -, hl, hr⟩
  · rw [hrow]
    exact ⟨fun _ _ => hl, nofun⟩
  · rw [hrow]
    exact ⟨nofun, fun _ _ => hr⟩
  · exact ⟨fun _ _ => hl, fun _ _ => hr⟩

/-- What the pass has done from `r` to `u` at the nodes `l`. -/
structure SpEnv.DownDone (e : SpEnv) (l : List Nat) (r u : SpRun) : Prop where
  /-- Positions that are no child of the nodes, and the root, stand. -/
  keep : ∀ p, (p = spRoot e.sh ∨ ∀ i ∈ l, p / 2 ≠ i) → sget none u.vals p = sget none r.vals p
  reached : ∀ i ∈ l, ∀ g, sget none u.vals i = some g →
    sget none u.vals (2 * i) = (downRow e i g).1.map Prod.fst ∧ sget none u.vals (2 * i + 1) = (downRow e i g).2.map Prod.fst
      ∧ (∀ y, (downRow e i g).1 = some y ∨ (downRow e i g).2 = some y → y.2 &&& u.flags = y.2)
      ∧ (e.reads i = true → e.has (2 * i) = true ∧ e.has (2 * i + 1) = true)
  unreached : ∀ i ∈ l, sget none u.vals i = none → ∀ p, p / 2 = i → sget none u.vals p = sget none r.vals p
  flags : ∀ f, f &&& r.flags = f → f &&& u.flags = f

theorem SpEnv.downDone_foldl (e : SpEnv) (l : List Nat) : l.Pairwise (· < ·) → (∀ i ∈ l, 1 ≤ i ∧ i < 16) → ∀ r : SpRun,
    (∀ p g, sget none r.vals p = some g → spPresent e.sh p = true) →
    (∀ p, p / 2 ∈ l → p ≠ spRoot e.sh → sget none r.vals p = none) → (l.foldl e.downNode r).fault = false →
    e.DownDone l r (l.foldl e.downNode r) := by
  induction l with
  | nil => exact fun _ _ r _ _ _ => ⟨fun _ _ => rfl, nofun, nofun, fun _ h => h⟩
  | cons i l ih =>
    intro hsort hrange r hpres hnone hfault
    obtain ⟨hlt, hsort⟩ := List.pairwise_cons.mp hsort
    obtain ⟨h0, hi⟩ := hrange i List.mem_cons_self
    have hrange' : ∀ k ∈ l, 1 ≤ k ∧ k < 16 := fun k hk => hrange k (List.mem_cons_of_mem _ hk)
    have hbefore {p : Nat} (hp : p / 2 ≤ i) : ∀ k ∈ l, p / 2 ≠ k := fun k hk h => absurd (hlt k hk) (by omega)
    rw [List.foldl_cons] at hfault ⊢
    cases hg : sget none r.vals i with
    | none =>
      rw [SpEnv.downNode_none hg] at hfault ⊢
      obtain ⟨hkeep, hreached, hunreached, hflags⟩ := ih hsort hrange' r hpres (fun p hp => hnone p (List.mem_cons_of_mem _ hp)) hfault
      have hui := (hkeep i (.inr (hbefore (by omega)))).trans hg
      refine ⟨fun p hp => hkeep p (hp.imp_right fun h k hk => h k (List.mem_cons_of_mem _ hk)), fun k hk g hkg => ?_,
        fun k hk hkn p hp => ?_, hflags⟩
      · rcases List.mem_cons.mp hk with rfl | hk
        · rw [hui] at hkg
          cases hkg
        · exact hreached k hk g hkg
      · rcases List.mem_cons.mp hk with rfl | hk
        · exact hkeep p (.inr (hbefore hp.le))
        · exact hunreached k hk hkn p hp
    | some g =>
      have hp := hpres i g hg
      have hroot : ∀ p, p / 2 = i → p ≠ spRoot e.sh := fun p hpi h => by
        have := root_le_of_present hp
        omega
      obtain ⟨hfeq, hstep⟩ := SpEnv.downNode_some h0 hi hp hg
      have hf1 := SpEnv.fault_of_foldl l hfault
      obtain ⟨hvals, hfl⟩ := hstep hf1
      rw [hfeq, Bool.or_eq_false_iff] at hf1
      have hother {p : Nat} (h : p / 2 ≠ i) : sget none (e.downNode r i).vals p = sget none r.vals p := by
        rw [hvals, sget_putRow_other _ (by omega), sget_putRow_other _ (by omega)]
      have hleft : sget none (e.downNode r i).vals (2 * i) = (downRow e i g).1.map Prod.fst := by
        rw [hvals, sget_putRow_other _ (by omega),
          sget_putRow_same _ (hnone _ (by rw [show 2 * i / 2 = i by omega]; exact List.mem_cons_self) (hroot _ (by omega)))]
      have hright : sget none (e.downNode r i).vals (2 * i + 1) = (downRow e i g).2.map Prod.fst := by
        rw [hvals, sget_putRow_same]
        rw [sget_putRow_other _ (by omega)]
        exact hnone _ (by rw [show (2 * i + 1) / 2 = i by omega]; exact List.mem_cons_self) (hroot _ (by omega))
      have hpres' : ∀ p g, sget none (e.downNode r i).vals p = some g → spPresent e.sh p = true := fun p v hv => by
        obtain ⟨hpl, hpr⟩ := spPresent_of_downRow (g := g) h0 hi hp
        by_cases hpi : p / 2 = i
        · obtain rfl | rfl : p = 2 * i ∨ p = 2 * i + 1 := by omega
          · rw [hleft, Option.map_eq_some_iff] at hv
            obtain ⟨y, hy, -⟩ := hv
            exact hpl y hy
          · rw [hright, Option.map_eq_some_iff] at hv
            obtain ⟨y, hy, -⟩ := hv
            exact hpr y hy
        · exact hpres p v ((hother hpi).symm.trans hv)
      have hnone' : ∀ p, p / 2 ∈ l → p ≠ spRoot e.sh → sget none (e.downNode r i).vals p = none := fun p hpl hpr =>
        (hother fun h => hbefore h.le _ hpl rfl).trans (hnone p (List.mem_cons_of_mem _ hpl) hpr)
      obtain ⟨hkeep, hreached, hunreached, hflags⟩ := ih hsort hrange' _ hpres' hnone' hfault
      rw [hfl] at hflags
      have hui := (hkeep i (.inr (hbefore (by omega)))).trans ((hother (by omega)).trans hg)
      refine ⟨fun p h => ?_, fun k hk v hkv => ?_, fun k hk hkn p hpk => ?_,
        fun f hf => hflags f (and_or_of_and _ (and_or_of_and _ hf))⟩
      · refine (hkeep p (h.imp_right fun h k hk => h k (List.mem_cons_of_mem _ hk))).trans (hother ?_)
        rcases h with rfl | h
        · exact fun hpi => hroot _ hpi rfl
        · exact h i List.mem_cons_self
      · rcases List.mem_cons.mp hk with rfl | hk
        · obtain rfl : g = v := Option.some.inj (hui.symm.trans hkv)
          refine ⟨(hkeep _ (.inr (hbefore (by omega)))).trans hleft, (hkeep _ (.inr (hbefore (by omega)))).trans hright, ?_, fun hr => ?_⟩
          · rintro y (hy | hy)
            · refine hflags _ (and_or_of_and _ ?_)
              rw [hy]
              exact and_or_right _ _
            · refine hflags _ ?_
              rw [hy]
              exact and_or_right _ _
          · have hboth := hf1.2
            rw [hr, Bool.true_and, Bool.not_eq_false', Bool.and_eq_true] at hboth
            exact hboth
        · exact hreached k hk v hkv
      · rcases List.mem_cons.mp hk with rfl | hk
        · rw [hui] at hkn
          cases hkn
        · exact (hunreached k hk hkn p hpk).trans (hother fun h => absurd (hlt k hk) (by omega))

/-! ### The leaves (R258) -/

/-- The last write of a register, or what it holds. -/
def SpEnv.lastWrite (e : SpEnv) (ws : List (Nat × Nat)) (n : Nat) : Nat := (ws.reverse.find? fun w => w.1 == n).elim (e.reg n) Prod.snd

/-- The gradient register of leaf `j`. -/
def SpEnv.gradReg (e : SpEnv) (j : Nat) : Nat := (spLeafReg e.ls j + spGoff e.mode) % 1024

/-- A reached leaf adds its gradient to its register. -/
def SpEnv.downLeaf (e : SpEnv) (acc : SpRun × List (Nat × Nat)) (j : Nat) : SpRun × List (Nat × Nat) :=
  match sget none acc.1.vals (16 + j) with
  | none => acc
  | some g =>
    let x := spAdd (spFp e.mode) (e.lastWrite acc.2 (e.gradReg j)) g
    ({ acc.1.rd (e.gradReg j) with flags := acc.1.flags ||| x.2 }, acc.2 ++ [(e.gradReg j, x.1)])

/-- What the leaves `l` make of a run and of the writes before them. -/
structure SpEnv.LeavesDone (e : SpEnv) (l : List Nat) (r : SpRun) (ws : List (Nat × Nat)) (x : SpRun × List (Nat × Nat)) : Prop where
  vals : x.1.vals = r.vals
  fault : x.1.fault = r.fault
  flags : ∀ f, f &&& r.flags = f → f &&& x.1.flags = f
  writes : ∃ new, x.2 = ws ++ new ∧ new.length = l.length
    ∧ ∀ m, m < l.length → new.getD m (0, 0) = (e.gradReg (l.getD m 0),
          (spAdd (spFp e.mode) (e.lastWrite (ws ++ new.take m) (e.gradReg (l.getD m 0))) (r.val (16 + l.getD m 0))).1)
        ∧ (spAdd (spFp e.mode) (e.lastWrite (ws ++ new.take m) (e.gradReg (l.getD m 0))) (r.val (16 + l.getD m 0))).2 &&& x.1.flags =
          (spAdd (spFp e.mode) (e.lastWrite (ws ++ new.take m) (e.gradReg (l.getD m 0))) (r.val (16 + l.getD m 0))).2

theorem SpEnv.leavesDone_foldl (e : SpEnv) (l : List Nat) : ∀ (r : SpRun) (ws : List (Nat × Nat)),
    e.LeavesDone (l.filter fun j => (sget none r.vals (16 + j)).isSome) r ws (l.foldl e.downLeaf (r, ws)) := by
  induction l with
  | nil => exact fun r ws => ⟨rfl, rfl, fun _ h => h, [], by simp⟩
  | cons j l ih =>
    intro r ws
    rw [List.foldl_cons]
    cases hg : sget none r.vals (16 + j) with
    | none =>
      have hstep : e.downLeaf (r, ws) j = (r, ws) := by
        unfold SpEnv.downLeaf
        dsimp only
        rw [hg]
      rw [hstep, List.filter_cons_of_neg (by simp [hg])]
      exact ih r ws
    | some g =>
      obtain ⟨x, hx⟩ : ∃ x, x = spAdd (spFp e.mode) (e.lastWrite ws (e.gradReg j)) g := ⟨_, rfl⟩
      have hstep : e.downLeaf (r, ws) j = ({ r.rd (e.gradReg j) with flags := r.flags ||| x.2 }, ws ++ [(e.gradReg j, x.1)]) := by
        unfold SpEnv.downLeaf
        dsimp only
        rw [hg, hx]
      obtain ⟨hvals, hfault, hflags, new, hnew, hlen, hget⟩ := ih { r.rd (e.gradReg j) with flags := r.flags ||| x.2 } (ws ++ [(e.gradReg j, x.1)])
      rw [hstep, List.filter_cons_of_pos (by simp [hg])]
      refine ⟨hvals, hfault, fun f hf => hflags f (and_or_of_and _ hf), (e.gradReg j, x.1) :: new, ?_, congrArg (· + 1) hlen, fun m hm => ?_⟩
      · rw [hnew, List.append_assoc]
        rfl
      · cases m with
        | zero =>
          have hval : r.val (16 + j) = g := SpRun.val_eq_of_sget hg
          simp only [List.getD_cons_zero, List.take_zero, List.append_nil, hval, ← hx]
          exact ⟨trivial, hflags _ (and_or_right _ _)⟩
        | succ m =>
          have happ : ws ++ List.take (m + 1) ((e.gradReg j, x.1) :: new) = ws ++ [(e.gradReg j, x.1)] ++ new.take m := by simp
          simp only [List.getD_cons_succ]
          rw [happ]
          exact hget m (Nat.lt_of_succ_lt_succ hm)

/-- The downward pass (R258). -/
theorem SpEnv.down_spec {e : SpEnv} {dest : Nat} {x : SpRun × List (Nat × Nat)} (hx : x = e.down dest) (hshape : spFault e.sh = false)
    (hfault : x.1.fault = false) :
    ∃ r : SpRun, e.DownDone (upFrom 1 15) ((({} : SpRun).rd dest).put (spRoot e.sh) (e.reg dest, 0)) r
      ∧ e.LeavesDone ((List.range 16).filter fun j => (sget none r.vals (16 + j)).isSome) r [] x := by
  obtain ⟨r, hr⟩ : ∃ r, r = (upFrom 1 15).foldl e.downNode ((({} : SpRun).rd dest).put (spRoot e.sh) (e.reg dest, 0)) := ⟨_, rfl⟩
  have hx' : x = (List.range 16).foldl e.downLeaf (r, []) := by
    rw [hx, hr, ← upFrom_zero]
    rfl
  have hleaves := e.leavesDone_foldl (List.range 16) r []
  rw [← hx'] at hleaves
  have hroot : spPresent e.sh (spRoot e.sh) = true := by
    unfold spFault at hshape
    simp only [Bool.or_eq_false_iff, Bool.not_eq_false'] at hshape
    exact hshape.2
  have hget (p : Nat) : sget none ((({} : SpRun).rd dest).put (spRoot e.sh) (e.reg dest, 0)).vals p
      = if p = spRoot e.sh then some (e.reg dest) else none := by
    split
    · subst p
      exact sget_sset_same _ _ _ _
    · exact (sget_sset_other _ _ _ ‹_›).trans rfl
  refine ⟨r, ?_, hleaves⟩
  rw [hr]
  refine e.downDone_foldl _ (by decide) (fun i hi => ?_) _ (fun p g hp => ?_) (fun p _ hne => ?_) ?_
  · rw [upFrom_eq_range', List.mem_range'_1] at hi
    exact hi
  · rw [hget] at hp
    split at hp
    · subst p
      exact hroot
    · cases hp
  · rw [hget, if_neg hne]
  · rw [← hr, ← hleaves.fault]
    exact hfault

/-- The gradients and the writes of the downward pass (R258). -/
theorem SpEnv.down_gradients {e : SpEnv} {dest : Nat} {x : SpRun × List (Nat × Nat)} (hx : x = e.down dest) (hshape : spFault e.sh = false)
    (hfault : x.1.fault = false) :
    sget none x.1.vals (spRoot e.sh) = some (e.reg dest)
      ∧ (∀ i g, 1 ≤ i → i < 16 → sget none x.1.vals i = some g →
          sget none x.1.vals (2 * i) = (downRow e i g).1.map Prod.fst ∧ sget none x.1.vals (2 * i + 1) = (downRow e i g).2.map Prod.fst
            ∧ (∀ y, (downRow e i g).1 = some y ∨ (downRow e i g).2 = some y → y.2 &&& x.1.flags = y.2))
      ∧ (∀ i, 1 ≤ i → i < 16 → sget none x.1.vals i = none →
          (2 * i ≠ spRoot e.sh → sget none x.1.vals (2 * i) = none)
            ∧ (2 * i + 1 ≠ spRoot e.sh → sget none x.1.vals (2 * i + 1) = none))
      ∧ ∀ i g, 1 ≤ i → i < 16 → sget none x.1.vals i = some g → spKind e.sh i = 2 → spPresent e.sh (2 * i) = true →
          spPresent e.sh (2 * i + 1) = true → i < 8 → spSave e.ls (2 * i) = true ∧ spSave e.ls (2 * i + 1) = true := by
  obtain ⟨r, ⟨hkeep, hreached, hunreached, -⟩, hvals, -, hflags, -⟩ := SpEnv.down_spec hx hshape hfault
  have hmem {i : Nat} (h0 : 1 ≤ i) (hi : i < 16) : i ∈ upFrom 1 15 := by
    rw [upFrom_eq_range', List.mem_range'_1]
    exact ⟨h0, hi⟩
  rw [hvals]
  refine ⟨?_, fun i g h0 hi hg => ?_, fun i h0 hi hn => ?_, fun i g h0 hi hg hk hl hr h8 => ?_⟩
  · rw [hkeep _ (.inl rfl)]
    exact sget_sset_same _ _ _ _
  · obtain ⟨hl, hr, hfl, -⟩ := hreached i (hmem h0 hi) g hg
    exact ⟨hl, hr, fun y hy => hflags _ (hfl y hy)⟩
  · refine ⟨fun hne => ?_, fun hne => ?_⟩
    · rw [hunreached i (hmem h0 hi) hn _ (by omega)]
      exact (sget_sset_other _ _ _ hne).trans rfl
    · rw [hunreached i (hmem h0 hi) hn _ (by omega)]
      exact (sget_sset_other _ _ _ hne).trans rfl
  · obtain ⟨-, -, -, hhas⟩ := hreached i (hmem h0 hi) g hg
    have hreads : e.reads i = true := by
      unfold SpEnv.reads
      rw [hl, hr, hk]
      rfl
    have hsave {p : Nat} (hp : p < 16) (h : e.has p = true) : spSave e.ls p = true := by
      unfold SpEnv.has at h
      rw [Bool.or_eq_true, decide_eq_true_iff] at h
      exact h.resolve_left (not_le.mpr hp)
    exact ⟨hsave (by omega) (hhas hreads).1, hsave (by omega) (hhas hreads).2⟩

theorem SpEnv.down_writes {e : SpEnv} {dest : Nat} {x : SpRun × List (Nat × Nat)} (hx : x = e.down dest) (hshape : spFault e.sh = false)
    (hfault : x.1.fault = false) {L : List Nat} (hL : L = (List.range 16).filter fun j => (sget none x.1.vals (16 + j)).isSome) :
    x.2.length = L.length
      ∧ ∀ m n old, m < L.length → n = (spLeafReg e.ls (L.getD m 0) + spGoff e.mode) % 1024 →
          old = (((x.2.take m).reverse.find? fun y => y.1 == n).elim (e.reg n) Prod.snd) →
          x.2.getD m (0, 0) = (n, (spAdd (spFp e.mode) old (x.1.val (16 + L.getD m 0))).1)
            ∧ (spAdd (spFp e.mode) old (x.1.val (16 + L.getD m 0))).2 &&& x.1.flags =
                (spAdd (spFp e.mode) old (x.1.val (16 + L.getD m 0))).2 := by
  obtain ⟨r, -, hvals, -, -, new, hnew, hlen, hget⟩ := SpEnv.down_spec hx hshape hfault
  rw [← hvals, ← hL] at hlen hget
  have hval : x.1.val = r.val := by
    unfold SpRun.val
    rw [hvals]
  rw [hnew, List.nil_append, hval]
  refine ⟨hlen, fun m n old hm hn hold => ?_⟩
  subst hn hold
  exact hget m hm

end Sys2Proof.Machine
end

section
/-! PROOFS. Renormalisation (R261), and what the register and table words leave at their completion (R265, R266). -/

namespace Sys2Proof.Machine

/-! ### SPNORM (R261) -/

/-- The most significant bit of a value, where it has one. -/
def Num.log (v : Num) : Option Int := match v with | .fin _ m x => if m = 0 then none else some (msbExp m x) | _ => none

theorem Num.log_bounds {v : Num} {b : Int} (h : v.log = some b) : (2 : ℚ) ^ b ≤ |v.rat| ∧ |v.rat| < 2 ^ (b + 1) := by
  cases v with
  | nan => cases h
  | inf n => cases h
  | fin n m e =>
    by_cases hm : m = 0
    · rw [Num.log, if_pos hm] at h
      cases h
    · rw [Num.log, if_neg hm] at h
      obtain rfl := Option.some.inj h
      rw [Num.abs_rat_fin]
      exact msbExp_bounds hm e

theorem Num.rat_of_log_none {v : Num} (h : v.log = none) : v.rat = 0 := by
  cases v with
  | nan => rfl
  | inf n => rfl
  | fin n m e =>
    refine Num.rat_fin_eq_zero_iff.mpr ?_
    by_contra hm
    rw [Num.log, if_neg hm] at h
    cases h

/-- The greatest of some exponents: 0 of none. -/
def topLog (l : List Int) : Int := match l with | [] => 0 | a :: l => l.foldl max a

theorem topLog_spec (l : List Int) : (∀ x ∈ l, x ≤ topLog l) ∧ (topLog l ∈ l ∨ l = [] ∧ topLog l = 0) := by
  cases l with
  | nil => exact ⟨nofun, .inr ⟨rfl, rfl⟩⟩
  | cons a l =>
    obtain ⟨hle, hall, hor⟩ := foldl_max_spec (fun x : Int => x) l a
    refine ⟨fun x hx => ?_, .inl ?_⟩
    · rcases List.mem_cons.mp hx with rfl | hx
      · exact hle
      · exact hall x hx
    · rcases hor with h | ⟨x, hx, h⟩
      · exact List.mem_cons.mpr (.inl h)
      · have htop : topLog (a :: l) = x := h
        rw [htop]
        exact List.mem_cons_of_mem _ hx

/-- The exponent of values: every magnitude lies below the next power of two, and one reaches it, or all are zero. -/
theorem topLog_bounds {α : Type} (val : α → Num) (l : List α) {k : Int} (hk : k = topLog (l.filterMap fun n => (val n).log)) :
    (∀ n ∈ l, |(val n).rat| < (2 : ℚ) ^ (k + 1))
      ∧ ((∃ n ∈ l, (2 : ℚ) ^ k ≤ |(val n).rat|) ∨ ((∀ n ∈ l, (val n).rat = 0) ∧ k = 0)) := by
  obtain ⟨hall, hor⟩ := topLog_spec (l.filterMap fun n => (val n).log)
  rw [← hk] at hall hor
  refine ⟨fun n hn => ?_, ?_⟩
  · cases hlog : (val n).log with
    | none =>
      rw [Num.rat_of_log_none hlog, abs_zero]
      exact two_zpow_pos _
    | some b =>
      have hb := hall b (List.mem_filterMap.mpr ⟨n, hn, hlog⟩)
      exact (Num.log_bounds hlog).2.trans_le (two_zpow_le_iff.mpr (by omega))
  · rcases hor with h | ⟨h, hz⟩
    · obtain ⟨n, hn, hlog⟩ := List.mem_filterMap.mp h
      exact .inl ⟨n, hn, (Num.log_bounds hlog).1⟩
    · refine .inr ⟨fun n hn => ?_, hz⟩
      cases hlog : (val n).log with
      | none => exact Num.rat_of_log_none hlog
      | some b =>
        have : b ∈ l.filterMap fun n => (val n).log := List.mem_filterMap.mpr ⟨n, hn, hlog⟩
        rw [h] at this
        cases this

/-- The distinct registers of a set of leaves. -/
def SpEnv.normRegs (e : SpEnv) : List Nat := (((upFrom 0 16).filter fun j => bitOf e.sh (30 + j)).map (spLeafReg e.ls)).reverse.dedup.reverse

theorem SpEnv.mem_normRegs {e : SpEnv} {n : Nat} : n ∈ e.normRegs ↔ ∃ j, j < 16 ∧ bitOf e.sh (30 + j) = true ∧ spLeafReg e.ls j = n := by
  unfold SpEnv.normRegs
  simp [and_assoc]

theorem SpEnv.nodup_normRegs (e : SpEnv) : e.normRegs.Nodup := List.nodup_reverse.mpr (List.nodup_dedup _)

/-- What a register of the set takes: its value scaled, or its code where it is no number. -/
def normReg (fp : Bool) (k : Int) (v : Num) (b : Nat) : Nat := match v with | .fin s m x => (spRound fp (.fin s m (x - k), false)).1 | _ => b

/-- The exponent of the set. -/
def SpEnv.normExp (e : SpEnv) : Int := topLog (e.normRegs.filterMap fun n => (spNum (spFp e.mode) (e.reg n)).log)

theorem SpEnv.norm_writes (e : SpEnv) (dest : Nat) : (e.norm dest).2 =
    (e.normRegs.map fun n => (n, normReg (spFp e.mode) e.normExp (spNum (spFp e.mode) (e.reg n)) (e.reg n)))
      ++ [(dest, intBits 32 (max (-2 ^ 31) (min (2 ^ 31 - 1) (toSInt 32 (e.reg dest) + e.normExp))))] := by
  have hrange : intRange 0x04 = (-2 ^ 31, 2 ^ 31 - 1) := by decide
  have hmodel : (e.norm dest).2 = (e.normRegs.map fun n => match spNum (spFp e.mode) (e.reg n) with
      | .fin s m x => (n, spRound (spFp e.mode) (.fin s m (x - e.normExp), false))
      | _ => (n, (e.reg n, 0))).map (fun o => (o.1, o.2.1))
        ++ [(dest, intBits 32 (clampInt (intRange 0x04) (toSInt 32 (e.reg dest) + e.normExp)).1)] := rfl
  rw [hmodel, clampInt_eq (by decide), hrange, List.map_map]
  congr 1
  refine List.map_congr_left fun n _ => ?_
  rw [Function.comp]
  cases spNum (spFp e.mode) (e.reg n) <;> rfl

end Sys2Proof.Machine
end

section
/-! PROOFS. The loads of tables and registers, and what stands at their completion (R265, R266). -/

namespace Sys2Proof.Machine

theorem foldr_nibs_eq_sum (l : List Nat) : l.foldr (fun d v => d + 16 * v) 0 = ((List.range l.length).map fun j => l.getD j 0 * 16 ^ j).sum := by
  induction l with
  | nil => rfl
  | cons x l ih =>
    rw [List.foldr_cons, ih, List.length_cons, List.range_succ_eq_map, List.map_cons, List.sum_cons, List.map_map, ← List.sum_map_mul_left]
    congr 1
    · simp
    · refine congrArg List.sum (List.map_congr_left fun j _ => ?_)
      simp only [Function.comp, List.getD_cons_succ, pow_succ]
      ring

/-- Numbers of `k` nibbles each, by their index. -/
theorem nibWords_eq (k : Nat) : ∀ (n : Nat) (l : List Nat), k * n ≤ l.length → nibWords k n l = (List.range n).map (nibNum k l) := by
  intro n
  induction n with
  | zero => exact fun _ _ => rfl
  | succ n ih =>
    intro l hl
    have hk : k ≤ l.length := (Nat.le_mul_of_pos_right k (Nat.succ_pos n)).trans hl
    rw [nibWords, ih (l.drop k) (by rw [List.length_drop]; rw [Nat.mul_succ] at hl; omega), List.range_succ_eq_map, List.map_cons, List.map_map,
      foldr_nibs_eq_sum, List.length_take, min_eq_left hk]
    congr 1
    · unfold nibNum
      refine congrArg List.sum (List.map_congr_left fun j hj => ?_)
      have hj' := List.mem_range.mp hj
      rw [List.getD_eq_getElem?_getD, List.getElem?_take_of_lt hj', Nat.mul_zero, Nat.zero_add, List.getD_eq_getElem?_getD]
    · refine List.map_congr_left fun i _ => ?_
      unfold nibNum
      refine congrArg List.sum (List.map_congr_left fun j _ => ?_)
      rw [List.getD_eq_getElem?_getD, List.getElem?_drop, List.getD_eq_getElem?_getD]
      congr 3
      rw [Nat.mul_succ]
      omega

theorem zipIdx_map_range_pair {α : Type} (n : Nat) (o : Nat → α) (which first : Nat) :
    (((List.range n).map o).zipIdx.map fun e => (which, first + e.2, e.1)) = (List.range n).map fun i => (which, first + i, o i) :=
  zipIdx_map_range n o fun e => (which, first + e.2, e.1)

/-- A table's entries, in order (R265). -/
theorem tableEntries_eq (which first k : Nat) (nibs : List Nat) :
    ((nibWords k (nibs.length / k) nibs).zipIdx.map fun e => (which, first + e.2, e.1))
      = (List.range (nibs.length / k)).map fun i => (which, first + i, nibNum k nibs i) := by
  rw [nibWords_eq k _ _ (Nat.mul_div_le _ _), zipIdx_map_range_pair]

theorem spLoaded_spshape {g : Ctl} {sh : BitVec 8} {h : BitVec 4} {r : Run} (nibs : List Nat) (hw : r.w.word.instr = .spshape g sh h) :
    (spLoaded r nibs).w.tables = (List.range (nibs.length / 16)).map fun i => (0, sh.toNat + i, nibNum 16 nibs i) := by
  rw [← tableEntries_eq]
  unfold spLoaded
  rw [hw]

theorem spLoaded_splist {g : Ctl} {ls : BitVec 10} {h : BitVec 4} {r : Run} (nibs : List Nat) (hw : r.w.word.instr = .splist g ls h) :
    (spLoaded r nibs).w.tables = (List.range (nibs.length / 128)).map fun i => (1, ls.toNat + i, nibNum 128 nibs i) := by
  rw [← tableEntries_eq]
  unfold spLoaded
  rw [hw]

/-- An element that SPLD takes, converted by SPLD.CVT. -/
def loadVal (cvt : Bool) (v : Nat) : Nat × BitVec 8 := if cvt then toSp (fF32.decode v) else (v, 0)

theorem loadVal_false (v : Nat) : (loadVal false v).1 = v := rfl

theorem loadVal_true (v : Nat) : (loadVal true v).1 = (toSp (fF32.decode v)).1 := by
  unfold loadVal
  rw [if_pos rfl]

/-- The registers that a load writes, in order (R266). -/
theorem loadEntries_eq (cvt : Bool) {n d : Nat} {nibs : List Nat} (hn : nibs.length = 8 * n) :
    ((List.zip (spRegs d n) (((nibWords 8 n nibs).map (loadVal cvt)).map Prod.fst)).map fun e => (2, e.1, e.2))
      = (List.range n).map fun i => (2, (d + i) % 1024, (loadVal cvt (nibNum 8 nibs i)).1) := by
  rw [nibWords_eq 8 n nibs hn.ge]
  unfold spRegs
  rw [upFrom_zero, List.map_map, List.map_map, List.zip_map', List.map_map]
  rfl

theorem spLoaded_tables {cvt : Bool} {d : Nat} {r : Run} {nibs : List Nat} {n : Nat} (hn : n = hElems (r.w.word.rec_ 0)) (hnibs : nibs.length = 8 * n)
    (hregs : r.w.wregs = spRegs d n) (hmoved : r.w.moved = 0)
    (hi : (∃ g h b, r.w.word.instr = .spld g h b ∧ cvt = false) ∨ ∃ g h b, r.w.word.instr = .spldCvt g h b ∧ cvt = true) :
    (spLoaded r nibs).w.tables = (List.range n).map fun i => (2, (d + i) % 1024, (loadVal cvt (nibNum 8 nibs i)).1) := by
  rw [← loadEntries_eq cvt hnibs, ← hregs, hn]
  rcases hi with ⟨g, h, b, hw, rfl⟩ | ⟨g, h, b, hw, rfl⟩
  all_goals
    unfold spLoaded
    rw [hw]
    dsimp only
    rw [Run.foldl_flag, if_pos hmoved]
    rfl

/-! ### Completion -/

/-- A table's entry once some writes of it are over: the last one of it stands. -/
theorem sget_foldl_last {α β γ : Type} [DecidableEq α] (get : β → SMap α) (step : β → γ → β) (d : α) (n : Nat) (hits : γ → Prop) [DecidablePred hits]
    (val : γ → α) (hin : ∀ t e, hits e → sget d (get (step t e)) n = val e)
    (hout : ∀ t e, ¬ hits e → sget d (get (step t e)) n = sget d (get t) n) (l : List γ) (t : β) :
    (∀ pre post e, l = pre ++ e :: post → hits e → (∀ x ∈ post, ¬ hits x) → sget d (get (l.foldl step t)) n = val e)
      ∧ ((∀ x ∈ l, ¬ hits x) → sget d (get (l.foldl step t)) n = sget d (get t) n) := by
  have hkeep (l : List γ) : ∀ t, (∀ x ∈ l, ¬ hits x) → sget d (get (l.foldl step t)) n = sget d (get t) n := by
    induction l with
    | nil => exact fun _ _ => rfl
    | cons e l ih =>
      exact fun t h => (ih _ fun x hx => h x (List.mem_cons_of_mem _ hx)).trans (hout t e (h e List.mem_cons_self))
  refine ⟨?_, hkeep l t⟩
  rintro pre post e rfl he hpost
  rw [List.foldl_append, List.foldl_cons, hkeep post _ hpost, hin _ e he]

section
variable (t : StrandTabs) (e : Nat × Nat × Nat) (n : Nat)

theorem StrandTabs.v_put :
    (e.1 ≠ 0 ∧ e.1 ≠ 1 ∧ e.2.1 = n → sget 0 (t.put e).v n = BitVec.ofNat 32 e.2.2)
      ∧ (¬ (e.1 ≠ 0 ∧ e.1 ≠ 1 ∧ e.2.1 = n) → sget 0 (t.put e).v n = sget 0 t.v n) := by
  unfold StrandTabs.put
  refine ⟨?_, fun h => ?_⟩
  · rintro ⟨h0, h1, rfl⟩
    rw [if_neg h0, if_neg h1]
    exact sget_sset_same _ _ _ _
  · split_ifs with h0 h1
    · rfl
    · rfl
    · exact sget_sset_other _ _ _ fun hn => h ⟨h0, h1, hn.symm⟩

theorem StrandTabs.shapes_put :
    (e.1 = 0 ∧ e.2.1 = n → sget 0 (t.put e).shapes n = BitVec.ofNat 64 e.2.2)
      ∧ (¬ (e.1 = 0 ∧ e.2.1 = n) → sget 0 (t.put e).shapes n = sget 0 t.shapes n) := by
  unfold StrandTabs.put
  refine ⟨?_, fun h => ?_⟩
  · rintro ⟨h0, rfl⟩
    rw [if_pos h0]
    exact sget_sset_same _ _ _ _
  · split_ifs with h0 h1
    · exact sget_sset_other _ _ _ fun hn => h ⟨h0, hn.symm⟩
    · rfl
    · rfl

theorem StrandTabs.lists_put :
    (e.1 = 1 ∧ e.2.1 = n → sget 0 (t.put e).lists n = BitVec.ofNat 512 e.2.2)
      ∧ (¬ (e.1 = 1 ∧ e.2.1 = n) → sget 0 (t.put e).lists n = sget 0 t.lists n) := by
  unfold StrandTabs.put
  refine ⟨?_, fun h => ?_⟩
  · rintro ⟨h1, rfl⟩
    rw [if_neg (by omega), if_pos h1]
    exact sget_sset_same _ _ _ _
  · split_ifs with h0 h1
    · rfl
    · exact sget_sset_other _ _ _ fun hn => h ⟨h1, hn.symm⟩
    · rfl

end

theorem completeWord_tables (r : Running) (s : State) :
    (completeWord r s).cur.v = (r.tables.foldl StrandTabs.put s.cur.tabs).v
      ∧ (completeWord r s).cur.shapes = (r.tables.foldl StrandTabs.put s.cur.tabs).shapes
      ∧ (completeWord r s).cur.lists = (r.tables.foldl StrandTabs.put s.cur.tabs).lists := by
  have htabs := tabs_completeWord r s
  have hscale (t : StrandTabs) : (t.putScale r.scale).v = t.v ∧ (t.putScale r.scale).shapes = t.shapes ∧ (t.putScale r.scale).lists = t.lists := by
    cases r.scale <;> exact ⟨rfl, rfl, rfl⟩
  obtain ⟨hv, hs, hl⟩ := hscale (r.tables.foldl StrandTabs.put s.cur.tabs)
  rw [← htabs] at hv hs hl
  exact ⟨hv, hs, hl⟩

/-- What a word has for the registers and the tables stands when it completes: of several writes the last. -/
theorem completeWord_last (r : Running) (s : State) (n : Nat) :
    (∀ pre post v, r.tables = pre ++ (2, n, v) :: post → (∀ e ∈ post, e.1 ≠ 0 → e.1 ≠ 1 → e.2.1 ≠ n) →
        sget 0 (completeWord r s).cur.v n = BitVec.ofNat 32 v)
      ∧ ((∀ e ∈ r.tables, e.1 ≠ 0 → e.1 ≠ 1 → e.2.1 ≠ n) → sget 0 (completeWord r s).cur.v n = sget 0 s.cur.v n)
      ∧ (∀ pre post v, r.tables = pre ++ (0, n, v) :: post → (∀ e ∈ post, e.1 = 0 → e.2.1 ≠ n) →
        sget 0 (completeWord r s).cur.shapes n = BitVec.ofNat 64 v)
      ∧ (∀ pre post v, r.tables = pre ++ (1, n, v) :: post → (∀ e ∈ post, e.1 = 1 → e.2.1 ≠ n) →
        sget 0 (completeWord r s).cur.lists n = BitVec.ofNat 512 v) := by
  obtain ⟨hv, hs, hl⟩ := completeWord_tables r s
  obtain ⟨hvin, hvout⟩ := sget_foldl_last StrandTabs.v StrandTabs.put 0 n (fun e => e.1 ≠ 0 ∧ e.1 ≠ 1 ∧ e.2.1 = n) (fun e => BitVec.ofNat 32 e.2.2)
    (fun t e => (t.v_put e n).1) (fun t e => (t.v_put e n).2) r.tables s.cur.tabs
  obtain ⟨hsin, -⟩ := sget_foldl_last StrandTabs.shapes StrandTabs.put 0 n (fun e => e.1 = 0 ∧ e.2.1 = n) (fun e => BitVec.ofNat 64 e.2.2)
    (fun t e => (t.shapes_put e n).1) (fun t e => (t.shapes_put e n).2) r.tables s.cur.tabs
  obtain ⟨hlin, -⟩ := sget_foldl_last StrandTabs.lists StrandTabs.put 0 n (fun e => e.1 = 1 ∧ e.2.1 = n) (fun e => BitVec.ofNat 512 e.2.2)
    (fun t e => (t.lists_put e n).1) (fun t e => (t.lists_put e n).2) r.tables s.cur.tabs
  rw [hv, hs, hl]
  exact ⟨fun pre post v h hpost => hvin pre post (2, n, v) h ⟨two_ne_zero, show (2 : Nat) ≠ 1 by decide, rfl⟩ fun x hx hc => hpost x hx hc.1 hc.2.1 hc.2.2,
    fun h => hvout fun x hx hc => h x hx hc.1 hc.2.1 hc.2.2,
    fun pre post v h hpost => hsin pre post (0, n, v) h ⟨rfl, rfl⟩ fun x hx hc => hpost x hx hc.1 hc.2,
    fun pre post v h hpost => hlin pre post (1, n, v) h ⟨rfl, rfl⟩ fun x hx hc => hpost x hx hc.1 hc.2⟩

end Sys2Proof.Machine
end

section
/-! PROOFS. What SPST writes (R266, R162). -/

namespace Sys2Proof.Machine

/-! ### Planned writes of a sweep -/

/-- `u` plans the writes of `r`, and in the space `sp` writes that give the nibbles of `P` their values. -/
structure Run.WritesMore (sp : Nat) (r u : Run) (P : Int → Bool → Nat → Prop) : Prop where
  space : ∀ o ∈ u.w.outs, o ∈ r.w.outs ∨ o.space = sp
  writes : ∀ a hi v, (∃ o ∈ u.w.outs, o.writes a hi v) ↔ (∃ o ∈ r.w.outs, o.writes a hi v) ∨ P a hi v
  word : u.w.word = r.w.word

theorem Run.writesMore_refl (sp : Nat) (r : Run) {P : Int → Bool → Nat → Prop} (hP : ∀ a hi v, ¬ P a hi v) : r.WritesMore sp r P :=
  ⟨fun _ h => .inl h, fun a hi v => (or_iff_left (hP a hi v)).symm, rfl⟩

theorem Run.WritesMore.trans {sp : Nat} {r u x : Run} {P Q S : Int → Bool → Nat → Prop} (h : r.WritesMore sp u P) (h' : u.WritesMore sp x Q)
    (hS : ∀ a hi v, S a hi v ↔ P a hi v ∨ Q a hi v) : r.WritesMore sp x S := by
  obtain ⟨hsp, hw, hword⟩ := h
  obtain ⟨hsp', hw', hword'⟩ := h'
  refine ⟨fun o ho => (hsp' o ho).elim (hsp o) .inr, fun a hi v => ?_, hword'.trans hword⟩
  rw [hw', hw, hS, or_assoc]

theorem Run.writesMore_out (r : Run) (t p sp : Nat) (at_ : Int) (data : List (Byte × Nat)) :
    r.WritesMore sp (r.out t p sp at_ data) fun a hi v => nibIn at_ data a hi = some v := by
  refine ⟨fun o ho => ?_, fun a hi v => ?_, rfl⟩
  · exact (Run.mem_out_outs.mp ho).elim (fun h => .inr (at_space_of_mem_outsOf h).2) .inl
  · rw [← exists_outsOf_writes (t := t + r.w.gap) (p := p) (sp := sp)]
    simp only [Run.mem_out_outs, or_and_right, exists_or]
    exact or_comm

section
variable {h : HRec} (hb : hBcast h 0 = false) (hw : elemNibs (hFmt h) = 8) (h0 : 0 < copyRun h)
include hb hw h0

theorem nibAt_in_run {i e j : Nat} (he : e < copyRun h - i % copyRun h) :
    nibAt h (i + e) j = (hRunAddr h (i / copyRun h) + ((i % copyRun h * 4 : Nat) : Int) + (((8 * e + j) / 2 : Nat) : Int), (8 * e + j) % 2 == 1) := by
  have hlt := Nat.mod_lt i h0
  have hdiv : (i + e) / copyRun h = i / copyRun h ∧ (i + e) % copyRun h = i % copyRun h + e := by
    have hdm := Nat.div_add_mod i (copyRun h)
    refine (Nat.div_mod_unique h0).mpr ⟨?_, by omega⟩
    rw [Nat.add_assoc]
    omega
  unfold nibAt
  rw [hb, hw, hdiv.1, hdiv.2]
  simp only [Bool.false_eq_true, if_false, Prod.mk.injEq]
  refine ⟨?_, ?_⟩
  · omega
  · rw [show ((i % copyRun h + e) * 8 + j) % 2 = (8 * e + j) % 2 by omega]

/-- Nibbles as consecutive elements of one run. -/
theorem Run.writesMore_outElems (r : Run) (i t : Nat) {nibs : List Nat} {m : Nat} (hnibs : nibs.length = 8 * m) (h16 : ∀ x ∈ nibs, x < 16)
    (hm : m ≤ copyRun h - i % copyRun h) :
    r.WritesMore (hSpace h) (r.outElems h i t nibs) fun a hi v => ∃ e j, e < m ∧ j < 8 ∧ nibAt h (i + e) j = (a, hi) ∧ nibs[8 * e + j]? = some v := by
  have hout : r.outElems h i t nibs = r.out t 12 (hSpace h) (hRunAddr h (i / copyRun h) + ((i % copyRun h * 4 : Nat) : Int))
      (nibBytes (nibs.map fun v => (v, true))) := by
    unfold Run.outElems
    dsimp only
    rw [hb, hw, if_neg (by simp), show i % copyRun h * 8 % 2 = 0 by omega, show i % copyRun h * 8 / 2 = i % copyRun h * 4 by omega]
    rfl
  have hl : ∀ x ∈ nibs.map fun v => (v, true), x.1 < 16 := fun x hx => by
    obtain ⟨y, hy, rfl⟩ := List.mem_map.mp hx
    exact h16 y hy
  rw [hout]
  obtain ⟨hsp, hwr, hword⟩ := r.writesMore_out t 12 (hSpace h) (hRunAddr h (i / copyRun h) + ((i % copyRun h * 4 : Nat) : Int))
    (nibBytes (nibs.map fun v => (v, true)))
  refine ⟨hsp, fun a hi v => ?_, hword⟩
  rw [hwr, nibIn_nibBytes hl]
  refine or_congr_right ⟨?_, ?_⟩
  · rintro ⟨n, hn, rfl, rfl⟩
    rw [List.getElem?_map, Option.map_eq_some_iff] at hn
    obtain ⟨y, hy, hyv⟩ := hn
    obtain rfl : y = v := congrArg Prod.fst hyv
    obtain ⟨hlt, -⟩ := List.getElem?_eq_some_iff.mp hy
    refine ⟨n / 8, n % 8, by omega, by omega, ?_, by rwa [Nat.div_add_mod]⟩
    rw [nibAt_in_run hb hw h0 (by omega), Nat.div_add_mod]
  · rintro ⟨e, j, he, hj, hat, hv⟩
    rw [nibAt_in_run hb hw h0 (by omega), Prod.mk.injEq] at hat
    exact ⟨8 * e + j, by rw [List.getElem?_map, hv]; rfl, hat.1, hat.2⟩

/-- Nibbles as consecutive elements of a sweep, run by run. -/
theorem Run.writesMore_outSpan (t : Nat) : ∀ (fuel : Nat) (r : Run) (i m : Nat) (nibs : List Nat), nibs.length = 8 * m → (∀ x ∈ nibs, x < 16) →
    m < fuel →
    r.WritesMore (hSpace h) (Run.outSpan h t fuel r i nibs) fun a hi v =>
      ∃ e j, e < m ∧ j < 8 ∧ nibAt h (i + e) j = (a, hi) ∧ nibs[8 * e + j]? = some v := by
  intro fuel
  induction fuel with
  | zero => exact fun _ _ _ _ _ _ hf => absurd hf (by omega)
  | succ fuel ih =>
    intro r i m nibs hlen h16 hf
    rw [Run.outSpan]
    cases m with
    | zero =>
      obtain rfl := List.length_eq_zero_iff.mp hlen
      exact r.writesMore_refl _ fun a hi v ⟨e, j, he, _⟩ => absurd he (by omega)
    | succ m =>
      have hne : ¬ nibs.isEmpty = true := by
        rw [List.isEmpty_iff, ← List.length_eq_zero_iff]
        omega
      have hlt := Nat.mod_lt i h0
      obtain ⟨k, hk⟩ : ∃ k, k = copyRun h - i % copyRun h := ⟨_, rfl⟩
      rw [if_neg hne]
      dsimp only
      rw [hw, ← hk]
      refine (Run.writesMore_outElems hb hw h0 r i t (m := min k (m + 1)) ?_ (fun x hx => h16 x (List.mem_of_mem_take hx)) ?_).trans
        (ih _ (i + k) (m + 1 - k) (nibs.drop (k * 8)) ?_ (fun x hx => h16 x (List.mem_of_mem_drop hx)) ?_) fun a hi v => ?_
      · rw [List.length_take, hlen]
        omega
      · omega
      · rw [List.length_drop, hlen]
        omega
      · omega
      · constructor
        · rintro ⟨e, j, he, hj, hat, hv⟩
          by_cases hek : e < k
          · exact .inl ⟨e, j, by omega, hj, hat, by rwa [List.getElem?_take_of_lt (by omega)]⟩
          · refine .inr ⟨e - k, j, by omega, hj, by rwa [show i + k + (e - k) = i + e by omega], ?_⟩
            rwa [List.getElem?_drop, show k * 8 + (8 * (e - k) + j) = 8 * e + j by omega]
        · rintro (⟨e, j, he, hj, hat, hv⟩ | ⟨e, j, he, hj, hat, hv⟩)
          · rw [List.getElem?_take_of_lt (by omega)] at hv
            exact ⟨e, j, by omega, hj, hat, hv⟩
          · rw [List.getElem?_drop] at hv
            exact ⟨k + e, j, by omega, hj, by rwa [← Nat.add_assoc], by rwa [show 8 * (k + e) + j = k * 8 + (8 * e + j) by omega]⟩

/-- The segments of 128 elements, one after the other (R162). -/
theorem Run.writesMore_segments (t : Nat → Nat) {n : Nat} {nibs : List Nat} (hlen : nibs.length = 8 * n) (h16 : ∀ x ∈ nibs, x < 16) (c : Nat) (r : Run) :
    r.WritesMore (hSpace h) ((List.range c).foldl (fun r k => Run.outSpan h (t k) 1025 r (128 * k) ((nibs.drop (1024 * k)).take 1024)) r)
      fun a hi v => ∃ i j, i < min n (128 * c) ∧ j < 8 ∧ nibAt h i j = (a, hi) ∧ nibs[8 * i + j]? = some v := by
  induction c with
  | zero => exact r.writesMore_refl _ fun a hi v ⟨e, j, he, _⟩ => absurd he (by omega)
  | succ c ih =>
    rw [List.range_succ, List.foldl_append]
    refine ih.trans (Run.writesMore_outSpan hb hw h0 (t c) 1025 _ (128 * c) (min 128 (n - 128 * c)) _ ?_
      (fun x hx => h16 x (List.mem_of_mem_drop (List.mem_of_mem_take hx))) (by omega)) fun a hi v => ?_
    · rw [List.length_take, List.length_drop, hlen]
      omega
    · have hseg {e j : Nat} (he : e < 128) (hj : j < 8) : ((nibs.drop (1024 * c)).take 1024)[8 * e + j]? = nibs[8 * (128 * c + e) + j]? := by
        rw [List.getElem?_take_of_lt (by omega), List.getElem?_drop]
        congr 1
        omega
      constructor
      · rintro ⟨i, j, hi', hj, hat, hv⟩
        by_cases hic : i < 128 * c
        · exact .inl ⟨i, j, by omega, hj, hat, hv⟩
        · obtain ⟨e, rfl⟩ : ∃ e, i = 128 * c + e := ⟨i - 128 * c, by omega⟩
          exact .inr ⟨e, j, by omega, hj, hat, by rwa [hseg (by omega) hj]⟩
      · rintro (⟨i, j, hi', hj, hat, hv⟩ | ⟨e, j, he, hj, hat, hv⟩)
        · exact ⟨i, j, by omega, hj, hat, hv⟩
        · exact ⟨128 * c + e, j, by omega, hj, hat, by rwa [hseg (by omega) hj] at hv⟩

end

/-! ### SPST -/

/-- What SPST writes of a register, converted by SPST.CVT. -/
def storeVal (cvt : Bool) (s : State) (n : Nat) : Nat × BitVec 8 :=
  if cvt then f32Round (spVal (sget 0 s.cur.v n).toNat, false) else ((sget 0 s.cur.v n).toNat, 0)

/-- The nibbles of a store, lowest first. -/
def storeNibs (cvt : Bool) (s : State) (d n : Nat) : List Nat :=
  (List.range n).flatMap fun i => (List.range 8).map fun j => (storeVal cvt s ((d + i) % 1024)).1 / 16 ^ j % 16

theorem length_storeNibs (cvt : Bool) (s : State) (d n : Nat) : (storeNibs cvt s d n).length = 8 * n := by
  unfold storeNibs
  rw [List.length_flatMap]
  simp [Nat.mul_comm]

theorem storeNibs_lt {cvt : Bool} {s : State} {d n : Nat} : ∀ x ∈ storeNibs cvt s d n, x < 16 := fun x hx => by
  obtain ⟨i, -, hx⟩ := List.mem_flatMap.mp hx
  obtain ⟨j, -, rfl⟩ := List.mem_map.mp hx
  exact Nat.mod_lt _ (by decide)

theorem getElem?_storeNibs {cvt : Bool} {s : State} {d n i j : Nat} (hi : i < n) (hj : j < 8) :
    (storeNibs cvt s d n)[8 * i + j]? = some ((storeVal cvt s ((d + i) % 1024)).1 / 16 ^ j % 16) := by
  unfold storeNibs
  rw [getElem?_flatMap_const (w := 8) (by decide) _ (fun x _ => by rw [List.length_map, List.length_range]),
    show (8 * i + j) / 8 = i by omega, show (8 * i + j) % 8 = j by omega, List.getElem?_range hi]
  simp [hj]

/-- The word of a store before its writes, with the flags of its conversions. -/
def storeRun (w : QWord) (d : Nat) (cvt : Bool) (s : State) : Run :=
  ((spRegs d (hElems (w.rec_ 0))).map (storeVal cvt s)).foldl (fun r v => r.flag v.2)
    { s := s, w := s.running w 0 (spRho (spRegs d (hElems (w.rec_ 0)))) }

/-- When a store that has written `bytes` bytes writes the last of them (R162). -/
def storeTime (w : QWord) (d : Nat) (s : State) (bytes : Nat) : Nat :=
  spRho (spRegs d (hElems (w.rec_ 0))) + (s.pathOf (w.rec_ 0)).setup + (s.pathOf (w.rec_ 0)).wr + ceilDiv bytes (s.pathOf (w.rec_ 0)).rate

theorem storeRun_word_outs (w : QWord) (d : Nat) (cvt : Bool) (s : State) : (storeRun w d cvt s).w.word = w ∧ (storeRun w d cvt s).w.outs = [] := by
  unfold storeRun
  rw [Run.foldl_flag]
  exact ⟨rfl, rfl⟩

/-- The word of a store, with the writes of its segments. -/
theorem dispSpst_eq (w : QWord) (d : Nat) (cvt : Bool) (s : State) : dispSpst w d cvt s = s.start
    { ((List.range (ceilDiv (hElems (w.rec_ 0)) 128)).foldl
        (fun r k => Run.outSpan (w.rec_ 0) (storeTime w d s (min (4 * hElems (w.rec_ 0)) (512 * (k + 1)))) 1025 r (128 * k)
          (((storeNibs cvt s d (hElems (w.rec_ 0))).drop (1024 * k)).take 1024)) (storeRun w d cvt s)).w with
      comp := some (storeTime w d s (4 * hElems (w.rec_ 0)))
      fin := storeTime w d s (4 * hElems (w.rec_ 0))
      bound := storeTime w d s (4 * hElems (w.rec_ 0)) } := by
  have hnibs : ((spRegs d (hElems (w.rec_ 0))).map (storeVal cvt s)).flatMap (fun v => (upFrom 0 8).map fun j => v.1 / 16 ^ j % 16)
      = storeNibs cvt s d (hElems (w.rec_ 0)) := by
    unfold spRegs storeNibs
    rw [upFrom_zero, upFrom_zero, List.map_map, List.flatMap_map]
    rfl
  rw [← hnibs, ← upFrom_zero]
  rfl

/-- SPST writes register D + i as element i, and nothing else (R266). -/
theorem dispSpst_writes {w : QWord} {d : Nat} {cvt : Bool} {s : State} {h : HRec} {val : Nat → Nat} (hh : h = w.rec_ 0) (hb : hBcast h 0 = false)
    (hblock : fmtBlock (hFmt h) = false) (hstore : fmtStore (hFmt h) = 32) (hext : 0 < hExt h 0)
    (hval : val = fun i => (storeVal cvt s ((d + i) % 1024)).1) :
    ∃ x ∈ (dispSpst w d cvt s).cur.running, x.word = w
      ∧ (∀ o ∈ x.outs, o.space = hSpace h)
      ∧ ∀ a hi v, (∃ o ∈ x.outs, o.writes a hi v) ↔ ∃ i j, i < hElems h ∧ j < 8 ∧ nibAt h i j = (a, hi) ∧ val i / 16 ^ j % 16 = v := by
  subst hh hval
  have hw : elemNibs (hFmt (w.rec_ 0)) = 8 := by
    unfold elemNibs
    rw [hblock, hstore]
    rfl
  have h0 : 0 < copyRun (w.rec_ 0) := by
    unfold copyRun
    rwa [hblock]
  obtain ⟨hword, houts⟩ := storeRun_word_outs w d cvt s
  obtain ⟨hsp, hwr, hwd⟩ := Run.writesMore_segments hb hw h0
    (fun k => storeTime w d s (min (4 * hElems (w.rec_ 0)) (512 * (k + 1)))) (length_storeNibs cvt s d (hElems (w.rec_ 0))) storeNibs_lt
    (ceilDiv (hElems (w.rec_ 0)) 128) (storeRun w d cvt s)
  have hmin : min (hElems (w.rec_ 0)) (128 * ceilDiv (hElems (w.rec_ 0)) 128) = hElems (w.rec_ 0) := by
    unfold ceilDiv
    omega
  rw [hmin] at hwr
  rw [houts] at hsp hwr
  rw [dispSpst_eq]
  refine ⟨_, List.mem_append.mpr (.inr (List.mem_singleton.mpr rfl)), hwd.trans hword,
    fun o ho => (hsp o ho).resolve_left List.not_mem_nil, fun a hi v => (hwr a hi v).trans ?_⟩
  rw [or_iff_right (by simp)]
  refine exists_congr fun i => exists_congr fun j => and_congr_right fun hi' => and_congr_right fun hj => and_congr_right fun _ => ?_
  rw [getElem?_storeNibs hi' hj, Option.some_inj]

end Sys2Proof.Machine
end

section
/-! PROOFS. The sum-product words (O42). -/

namespace Sys2Proof.Machine

/-- Settles O42: the exact arithmetic and its rounding, the passes node by node, renormalisation, and the words that move tables and registers. -/
theorem sumProductEffects : Obligations.SumProductEffects := by
  unfold Obligations.SumProductEffects
  refine ⟨?sp, ?fp, ?round, ?up, ?down, ?norm, ?load, ?tables, ?store, ?complete⟩
  case sp => exact fun a b w => spArith_of_fin (fp := false) (spVal_fin w) (spVal_fin a) (spVal_fin b)
  case fp =>
    intro a b w ha hb hw
    obtain ⟨x, y, z, hx, hy, hz, hxr, hmul, hyr, hadd, hzr, hsum⟩ := spArith_of_fin (fp := true) hw ha hb
    exact ⟨x, y, z, hx, hy, hz, hxr, hmul.trans (f32Round_of_valid x), hyr, hadd.trans (f32Round_of_valid y), hzr,
      hsum.trans (f32Round_of_valid z)⟩
  case round => exact fun v c hf hlo hhi hc => toSp_nearest hf hlo hhi hc
  case up => exact fun e dest x hx => SpEnv.up_spec hx
  case down =>
    intro e dest x hx hshape hfault
    obtain ⟨hroot, hreached, hunreached, hsaved⟩ := SpEnv.down_gradients hx hshape hfault
    exact ⟨hroot, hreached, hunreached, hsaved, fun L hL => SpEnv.down_writes hx hshape hfault hL⟩
  case norm =>
    rintro e dest val rfl
    obtain ⟨hall, hor⟩ := topLog_bounds (fun n => spNum (spFp e.mode) (e.reg n)) e.normRegs rfl
    refine ⟨e.normRegs, e.normExp, e.nodup_normRegs, fun n => SpEnv.mem_normRegs, hall, hor, (e.norm_writes dest).trans ?_⟩
    refine congrArg (· ++ _) (List.map_congr_left fun n _ => ?_)
    dsimp only
    cases spNum (spFp e.mode) (e.reg n) <;> rfl
  case load =>
    intro g h d r nibs n hn hnibs hregs hmoved
    refine ⟨fun hw => ?_, fun hw => ?_⟩
    · rw [spLoaded_tables (cvt := false) hn hnibs hregs hmoved (.inl ⟨g, h, d, hw, rfl⟩)]
      simp only [loadVal_false]
    · rw [spLoaded_tables (cvt := true) hn hnibs hregs hmoved (.inr ⟨g, h, d, hw, rfl⟩)]
      simp only [loadVal_true]
  case tables => exact fun g sh ls h r nibs => ⟨fun hw => spLoaded_spshape nibs hw, fun hw => spLoaded_splist nibs hw⟩
  case store =>
    intro w d cvt s h val hh hb hblock hstore hext _ hval
    refine dispSpst_writes hh hb hblock hstore hext (hval.trans (funext fun i => ?_))
    cases cvt <;> rfl
  case complete => exact fun r s n => completeWord_last r s n

end Sys2Proof.Machine
end

section
/-! PROOFS. The fields of a word put together and taken apart (R45, R46): every word is laid out in each format by its own fields. -/

namespace Sys2Proof

/-- A row whose reserved fields are 0 decodes, and to its instruction alone (R51). -/
theorem rsv_eq_ok {ok : Bool} {i j : Instr} : rsv ok i = .ok j ↔ ok = true ∧ j = i := by
  unfold rsv; cases ok <;> simp [eq_comm]

/-! ### Parts of a field -/

/-- A field of two parts is those parts. -/
theorem slices2 {m n : Nat} (x : BitVec (m + n)) : x.extractLsb' n m ++ x.extractLsb' 0 n = x := by
  have e := join_slices x 0 n m
  rw [Nat.zero_add] at e
  exact e.trans BitVec.extractLsb'_eq_self

/-- A field whose high part is 0 is its low part behind zeros. -/
theorem zero_append_low {m n : Nat} {x : BitVec (m + n)} (h : x.extractLsb' n m = 0#m) : 0#m ++ x.extractLsb' 0 n = x := by
  exact h ▸ slices2 x

/-- A field of three parts is those parts. -/
theorem slices3 {p q r : Nat} (x : BitVec (p + q + r)) : x.extractLsb' (r + q) p ++ x.extractLsb' r q ++ x.extractLsb' 0 r = x := by
  rw [join_slices x r q p]
  have e := join_slices x 0 r (p + q)
  rw [Nat.zero_add] at e
  exact e.trans BitVec.extractLsb'_eq_self

/-- A field whose high part is 0 is its other two parts behind zeros. -/
theorem zero_append_slices {p q r : Nat} {x : BitVec (p + q + r)} (h : x.extractLsb' (r + q) p = 0#p) :
    0#p ++ x.extractLsb' r q ++ x.extractLsb' 0 r = x := h ▸ slices3 x

/-- The low one of three parts. -/
theorem low_append3 {p q r : Nat} (a : BitVec p) (b : BitVec q) (c : BitVec r) : (a ++ b ++ c).extractLsb' 0 r = c :=
  low_append (a ++ b) c

/-- The middle one of three parts. -/
theorem mid_append3 {p q r : Nat} (a : BitVec p) (b : BitVec q) (c : BitVec r) : (a ++ b ++ c).extractLsb' r q = b := by
  rw [BitVec.extractLsb'_append_eq_of_le (Nat.le_refl r), Nat.sub_self, low_append]

/-- The high one of three parts. -/
theorem high_append3 {p q r : Nat} (a : BitVec p) (b : BitVec q) (c : BitVec r) : (a ++ b ++ c).extractLsb' (r + q) p = a := by
  rw [BitVec.extractLsb'_append_eq_of_le (Nat.le_add_right r q), Nat.add_sub_cancel_left, high_append]

/-- TICK24 read back from the four fields that hold it (R46). -/
theorem parts24 (a b c d : BitVec 6) :
    (a ++ b ++ c ++ d : BitVec 24).extractLsb' 18 6 = a ∧ (a ++ b ++ c ++ d : BitVec 24).extractLsb' 12 6 = b
      ∧ (a ++ b ++ c ++ d : BitVec 24).extractLsb' 6 6 = c ∧ (a ++ b ++ c ++ d : BitVec 24).extractLsb' 0 6 = d :=
  ⟨(BitVec.extractLsb'_append_eq_of_le (by decide)).trans (high_append3 a b c),
    (BitVec.extractLsb'_append_eq_of_le (by decide)).trans (mid_append3 a b c), mid_append3 (a ++ b) c d, low_append3 (a ++ b) c d⟩

/-- A 16-bit number read back from the four fields that hold it (R46). -/
theorem parts16 (a b c d : BitVec 4) :
    (a ++ b ++ c ++ d : BitVec 16).extractLsb' 12 4 = a ∧ (a ++ b ++ c ++ d : BitVec 16).extractLsb' 8 4 = b
      ∧ (a ++ b ++ c ++ d : BitVec 16).extractLsb' 4 4 = c ∧ (a ++ b ++ c ++ d : BitVec 16).extractLsb' 0 4 = d :=
  ⟨(BitVec.extractLsb'_append_eq_of_le (by decide)).trans (high_append3 a b c),
    (BitVec.extractLsb'_append_eq_of_le (by decide)).trans (mid_append3 a b c), mid_append3 (a ++ b) c d, low_append3 (a ++ b) c d⟩

/-! ### Every word in each format -/

/-- Every word in the R format (R46). -/
theorem encR_of_maj {w : BitVec 48} {n : Nat} (hm : (w.extractLsb' 42 6).toNat = n) :
    ∃ c FN D A B C MOD, w = encR (BitVec.ofNat 6 n) c FN D A B C MOD := by
  refine ⟨(FldR.ofWord w).c, (FldR.ofWord w).FN, (FldR.ofWord w).D, (FldR.ofWord w).A, (FldR.ofWord w).B,
    (FldR.ofWord w).C, (FldR.ofWord w).MOD, ?_⟩
  rw [← hm, BitVec.ofNat_toNat, BitVec.setWidth_eq]
  simp only [encR, FldR.ofWord, join_slices w 38 4 6, join_slices w 32 6 10, join_slices w 26 6 16, join_slices w 20 6 22,
    join_slices w 14 6 28, join_slices w 8 6 34, join_slices w 4 4 40, join_slices w 0 4 44, BitVec.extractLsb'_eq_self]

/-- Every word in the I format (R46). -/
theorem encI_of_maj {w : BitVec 48} {n : Nat} (hm : (w.extractLsb' 42 6).toNat = n) :
    ∃ c FN D A IMM, w = encI (BitVec.ofNat 6 n) c FN D A IMM := by
  refine ⟨(FldI.ofWord w).c, (FldI.ofWord w).FN, (FldI.ofWord w).D, (FldI.ofWord w).A, (FldI.ofWord w).IMM, ?_⟩
  rw [← hm, BitVec.ofNat_toNat, BitVec.setWidth_eq]
  simp only [encI, FldI.ofWord, join_slices w 38 4 6, join_slices w 36 2 10, join_slices w 30 6 12, join_slices w 24 6 18,
    join_slices w 4 20 24, join_slices w 0 4 44, BitVec.extractLsb'_eq_self]

/-- Every word in the M format (R46). -/
theorem encM_of_maj {w : BitVec 48} {n : Nat} (hm : (w.extractLsb' 42 6).toNat = n) :
    ∃ c FN D A SZ ORD IMM, w = encM (BitVec.ofNat 6 n) c FN D A SZ ORD IMM := by
  refine ⟨(FldM.ofWord w).c, (FldM.ofWord w).FN, (FldM.ofWord w).D, (FldM.ofWord w).A, (FldM.ofWord w).SZ,
    (FldM.ofWord w).ORD, (FldM.ofWord w).IMM, ?_⟩
  rw [← hm, BitVec.ofNat_toNat, BitVec.setWidth_eq]
  simp only [encM, FldM.ofWord, join_slices w 38 4 6, join_slices w 34 4 10, join_slices w 28 6 14, join_slices w 22 6 20,
    join_slices w 20 2 26, join_slices w 16 4 28, join_slices w 4 12 32, join_slices w 0 4 44, BitVec.extractLsb'_eq_self]

/-- Every word in the B format (R46). -/
theorem encB_of_maj {w : BitVec 48} {n : Nat} (hm : (w.extractLsb' 42 6).toNat = n) :
    ∃ c FN A B OFF, w = encB (BitVec.ofNat 6 n) c FN A B OFF := by
  refine ⟨(FldB.ofWord w).c, (FldB.ofWord w).FN, (FldB.ofWord w).A, (FldB.ofWord w).B, (FldB.ofWord w).OFF, ?_⟩
  rw [← hm, BitVec.ofNat_toNat, BitVec.setWidth_eq]
  simp only [encB, FldB.ofWord, join_slices w 38 4 6, join_slices w 34 4 10, join_slices w 28 6 14, join_slices w 22 6 20,
    join_slices w 4 18 26, join_slices w 0 4 44, BitVec.extractLsb'_eq_self]

/-- Every word in the U format (R46). -/
theorem encU_of_maj {w : BitVec 48} {n : Nat} (hm : (w.extractLsb' 42 6).toNat = n) :
    ∃ c D IMM, w = encU (BitVec.ofNat 6 n) c D IMM := by
  refine ⟨(FldU.ofWord w).c, (FldU.ofWord w).D, (FldU.ofWord w).IMM, ?_⟩
  rw [← hm, BitVec.ofNat_toNat, BitVec.setWidth_eq]
  simp only [encU, FldU.ofWord, join_slices w 38 4 6, join_slices w 32 6 10, join_slices w 4 28 16, join_slices w 0 4 44,
    BitVec.extractLsb'_eq_self]

/-- Every word in the T format (R46). -/
theorem encT_of_maj {w : BitVec 48} {n : Nat} (hm : (w.extractLsb' 42 6).toNat = n) :
    ∃ c FN D A B C, w = encT (BitVec.ofNat 6 n) c FN D A B C := by
  refine ⟨(FldT.ofWord w).c, (FldT.ofWord w).FN, (FldT.ofWord w).D, (FldT.ofWord w).A, (FldT.ofWord w).B,
    (FldT.ofWord w).C, ?_⟩
  rw [← hm, BitVec.ofNat_toNat, BitVec.setWidth_eq]
  simp only [encT, FldT.ofWord, join_slices w 38 4 6, join_slices w 32 6 10, join_slices w 28 4 16, join_slices w 24 4 20,
    join_slices w 20 4 24, join_slices w 16 4 28, join_slices w 10 6 32, join_slices w 4 6 38, join_slices w 0 4 44,
    BitVec.extractLsb'_eq_self]

/-- Every word in the S format (R46). -/
theorem encS_of_maj {w : BitVec 48} {n : Nat} (hm : (w.extractLsb' 42 6).toNat = n) :
    ∃ c FN SHAPE LIST DEST, w = encS (BitVec.ofNat 6 n) c FN SHAPE LIST DEST := by
  refine ⟨(FldS.ofWord w).c, (FldS.ofWord w).FN, (FldS.ofWord w).SHAPE, (FldS.ofWord w).LIST,
    (FldS.ofWord w).DEST, ?_⟩
  rw [← hm, BitVec.ofNat_toNat, BitVec.setWidth_eq]
  simp only [encS, FldS.ofWord, join_slices w 38 4 6, join_slices w 32 6 10, join_slices w 24 8 16, join_slices w 14 10 24,
    join_slices w 4 10 34, join_slices w 0 4 44, BitVec.extractLsb'_eq_self]

/-- A word laid out as AT is: MAJ, the guard, FN6, IMM28 and HOLD (R55). -/
theorem at_fields (w : BitVec 48) :
    w.extractLsb' 42 6 ++ w.extractLsb' 38 4 ++ w.extractLsb' 32 6 ++ w.extractLsb' 4 28 ++ w.extractLsb' 0 4 = w := by
  simp only [join_slices w 38 4 6, join_slices w 32 6 10, join_slices w 4 28 16, join_slices w 0 4 44, BitVec.extractLsb'_eq_self]

end Sys2Proof
end

section
/-! PROOFS. A word that decodes is the word of its instruction: one lemma for each MAJ of Table 3-3 (R51). -/

namespace Sys2Proof

section
variable {w : BitVec 48} {i : Instr}

/-- MAJ 0x01. -/
theorem encode_of_decode01 (hm : (w.extractLsb' 42 6).toNat = 1) (h : decode01 w = .ok i) :
    encode i = w ∧ i.isEvent = false := by
  obtain ⟨c, FN, D, A, B, C, MOD, rfl⟩ := encR_of_maj hm
  rw [decode01, fldR_encR] at h
  dsimp only at h
  split at h <;> simp_all [rsv_eq_ok, BitVec.toNat_eq_nat] <;> exact ⟨rfl, rfl⟩

/-- MAJ 0x02. -/
theorem encode_of_decode02 (hm : (w.extractLsb' 42 6).toNat = 2) (h : decode02 w = .ok i) :
    encode i = w ∧ i.isEvent = false := by
  obtain ⟨c, FN, D, A, IMM, rfl⟩ := encI_of_maj hm
  rw [decode02, fldI_encI] at h
  dsimp only at h
  split at h <;> simp_all [rsv_eq_ok, BitVec.toNat_eq_nat] <;> exact ⟨rfl, rfl⟩

/-- MAJ 0x03. -/
theorem encode_of_decode03 (hm : (w.extractLsb' 42 6).toNat = 3) (h : decode03 w = .ok i) :
    encode i = w ∧ i.isEvent = false := by
  obtain ⟨c, FN, D, A, IMM, rfl⟩ := encI_of_maj hm
  rw [decode03, fldI_encI] at h
  dsimp only at h
  split at h <;> simp_all [rsv_eq_ok, BitVec.toNat_eq_nat] <;> exact ⟨rfl, rfl⟩

/-- MAJ 0x04. -/
theorem encode_of_decode04 (hm : (w.extractLsb' 42 6).toNat = 4) (h : decode04 w = .ok i) :
    encode i = w ∧ i.isEvent = false := by
  obtain ⟨c, FN, D, A, IMM, rfl⟩ := encI_of_maj hm
  rw [decode04, fldI_encI] at h
  dsimp only at h
  split at h <;> simp_all [rsv_eq_ok, BitVec.toNat_eq_nat] <;> exact ⟨rfl, rfl⟩

/-- MAJ 0x05. -/
theorem encode_of_decode05 (hm : (w.extractLsb' 42 6).toNat = 5) (h : decode05 w = .ok i) :
    encode i = w ∧ i.isEvent = false := by
  obtain ⟨c, FN, D, A, B, C, MOD, rfl⟩ := encR_of_maj hm
  rw [decode05, fldR_encR] at h
  dsimp only at h
  split at h <;> simp_all [rsv_eq_ok, BitVec.toNat_eq_nat] <;> exact ⟨rfl, rfl⟩

/-- MAJ 0x06. -/
theorem encode_of_decode06 (hm : (w.extractLsb' 42 6).toNat = 6) (h : decode06 w = .ok i) :
    encode i = w ∧ i.isEvent = false := by
  obtain ⟨c, FN, D, A, B, C, MOD, rfl⟩ := encR_of_maj hm
  rw [decode06, fldR_encR] at h
  dsimp only at h
  split at h <;> simp_all [rsv_eq_ok, BitVec.toNat_eq_nat] <;> exact ⟨rfl, rfl⟩

/-- MAJ 0x07. -/
theorem encode_of_decode07 (hm : (w.extractLsb' 42 6).toNat = 7) (h : decode07 w = .ok i) :
    encode i = w ∧ i.isEvent = false := by
  obtain ⟨c, FN, D, A, B, C, MOD, rfl⟩ := encR_of_maj hm
  rw [decode07, fldR_encR] at h
  dsimp only at h
  split at h <;> simp_all [rsv_eq_ok, BitVec.toNat_eq_nat] <;> exact ⟨rfl, rfl⟩

/-- MAJ 0x08. -/
theorem encode_of_decode08 (hm : (w.extractLsb' 42 6).toNat = 8) (h : decode08 w = .ok i) :
    encode i = w ∧ i.isEvent = false := by
  obtain ⟨c, FN, D, A, SZ, ORD, IMM, rfl⟩ := encM_of_maj hm
  rw [decode08, fldM_encM] at h
  dsimp only at h
  split at h <;> simp_all [rsv_eq_ok, BitVec.toNat_eq_nat] <;> exact ⟨rfl, rfl⟩

/-- MAJ 0x09. -/
theorem encode_of_decode09 (hm : (w.extractLsb' 42 6).toNat = 9) (h : decode09 w = .ok i) :
    encode i = w ∧ i.isEvent = false := by
  obtain ⟨c, FN, D, A, SZ, ORD, IMM, rfl⟩ := encM_of_maj hm
  rw [decode09, fldM_encM] at h
  dsimp only at h
  split at h <;> simp_all [rsv_eq_ok, BitVec.toNat_eq_nat]
  exact ⟨rfl, rfl⟩

/-- MAJ 0x0A. -/
theorem encode_of_decode0A (hm : (w.extractLsb' 42 6).toNat = 10) (h : decode0A w = .ok i) :
    encode i = w ∧ i.isEvent = false := by
  obtain ⟨c, FN, D, A, B, C, MOD, rfl⟩ := encR_of_maj hm
  rw [decode0A, fldR_encR] at h
  dsimp only at h
  split at h <;> simp_all [rsv_eq_ok, BitVec.toNat_eq_nat]
  case h_1 => exact ⟨congrArg (encR 10#6 c 0#6 D A B 0#6) (zero_append_low h.1.2), rfl⟩
  case h_2 => exact ⟨congrArg (encR 10#6 c 1#6 D A B 0#6) (zero_append_low h.1.2), rfl⟩
  case h_3 => exact ⟨congrArg (encR 10#6 c 2#6 0#6 A B C) (zero_append_low h.1.2), rfl⟩

/-- MAJ 0x0B. -/
theorem encode_of_decode0B (hm : (w.extractLsb' 42 6).toNat = 11) (h : decode0B w = .ok i) :
    encode i = w ∧ i.isEvent = false := by
  obtain ⟨c, FN, D, A, IMM, rfl⟩ := encI_of_maj hm
  rw [decode0B, fldI_encI] at h
  dsimp only at h
  split at h <;> simp_all [rsv_eq_ok, BitVec.toNat_eq_nat]
  case h_1 => exact ⟨congrArg (encI 11#6 c 0#2 D 0#6) (zero_append_low h.1.2), rfl⟩
  case h_2 => exact ⟨congrArg (encI 11#6 c 1#2 D A) (zero_append_low h.1), rfl⟩
  case h_3 => exact ⟨congrArg (encI 11#6 c 2#2 D A) (zero_append_low h.1), rfl⟩
  case h_4 => exact ⟨congrArg (encI 11#6 c 3#2 D A) (zero_append_low h.1), rfl⟩

/-- MAJ 0x0C. -/
theorem encode_of_decode0C (hm : (w.extractLsb' 42 6).toNat = 12) (h : decode0C w = .ok i) :
    encode i = w ∧ i.isEvent = false := by
  obtain ⟨c, FN, A, B, OFF, rfl⟩ := encB_of_maj hm
  rw [decode0C, fldB_encB] at h
  dsimp only at h
  split at h <;> simp_all [rsv_eq_ok, BitVec.toNat_eq_nat] <;> exact ⟨rfl, rfl⟩

/-- MAJ 0x0D. -/
theorem encode_of_decode0D (hm : (w.extractLsb' 42 6).toNat = 13) (h : decode0D w = .ok i) :
    encode i = w ∧ i.isEvent = false := by
  obtain ⟨c, D, IMM, rfl⟩ := encU_of_maj hm
  rw [decode0D, fldU_encU] at h
  dsimp only at h
  simp_all [rsv_eq_ok]
  exact ⟨rfl, rfl⟩

/-- MAJ 0x0E. -/
theorem encode_of_decode0E (hm : (w.extractLsb' 42 6).toNat = 14) (h : decode0E w = .ok i) :
    encode i = w ∧ i.isEvent = false := by
  obtain ⟨c, FN, D, A, IMM, rfl⟩ := encI_of_maj hm
  rw [decode0E, fldI_encI] at h
  dsimp only at h
  split at h <;> simp_all [rsv_eq_ok, BitVec.toNat_eq_nat] <;> exact ⟨rfl, rfl⟩

/-- MAJ 0x0F. -/
theorem encode_of_decode0F (hm : (w.extractLsb' 42 6).toNat = 15) (h : decode0F w = .ok i) :
    encode i = w ∧ i.isEvent = false := by
  obtain ⟨c, FN, D, A, B, C, MOD, rfl⟩ := encR_of_maj hm
  rw [decode0F, fldR_encR] at h
  dsimp only at h
  split at h <;> simp_all [rsv_eq_ok, BitVec.toNat_eq_nat] <;> exact ⟨rfl, rfl⟩

/-- MAJ 0x10. -/
theorem encode_of_decode10 (hm : (w.extractLsb' 42 6).toNat = 16) (h : decode10 w = .ok i) :
    encode i = w ∧ i.isEvent = false := by
  obtain ⟨c, FN, D, A, B, C, MOD, rfl⟩ := encR_of_maj hm
  rw [decode10, fldR_encR] at h
  dsimp only at h
  split at h <;> simp_all [rsv_eq_ok, BitVec.toNat_eq_nat] <;> exact ⟨rfl, rfl⟩

/-- MAJ 0x11. -/
theorem encode_of_decode11 (hm : (w.extractLsb' 42 6).toNat = 17) (h : decode11 w = .ok i) :
    encode i = w ∧ i.isEvent = false := by
  obtain ⟨c, FN, D, A, SZ, ORD, IMM, rfl⟩ := encM_of_maj hm
  rw [decode11, fldM_encM] at h
  dsimp only at h
  split at h <;> simp_all [rsv_eq_ok, BitVec.toNat_eq_nat] <;> exact ⟨rfl, rfl⟩

/-- MAJ 0x12. -/
theorem encode_of_decode12 (hm : (w.extractLsb' 42 6).toNat = 18) (h : decode12 w = .ok i) :
    encode i = w ∧ i.isEvent = false := by
  obtain ⟨c, FN, D, A, B, C, rfl⟩ := encT_of_maj hm
  rw [decode12, fldT_encT] at h
  dsimp only at h
  split at h <;> simp_all [rsv_eq_ok, BitVec.toNat_eq_nat] <;> exact ⟨rfl, rfl⟩

/-- MAJ 0x14. -/
theorem encode_of_decode14 (hm : (w.extractLsb' 42 6).toNat = 20) (h : decode14 w = .ok i) :
    encode i = w ∧ i.isEvent = false := by
  obtain ⟨c, FN, D, A, B, C, rfl⟩ := encT_of_maj hm
  rw [decode14, fldT_encT] at h
  dsimp only at h
  split at h <;> simp_all [rsv_eq_ok, BitVec.toNat_eq_nat]
  case h_1 | h_3 =>
    refine ⟨?_, rfl⟩
    show encT _ _ _ _ _ _ _ = _
    simp only [parts16 D A B C]
  case h_2 => exact ⟨rfl, rfl⟩
  case h_4 =>
    refine ⟨?_, rfl⟩
    show encT _ _ _ _ _ (0#3 ++ BitVec.extractLsb' 4 1 (_ ++ _)) (BitVec.extractLsb' 0 4 (_ ++ _)) = _
    rw [high_append (B.extractLsb' 0 1) C, low_append (B.extractLsb' 0 1) C, zero_append_low h.1.2]
  case h_5 =>
    refine ⟨?_, rfl⟩
    show encT _ _ _ _ _ _ _ = _
    rw [high_append3 A B C, mid_append3 A B C, low_append3 A B C]

/-- MAJ 0x15. -/
theorem encode_of_decode15 (hm : (w.extractLsb' 42 6).toNat = 21) (h : decode15 w = .ok i) :
    encode i = w ∧ i.isEvent = false := by
  obtain ⟨c, FN, D, A, IMM, rfl⟩ := encI_of_maj hm
  rw [decode15, fldI_encI] at h
  dsimp only at h
  split at h <;> simp_all [rsv_eq_ok, BitVec.toNat_eq_nat]
  exact ⟨congrArg (encI 21#6 c 0#2 D 0#6) (slices2 (m := 10) (n := 10) IMM), rfl⟩

/-- MAJ 0x16. -/
theorem encode_of_decode16 (hm : (w.extractLsb' 42 6).toNat = 22) (h : decode16 w = .ok i) :
    encode i = w ∧ i.isEvent = false := by
  obtain ⟨c, FN, D, A, B, C, MOD, rfl⟩ := encR_of_maj hm
  rw [decode16, fldR_encR] at h
  dsimp only at h
  split at h <;> simp_all [rsv_eq_ok, BitVec.toNat_eq_nat]
  case h_1 | h_3 =>
    refine ⟨?_, rfl⟩
    show encR _ _ _ _ _ _ _ _ = _
    simp only [parts24 D A B C]
  case h_2 => exact ⟨rfl, rfl⟩

/-- MAJ 0x18. -/
theorem encode_of_decode18 (hm : (w.extractLsb' 42 6).toNat = 24) (h : decode18 w = .ok i) :
    encode i = w ∧ i.isEvent = false := by
  obtain ⟨c, FN, D, A, SZ, ORD, IMM, rfl⟩ := encM_of_maj hm
  rw [decode18, fldM_encM] at h
  dsimp only at h
  split at h <;> simp_all [rsv_eq_ok, BitVec.toNat_eq_nat] <;> exact ⟨rfl, rfl⟩

/-- MAJ 0x19. -/
theorem encode_of_decode19 (hm : (w.extractLsb' 42 6).toNat = 25) (h : decode19 w = .ok i) :
    encode i = w ∧ i.isEvent = false := by
  obtain ⟨c, FN, D, A, SZ, ORD, IMM, rfl⟩ := encM_of_maj hm
  rw [decode19, fldM_encM] at h
  dsimp only at h
  split at h <;> simp_all [rsv_eq_ok, BitVec.toNat_eq_nat] <;> exact ⟨rfl, rfl⟩

/-- MAJ 0x1C. -/
theorem encode_of_decode1C (hm : (w.extractLsb' 42 6).toNat = 28) (h : decode1C w = .ok i) :
    encode i = w ∧ i.isEvent = false := by
  obtain ⟨c, FN, D, A, B, C, MOD, rfl⟩ := encR_of_maj hm
  rw [decode1C, fldR_encR] at h
  dsimp only at h
  split at h <;> simp_all [rsv_eq_ok, BitVec.toNat_eq_nat]
  case h_1 =>
    refine ⟨?_, rfl⟩
    show encR _ _ _ _ _ _ _ _ = _
    rw [high_append B C, low_append B C]
  case h_2 => exact ⟨rfl, rfl⟩

/-- MAJ 0x1D. -/
theorem encode_of_decode1D (hm : (w.extractLsb' 42 6).toNat = 29) (h : decode1D w = .ok i) :
    encode i = w ∧ i.isEvent = false := by
  obtain ⟨c, FN, D, A, SZ, ORD, IMM, rfl⟩ := encM_of_maj hm
  rw [decode1D, fldM_encM] at h
  dsimp only at h
  split at h <;> simp_all [rsv_eq_ok, BitVec.toNat_eq_nat]
  exact ⟨rfl, rfl⟩

/-- MAJ 0x1E. -/
theorem encode_of_decode1E (hm : (w.extractLsb' 42 6).toNat = 30) (h : decode1E w = .ok i) :
    encode i = w ∧ i.isEvent = false := by
  obtain ⟨c, FN, D, A, B, C, MOD, rfl⟩ := encR_of_maj hm
  rw [decode1E, fldR_encR] at h
  dsimp only at h
  split at h <;> simp_all [rsv_eq_ok, BitVec.toNat_eq_nat]
  case h_1 =>
    split at h <;> simp_all [rsv_eq_ok] <;> exact ⟨rfl, rfl⟩
  case h_2 => exact ⟨congrArg (encR 30#6 c 1#6 0#6 0#6 0#6 0#6) (zero_append_low h.1.2), rfl⟩

/-- MAJ 0x20. -/
theorem encode_of_decode20 (hm : (w.extractLsb' 42 6).toNat = 32) (h : decode20 w = .ok i) :
    encode i = w ∧ i.isEvent = false := by
  obtain ⟨c, FN, D, A, B, C, rfl⟩ := encT_of_maj hm
  rw [decode20, fldT_encT] at h
  dsimp only at h
  split at h <;> simp_all [rsv_eq_ok]
  case isTrue hz => exact ⟨congrArg (encT 32#6 c · D A B C) (zero_append_slices (p := 4) (q := 1) (r := 1) hz), rfl⟩

/-- MAJ 0x21. -/
theorem encode_of_decode21 (hm : (w.extractLsb' 42 6).toNat = 33) (h : decode21 w = .ok i) :
    encode i = w ∧ i.isEvent = false := by
  obtain ⟨c, FN, D, A, B, C, rfl⟩ := encT_of_maj hm
  rw [decode21, fldT_encT] at h
  dsimp only at h
  simp_all [rsv_eq_ok]
  exact ⟨congrArg (encT 33#6 c · D A B C) (slices3 (p := 4) (q := 1) (r := 1) FN), rfl⟩

/-- MAJ 0x22. -/
theorem encode_of_decode22 (hm : (w.extractLsb' 42 6).toNat = 34) (h : decode22 w = .ok i) :
    encode i = w ∧ i.isEvent = false := by
  obtain ⟨c, FN, D, A, B, C, rfl⟩ := encT_of_maj hm
  rw [decode22, fldT_encT] at h
  dsimp only at h
  split at h <;> simp_all [rsv_eq_ok]
  case isTrue hz =>
    exact ⟨congrArg (encT 34#6 c · D 0#4 0#4 0#4) (zero_append_slices (p := 4) (q := 1) (r := 1) hz), rfl⟩

/-- MAJ 0x23. -/
theorem encode_of_decode23 (hm : (w.extractLsb' 42 6).toNat = 35) (h : decode23 w = .ok i) :
    encode i = w ∧ i.isEvent = false := by
  obtain ⟨c, FN, D, A, B, C, rfl⟩ := encT_of_maj hm
  rw [decode23, fldT_encT] at h
  dsimp only at h
  split at h <;> simp_all [rsv_eq_ok, BitVec.toNat_eq_nat]
  all_goals exact ⟨rfl, rfl⟩

/-- MAJ 0x28. -/
theorem encode_of_decode28 (hm : (w.extractLsb' 42 6).toNat = 40) (h : decode28 w = .ok i) :
    encode i = w ∧ i.isEvent = false := by
  obtain ⟨c, FN, D, A, B, C, rfl⟩ := encT_of_maj hm
  rw [decode28, fldT_encT] at h
  dsimp only at h
  split at h <;> simp_all [rsv_eq_ok, BitVec.toNat_eq_nat] <;> exact ⟨rfl, rfl⟩

/-- MAJ 0x29. -/
theorem encode_of_decode29 (hm : (w.extractLsb' 42 6).toNat = 41) (h : decode29 w = .ok i) :
    encode i = w ∧ i.isEvent = false := by
  obtain ⟨c, FN, D, A, B, C, rfl⟩ := encT_of_maj hm
  rw [decode29, fldT_encT] at h
  dsimp only at h
  split at h <;> simp_all [rsv_eq_ok, BitVec.toNat_eq_nat]
  case h_1 => exact ⟨congrArg (encT 41#6 c 0#6 D A 0#4) (zero_append_slices (p := 1) (q := 1) (r := 2) h.1.2), rfl⟩
  all_goals exact ⟨rfl, rfl⟩

/-- MAJ 0x2A. -/
theorem encode_of_decode2A (hm : (w.extractLsb' 42 6).toNat = 42) (h : decode2A w = .ok i) :
    encode i = w ∧ i.isEvent = false := by
  obtain ⟨c, FN, D, A, B, C, rfl⟩ := encT_of_maj hm
  rw [decode2A, fldT_encT] at h
  dsimp only at h
  split at h <;> simp_all [rsv_eq_ok, BitVec.toNat_eq_nat] <;> exact ⟨rfl, rfl⟩

/-- MAJ 0x2B. -/
theorem encode_of_decode2B (hm : (w.extractLsb' 42 6).toNat = 43) (h : decode2B w = .ok i) :
    encode i = w ∧ i.isEvent = false := by
  obtain ⟨c, FN, D, A, B, C, rfl⟩ := encT_of_maj hm
  rw [decode2B, fldT_encT] at h
  dsimp only at h
  split at h <;> simp_all [rsv_eq_ok, BitVec.toNat_eq_nat] <;> exact ⟨rfl, rfl⟩

/-- MAJ 0x2C. -/
theorem encode_of_decode2C (hm : (w.extractLsb' 42 6).toNat = 44) (h : decode2C w = .ok i) :
    encode i = w ∧ i.isEvent = false := by
  obtain ⟨c, FN, D, A, B, C, rfl⟩ := encT_of_maj hm
  rw [decode2C, fldT_encT] at h
  dsimp only at h
  split at h <;> simp_all [rsv_eq_ok, BitVec.toNat_eq_nat] <;> exact ⟨rfl, rfl⟩

/-- MAJ 0x30. -/
theorem encode_of_decode30 (hm : (w.extractLsb' 42 6).toNat = 48) (h : decode30 w = .ok i) :
    encode i = w ∧ i.isEvent = false := by
  obtain ⟨c, FN, D, A, B, C, rfl⟩ := encT_of_maj hm
  rw [decode30, fldT_encT] at h
  dsimp only at h
  split at h <;> simp_all [rsv_eq_ok, BitVec.toNat_eq_nat] <;> exact ⟨rfl, rfl⟩

/-- MAJ 0x31. -/
theorem encode_of_decode31 (hm : (w.extractLsb' 42 6).toNat = 49) (h : decode31 w = .ok i) :
    encode i = w ∧ i.isEvent = false := by
  obtain ⟨c, FN, D, A, B, C, rfl⟩ := encT_of_maj hm
  rw [decode31, fldT_encT] at h
  dsimp only at h
  split at h <;> simp_all [rsv_eq_ok, BitVec.toNat_eq_nat]
  all_goals
    refine ⟨?_, rfl⟩
    show encT _ _ _ _ _ _ _ = _
    rw [high_append D A, low_append D A]

/-- MAJ 0x32. -/
theorem encode_of_decode32 (hm : (w.extractLsb' 42 6).toNat = 50) (h : decode32 w = .ok i) :
    encode i = w ∧ i.isEvent = false := by
  obtain ⟨c, FN, D, A, B, C, rfl⟩ := encT_of_maj hm
  rw [decode32, fldT_encT] at h
  dsimp only at h
  split at h <;> simp_all [rsv_eq_ok, BitVec.toNat_eq_nat] <;> exact ⟨rfl, rfl⟩

/-- MAJ 0x34. -/
theorem encode_of_decode34 (hm : (w.extractLsb' 42 6).toNat = 52) (h : decode34 w = .ok i) :
    encode i = w ∧ i.isEvent = false := by
  obtain ⟨c, FN, D, A, B, C, rfl⟩ := encT_of_maj hm
  rw [decode34, fldT_encT] at h
  dsimp only at h
  split at h <;> simp_all [rsv_eq_ok, BitVec.toNat_eq_nat] <;> exact ⟨rfl, rfl⟩

/-- MAJ 0x38. -/
theorem encode_of_decode38 (hm : (w.extractLsb' 42 6).toNat = 56) (h : decode38 w = .ok i) :
    encode i = w ∧ i.isEvent = false := by
  obtain ⟨c, FN, SHAPE, LIST, DEST, rfl⟩ := encS_of_maj hm
  rw [decode38, fldS_encS] at h
  dsimp only at h
  split at h <;> simp_all [rsv_eq_ok, BitVec.toNat_eq_nat] <;> exact ⟨rfl, rfl⟩

/-- MAJ 0x39. -/
theorem encode_of_decode39 (hm : (w.extractLsb' 42 6).toNat = 57) (h : decode39 w = .ok i) :
    encode i = w ∧ i.isEvent = false := by
  obtain ⟨c, FN, SHAPE, LIST, DEST, rfl⟩ := encS_of_maj hm
  rw [decode39, fldS_encS] at h
  dsimp only at h
  split at h <;> simp only [rsv_eq_ok, BitVec.toNat_eq_nat, reduceCtorEq, Bool.and_eq_true, beq_iff_eq] at *
  case h_1 hf =>
    obtain ⟨⟨hz, rfl⟩, rfl⟩ := h
    obtain ⟨-, rfl⟩ := hf
    exact ⟨congrArg (encS 57#6 c 0#6 · 0#10 DEST) (zero_append_slices (p := 6) (q := 1) (r := 1) hz), rfl⟩
  case h_2 hf =>
    obtain ⟨⟨rfl, hz⟩, rfl⟩ := h
    obtain ⟨-, rfl⟩ := hf
    exact ⟨congrArg (encS 57#6 c 1#6 SHAPE 0#10) (zero_append_low hz), rfl⟩
  case h_3 hf =>
    obtain ⟨⟨rfl, hz⟩, rfl⟩ := h
    obtain ⟨-, rfl⟩ := hf
    exact ⟨congrArg (encS 57#6 c 2#6 0#8 LIST) (zero_append_low hz), rfl⟩
  case h_8 hf =>
    obtain ⟨-, rfl⟩ := h
    obtain ⟨-, rfl⟩ := hf
    exact ⟨rfl, rfl⟩
  case h_9 hf =>
    obtain ⟨⟨⟨hs, rfl⟩, hd⟩, rfl⟩ := h
    obtain ⟨-, rfl⟩ := hf
    exact ⟨congrArg₂ (encS 57#6 c 8#6 · 0#10 ·) (zero_append_low hs) (zero_append_low hd), rfl⟩
  case h_10 hf =>
    obtain ⟨rfl, rfl⟩ := h
    obtain ⟨-, rfl⟩ := hf
    exact ⟨rfl, rfl⟩
  all_goals
    rename_i hf
    obtain ⟨⟨hz, rfl⟩, rfl⟩ := h
    obtain ⟨-, rfl⟩ := hf
    exact ⟨congrArg (encS 57#6 c _ · 0#10 DEST) (zero_append_low hz), rfl⟩

/-- The prefixes under MAJ 0x3F: AT lies as in the U format, RPT in the R format (R54 to R56). -/
theorem encode_of_decode3F (hm : (w.extractLsb' 42 6).toNat = 63) (h : decode3F w = .ok i) :
    encode i = w ∧ i.isEvent = false := by
  unfold decode3F at h
  dsimp only at h
  split at h <;> simp only [rsv_eq_ok, BitVec.toNat_eq_nat, reduceCtorEq, Bool.and_eq_true, beq_iff_eq] at *
  case h_1 hf =>
    obtain ⟨⟨hpg, hhold⟩, rfl⟩ := h
    have e := at_fields w
    rw [hm.2, show w.extractLsb' 38 4 = 0#4 from hpg, show w.extractLsb' 0 4 = 0#4 from hhold,
      show w.extractLsb' 32 6 = 0#6 from hf.2] at e
    exact ⟨e, rfl⟩
  case h_2 hf =>
    obtain ⟨⟨pg, hold⟩, FN, D, A, B, C, MOD, rfl⟩ := encR_of_maj (congrArg BitVec.toNat hm.2)
    rw [fldR_encR] at h hf
    obtain ⟨⟨⟨⟨⟨⟨rfl, rfl⟩, rfl⟩, ha⟩, hb⟩, hc⟩, rfl⟩ := h
    obtain ⟨-, rfl⟩ := hf
    refine ⟨?_, rfl⟩
    show encR _ _ _ _ (0#3 ++ BitVec.extractLsb' 0 3 A) (0#3 ++ BitVec.extractLsb' 0 3 B) (0#3 ++ BitVec.extractLsb' 0 3 C) _ = _
    rw [zero_append_low ha, zero_append_low hb, zero_append_low hc]
    rfl

/-- A word whose fields decode is the word of the instruction, which is no event (R51). -/
theorem encode_of_decodeFields (h : decodeFields w = .ok i) : encode i = w ∧ i.isEvent = false := by
  unfold decodeFields at h
  split at h
  case h_1 hm => exact encode_of_decode01 hm h
  case h_2 hm => exact encode_of_decode02 hm h
  case h_3 hm => exact encode_of_decode03 hm h
  case h_4 hm => exact encode_of_decode04 hm h
  case h_5 hm => exact encode_of_decode05 hm h
  case h_6 hm => exact encode_of_decode06 hm h
  case h_7 hm => exact encode_of_decode07 hm h
  case h_8 hm => exact encode_of_decode08 hm h
  case h_9 hm => exact encode_of_decode09 hm h
  case h_10 hm => exact encode_of_decode0A hm h
  case h_11 hm => exact encode_of_decode0B hm h
  case h_12 hm => exact encode_of_decode0C hm h
  case h_13 hm => exact encode_of_decode0D hm h
  case h_14 hm => exact encode_of_decode0E hm h
  case h_15 hm => exact encode_of_decode0F hm h
  case h_16 hm => exact encode_of_decode10 hm h
  case h_17 hm => exact encode_of_decode11 hm h
  case h_18 hm => exact encode_of_decode12 hm h
  case h_19 hm => exact encode_of_decode14 hm h
  case h_20 hm => exact encode_of_decode15 hm h
  case h_21 hm => exact encode_of_decode16 hm h
  case h_22 hm => exact encode_of_decode18 hm h
  case h_23 hm => exact encode_of_decode19 hm h
  case h_24 hm => exact encode_of_decode1C hm h
  case h_25 hm => exact encode_of_decode1D hm h
  case h_26 hm => exact encode_of_decode1E hm h
  case h_27 hm => exact encode_of_decode20 hm h
  case h_28 hm => exact encode_of_decode21 hm h
  case h_29 hm => exact encode_of_decode22 hm h
  case h_30 hm => exact encode_of_decode23 hm h
  case h_31 hm => exact encode_of_decode28 hm h
  case h_32 hm => exact encode_of_decode29 hm h
  case h_33 hm => exact encode_of_decode2A hm h
  case h_34 hm => exact encode_of_decode2B hm h
  case h_35 hm => exact encode_of_decode2C hm h
  case h_36 hm => exact encode_of_decode30 hm h
  case h_37 hm => exact encode_of_decode31 hm h
  case h_38 hm => exact encode_of_decode32 hm h
  case h_39 hm => exact encode_of_decode34 hm h
  case h_40 hm => exact encode_of_decode38 hm h
  case h_41 hm => exact encode_of_decode39 hm h
  case h_42 hm => exact encode_of_decode3F hm h
  case h_43 => cases h


end

/-- What a word decodes to is what its fields say. -/
theorem decodeFields_of_decode {w : BitVec 48} {i : Instr} (h : decode w = .ok i) : decodeFields w = .ok i := by
  unfold decode at h
  split at h
  · cases h
  · split at h
    · cases h; assumption
    · cases h

/-- Settles O3: the fields of a word that decodes are those of its instruction, MAJ by MAJ. -/
theorem encodeUndoesDecode : Obligations.EncodeUndoesDecode := by
  unfold Obligations.EncodeUndoesDecode
  intro w i h
  obtain ⟨he, hev⟩ := encode_of_decodeFields (decodeFields_of_decode h)
  exact ⟨he, wf_of_decode h, hev⟩

end Sys2Proof
end

section
/-! PROOFS. The word of an instruction decodes to it: MAJ by MAJ, then the well-formedness that decoding asks for (R46, R51). -/

namespace Sys2Proof

/-! ### The decoder's table by MAJ (Table 3-3) -/

theorem decodeFields_maj01 {w : BitVec 48} (h : w.extractLsb' 42 6 = 1#6) : decodeFields w = decode01 w := by
  unfold decodeFields; rw [h]; rfl

theorem decodeFields_maj02 {w : BitVec 48} (h : w.extractLsb' 42 6 = 2#6) : decodeFields w = decode02 w := by
  unfold decodeFields; rw [h]; rfl

theorem decodeFields_maj03 {w : BitVec 48} (h : w.extractLsb' 42 6 = 3#6) : decodeFields w = decode03 w := by
  unfold decodeFields; rw [h]; rfl

theorem decodeFields_maj04 {w : BitVec 48} (h : w.extractLsb' 42 6 = 4#6) : decodeFields w = decode04 w := by
  unfold decodeFields; rw [h]; rfl

theorem decodeFields_maj05 {w : BitVec 48} (h : w.extractLsb' 42 6 = 5#6) : decodeFields w = decode05 w := by
  unfold decodeFields; rw [h]; rfl

theorem decodeFields_maj06 {w : BitVec 48} (h : w.extractLsb' 42 6 = 6#6) : decodeFields w = decode06 w := by
  unfold decodeFields; rw [h]; rfl

theorem decodeFields_maj07 {w : BitVec 48} (h : w.extractLsb' 42 6 = 7#6) : decodeFields w = decode07 w := by
  unfold decodeFields; rw [h]; rfl

theorem decodeFields_maj08 {w : BitVec 48} (h : w.extractLsb' 42 6 = 8#6) : decodeFields w = decode08 w := by
  unfold decodeFields; rw [h]; rfl

theorem decodeFields_maj09 {w : BitVec 48} (h : w.extractLsb' 42 6 = 9#6) : decodeFields w = decode09 w := by
  unfold decodeFields; rw [h]; rfl

theorem decodeFields_maj0A {w : BitVec 48} (h : w.extractLsb' 42 6 = 10#6) : decodeFields w = decode0A w := by
  unfold decodeFields; rw [h]; rfl

theorem decodeFields_maj0B {w : BitVec 48} (h : w.extractLsb' 42 6 = 11#6) : decodeFields w = decode0B w := by
  unfold decodeFields; rw [h]; rfl

theorem decodeFields_maj0C {w : BitVec 48} (h : w.extractLsb' 42 6 = 12#6) : decodeFields w = decode0C w := by
  unfold decodeFields; rw [h]; rfl

theorem decodeFields_maj0D {w : BitVec 48} (h : w.extractLsb' 42 6 = 13#6) : decodeFields w = decode0D w := by
  unfold decodeFields; rw [h]; rfl

theorem decodeFields_maj0E {w : BitVec 48} (h : w.extractLsb' 42 6 = 14#6) : decodeFields w = decode0E w := by
  unfold decodeFields; rw [h]; rfl

theorem decodeFields_maj0F {w : BitVec 48} (h : w.extractLsb' 42 6 = 15#6) : decodeFields w = decode0F w := by
  unfold decodeFields; rw [h]; rfl

theorem decodeFields_maj10 {w : BitVec 48} (h : w.extractLsb' 42 6 = 16#6) : decodeFields w = decode10 w := by
  unfold decodeFields; rw [h]; rfl

theorem decodeFields_maj11 {w : BitVec 48} (h : w.extractLsb' 42 6 = 17#6) : decodeFields w = decode11 w := by
  unfold decodeFields; rw [h]; rfl

theorem decodeFields_maj12 {w : BitVec 48} (h : w.extractLsb' 42 6 = 18#6) : decodeFields w = decode12 w := by
  unfold decodeFields; rw [h]; rfl

theorem decodeFields_maj14 {w : BitVec 48} (h : w.extractLsb' 42 6 = 20#6) : decodeFields w = decode14 w := by
  unfold decodeFields; rw [h]; rfl

theorem decodeFields_maj15 {w : BitVec 48} (h : w.extractLsb' 42 6 = 21#6) : decodeFields w = decode15 w := by
  unfold decodeFields; rw [h]; rfl

theorem decodeFields_maj16 {w : BitVec 48} (h : w.extractLsb' 42 6 = 22#6) : decodeFields w = decode16 w := by
  unfold decodeFields; rw [h]; rfl

theorem decodeFields_maj18 {w : BitVec 48} (h : w.extractLsb' 42 6 = 24#6) : decodeFields w = decode18 w := by
  unfold decodeFields; rw [h]; rfl

theorem decodeFields_maj19 {w : BitVec 48} (h : w.extractLsb' 42 6 = 25#6) : decodeFields w = decode19 w := by
  unfold decodeFields; rw [h]; rfl

theorem decodeFields_maj1C {w : BitVec 48} (h : w.extractLsb' 42 6 = 28#6) : decodeFields w = decode1C w := by
  unfold decodeFields; rw [h]; rfl

theorem decodeFields_maj1D {w : BitVec 48} (h : w.extractLsb' 42 6 = 29#6) : decodeFields w = decode1D w := by
  unfold decodeFields; rw [h]; rfl

theorem decodeFields_maj1E {w : BitVec 48} (h : w.extractLsb' 42 6 = 30#6) : decodeFields w = decode1E w := by
  unfold decodeFields; rw [h]; rfl

theorem decodeFields_maj20 {w : BitVec 48} (h : w.extractLsb' 42 6 = 32#6) : decodeFields w = decode20 w := by
  unfold decodeFields; rw [h]; rfl

theorem decodeFields_maj21 {w : BitVec 48} (h : w.extractLsb' 42 6 = 33#6) : decodeFields w = decode21 w := by
  unfold decodeFields; rw [h]; rfl

theorem decodeFields_maj22 {w : BitVec 48} (h : w.extractLsb' 42 6 = 34#6) : decodeFields w = decode22 w := by
  unfold decodeFields; rw [h]; rfl

theorem decodeFields_maj23 {w : BitVec 48} (h : w.extractLsb' 42 6 = 35#6) : decodeFields w = decode23 w := by
  unfold decodeFields; rw [h]; rfl

theorem decodeFields_maj28 {w : BitVec 48} (h : w.extractLsb' 42 6 = 40#6) : decodeFields w = decode28 w := by
  unfold decodeFields; rw [h]; rfl

theorem decodeFields_maj29 {w : BitVec 48} (h : w.extractLsb' 42 6 = 41#6) : decodeFields w = decode29 w := by
  unfold decodeFields; rw [h]; rfl

theorem decodeFields_maj2A {w : BitVec 48} (h : w.extractLsb' 42 6 = 42#6) : decodeFields w = decode2A w := by
  unfold decodeFields; rw [h]; rfl

theorem decodeFields_maj2B {w : BitVec 48} (h : w.extractLsb' 42 6 = 43#6) : decodeFields w = decode2B w := by
  unfold decodeFields; rw [h]; rfl

theorem decodeFields_maj2C {w : BitVec 48} (h : w.extractLsb' 42 6 = 44#6) : decodeFields w = decode2C w := by
  unfold decodeFields; rw [h]; rfl

theorem decodeFields_maj30 {w : BitVec 48} (h : w.extractLsb' 42 6 = 48#6) : decodeFields w = decode30 w := by
  unfold decodeFields; rw [h]; rfl

theorem decodeFields_maj31 {w : BitVec 48} (h : w.extractLsb' 42 6 = 49#6) : decodeFields w = decode31 w := by
  unfold decodeFields; rw [h]; rfl

theorem decodeFields_maj32 {w : BitVec 48} (h : w.extractLsb' 42 6 = 50#6) : decodeFields w = decode32 w := by
  unfold decodeFields; rw [h]; rfl

theorem decodeFields_maj34 {w : BitVec 48} (h : w.extractLsb' 42 6 = 52#6) : decodeFields w = decode34 w := by
  unfold decodeFields; rw [h]; rfl

theorem decodeFields_maj38 {w : BitVec 48} (h : w.extractLsb' 42 6 = 56#6) : decodeFields w = decode38 w := by
  unfold decodeFields; rw [h]; rfl

theorem decodeFields_maj39 {w : BitVec 48} (h : w.extractLsb' 42 6 = 57#6) : decodeFields w = decode39 w := by
  unfold decodeFields; rw [h]; rfl

theorem decodeFields_maj3F {w : BitVec 48} (h : w.extractLsb' 42 6 = 63#6) : decodeFields w = decode3F w := by
  unfold decodeFields; rw [h]; rfl

/-! ### Each row -/

/-- A word that is laid out as AT reads back as AT (R55). -/
theorem decodeFields_of_at {w : BitVec 48} {imm : BitVec 28} (hmaj : w.extractLsb' 42 6 = 63#6) (hpg : w.extractLsb' 38 4 = 0#4)
    (hfn : w.extractLsb' 32 6 = 0#6) (himm : w.extractLsb' 4 28 = imm) (hhold : w.extractLsb' 0 4 = 0#4) :
    decodeFields w = .ok (.atTick imm) := by
  rw [decodeFields_maj3F hmaj]
  unfold decode3F FldR.ofWord
  dsimp only
  rw [hpg, hfn, himm, hhold]
  rfl

/-- The word of a row of the table reads back as that row. -/
theorem decodeFields_encode {i : Instr} (he : i.isEvent = false) : decodeFields (encode i) = .ok i := by
  cases i
  case add | sub | and | or | xor | andn | sll | srl | sra | slt | sltu | min | max | minu | maxu | clz | ctz | popc | sel =>
    exact (decodeFields_maj01 (maj_encR ..)).trans (by rw [decode01, fldR_encR]; rfl)
  case addi | andi | ori | xori =>
    exact (decodeFields_maj02 (maj_encI ..)).trans (by rw [decode02, fldI_encI]; rfl)
  case slli | srli | srai | slti =>
    exact (decodeFields_maj03 (maj_encI ..)).trans (by rw [decode03, fldI_encI]; rfl)
  case addhi | addpch | movhi =>
    exact (decodeFields_maj04 (maj_encI ..)).trans (by rw [decode04, fldI_encI]; rfl)
  case cmpEq | cmpNe | cmpLt | cmpGe | cmpLtu | cmpGeu | cmpTst | cmpNtst =>
    exact (decodeFields_maj05 (maj_encR ..)).trans (by rw [decode05, fldR_encR]; rfl)
  case pand | por | pxor | pandn | pnot | prd | pwr =>
    exact (decodeFields_maj06 (maj_encR ..)).trans (by rw [decode06, fldR_encR]; rfl)
  case mul | mulw | mulwu | mulwsu | div | divu | divrem | divremu =>
    exact (decodeFields_maj07 (maj_encR ..)).trans (by rw [decode07, fldR_encR]; rfl)
  case ld | ldu =>
    exact (decodeFields_maj08 (maj_encM ..)).trans (by rw [decode08, fldM_encM]; rfl)
  case st =>
    exact (decodeFields_maj09 (maj_encM ..)).trans (by rw [decode09, fldM_encM]; rfl)
  case ldx | ldxu | stx =>
    exact (decodeFields_maj0A (maj_encR ..)).trans (by rw [decode0A, fldR_encR]; simp [rsv])
  case csrr | csrw | csrs | csrc =>
    exact (decodeFields_maj0B (maj_encI ..)).trans (by rw [decode0B, fldI_encI]; simp [rsv])
  case beq | bne | blt | bge | bltu | bgeu | bra =>
    exact (decodeFields_maj0C (maj_encB ..)).trans (by rw [decode0C, fldB_encB]; rfl)
  case jal =>
    exact (decodeFields_maj0D (maj_encU ..)).trans (by rw [decode0D, fldU_encU]; rfl)
  case jalr | ret =>
    exact (decodeFields_maj0E (maj_encI ..)).trans (by rw [decode0E, fldI_encI]; rfl)
  case nop | loop | endStrand | halt =>
    exact (decodeFields_maj0F (maj_encR ..)).trans (by rw [decode0F, fldR_encR]; rfl)
  case hget | hset | hadd | hcpy | hclr =>
    exact (decodeFields_maj10 (maj_encR ..)).trans (by rw [decode10, fldR_encR]; rfl)
  case hld | hst =>
    exact (decodeFields_maj11 (maj_encM ..)).trans (by rw [decode11, fldM_encM]; rfl)
  case pbind | psave | prest | punbind =>
    exact (decodeFields_maj12 (maj_encT ..)).trans (by rw [decode12, fldT_encT]; rfl)
  case semwait =>
    exact (decodeFields_maj14 (maj_encT ..)).trans (by rw [decode14, fldT_encT]; rfl)
  case seminit | sempost | semrot | semtest =>
    exact (decodeFields_maj14 (maj_encT ..)).trans (by rw [decode14, fldT_encT]; simp [rsv])
  case fence g scope pre suc =>
    exact (decodeFields_maj15 (maj_encI ..)).trans (by rw [decode15, fldI_encI]; simp [rsv, low_append suc pre, high_append suc pre])
  case ssend =>
    exact (decodeFields_maj16 (maj_encR ..)).trans (by rw [decode16, fldR_encR]; rfl)
  case rdv | commit =>
    exact (decodeFields_maj16 (maj_encR ..)).trans (by rw [decode16, fldR_encR]; simp [rsv])
  case foldadd | foldand | foldor | foldxor | foldmin | foldmax | foldminu | foldmaxu | foldfadd | foldfmin | foldfmax =>
    exact (decodeFields_maj18 (maj_encM ..)).trans (by rw [decode18, fldM_encM]; rfl)
  case takeadd | takeand | takeor | takexor | takemin | takemax | takeminu | takemaxu | takefadd | trade | ctrade =>
    exact (decodeFields_maj19 (maj_encM ..)).trans (by rw [decode19, fldM_encM]; rfl)
  case eret =>
    exact (decodeFields_maj1C (maj_encR ..)).trans (by rw [decode1C, fldR_encR]; rfl)
  case trap =>
    exact (decodeFields_maj1C (maj_encR ..)).trans (by rw [decode1C, fldR_encR]; simp [rsv])
  case zst =>
    exact (decodeFields_maj1D (maj_encM ..)).trans (by rw [decode1D, fldM_encM]; rfl)
  case mrailUp | mrailDn =>
    exact (decodeFields_maj1E (maj_encR ..)).trans (by rw [decode1E, fldR_encR]; rfl)
  case baskPref =>
    exact (decodeFields_maj1E (maj_encR ..)).trans (by rw [decode1E, fldR_encR]; simp [rsv])
  case mma t bank init fa ga fb gb =>
    exact (decodeFields_maj20 (maj_encT ..)).trans (by rw [decode20, fldT_encT]; simp [rsv, high_append3 0#4 init bank, mid_append3 0#4 init bank, low_append3 0#4 init bank])
  case mmaw t bank init w fa ga fb gb =>
    exact (decodeFields_maj21 (maj_encT ..)).trans (by rw [decode21, fldT_encT]; simp [rsv, high_append3 w init bank, mid_append3 w init bank, low_append3 w init bank])
  case mdrain t bank zero d =>
    exact (decodeFields_maj22 (maj_encT ..)).trans (by rw [decode22, fldT_encT]; simp [rsv, high_append3 0#4 zero bank, mid_append3 0#4 zero bank, low_append3 0#4 zero bank])
  case mscale | mmode | mstat =>
    exact (decodeFields_maj23 (maj_encT ..)).trans (by rw [decode23, fldT_encT]; rfl)
  case mzero t bank =>
    exact (decodeFields_maj23 (maj_encT ..)).trans (by rw [decode23, fldT_encT]; obtain rfl | rfl := BitVec.eq_zero_or_eq_one bank <;> rfl)
  case msum t bank side f gm c =>
    exact (decodeFields_maj23 (maj_encT ..)).trans (by rw [decode23, fldT_encT]; obtain rfl | rfl := BitVec.eq_zero_or_eq_one bank <;> obtain rfl | rfl := BitVec.eq_zero_or_eq_one side <;> simp [rsv])
  case vadd | vsub | vmul | vmin | vmax | vqadd | vqsub | vqmul | vfma | vfms | vfnma | vabs | vneg | vmov | vadds | vmuls |
      vaxpb | vand | vor | vxor | vandn | vshl | vshr | vcmpEq | vcmpNe | vcmpLt | vcmpLe | vcmpGt | vcmpGe | vsel =>
    exact (decodeFields_maj28 (maj_encT ..)).trans (by rw [decode28, fldT_encT]; rfl)
  case vquant | vdequant =>
    exact (decodeFields_maj29 (maj_encT ..)).trans (by rw [decode29, fldT_encT]; rfl)
  case vcvt t d a sat rm =>
    exact (decodeFields_maj29 (maj_encT ..)).trans (by rw [decode29, fldT_encT]; simp [rsv, high_append3 0#1 sat rm, mid_append3 0#1 sat rm, low_append3 0#1 sat rm])
  case vredAdd | vredMax | vredMin | vredxAdd | vredxMax | vredxMin | vscanAdd | vscanMax | vscanMin | vtopk =>
    exact (decodeFields_maj2A (maj_encT ..)).trans (by rw [decode2A, fldT_encT]; rfl)
  case vexp2 | vlog2 | vrcp | vrsqrt | vtanh =>
    exact (decodeFields_maj2B (maj_encT ..)).trans (by rw [decode2B, fldT_encT]; rfl)
  case vperm | vsplat | viota | vextr | vrandU | vrandB =>
    exact (decodeFields_maj2C (maj_encT ..)).trans (by rw [decode2C, fldT_encT]; rfl)
  case cpy | cpym | close | cwait =>
    exact (decodeFields_maj30 (maj_encT ..)).trans (by rw [decode30, fldT_encT]; rfl)
  case lctxR | lctxS | lopen | lpush | lclose | lstat =>
    exact (decodeFields_maj31 (maj_encT ..)).trans (by rw [decode31, fldT_encT]; simp [rsv])
  case gath | scat | scatadd =>
    exact (decodeFields_maj32 (maj_encT ..)).trans (by rw [decode32, fldT_encT]; rfl)
  case frenew | flife | fchk | fbirth =>
    exact (decodeFields_maj34 (maj_encT ..)).trans (by rw [decode34, fldT_encT]; rfl)
  case spup | spdn =>
    exact (decodeFields_maj38 (maj_encS ..)).trans (by rw [decode38, fldS_encS]; rfl)
  case spnorm | spclr =>
    exact (decodeFields_maj39 (maj_encS ..)).trans (by rw [decode39, fldS_encS]; rfl)
  case spmode g fp mx goff =>
    exact (decodeFields_maj39 (maj_encS ..)).trans (by rw [decode39, fldS_encS]; simp [rsv, high_append3 0#6 mx fp, mid_append3 0#6 mx fp, low_append3 0#6 mx fp])
  case spshape | splist | spld | spldCvt | spst | spstCvt | spsync =>
    exact (decodeFields_maj39 (maj_encS ..)).trans (by rw [decode39, fldS_encS]; simp [rsv])
  case rpt =>
    exact (decodeFields_maj3F (maj_encR ..)).trans (by rw [decode3F, fldR_encR]; simp [rsv])
  case atTick imm =>
    have top (lo n : Nat) (h : 32 ≤ lo) : (63#6 ++ 0#4 ++ 0#6 ++ imm ++ 0#4).extractLsb' lo n
        = (63#6 ++ 0#4 ++ 0#6).extractLsb' (lo - 32) n := by
      rw [BitVec.extractLsb'_append_eq_of_le (by omega), BitVec.extractLsb'_append_eq_of_le (by omega)]
      rfl
    exact decodeFields_of_at (top 42 6 (by decide)) (top 38 4 (by decide)) (top 32 6 (by decide))
      (mid_append3 (63#6 ++ 0#4 ++ 0#6) imm 0#4) (low_append3 (63#6 ++ 0#4 ++ 0#6) imm 0#4)
  all_goals exact Bool.noConfusion he

/-- Settles O2: every row reads back, and decoding then asks only that it is well formed. -/
theorem decodeUndoesEncode : Obligations.DecodeUndoesEncode := by
  unfold Obligations.DecodeUndoesEncode
  exact fun i he hw => decode_of_fields (decodeFields_encode he) hw

end Sys2Proof
end

section
/-! PROOFS. The words that the manual writes out (R51). -/

namespace Sys2Proof

/-- Settles O1: each word decodes by computation. -/
theorem exampleWordsDecode : Obligations.ExampleWordsDecode :=
  ⟨rfl, rfl, rfl, rfl, rfl, rfl, rfl, rfl, rfl, rfl, rfl, rfl, rfl, rfl⟩

end Sys2Proof
end

section
/-! PROOFS. The MAJ values of the words that not every cell can run (R50, R52, Table 3-3). -/

namespace Sys2Proof

@[simp] theorem rsv_ne_reservedMajor (ok : Bool) (i : Instr) : rsv ok i ≠ .error .reservedMajor := by
  unfold rsv
  cases ok <;> simp

/-- The MAJ values of words that not every cell can run (Table 3-3). -/
theorem maj_of_absent {cls : Machine.Cls} {w : BitVec 48} (h : Machine.unitPresent cls w = false) :
    (w.extractLsb' 42 6).toNat ∈ [0x1E, 0x20, 0x21, 0x22, 0x23, 0x28, 0x29, 0x2A, 0x2B, 0x2C, 0x32, 0x34, 0x38, 0x39] := by
  unfold Machine.unitPresent at h
  dsimp only at h
  generalize (w.extractLsb' 42 6).toNat = m at h ⊢
  simp only [List.mem_cons, List.not_mem_nil, or_false]
  by_contra hn
  rw [if_neg (by omega), if_neg (by omega), if_neg (by omega), if_neg (by omega), if_neg (by omega)] at h
  exact Bool.noConfusion h

/-- A word whose unit some cells lack has a MAJ that an entry defines (R50). -/
theorem decodeFields_ne_reservedMajor_of_absent {cls : Machine.Cls} {w : BitVec 48} (h : Machine.unitPresent cls w = false) :
    decodeFields w ≠ .error .reservedMajor := by
  have hm := maj_of_absent h
  simp only [List.mem_cons, List.not_mem_nil, or_false] at hm
  unfold decodeFields
  rcases hm with hm | hm | hm | hm | hm | hm | hm | hm | hm | hm | hm | hm | hm | hm
  all_goals
    simp only [hm]
    dsimp only [decode1E, decode20, decode21, decode22, decode23, decode28, decode29, decode2A, decode2B, decode2C, decode32,
      decode34, decode38, decode39]
    repeat' split
    all_goals simp

theorem decode_ne_reservedMajor_of_absent {cls : Machine.Cls} {w : BitVec 48} (h : Machine.unitPresent cls w = false) :
    decode w ≠ .error .reservedMajor := by
  have hf := decodeFields_ne_reservedMajor_of_absent h
  unfold decode
  split
  next e he => rintro ⟨⟩; exact hf he
  next => split <;> simp

end Sys2Proof
end

section
/-! PROOFS. A step that issues: the word it fetches, the checks of R52, AT and the guard (R52 to R56). -/

namespace Sys2Proof.Machine

/-- The unit's text can be fetched, is resident, and its first repetition is the word `w`. -/
structure Fetches (s : State) (w : BitVec 48) : Prop where
  fetch : s.fetchFails s.cur.pc = none
  resident : s.resident (s.blockOf s.cur.pc) = true
  word : s.fetchWord s.cur.pc = some w

/-- What a strand whose unit is due does is its issue. -/
theorem step_issue {s : State} {who : Bool × Nat × Nat} (h : s.due = .issue who) : step s = (s.focusWho who).issueNext := by
  unfold step
  rw [h]
  rfl

section
variable {s : State} {w v : BitVec 48} (hf : Fetches s w) (hr : s.cur.rep = 0 ∨ s.cur.rptFits w = true)
  (hv : s.unitWord w = some v)
include hf hr hv

/-- A unit that may go on from its fetch issues the word of its repetition (R52, R56). -/
theorem State.issueNext_decoded {i : Instr} (hd : decode v = .ok i) : s.issueNext = exec i s := by
  have hfit : (s.cur.rep != 0 && !s.cur.rptFits w) = false := by rcases hr with h | h <;> simp [h]
  unfold State.issueNext
  simp [hf.resident, hf.fetch, hf.word, hfit, hv, hd]

/-- A unit whose word does not decode fails the checks of R52. -/
theorem State.issueNext_undecoded {e : DecodeError} (hd : decode v = .error e) : s.issueNext = .next (s.undecoded v) := by
  have hfit : (s.cur.rep != 0 && !s.cur.rptFits w) = false := by rcases hr with h | h <;> simp [h]
  unfold State.issueNext
  simp [hf.resident, hf.fetch, hf.word, hfit, hv, hd]

end

/-- An RPT unit resumed at a later repetition issues nothing when a repetition of it does not decode (R56). -/
theorem State.issueNext_unfit {s : State} {w : BitVec 48} (hf : Fetches s w) (hr : s.cur.rep ≠ 0) (hn : s.cur.rptFits w = false) :
    s.issueNext = .next (s.undecoded w) := by
  unfold State.issueNext
  simp [hf.resident, hf.fetch, hf.word, hr, hn]

/-- Settles O4: the step is the issue of the strand that is due, which runs the meaning of the word that it decodes. -/
theorem stepRunsDecoded : Obligations.StepRunsDecoded := by
  unfold Obligations.StepRunsDecoded
  intro s who w v i hdue hfetch hres hword hrep hunit hdec
  rw [step_issue hdue, State.issueNext_decoded ⟨hfetch, hres, hword⟩ hrep hunit hdec]
/-! ### The checks of R52 -/

/-- A precise trap is the trap entry with the unit's first word as TPC. -/
theorem State.precise_eq (s : State) (code : Nat) (tval : Word) :
    ∃ rep, s.precise code tval = takeTrap { code := code, tval := tval, tpc := some s.cur.unitPc, rep := rep } s := ⟨_, rfl⟩

/-- The fetch of a block changes neither the pc nor the prefixes of the unit. -/
@[simp] theorem State.startFetch_cur_pc (s : State) : s.startFetch.cur.pc = s.cur.pc := by
  unfold State.startFetch State.fetchAt
  dsimp only
  split <;> rfl

@[simp] theorem State.startFetch_cur_pfx (s : State) : s.startFetch.cur.pfx = s.cur.pfx := by
  unfold State.startFetch State.fetchAt
  dsimp only
  split <;> rfl

@[simp] theorem State.core_joinPrefix (s : State) (w : BitVec 48) (ok : Bool) (t : Option (BitVec 28)) (r : Option RptPfx) :
    (s.joinPrefix w ok t r).core = s.core := s.core_modCur _ rfl

@[simp] theorem State.core_addPrefix (s : State) (w : BitVec 48) (ok : Bool) (t : Option (BitVec 28)) (r : Option RptPfx) :
    (s.addPrefix w ok t r).core = s.core := by
  unfold State.addPrefix
  simp

@[simp] theorem State.addPrefix_cur_pc (s : State) (w : BitVec 48) (ok : Bool) (t : Option (BitVec 28)) (r : Option RptPfx) :
    (s.addPrefix w ok t r).cur.pc = s.cur.pc + 6 := State.startFetch_cur_pc _

/-- A prefix with ill-formed fields joins its unit and makes it illegal (R54). -/
theorem State.addPrefix_bad (s : State) (w : BitVec 48) (t : Option (BitVec 28)) (r : Option RptPfx) :
    ∃ p, (s.addPrefix w false t r).cur.pfx = some p ∧ p.bad = true ∧ p.first = s.cur.unitPc := by
  unfold State.addPrefix State.joinPrefix Strand.unitPc
  rw [State.startFetch_cur_pfx]
  cases h : s.cur.pfx <;> simp [h]

/-- A word that does not decode and is no prefix traps: as absent when the cell lacks its unit, and else as illegal (R52). -/
theorem State.undecoded_word {s : State} {w : BitVec 48} (hp : isPrefixWord w = false) :
    ∃ code tval rep, s.undecoded w = takeTrap { code := code, tval := tval, tpc := some s.cur.unitPc, rep := rep } s
      ∧ (unitPresent s.vd.cls w = true → code = Cause.illegal)
      ∧ (unitPresent s.vd.cls w = false → code = Cause.absent ∧ tval = 0#16 ++ w) := by
  unfold State.undecoded
  rw [if_neg (by simp [hp])]
  cases hu : unitPresent s.vd.cls w
  case false =>
    rw [if_neg (by split <;> simp_all [decode_ne_reservedMajor_of_absent hu])]
    obtain ⟨rep, h⟩ := s.precise_eq Cause.absent (0#16 ++ w)
    exact ⟨_, _, rep, h, by simp, fun _ => ⟨rfl, rfl⟩⟩
  case true =>
    split
    · obtain ⟨rep, h⟩ := s.precise_eq Cause.illegal (0#16 ++ w)
      exact ⟨_, _, rep, h, fun _ => rfl, by simp⟩
    · obtain ⟨rep, h⟩ := s.precise_eq Cause.illegal (s.cur.illegalValue w)
      exact ⟨_, _, rep, h, fun _ => rfl, by simp⟩

/-- A prefix with ill-formed fields joins its unit. -/
theorem State.undecoded_prefix {s : State} {w : BitVec 48} (hp : isPrefixWord w = true) :
    ∃ t r, s.undecoded w = s.addPrefix w false t r := by
  unfold State.undecoded
  rw [if_pos hp]
  exact ⟨_, _, rfl⟩

theorem State.legal_eq_false {s : State} {i : Instr}
    (h : i.wf = false ∨ fitsClass s.vd.cls i = false ∨ s.cur.pfxOk (encode i) = false) : s.legal i = false := by
  unfold State.legal
  rcases h with h | h | h <;> simp [h]

/-- BASK.PREF may set the bit of its own die class only (R336). -/
theorem fitsClass_baskPref (g : Ctl) (mask : BitVec 2) (cls : Cls) :
    fitsClass cls (.baskPref g mask) = false ↔ mask.getLsbD (if cls = .md then 1 else 0) = true := by
  unfold fitsClass
  simp

/-- Settles O5: the fetched word by what it decodes to, and the words that decode by the checks of their issue. -/
theorem wordChecksTrap : Obligations.WordChecksTrap := by
  unfold Obligations.WordChecksTrap
  refine ⟨?_, ?_, ?_, ?_, fitsClass_baskPref⟩
  · intro s who w v e hdue hfetch hres hword hrep hunit hdec
    rw [step_issue hdue, State.issueNext_undecoded ⟨hfetch, hres, hword⟩ hrep hunit hdec]
    refine ⟨fun hp => ?_, fun hp => ?_⟩
    · obtain ⟨code, tval, rep, h, hpres, habs⟩ := State.undecoded_word (s := s.focusWho who) hp
      exact ⟨code, tval, rep, by rw [h], hpres, habs⟩
    · obtain ⟨t, r, h⟩ := State.undecoded_prefix (s := s.focusWho who) hp
      obtain ⟨p, hpfx, hbad, hfirst⟩ := State.addPrefix_bad (s.focusWho who) v t r
      have hcore := State.core_addPrefix (s.focusWho who) v false t r
      exact ⟨_, p, by rw [h], hpfx, hbad, hfirst, State.addPrefix_cur_pc _ _ _ _ _, .of_core hcore, .of_core hcore⟩
  · intro s who w hdue hfetch hres hword hrep hfit hp hu
    obtain ⟨code, tval, rep, h, hpres, -⟩ := State.undecoded_word (s := s.focusWho who) hp
    obtain rfl := hpres hu
    exact ⟨tval, rep, by rw [step_issue hdue, State.issueNext_unfit ⟨hfetch, hres, hword⟩ hrep hfit, h]⟩
  · intro i s he hp hr hu
    obtain ⟨u, eff, h⟩ := exec_word s he hp
    obtain ⟨rep, ht⟩ := s.begun.precise_eq Cause.absent (0#16 ++ encode i)
    exact ⟨rep, by rw [h, issue_absent eff hr hu, ht]; rfl⟩
  · intro i s he hp hr hu hw
    obtain ⟨u, eff, h⟩ := exec_word s he hp
    obtain ⟨rep, ht⟩ := s.begun.precise_eq Cause.illegal (s.cur.illegalValue (encode i))
    exact ⟨rep, by rw [h, issue_illegal eff hr hu (State.legal_eq_false hw), ht]; rfl⟩

/-! ### AT and the guard -/

@[simp] theorem State.squash_cur_queue (s : State) (i : Instr) : (s.squash i).cur.queue = s.cur.queue := by
  unfold State.squash; split <;> rfl
@[simp] theorem State.squash_cur_pend (s : State) (i : Instr) : (s.squash i).cur.pend = s.cur.pend := by
  unfold State.squash; split <;> rfl
@[simp] theorem State.squash_cur_status (s : State) (i : Instr) : (s.squash i).cur.status = s.cur.status := by
  unfold State.squash; split <;> rfl
@[simp] theorem State.squash_raises (s : State) (i : Instr) : (s.squash i).raises = s.raises := by
  unfold State.squash; split <;> rfl
@[simp] theorem State.startFetch_cur_slot (s : State) : s.startFetch.cur.slot = s.cur.slot := by
  unfold State.startFetch State.fetchAt
  dsimp only
  split <;> rfl

@[simp] theorem State.goTo_cur_slot (s : State) (hold : Nat) (pc : Word) (l : List LoopEnt) :
    (s.goTo hold pc l).cur.slot = s.nextSlot hold := State.startFetch_cur_slot _

@[simp] theorem State.advance_cur_slot (s : State) (hold : Nat) : (s.advance hold).cur.slot = s.nextSlot hold := by
  unfold State.advance
  split
  · split
    · rfl
    · exact State.goTo_cur_slot _ _ _ _
  · exact State.goTo_cur_slot _ _ _ _

/-- States of one core run the same launch, but for its late events. -/
theorem State.launch_quiet_of_core {s t : State} (h : t.core = s.core) : t.launch.quiet = s.launch.quiet := by
  have hp : t.cur.prio = s.cur.prio := show t.core.cur.prio = s.core.cur.prio by rw [h]
  unfold State.launch
  rw [hp, ← State.launchD_core, ← State.launchD_core, h]

theorem State.sched_of_core {s t : State} (h : t.core = s.core) : t.sched = s.sched := by
  have hl : t.launch.quiet.lock = s.launch.quiet.lock := by rw [State.launch_quiet_of_core h]
  exact congrArg not hl

/-- A squashed word goes on to the next unit and changes nothing that survives (R53). -/
theorem State.squash_advance_frame (s : State) (i : Instr) (hold : Nat) :
    ((s.started.squash i).advance hold).core = s.core ∧ ((s.started.squash i).advance hold).saved = s.saved
      ∧ ((s.started.squash i).advance hold).cur.slot = s.z0 + 1 + (if s.sched then hold else 0) := by
  have hc : (s.started.squash i).core = s.core := by simp
  have hz : (s.started.squash i).z0 = s.z0 := show (s.started.squash i).core.z0 = s.core.z0 by rw [hc]
  refine ⟨by simp, by simp, ?_⟩
  rw [State.advance_cur_slot]
  unfold State.nextSlot
  rw [hz, State.sched_of_core hc]

/-- Settles O6: a word whose guard is false is squashed, and a unit whose target lies ahead only moves its slot. -/
theorem atAndGuard : Obligations.AtAndGuard := by
  unfold Obligations.AtAndGuard
  refine ⟨?_, ?_⟩
  · intro i s he hp hr hu hw ha hl hg
    obtain ⟨u, eff, h⟩ := exec_word s he hp
    obtain ⟨hcore, hsaved, hslot⟩ := s.squash_advance_frame i (wordCtl i).hold.toNat
    refine ⟨_, by rw [h, issue_squash eff hr hu hw ha hl hg], .of_core hcore, .of_saved hsaved, .of_core hcore, ?_, ?_, ?_, ?_, hslot⟩
    · simp
    · simp
    · simp
    · simp [hr]
  · intro i s t he hp hr hu hw ht hlt
    obtain ⟨u, eff, h⟩ := exec_word s he hp
    rw [h, issue_early eff hr hu hw ht hlt]

end Sys2Proof.Machine
end

section
/-! PROOFS. The next unit, the scalar registers and predicates, the prefixes, and what a word that writes one register leaves alone
(R54, R56, R57, R121, R125, R127). -/

namespace Sys2Proof.Machine

/-! ### The next unit -/

/-- The loop-back rule pops entries whose bodies end here and have no repetition left, and then goes back or on (R127). -/
theorem loopBack_spec (pc : Word) (l : List LoopEnt) :
    ∃ out rest, l = out ++ rest ∧ (∀ e ∈ out, e.last = pc ∧ e.remaining ≤ 1)
      ∧ ((∃ e r, rest = e :: r ∧ e.last = pc ∧ 1 < e.remaining
            ∧ loopBack pc l = (e.first, { e with remaining := e.remaining - 1 } :: r))
          ∨ ((∀ e r, rest = e :: r → e.last ≠ pc) ∧ loopBack pc l = (pc + 6, rest))) := by
  induction l with
  | nil => exact ⟨[], [], rfl, by simp, .inr ⟨by simp, rfl⟩⟩
  | cons e r ih =>
    unfold loopBack
    by_cases hlast : e.last = pc
    · by_cases hrem : 1 < e.remaining
      · exact ⟨[], e :: r, rfl, by simp, .inl ⟨e, r, rfl, hlast, hrem, by simp [hlast, hrem]⟩⟩
      · obtain ⟨out, rest, rfl, hout, hrest⟩ := ih
        refine ⟨e :: out, rest, rfl, ?_, by simpa [hlast, hrem] using hrest⟩
        simp only [List.mem_cons, forall_eq_or_imp]
        exact ⟨⟨hlast, by omega⟩, hout⟩
    · exact ⟨[], e :: r, rfl, by simp, .inr ⟨fun _ _ h => by cases h; exact hlast, by simp [hlast]⟩⟩

/-- A transfer pops, from the top, the entries whose bodies do not hold its target (R127). -/
theorem popLoops_spec (target : Word) (l : List LoopEnt) :
    ∃ out, l = out ++ popLoops target l ∧ (∀ e ∈ out, ¬(e.first.toNat ≤ target.toNat ∧ target.toNat ≤ e.last.toNat))
      ∧ ∀ e r, popLoops target l = e :: r → e.first.toNat ≤ target.toNat ∧ target.toNat ≤ e.last.toNat := by
  induction l with
  | nil => exact ⟨[], rfl, by simp, by simp [popLoops]⟩
  | cons e r ih =>
    by_cases hin : e.first.toNat ≤ target.toNat ∧ target.toNat ≤ e.last.toNat
    · have hpop : popLoops target (e :: r) = e :: r := by simp [popLoops, hin]
      exact ⟨[], by rw [hpop]; rfl, by simp, fun e' r' h => by rw [hpop] at h; cases h; exact hin⟩
    · have hpop : popLoops target (e :: r) = popLoops target r := by
        simp only [popLoops, Bool.and_eq_true, decide_eq_true_eq, if_neg hin]
      obtain ⟨out, hr, hout, htop⟩ := ih
      rw [hpop]
      refine ⟨e :: out, by rw [List.cons_append, ← hr], ?_, htop⟩
      simp only [List.mem_cons, forall_eq_or_imp]
      exact ⟨hin, hout⟩

@[simp] theorem State.startFetch_cur_loops (s : State) : s.startFetch.cur.loops = s.cur.loops := by
  unfold State.startFetch State.fetchAt
  dsimp only
  split <;> rfl

@[simp] theorem State.startFetch_cur_rep (s : State) : s.startFetch.cur.rep = s.cur.rep := by
  unfold State.startFetch State.fetchAt
  dsimp only
  split <;> rfl

section
variable (s : State) (hold : Nat) (pc : Word) (l : List LoopEnt)

@[simp] theorem State.goTo_cur_pc : (s.goTo hold pc l).cur.pc = pc := State.startFetch_cur_pc _
@[simp] theorem State.goTo_cur_loops : (s.goTo hold pc l).cur.loops = l := State.startFetch_cur_loops _
@[simp] theorem State.goTo_cur_pfx : (s.goTo hold pc l).cur.pfx = none := State.startFetch_cur_pfx _
@[simp] theorem State.goTo_cur_rep : (s.goTo hold pc l).cur.rep = 0 := State.startFetch_cur_rep _

end

/-- After the last repetition of a unit the loop-back rule says where the next unit lies (R56, R127). -/
theorem State.advance_eq_goTo {s : State} (hold : Nat)
    (h : ∀ p r, s.cur.pfx = some p → p.rpt = some r → r.count.toNat ≤ s.cur.rep) :
    s.advance hold = s.goTo hold (loopBack s.cur.pc s.cur.loops).1 (loopBack s.cur.pc s.cur.loops).2 := by
  unfold State.advance
  split
  next r hr =>
    obtain ⟨p, hp, hpr⟩ := Option.bind_eq_some_iff.mp hr
    rw [if_neg (by have := h p r hp hpr; omega)]
  next => rfl

/-- A unit with repetitions left issues its next one (R56). -/
theorem State.advance_rpt {s : State} (hold : Nat) {p : Pfx} {r : RptPfx} (hp : s.cur.pfx = some p) (hr : p.rpt = some r)
    (hlt : s.cur.rep < r.count.toNat) :
    s.advance hold = s.modCur fun c =>
      { c with pfx := some { p with atTick := none }, rep := c.rep + 1, since := none, slot := s.nextSlot hold } := by
  unfold State.advance State.modCur
  simp [hp, hr, hlt]

/-- Settles O7: the rules of the loop-back, of a repetition and of a transfer. -/
theorem nextUnit : Obligations.NextUnit := by
  unfold Obligations.NextUnit
  refine ⟨fun s hold h => ?_, fun s hold p r hp hr hlt => ?_, fun s hold target => ?_⟩
  · rw [State.advance_eq_goTo hold h]
    simp only [State.goTo_cur_pc, State.goTo_cur_loops, State.goTo_cur_pfx, State.goTo_cur_rep, State.goTo_cur_slot]
    obtain ⟨out, rest, hl, hout, hback⟩ := loopBack_spec s.cur.pc s.cur.loops
    refine ⟨⟨out, rest, hl, hout, ?_⟩, trivial, trivial, rfl⟩
    rcases hback with ⟨e, r, hrest, hlast, hrem, heq⟩ | ⟨hno, heq⟩ <;> rw [heq]
    · exact .inl ⟨e, r, hrest, hlast, hrem, rfl, rfl⟩
    · exact .inr ⟨hno, rfl, rfl⟩
  · rw [State.advance_rpt hold hp hr hlt]
    exact ⟨rfl, rfl, rfl, rfl, rfl⟩
  · unfold State.transfer
    simp only [State.goTo_cur_pc, State.goTo_cur_loops, State.goTo_cur_pfx, State.goTo_cur_rep, State.goTo_cur_slot]
    exact ⟨trivial, popLoops_spec target s.cur.loops, trivial, trivial, rfl⟩

/-! ### Registers -/

/-- A write to p0 is discarded (R57). -/
@[simp] theorem State.setP_zero (s : State) (v : Bool) : s.setP 0 v = s := rfl

/-- A predicate keeps what is written to it, and no other changes (R57). -/
theorem State.getP_setP_eq (s : State) {k j : Nat} (v : Bool) (hk : k ≠ 0) (hk8 : k < 8) (hj8 : j < 8) :
    (s.setP k v).getP j = if j = k then v else s.getP j := by
  by_cases hjk : j = k
  · rw [if_pos hjk, hjk, s.getP_setP v hk hk8]
  · rw [if_neg hjk]
    exact (SameRegs.setP s k v).p j hj8 (by simpa using hjk)

/-- Settles O8: the rules of the two register files. -/
theorem registerFiles : Obligations.RegisterFiles := by
  unfold Obligations.RegisterFiles
  exact ⟨⟨fun _ => rfl, State.setX_zero, fun s k j v hk _ _ => s.getX_setX v hk⟩,
    fun _ => rfl, State.setP_zero, fun s k j v hk hk8 hj8 => s.getP_setP_eq v hk hk8 hj8⟩
/-! ### What a word that writes one register leaves alone -/

theorem SameMem.after_core {w : Nat → Prop} {s t t' : State} (h : t'.core = t.core) (r : SameMem w s t) : SameMem w s t' := by
  have e := SameMem.of_core h
  exact ⟨fun a ha => (e.mem a not_false).trans (r.mem a ha), e.held.trans r.held⟩

theorem SameMem.before_core {w : Nat → Prop} {s s' t : State} (h : s'.core = s.core) (r : SameMem w s' t) : SameMem w s t := by
  have e := SameMem.of_core h
  exact ⟨fun a ha => (r.mem a ha).trans (e.mem a not_false), r.held.trans e.held⟩

theorem SameMem.weaken {s t : State} (r : SameMem (fun _ => False) s t) (w : Nat → Prop) : SameMem w s t :=
  ⟨fun a _ => r.mem a not_false, r.held⟩

/-- States of one core have their inbox registers at the same bytes. -/
theorem inboxBytes_of_core {s t : State} (h : t.core = s.core) (xs : List Nat) : inboxBytes t xs = inboxBytes s xs := by
  have hs : t.slotNo = s.slotNo := by rw [← t.slotNo_core, h, s.slotNo_core]
  have hc : t.cur.cell = s.cur.cell := show t.core.cur.cell = s.core.cur.cell by rw [h]
  unfold inboxBytes
  rw [hs, hc]

/-- What a word leaves alone: the listed registers, and the memory of `w`, may change. -/
structure Leaves (xs ps hs : List Nat) (w : Nat → Prop) (s t : State) : Prop where
  regs : SameRegs xs ps hs [] s t
  mem : SameMem w s t

theorem Leaves.of_core {xs ps hs : List Nat} {w : Nat → Prop} {s t : State} (h : t.core = s.core) : Leaves xs ps hs w s t :=
  ⟨(SameRegs.of_core h).weaken _ _ _ _, (SameMem.of_core h).weaken w⟩

/-- A word whose entry only writes what it names leaves the rest alone on every path, and the trap registers unless it takes a trap
of R52. -/
theorem Leaves.of_issue {i : Instr} {u : Use} {s t : State} {f : State → State} {xs ps hs : List Nat} {w : Nat → Prop}
    (hf : Leaves xs ps hs w s.started (f s.started)) (hsaved : (f s.started).saved = s.started.saved)
    (h : issue i u s (fun v => .done (f v)) = .next t) :
    SameRegs xs ps hs [] s t ∧ SameMem w s t
      ∧ (unitPresent s.vd.cls (encode i) = true → s.legal i = true → SameTrap s t) := by
  rcases issue_frame h with ⟨hcore, htrap⟩ | ⟨-, rfl⟩
  · have hl : Leaves xs ps hs w s t := .of_core hcore
    exact ⟨hl.regs, hl.mem, fun hu hw => .of_saved (htrap hu hw)⟩
  · have hcore := core_finish i s.started (.done (f s.started))
    refine ⟨(hf.regs.before_core s.core_started).after_core hcore, (hf.mem.before_core s.core_started).after_core hcore, fun _ _ => ?_⟩
    exact .of_saved (by simp [finish, hsaved])

/-! ### The rows -/

theorem exec_of_xRow {i : Instr} {r : XRow} (h : aluRow i = some r ∨ immRow i = some r ∨ getRow i = some r) (s : State) :
    ∃ u, ∃ f : State → Word, exec i s = issue i u s fun t => .done (t.setX r.d.toNat (f t)) := by
  rcases h with h | h | h <;> cases i <;> cases h <;> exact ⟨_, _, rfl⟩

theorem exec_of_predRow {i : Instr} {r : PRow} (h : predRow i = some r) (s : State) :
    ∃ u, ∃ f : State → Bool, exec i s = issue i u s fun t => .done (t.setP r.d.toNat (f t)) := by
  cases i <;> cases h <;> exact ⟨_, _, rfl⟩

theorem exec_of_handleRow {i : Instr} {r : HRow} (h : handleRow i = some r) (s : State) :
    ∃ u, ∃ f : State → HRec, exec i s = issue i u s fun t => .done (t.setH r.d.toNat (f t)) := by
  cases i <;> cases h <;> exact ⟨_, _, rfl⟩

/-! ### The CSRs -/

/-- What decides the value of a CSR: for each of those that a word can write, its own fields; for the others, the strand's place and
its launch. -/
theorem State.csr_congr {s t : State} (n : Nat) (hl : t.launch.quiet = s.launch.quiet) (hz : t.z0 = s.z0) (hfw : t.fw = s.fw)
    (hd : t.dmix = s.dmix) (hv : t.cur.vdie = s.cur.vdie) (hc : t.cur.cell = s.cur.cell) (hp : t.cur.pincnt = s.cur.pincnt)
    (h8 : n = 0x008 → t.cur.tvec = s.cur.tvec) (h9 : n = 0x009 → t.cur.tpc = s.cur.tpc)
    (hA : n = 0x00A → t.cur.tcause = s.cur.tcause) (hB : n = 0x00B → t.cur.tval = s.cur.tval)
    (h18 : n = 0x018 → t.cur.arith = s.cur.arith) (h19 : n = 0x019 → t.cur.expf = s.cur.expf)
    (h20 : n = 0x020 → t.cur.sembase = s.cur.sembase)
    (h21 : n = 0x021 → (t.cur.semdepth, t.cur.sovf) = (s.cur.semdepth, s.cur.sovf))
    (h22 : n = 0x022 → t.cur.semrot = s.cur.semrot) : t.csr n = s.csr n := by
  have hq : ∀ {β : Type} (f : Launch → β), f t.launch.quiet = f s.launch.quiet := fun f => congrArg f hl
  have hlock : t.launch.lock = s.launch.lock := hq Launch.lock
  have hdet : t.launch.det = s.launch.det := hq Launch.det
  have hforced : t.launch.forced = s.launch.forced := hq Launch.forced
  have hsec : t.launch.secure = s.launch.secure := hq Launch.secure
  have hl0 : t.launch.l0 = s.launch.l0 := hq Launch.l0
  have hpace : t.launch.pace = s.launch.pace := hq Launch.pace
  have hdm : t.launch.dmix = s.launch.dmix := hq Launch.dmix
  have hvd : t.launch.vdies = s.launch.vdies := hq Launch.vdies
  have hvd' : t.vd = s.vd := by unfold State.vd Launch.vd; rw [hvd, hv]
  have hslot : t.slotNo = s.slotNo := by unfold State.slotNo; rw [hvd']
  have hseen : t.seenDmix = s.seenDmix := by unfold State.seenDmix; rw [hdm, hd]
  have hlt : t.ltick = s.ltick := by unfold State.ltick; rw [hl0, hz]
  have hls : lstrandOf t.launch t.cur.vdie t.cur.cell = lstrandOf s.launch s.cur.vdie s.cur.cell := by
    unfold lstrandOf; rw [hvd, hv, hc]
  unfold State.csr
  split <;> simp_all only [Prod.mk.injEq, forall_const]

/-- A state with the same core and the same trap registers has the same CSRs. -/
theorem State.csr_of_core {s t : State} (h : t.core = s.core) (hs : t.saved = s.saved) (n : Nat) : t.csr n = s.csr n := by
  have e : ∀ {β : Type} (f : State → β), f t.core = f s.core := fun f => congrArg f h
  obtain ⟨htvec, htpc, htcause, htval⟩ := SameTrap.of_saved hs
  exact State.csr_congr n (State.launch_quiet_of_core h) (e State.z0) (e State.fw) (e State.dmix) (e fun u => u.cur.vdie)
    (e fun u => u.cur.cell) (e fun u => u.cur.pincnt) (fun _ => htvec) (fun _ => htpc) (fun _ => htcause) (fun _ => htval)
    (fun _ => e fun u => u.cur.arith) (fun _ => e fun u => u.cur.expf) (fun _ => e fun u => u.cur.sembase)
    (fun _ => e fun u => (u.cur.semdepth, u.cur.sovf)) (fun _ => e fun u => u.cur.semrot)

/-- A CSR write keeps the registers and the place of the strand. -/
theorem State.putCsr_cur_place (s : State) (n : Nat) (v : Word) :
    (s.putCsr n v).cur.prio = s.cur.prio ∧ (s.putCsr n v).cur.vdie = s.cur.vdie ∧ (s.putCsr n v).cur.cell = s.cur.cell
      ∧ (s.putCsr n v).cur.inboxOut = s.cur.inboxOut := by
  unfold State.putCsr
  rw [State.modCur_cur]
  split <;> exact ⟨rfl, rfl, rfl, rfl⟩

theorem State.putCsr_cur_files (s : State) (n : Nat) (v : Word) :
    (s.putCsr n v).cur.x = s.cur.x ∧ (s.putCsr n v).cur.p = s.cur.p ∧ (s.putCsr n v).cur.h = s.cur.h
      ∧ (s.putCsr n v).cur.q = s.cur.q := by
  unfold State.putCsr
  rw [State.modCur_cur]
  split <;> exact ⟨rfl, rfl, rfl, rfl⟩

theorem State.putCsr_slotNo (s : State) (n : Nat) (v : Word) : (s.putCsr n v).slotNo = s.slotNo := by
  obtain ⟨hp, hv, -, -⟩ := s.putCsr_cur_place n v
  unfold State.slotNo State.vd State.launch
  rw [hp, hv]
  rfl

theorem State.getX_putCsr (s : State) (n : Nat) (v : Word) (k : Nat) : (s.putCsr n v).getX k = s.getX k := by
  obtain ⟨-, -, hc, hi⟩ := s.putCsr_cur_place n v
  obtain ⟨hx, -, -, -⟩ := s.putCsr_cur_files n v
  unfold State.getX
  rw [hi, hx, hc, s.putCsr_slotNo]
  rfl

/-- Writing one CSR changes no other (R121). -/
theorem State.csr_putCsr_other (s : State) {n m : Nat} (v : Word) (hm : m ≠ n) : (s.putCsr n v).csr m = s.csr m := by
  have hl : (s.putCsr n v).launch.quiet = s.launch.quiet := by
    unfold State.launch
    rw [(s.putCsr_cur_place n v).1]
    rfl
  unfold State.putCsr at hl ⊢
  refine State.csr_congr m hl rfl rfl rfl ?_ ?_ ?_ ?_ ?_ ?_ ?_ ?_ ?_ ?_ ?_ ?_
  all_goals
    rw [State.modCur_cur]
    intros
    split <;> first | rfl | contradiction

theorem State.csr_setX (s : State) (k : Nat) (v : Word) (n : Nat) : (s.setX k v).csr n = s.csr n := by
  unfold State.setX
  split
  · rfl
  · split <;> rfl

/-- What a CSR word writes and leaves alone once it issues (R121). -/
theorem State.putCsr_setX_frame (s : State) (n k : Nat) (v old : Word) :
    (∀ j, j < 64 → j ≠ k → ((s.putCsr n v).setX k old).getX j = s.getX j)
      ∧ ((s.putCsr n v).setX k old).cur.p = s.cur.p ∧ ((s.putCsr n v).setX k old).cur.h = s.cur.h
      ∧ ((s.putCsr n v).setX k old).cur.q = s.cur.q ∧ SameMem (inboxBytes s [k]) s ((s.putCsr n v).setX k old)
      ∧ ∀ m, m ≠ n → ((s.putCsr n v).setX k old).csr m = s.csr m := by
  obtain ⟨-, hp, hh, hq⟩ := s.putCsr_cur_files n v
  have hmem := SameMem.setX (s.putCsr n v) k old
  obtain ⟨-, -, hcell, -⟩ := s.putCsr_cur_place n v
  have hin : inboxBytes (s.putCsr n v) [k] = inboxBytes s [k] := by
    unfold inboxBytes
    rw [s.putCsr_slotNo, hcell]
  rw [hin] at hmem
  refine ⟨fun j hj hjk => ?_, by simp [hp], by simp [hh], by simp [hq], ⟨hmem.mem, hmem.held⟩, fun m hm => ?_⟩
  · rw [(SameRegs.setX (s.putCsr n v) k old).x j hj (by simpa using hjk), s.getX_putCsr]
  · rw [State.csr_setX, s.csr_putCsr_other v hm]

/-- Settles O12: the rows write their one register, and a CSR word its register and its CSR. -/
theorem registerWordsFrame : Obligations.RegisterWordsFrame := by
  unfold Obligations.RegisterWordsFrame
  refine ⟨?_, ?_, ?_, ?_⟩
  · intro i r s t hr h
    obtain ⟨u, f, he⟩ := exec_of_xRow hr s
    have hl : Leaves [r.d.toNat] [] [] (inboxBytes s [r.d.toNat]) s.started (s.started.setX r.d.toNat (f s.started)) :=
      ⟨SameRegs.setX _ _ _, inboxBytes_of_core s.core_started _ ▸ SameMem.setX _ _ _⟩
    exact hl.of_issue (State.saved_setX _ _ _) (he ▸ h)
  · intro i r s t hr h
    obtain ⟨u, f, he⟩ := exec_of_predRow hr s
    have hl : Leaves [] [r.d.toNat] [] (fun _ => False) s.started (s.started.setP r.d.toNat (f s.started)) :=
      ⟨SameRegs.setP _ _ _, ⟨fun _ _ => by simp, by simp⟩⟩
    exact hl.of_issue (State.saved_setP _ _ _) (he ▸ h)
  · intro i r s t hr h
    obtain ⟨u, f, he⟩ := exec_of_handleRow hr s
    have hl : Leaves [] [] [r.d.toNat] (fun _ => False) s.started (s.started.setH r.d.toNat (f s.started)) :=
      ⟨SameRegs.setH _ _ _, ⟨fun _ _ => rfl, rfl⟩⟩
    exact hl.of_issue (State.saved_setH _ _ _) (he ▸ h)
  · intro i op d a csr s t hr hu hw h
    rw [exec_of_csrRow hr] at h
    unfold csrWord at h
    rcases issue_frame h with ⟨hcore, hsaved⟩ | ⟨-, rfl⟩
    · have hregs := SameRegs.of_core hcore
      have e : ∀ {β : Type} (f : Strand → β), f t.cur.core = f s.cur.core := fun f => congrArg f (congrArg State.cur hcore)
      exact ⟨fun k hk _ => hregs.x k hk (by simp), e Strand.p, e Strand.h, e Strand.q, (SameMem.of_core hcore).weaken _,
        fun n _ => State.csr_of_core hcore (hsaved hu hw) n⟩
    · have hfr := State.putCsr_setX_frame s.started csr.toNat d.toNat
        (csrNew op csr.toNat (s.started.csr csr.toNat) (s.started.rx a.toNat) ||| s.started.freshFlags csr.toNat)
        (s.started.csr csr.toNat)
      dsimp only [finish]
      generalize ((s.started.putCsr csr.toNat _).setX d.toNat _) = v at hfr ⊢
      obtain ⟨hx, hp, hh, hq, hmem, hcsr⟩ := hfr
      rw [inboxBytes_of_core s.core_started] at hmem
      have hadv := v.core_advance (wordCtl i).hold.toNat
      refine ⟨fun k hk hkd => ?_, by simp [hp], by simp [hh], by simp [hq], (hmem.before_core s.core_started).after_core hadv,
        fun n hn => ?_⟩
      · rw [(SameRegs.of_core hadv).x k hk (by simp), hx k hk hkd, (SameRegs.of_core s.core_started).x k hk (by simp)]
      · rw [State.csr_of_core hadv (v.saved_advance _), hcsr n hn, State.csr_of_core s.core_started s.saved_started]

/-! ### Prefixes -/

section
variable (s : State) (w : BitVec 48) (ok : Bool) (t : Option (BitVec 28)) (r : Option RptPfx)

@[simp] theorem State.addPrefix_cur_slot : (s.addPrefix w ok t r).cur.slot = s.cur.slot := State.startFetch_cur_slot _
@[simp] theorem State.addPrefix_cur_rep : (s.addPrefix w ok t r).cur.rep = s.cur.rep := State.startFetch_cur_rep _
@[simp] theorem State.addPrefix_cur_status : (s.addPrefix w ok t r).cur.status = s.cur.status := State.startFetch_cur_status _
@[simp] theorem State.saved_addPrefix : (s.addPrefix w ok t r).saved = s.saved := State.saved_startFetch _

/-- What the first prefix of a unit sets (R54). -/
theorem State.addPrefix_first (h : s.cur.pfx = none) :
    (s.addPrefix w ok t r).cur.pfx = some { first := s.cur.pc, word := w, atTick := t, rpt := r, bad := !ok } := by
  unfold State.addPrefix State.joinPrefix
  rw [State.startFetch_cur_pfx]
  simp [h]

/-- What a further prefix changes (R54, R56). -/
theorem State.addPrefix_more {o : Pfx} (h : s.cur.pfx = some o) :
    (s.addPrefix w ok t r).cur.pfx = some
      { o with
        atTick := if r.isSome && s.cur.rep != 0 then none else o.atTick
        rpt := if o.rpt.isSome then o.rpt else r
        bad := o.bad || !ok || t.isSome || o.rpt.isSome } := by
  unfold State.addPrefix State.joinPrefix
  rw [State.startFetch_cur_pfx]
  simp [h]

end

theorem exec_atTick {s : State} (imm : BitVec 28) (h : s.cur.status = .running) :
    exec (.atTick imm) s = .next (s.addPrefix (encode (.atTick imm)) true (some imm) none) := if_pos h

theorem exec_rpt {s : State} (c : BitVec 6) (d a b : BitVec 3) (h : s.cur.status = .running) :
    exec (.rpt c d a b) s = .next (s.addPrefix (encode (.rpt c d a b)) true none (some ⟨c, d, a, b⟩)) := if_pos h

/-- The AT target that the first prefix of a unit sets is base + IMM28 (R55). -/
theorem State.atTarget_addPrefix_at (s : State) (w : BitVec 48) (imm : BitVec 28) (h : s.cur.pfx = none) :
    (s.addPrefix w true (some imm) none).atTarget = some (s.launch.l0 + s.launch.base + imm.toNat) := by
  have hl := State.launch_quiet_of_core (s.core_addPrefix w true (some imm) none)
  have hl0 : (s.addPrefix w true (some imm) none).launch.l0 = s.launch.l0 :=
    show (s.addPrefix w true (some imm) none).launch.quiet.l0 = s.launch.quiet.l0 by rw [hl]
  have hbase : (s.addPrefix w true (some imm) none).launch.base = s.launch.base :=
    show (s.addPrefix w true (some imm) none).launch.quiet.base = s.launch.quiet.base by rw [hl]
  unfold State.atTarget
  rw [s.addPrefix_first w true (some imm) none h, hl0, hbase]
  rfl

/-- A word that prefixes at fault govern is illegal, and reports the unit's first word (R54). -/
theorem Strand.illegalValue_of_bad {c : Strand} {p : Pfx} (hp : c.pfx = some p) (hbad : p.bad = true) (w : BitVec 48) :
    c.pfxOk w = false ∧ c.illegalValue w = 0#16 ++ p.word := by
  have hno : c.pfxOk w = false := by simp [Strand.pfxOk, hp, hbad]
  exact ⟨hno, by simp [Strand.illegalValue, hno, hp]⟩

/-- Settles O25: what a prefix adds to its unit, first or after another, and the trap of a unit with prefixes at fault. -/
theorem prefixWords : Obligations.PrefixWords := by
  unfold Obligations.PrefixWords
  refine ⟨fun imm s hr => ?_, fun c d a b s hr => ?_, fun i s p he hi hr hu hp hbad => ?_⟩
  · have hcore := s.core_addPrefix (encode (.atTick imm)) true (some imm) none
    have hsaved := s.saved_addPrefix (encode (.atTick imm)) true (some imm) none
    have htarget := s.atTarget_addPrefix_at (encode (.atTick imm)) imm
    rw [exec_atTick imm hr]
    cases hpfx : s.cur.pfx with
    | none =>
      exact ⟨_, _, rfl, by simp, by simp, by simp [hr], s.addPrefix_first _ _ _ _ hpfx, by simp [Strand.unitPc, hpfx],
        .of_core hcore, .of_core hcore, .of_saved hsaved, fun _ => ⟨rfl, rfl, rfl, htarget hpfx⟩, by simp⟩
    | some o =>
      exact ⟨_, _, rfl, by simp, by simp, by simp [hr], s.addPrefix_more _ _ _ _ hpfx, by simp [Strand.unitPc, hpfx],
        .of_core hcore, .of_core hcore, .of_saved hsaved, by simp, by simp⟩
  · have hcore := s.core_addPrefix (encode (.rpt c d a b)) true none (some ⟨c, d, a, b⟩)
    have hsaved := s.saved_addPrefix (encode (.rpt c d a b)) true none (some ⟨c, d, a, b⟩)
    rw [exec_rpt c d a b hr]
    cases hpfx : s.cur.pfx with
    | none =>
      exact ⟨_, _, rfl, by simp, by simp, by simp [hr], s.addPrefix_first _ _ _ _ hpfx, by simp [Strand.unitPc, hpfx], by simp,
        .of_core hcore, .of_core hcore, .of_saved hsaved, fun _ => ⟨rfl, rfl, rfl, rfl⟩, by simp, by simp⟩
    | some o =>
      refine ⟨_, _, rfl, by simp, by simp, by simp [hr], s.addPrefix_more _ _ _ _ hpfx, by simp [Strand.unitPc, hpfx], by simp,
        .of_core hcore, .of_core hcore, .of_saved hsaved, by simp, ?_, ?_⟩
      · rintro o' ⟨⟩ ho
        simp +contextual [ho]
      · rintro o' ⟨⟩ ho
        simp [Option.isSome_iff_ne_none.mpr ho]
  · obtain ⟨hno, hval⟩ := Strand.illegalValue_of_bad hp hbad (encode i)
    obtain ⟨u, eff, h⟩ := exec_word s he hi
    obtain ⟨rep, ht⟩ := s.begun.precise_eq Cause.illegal (s.cur.illegalValue (encode i))
    refine ⟨rep, ?_⟩
    rw [h, issue_illegal eff hr hu (State.legal_eq_false (.inr (.inr hno))), ht, hval]
    simp [Strand.unitPc, hp]

end Sys2Proof.Machine
end

section
/-! PROOFS. The semaphore fields of a word (R48): a rotating field while DEPTH is 0 or above 32. -/

namespace Sys2Proof.Machine

theorem State.resolveSem_illegal {s : State} {k : BitVec 6} (hk : 32 ≤ k.toNat)
    (hd : s.cur.semdepth.toNat = 0 ∨ 32 < s.cur.semdepth.toNat) : s.resolveSem k = .illegal := by
  have h0 : k ≠ 0 := by rintro rfl; simp at hk
  unfold State.resolveSem
  rw [if_neg h0, if_neg (by omega), if_pos hd]

/-- A rotating field makes the word illegal, with the cause of an illegal word, while DEPTH is 0 or above 32 (R48). -/
theorem State.semFields_illegal {s : State} {t : TCtl} (w : BitVec 48) (hk : 32 ≤ t.sw.toNat ∨ 32 ≤ t.sr.toNat)
    (hd : s.cur.semdepth.toNat = 0 ∨ 32 < s.cur.semdepth.toNat) : s.semFields t w = .error (Cause.illegal, 0#16 ++ w) := by
  unfold State.semFields
  rcases hk with hk | hk
  · rw [State.resolveSem_illegal hk hd]
  · rw [State.resolveSem_illegal hk hd]
    cases s.resolveSem t.sw <;> rfl

/-- Refutes O28: the last clause gives the cause of a rotating field while DEPTH is 0 as 0x00, where the machine, as the manual's
table of causes does, reports an illegal word as 0x01. The counterexample is the word 0 with SW 32, right after a reset, where DEPTH
is 0. -/
theorem not_semaphoreWords : ¬ Obligations.SemaphoreWords := by
  unfold Obligations.SemaphoreWords
  rintro ⟨-, -, -, -, -, -, -, hfields⟩
  have hsw : 32 ≤ (32 : BitVec 6).toNat := by decide
  have hdepth : State.reset.cur.semdepth.toNat = 0 := rfl
  have hzero := (hfields ⟨0, 0, 32, 0⟩ 0 State.reset).1 ⟨.inl hsw, .inl hdepth⟩
  rw [State.semFields_illegal (t := ⟨0, 0, 32, 0⟩) 0 (.inl hsw) (.inl hdepth)] at hzero
  exact absurd (congrArg (Except.mapError Prod.fst) hzero) (by decide)

end Sys2Proof.Machine
end

section
/-! PROOFS. BASK.PREF, and the rail words (R52, R218, R336). -/

namespace Sys2Proof.Machine

section
variable (s : State)

@[simp] theorem State.getX_advance (hold k : Nat) : (s.advance hold).getX k = s.getX k := by
  rw [← State.getX_core, State.core_advance, State.getX_core]

@[simp] theorem State.getX_started (k : Nat) : s.started.getX k = s.getX k := by
  rw [← State.getX_core, State.core_started, State.getX_core]

theorem State.cur_core_advance (hold : Nat) : (s.advance hold).cur.core = s.cur.core :=
  show (s.advance hold).core.cur = s.core.cur by rw [State.core_advance]

@[simp] theorem State.advance_cur_bask (hold : Nat) : (s.advance hold).cur.bask = s.cur.bask :=
  show (s.advance hold).cur.core.bask = s.cur.core.bask by rw [State.cur_core_advance]

@[simp] theorem State.advance_cur_railDn (hold : Nat) : (s.advance hold).cur.railDn = s.cur.railDn :=
  show (s.advance hold).cur.core.railDn = s.cur.core.railDn by rw [State.cur_core_advance]

@[simp] theorem State.started_slotNo : s.started.slotNo = s.slotNo := by
  rw [← State.slotNo_core, State.core_started, State.slotNo_core]

@[simp] theorem State.started_cluster (slot cell : Nat) : s.started.cluster slot cell = s.cluster slot cell := by
  unfold State.cluster State.physCell
  rw [State.started_fw]

end

/-! ### BASK.PREF -/

/-- An illegal BASK.PREF reports its own bits. -/
theorem illegalTval_baskPref (g : Ctl) (mask : BitVec 2) :
    illegalTval (encode (.baskPref g mask)) = 0#16 ++ encode (.baskPref g mask) := by
  have hmaj : (encode (.baskPref g mask)).extractLsb' 42 6 = 30#6 := maj_encR ..
  have hports : vecPortFields ((encode (.baskPref g mask)).extractLsb' 42 6).toNat
      ((encode (.baskPref g mask)).extractLsb' 32 6).toNat = [] := by rw [hmaj]; rfl
  have htable : badTableDest (encode (.baskPref g mask)) = false := by unfold badTableDest; rw [hmaj]; rfl
  unfold illegalTval
  split
  · rfl
  · rw [hports, htable]; rfl

/-- A unit without prefixes that is illegal reports its word. -/
theorem Strand.illegalValue_of_no_prefix {c : Strand} (h : c.pfx = none) (w : BitVec 48) : c.illegalValue w = illegalTval w := by
  unfold Strand.illegalValue Strand.pfxOk Strand.rptFits
  simp [h]

theorem State.precise_of_no_prefix {s : State} (h : s.cur.pfx = none) (code : Nat) (tval : Word) :
    s.precise code tval = takeTrap { code := code, tval := tval, tpc := some s.cur.pc } s := by
  unfold State.precise Strand.unitPc
  simp [h]

/-! ### The rail -/

/-- A change of the rail's step touches the power state only (R218). -/
theorem State.railUpdate_eq (s : State) (slot cl : Nat) : ∃ p, s.railUpdate slot cl = { s with power := p } := by
  unfold State.railUpdate
  dsimp only
  split
  · split
    · exact ⟨s.power, rfl⟩
    · exact ⟨_, rfl⟩
  · exact ⟨_, rfl⟩

/-- The step of a cluster that is requested, stands not, and is not due yet becomes due within 2048 ticks (R218). -/
theorem State.railUpdate_due {s : State} {slot cl : Nat} (hr : s.clusterRequested slot cl = true)
    (hs : s.power.stands.contains (slot * 4 + cl) = false) (hd : sget 0 s.power.due (slot * 4 + cl) = 0) :
    s.z0 < sget 0 (s.railUpdate slot cl).power.due (slot * 4 + cl)
      ∧ sget 0 (s.railUpdate slot cl).power.due (slot * 4 + cl) ≤ s.z0 + 2048 := by
  have hlt := (Config.railTicks slot cl s.z0).isLt
  unfold State.railUpdate
  dsimp only
  rw [if_pos hr, if_neg (by simp only [hs, hd, Bool.false_eq_true, ne_eq, not_true_eq_false, or_self, not_false_eq_true])]
  simp only [sget_sset_same]
  omega

/-- The cluster of a running strand that has put its request up is requested. -/
theorem State.clusterRequested_of_cur {s : State} (hreq : s.cur.railReq = true) (hout : s.cur.out = false)
    (hrun : s.cur.status = .running) : s.clusterRequested s.slotNo (s.cluster s.slotNo s.cur.cell) = true := by
  unfold State.clusterRequested
  rw [List.any_cons, Bool.or_eq_true]
  left
  simp only [hreq, hout, hrun]
  simp [State.slotNo, State.vd, State.launch]

/-- The focused strand with its rail request up. -/
def State.requestRail (s : State) : State := s.modCur fun c => { c with railReq := true }

theorem State.requestRail_slotNo (s : State) : s.requestRail.slotNo = s.slotNo := rfl
theorem State.requestRail_cluster (s : State) (slot cell : Nat) : s.requestRail.cluster slot cell = s.cluster slot cell := rfl

/-- The words of the rail, once they issue. -/
theorem exec_mrailUp {g : Ctl} {s : State} (hi : Issues (.mrailUp g) {} s) :
    exec (.mrailUp g) s = .next ((if s.cur.railReq then s.started
      else s.started.requestRail.railUpdate s.slotNo (s.cluster s.slotNo s.cur.cell)).advance
        (holdOf (.mrailUp g))) := by
  show execMrailUp g s = _
  unfold execMrailUp
  rw [issue_ready _ hi, State.started_cur, State.started_slotNo, State.started_cluster]
  split <;> rfl

theorem exec_mrailDn {g : Ctl} {s : State} (hi : Issues (.mrailDn g) {} s) :
    exec (.mrailDn g) s = .next ((if s.cur.kstepsBefore s.cur.seq then
        s.started.modCur fun c => { c with railDn := c.railDn ++ [c.seq], seq := c.seq + 1 }
      else s.started.railClear).advance (holdOf (.mrailDn g))) := by
  show execMrailDn g s = _
  unfold execMrailDn
  rw [issue_ready _ hi, State.started_cur]
  split <;> rfl

/-- Settles O31: each word through what it does once it issues; the step's due tick is the free value plus 1. -/
theorem powerWords : Obligations.PowerWords := by
  unfold Obligations.PowerWords
  refine ⟨?_, ?_, ?_, ?_, ?_, ?_⟩
  · intro g mask s hi
    refine ⟨_, issue_ready _ hi, ?_⟩
    have hb : mask.getLsbD (if s.started.vd.cls = .md then 0 else 1)
        = if s.started.vd.cls = .md then mask.getLsbD 0 else mask.getLsbD 1 := by split <;> rfl
    dsimp only [finish]
    exact ⟨by rw [State.advance_cur_bask]; exact hb, fun k => by rw [State.getX_advance]; exact s.getX_started k, by simp, by simp,
      ⟨fun a _ => by simp, by simp⟩⟩
  · intro g mask s hr hpfx hu hmask
    have hfit : fitsClass s.vd.cls (.baskPref g mask) = false := by
      rw [fitsClass_baskPref]
      rw [← hmask]
      split <;> rfl
    have hx : exec (.baskPref g mask) s = _ := issue_illegal _ hr hu (State.legal_eq_false (.inr (.inl hfit)))
    rw [hx, Strand.illegalValue_of_no_prefix hpfx, illegalTval_baskPref, State.precise_of_no_prefix (s := s.begun) hpfx]
    rfl
  · intro g s hi hreq
    rw [exec_mrailUp hi, if_pos hreq]
    exact ⟨rfl, by simp, by simp [hreq], by simp⟩
  · intro g s hi hreq hout
    obtain ⟨hrun, -⟩ := id hi
    have hreq' : s.started.requestRail.clusterRequested s.slotNo (s.cluster s.slotNo s.cur.cell) = true := by
      have h := State.clusterRequested_of_cur (s := s.started.requestRail) rfl (by simp [State.requestRail, hout])
        (by simp [State.requestRail, hrun])
      have hcell : s.started.requestRail.cur.cell = s.cur.cell := by simp [State.requestRail]
      rwa [hcell, State.requestRail_slotNo, State.requestRail_cluster, State.started_slotNo, State.started_cluster] at h
    have hdue := State.railUpdate_due hreq'
    rw [show s.started.requestRail.power = s.power from s.started_power, show s.started.requestRail.z0 = s.z0 from s.started_z0] at hdue
    obtain ⟨p, hp⟩ := s.started.requestRail.railUpdate_eq s.slotNo (s.cluster s.slotNo s.cur.cell)
    rw [hp] at hdue
    rw [exec_mrailUp hi, hreq, if_neg Bool.false_ne_true, hp]
    exact ⟨_, rfl, (State.advance_cur_railReq _ _).trans rfl, by rw [State.advance_power]; exact hdue,
      fun k => by rw [State.getX_advance]; exact s.getX_started k, by simp [State.requestRail],
      ⟨fun a _ => by simp [State.requestRail], by simp [State.requestRail]⟩⟩
  · intro g s hi hk
    obtain ⟨p, hp⟩ := (s.started.modCur fun c => { c with railReq := false }).railUpdate_eq s.started.slotNo
      (s.started.cluster s.started.slotNo s.started.cur.cell)
    rw [exec_mrailDn hi, hk, if_neg Bool.false_ne_true, State.railClear, hp]
    exact ⟨_, rfl, (State.advance_cur_railReq _ _).trans rfl, by simp, fun k => by rw [State.getX_advance]; exact s.getX_started k,
      ⟨fun a _ => by simp, by simp⟩⟩
  · intro g s hi hk
    rw [exec_mrailDn hi, hk, if_pos rfl]
    exact ⟨_, rfl, by simp, by simp, fun k => by rw [State.getX_advance]; exact s.getX_started k, ⟨fun a _ => by simp, by simp⟩⟩

end Sys2Proof.Machine
end

section
/-! PROOFS. NOP and LOOP: the pass over the body of a loop whose count is 0, and the push of a body (R126, R127). -/

namespace Sys2Proof.Machine

/-! ### The addresses of consecutive words -/

/-- The address of the word that lies `k` words on (R44). -/
def wordAt (pc : Word) (k : Nat) : Word := pc + 6 * BitVec.ofNat 64 k

@[simp] theorem wordAt_zero (pc : Word) : wordAt pc 0 = pc := by simp [wordAt]

theorem wordAt_wordAt (pc : Word) (a b : Nat) : wordAt (wordAt pc a) b = wordAt pc (a + b) := by
  unfold wordAt
  rw [BitVec.ofNat_add, BitVec.mul_add, BitVec.add_assoc]

theorem wordAt_one (pc : Word) : wordAt pc 1 = pc + 6 := rfl

theorem toNat_six_mul {k : Nat} (hk : k ≤ 128) : (6 * BitVec.ofNat 64 k).toNat = 6 * k := by
  rw [BitVec.toNat_mul, BitVec.toNat_ofNat]
  simp
  omega

theorem wordAt_ne {pc : Word} {a b : Nat} (ha : a ≤ 128) (hb : b ≤ 128) (h : a ≠ b) : wordAt pc a ≠ wordAt pc b := by
  unfold wordAt
  intro e
  have e' := congrArg BitVec.toNat (add_left_cancel e)
  rw [toNat_six_mul ha, toNat_six_mul hb] at e'
  omega

theorem wordAt_succ_ne {pc : Word} {k : Nat} (hk : k < 128) : wordAt pc (k + 1) ≠ pc := by
  have h := wordAt_ne (pc := pc) (a := k + 1) (b := 0) (by omega) (by omega) (by omega)
  rwa [wordAt_zero] at h

@[simp] theorem State.startFetch_cur_chain (s : State) : s.startFetch.cur.chain = s.cur.chain := by
  unfold State.startFetch State.fetchAt
  dsimp only
  split <;> rfl

/-! ### Text does not depend on where the strand stands -/

section
variable (s : State) (f : Strand → Strand)

theorem State.launch_modCur (hp : (f s.cur).prio = s.cur.prio) : (s.modCur f).launch = s.launch := by
  unfold State.launch
  rw [State.modCur_cur, hp]
  rfl

theorem State.vd_modCur (hp : (f s.cur).prio = s.cur.prio) (hv : (f s.cur).vdie = s.cur.vdie) : (s.modCur f).vd = s.vd := by
  unfold State.vd
  rw [s.launch_modCur f hp, State.modCur_cur, hv]

@[simp] theorem State.placeOf_modCur : (s.modCur f).placeOf = s.placeOf := rfl
@[simp] theorem State.answers_modCur : (s.modCur f).answers = s.answers := rfl
@[simp] theorem State.pte_modCur : (s.modCur f).pte = s.pte := rfl
@[simp] theorem State.leafWorldOk_modCur : (s.modCur f).leafWorldOk = s.leafWorldOk := rfl

@[simp] theorem State.walk_modCur : (s.modCur f).walk = s.walk := by
  funext root va
  unfold State.walk
  rw [State.pte_modCur, State.leafWorldOk_modCur]

theorem State.fetchWord_modCur (hp : (f s.cur).prio = s.cur.prio) : (s.modCur f).fetchWord = s.fetchWord := by
  funext a
  unfold State.fetchWord State.fetchBytes
  rw [s.launch_modCur f hp, State.walk_modCur, State.answers_modCur, State.modCur_mem]

theorem State.fetchFails_modCur (hp : (f s.cur).prio = s.cur.prio) : (s.modCur f).fetchFails = s.fetchFails := by
  funext a
  unfold State.fetchFails State.failsFrom State.fetchFault State.blockOf
  rw [s.launch_modCur f hp, State.walk_modCur]

end

theorem State.vd_of_core {s t : State} (h : t.core = s.core) : t.vd = s.vd := by
  have hv : t.cur.vdie = s.cur.vdie := show t.core.cur.vdie = s.core.cur.vdie by rw [h]
  have hl : t.launch.vdies = s.launch.vdies :=
    show t.launch.quiet.vdies = s.launch.quiet.vdies by rw [State.launch_quiet_of_core h]
  unfold State.vd Launch.vd
  rw [hl, hv]

/-! ### Passing over words (R127) -/

/-- A state on the way over a body: it differs from the one that came to the LOOP word in the strand's place only. -/
structure PassState (b t : State) : Prop where
  core : t.core = b.core
  saved : t.saved = b.saved
  text : t.fetchWord = b.fetchWord
  fails : t.fetchFails = b.fetchFails
  pfx : t.cur.pfx = none

/-- A word that the pass goes over: it can be fetched, is no prefix, and passes the checks of R52. -/
structure PassWord (b : State) (a : Word) (w : BitVec 48) (i : Instr) : Prop where
  word : b.fetchWord a = some w
  noPrefix : isPrefixWord w = false
  fetch : b.fetchFails a = none
  decodes : decode w = .ok i
  unit : unitPresent b.vd.cls w = true
  fits : fitsClass b.vd.cls i = true

/-- A word of the matrix queue, which clears the chain latch when it is squashed (R183). -/
def isMatrix (i : Instr) : Prop := 0x20 ≤ majOf i ∧ majOf i ≤ 0x23

theorem PassWord.instr_unique {b : State} {a : Word} {w w' : BitVec 48} {i i' : Instr} (h : PassWord b a w i)
    (h' : PassWord b a w' i') : i = i' := by
  obtain rfl : w = w' := Option.some.inj (h.word.symm.trans h'.word)
  exact Except.ok.inj (h.decodes.symm.trans h'.decodes)

/-- No entry ends at this word: the next word follows. -/
theorem loopBack_of_ne {pc : Word} {e : LoopEnt} {r : List LoopEnt} (h : e.last ≠ pc) : loopBack pc (e :: r) = (pc + 6, e :: r) := by
  unfold loopBack
  rw [if_neg h]

/-- The state after the word at the pc has been passed over. -/
def State.passed (t : State) (i : Instr) : State :=
  (t.squash i).modCur fun c =>
    { c with pc := (loopBack t.cur.pc t.cur.loops).1, loops := (loopBack t.cur.pc t.cur.loops).2, pfx := none }

section
variable {b t : State} {w : BitVec 48} {i : Instr}

theorem PassState.unitFault_none (ht : PassState b t) {a : Word} (hw : PassWord b a w i) : t.unitFault w = none := by
  have hwf : i.wf = true := wf_of_decode hw.decodes
  have hvd : t.vd = b.vd := State.vd_of_core ht.core
  have hlegal : t.legal i = true := by
    unfold State.legal Strand.pfxOk Strand.rptFits
    simp [hwf, hvd, hw.fits, ht.pfx]
  unfold State.unitFault
  rw [hvd]
  simp [hw.decodes, hw.unit, hlegal]

theorem State.fetchWord_squash (t : State) (i : Instr) : (t.squash i).fetchWord = t.fetchWord := by
  unfold State.squash
  split
  · exact t.fetchWord_modCur _ rfl
  · rfl

theorem State.fetchFails_squash (t : State) (i : Instr) : (t.squash i).fetchFails = t.fetchFails := by
  unfold State.squash
  split
  · exact t.fetchFails_modCur _ rfl
  · rfl

/-- A squashed word leaves everything about the strand but its chain latch, which a matrix word clears (R183). -/
theorem State.squash_chain (t : State) (i : Instr) (h : isMatrix i ∨ t.cur.chain = none) : (t.squash i).cur.chain = none := by
  unfold State.squash
  split
  next => rfl
  next hn => exact h.resolve_left hn

theorem State.passed_cur_slot (t : State) (i : Instr) : (t.passed i).cur.slot = t.cur.slot := by
  unfold State.passed State.squash
  split <;> rfl

theorem State.passed_cur_status (t : State) (i : Instr) : (t.passed i).cur.status = t.cur.status := by
  unfold State.passed State.squash
  split <;> rfl

theorem PassState.passed (ht : PassState b t) (i : Instr) : PassState b (t.passed i) where
  core := ((t.squash i).core_modCur _ rfl).trans ((t.core_squash i).trans ht.core)
  saved := (t.saved_squash i).trans ht.saved
  text := ((t.squash i).fetchWord_modCur _ rfl).trans ((t.fetchWord_squash i).trans ht.text)
  fails := ((t.squash i).fetchFails_modCur _ rfl).trans ((t.fetchFails_squash i).trans ht.fails)
  pfx := rfl

/-- One word of the pass. -/
theorem passOver_word (ht : PassState b t) (hw : PassWord b t.cur.pc w i) (n : Nat) :
    passOver (n + 1) t =
      if (loopBack t.cur.pc t.cur.loops).1 = t.cur.pc + 6 then passOver n (t.passed i) else (t.passed i, false) := by
  have hfails : t.fetchFails t.cur.pc = none := ht.fails ▸ hw.fetch
  have hword : t.fetchWord t.cur.pc = some w := ht.text ▸ hw.word
  have hfault : t.unitFault w = none := ht.unitFault_none hw
  conv_lhs => unfold passOver
  simp only [hfails, hword, hw.noPrefix, hfault, hw.decodes, Bool.false_eq_true, if_false]
  rfl

/-- The state of the strand as it goes through a body without going back: where it stands, its loops, its planned slot, its status,
and its chain latch, which a matrix word among those passed has cleared. -/
structure PassedTo (b t : State) (n : Nat) (t' : State) : Prop where
  state : PassState b t'
  pc : t'.cur.pc = wordAt t.cur.pc n
  slot : t'.cur.slot = t.cur.slot
  status : t'.cur.status = t.cur.status
  chain : (t.cur.chain = none ∨ ∃ k w i, k < n ∧ PassWord b (wordAt t.cur.pc k) w i ∧ isMatrix i) → t'.cur.chain = none

/-- Words at which no entry of the loop stack ends are passed over one after the other. -/
theorem passOver_straight {n : Nat} (m : Nat) (ht : PassState b t) (hwords : ∀ k, k < n → ∃ w i, PassWord b (wordAt t.cur.pc k) w i)
    (hno : ∀ e r, t.cur.loops = e :: r → ∀ k, k < n → e.last ≠ wordAt t.cur.pc k) :
    ∃ t', passOver (n + m) t = passOver m t' ∧ PassedTo b t n t' ∧ t'.cur.loops = t.cur.loops := by
  induction n generalizing t with
  | zero => exact ⟨t, by rw [Nat.zero_add], ⟨ht, by simp, rfl, rfl, by simp⟩, rfl⟩
  | succ n ih =>
    obtain ⟨w, i, hw⟩ := hwords 0 (by omega)
    rw [wordAt_zero] at hw
    have hback : loopBack t.cur.pc t.cur.loops = (t.cur.pc + 6, t.cur.loops) := by
      cases hl : t.cur.loops with
      | nil => rfl
      | cons e r => exact loopBack_of_ne (by simpa using hno e r hl 0 (by omega))
    have hpc : (t.passed i).cur.pc = wordAt t.cur.pc 1 := congrArg Prod.fst hback
    have hloops : (t.passed i).cur.loops = t.cur.loops := congrArg Prod.snd hback
    have hnext (k : Nat) : wordAt (t.passed i).cur.pc k = wordAt t.cur.pc (k + 1) := by rw [hpc, wordAt_wordAt, Nat.add_comm]
    obtain ⟨t', hrun, hto, hl'⟩ := ih (ht.passed i) (fun k hk => hnext k ▸ hwords (k + 1) (by omega))
      (fun e r hl k hk => hnext k ▸ hno e r (hloops ▸ hl) (k + 1) (by omega))
    refine ⟨t', ?_, ⟨hto.state, by rw [hto.pc, hnext], hto.slot.trans (t.passed_cur_slot i), hto.status.trans (t.passed_cur_status i), fun h => hto.chain ?_⟩,
      hl'.trans hloops⟩
    · rw [Nat.add_right_comm, passOver_word ht hw, hback, if_pos rfl, hrun]
    · rcases h with h | ⟨k, w', i', hk, hw', hm⟩
      · exact .inl (t.squash_chain i (.inr h))
      · cases k with
        | zero =>
          rw [wordAt_zero] at hw'
          obtain rfl := hw.instr_unique hw'
          exact .inl (t.squash_chain i (.inl hm))
        | succ k => exact .inr ⟨k, w', i', by omega, (hnext k).symm ▸ hw', hm⟩

end

/-! ### LOOP -/

/-- The state in which the pass begins: after the LOOP word, with the slot that follows it. -/
def State.skipStart (s : State) (hold : Nat) : State :=
  s.modCur fun c =>
    { c with pc := s.cur.pc + 6, pfx := none, rep := 0, since := none, slot := s.nextSlot hold }

theorem State.passState_skipStart (s : State) (hold : Nat) : PassState s (s.skipStart hold) where
  core := s.core_modCur _ rfl
  saved := rfl
  text := s.fetchWord_modCur _ rfl
  fails := s.fetchFails_modCur _ rfl
  pfx := rfl

/-- A body is passed over from its first word on where no entry ends at the LOOP word itself. -/
theorem State.skipBody_eq {s : State} (n hold : Nat) (h : loopBack s.cur.pc s.cur.loops = (s.cur.pc + 6, s.cur.loops)) :
    s.skipBody n hold = if (passOver n (s.skipStart hold)).2 then (passOver n (s.skipStart hold)).1
      else (passOver n (s.skipStart hold)).1.startFetch := by
  unfold State.skipBody
  simp only [h, if_true]
  rfl

theorem holdOf_loop (g : Ctl) (n a : BitVec 6) : holdOf (.loop g n a) = g.hold.toNat := congrArg BitVec.toNat (hold_encR ..)

section
variable {g : Ctl} {n a : BitVec 6} {s : State} (hi : Issues (.loop g n a) { reads := [a.toNat] } s)
include hi

/-- LOOP with a count of 0 (R127). -/
theorem exec_loop_zero (h0 : s.started.rx a.toNat = 0) :
    exec (.loop g n a) s = .next (s.started.skipBody (n.toNat + 1) (holdOf (.loop g n a))) := by
  show execLoop g n a s = _
  unfold execLoop
  rw [issue_ready _ hi, h0, holdOf_loop]
  rfl

/-- LOOP with a count that is not 0 (R127). -/
theorem exec_loop_count (h0 : s.started.rx a.toNat ≠ 0) :
    exec (.loop g n a) s = .next (
      if 2 ≤ s.cur.loops.length ∨ (s.started.fetchWord (s.cur.pc + 6 * BitVec.ofNat 64 (n.toNat + 1))).any isPrefixWord then
        s.started.precise Cause.illegal (0#16 ++ encode (.loop g n a))
      else s.started.goTo (holdOf (.loop g n a)) (s.cur.pc + 6)
        ({ first := s.cur.pc + 6, last := s.cur.pc + 6 * BitVec.ofNat 64 (n.toNat + 1), remaining := (s.started.rx a.toNat).toNat } :: s.cur.loops)) := by
  have h0' : (s.started.rx a.toNat).toNat ≠ 0 := fun e => h0 (BitVec.eq_of_toNat_eq e)
  show execLoop g n a s = _
  unfold execLoop
  rw [issue_ready _ hi, holdOf_loop]
  simp only [if_neg h0', State.started_cur]
  by_cases hfull : 2 ≤ s.cur.loops.length
  · rw [if_pos hfull, if_pos (.inl hfull)]
    rfl
  · rw [if_neg hfull]
    by_cases hpfx : (s.started.fetchWord (s.cur.pc + 6 * BitVec.ofNat 64 (n.toNat + 1))).any isPrefixWord = true
    · rw [if_pos hpfx, if_pos (.inr hpfx)]
      rfl
    · rw [if_neg hpfx, if_neg (not_or.mpr ⟨hfull, hpfx⟩)]
      rfl

end

/-- What a pass that ends in the focused strand's place leaves alone. -/
theorem PassState.frame {s t : State} (h : PassState s.started t) :
    SameRegs [] [] [] [] s t.startFetch ∧ SameMem (fun _ => False) s t.startFetch := by
  have hcore : t.startFetch.core = s.core := by rw [t.core_startFetch, h.core, s.core_started]
  exact ⟨.of_core hcore, .of_core hcore⟩

/-- The planned slot after a LOOP whose body is passed over is the one that follows the LOOP word. -/
theorem State.skipStart_slot (s : State) (hold : Nat) :
    (s.started.skipStart hold).cur.slot = s.z0 + 1 + (if s.sched then hold else 0) := by
  show s.started.nextSlot hold = _
  unfold State.nextSlot
  rw [s.started_z0, State.sched_of_core s.core_started]

/-- A pass that goes to its end leaves the strand where it ended. -/
theorem exec_loop_of_passed {g : Ctl} {n a : BitVec 6} {s t' : State} (hi : Issues (.loop g n a) { reads := [a.toNat] } s)
    (h0 : s.started.rx a.toNat = 0) (hback : loopBack s.cur.pc s.cur.loops = (s.cur.pc + 6, s.cur.loops))
    (hrun : passOver (n.toNat + 1) (s.started.skipStart (holdOf (.loop g n a))) = (t', false)) :
    exec (.loop g n a) s = .next t'.startFetch := by
  rw [exec_loop_zero hi h0, State.skipBody_eq _ _ (by rw [s.started_cur]; exact hback), hrun, if_neg Bool.false_ne_true]

section
variable {s : State} {n : Nat} (hwords : ∀ k, k ≤ n → ∃ w i, PassWord s.started (wordAt s.cur.pc (k + 1)) w i) (hold : Nat)

theorem State.skipStart_wordAt (s : State) (hold k : Nat) :
    wordAt (s.started.skipStart hold).cur.pc k = wordAt s.cur.pc (k + 1) := by
  show wordAt (s.started.cur.pc + 6) k = _
  rw [s.started_cur, ← wordAt_one, wordAt_wordAt, Nat.add_comm]

theorem State.skipStart_loops (s : State) (hold : Nat) : (s.started.skipStart hold).cur.loops = s.cur.loops := by
  show s.started.cur.loops = s.cur.loops
  rw [s.started_cur]

include hwords

/-- The words of the body that lie before the first entry's end are passed over one after the other. -/
theorem passOver_body {j : Nat} (m : Nat) (hj : j ≤ n + 1)
    (hno : ∀ e r, s.cur.loops = e :: r → ∀ k, k < j → e.last ≠ wordAt s.cur.pc (k + 1)) :
    ∃ t', passOver (j + m) (s.started.skipStart hold) = passOver m t' ∧ PassedTo s.started (s.started.skipStart hold) j t'
      ∧ t'.cur.pc = wordAt s.cur.pc (j + 1) ∧ t'.cur.loops = s.cur.loops := by
  obtain ⟨t', hrun, hto, hl⟩ := passOver_straight (n := j) m (s.started.passState_skipStart hold)
    (fun k hk => s.skipStart_wordAt hold k ▸ hwords k (by omega))
    (fun e r hl k hk => s.skipStart_wordAt hold k ▸ hno e r (s.skipStart_loops hold ▸ hl) k hk)
  exact ⟨t', hrun, hto, hto.pc.trans (s.skipStart_wordAt hold j), hl.trans (s.skipStart_loops hold)⟩

/-- An entry that ends within the body and has no repetition left is popped, and the pass goes on. -/
theorem passOver_body_pop {e : LoopEnt} {j : Nat} (hl : s.cur.loops = [e]) (hj : j ≤ n) (hn : n < 64)
    (hlast : e.last = wordAt s.cur.pc (j + 1)) (hrem : e.remaining ≤ 1) :
    ∃ t', passOver (n + 1) (s.started.skipStart hold) = (t', false) ∧ t'.cur.pc = wordAt s.cur.pc (n + 2) ∧ t'.cur.loops = [] := by
  obtain ⟨t, hrun, hto, hpc, hloops⟩ := passOver_body hwords hold (n - j + 1) (j := j) (by omega) fun e' r he k hk => by
    rw [hl] at he
    cases he
    exact hlast ▸ wordAt_ne (by omega) (by omega) (by omega)
  obtain ⟨w, i, hw⟩ := hwords j hj
  rw [← hpc] at hw
  have hback : loopBack t.cur.pc t.cur.loops = (t.cur.pc + 6, []) := by
    rw [hloops, hl, hpc]
    simp [loopBack, hlast, show ¬ 1 < e.remaining by omega]
  have hpc' : (t.passed i).cur.pc = wordAt s.cur.pc (j + 2) := by
    rw [show (t.passed i).cur.pc = t.cur.pc + 6 from congrArg Prod.fst hback, hpc, ← wordAt_one, wordAt_wordAt]
  have hloops' : (t.passed i).cur.loops = [] := congrArg Prod.snd hback
  have hnext (k : Nat) : wordAt (t.passed i).cur.pc k = wordAt s.cur.pc (j + 1 + k + 1) := by
    rw [hpc', wordAt_wordAt]
    congr 1
    omega
  obtain ⟨t', hrun', hto', hl'⟩ := passOver_straight (n := n - j) 0 (hto.state.passed i)
    (fun k hk => (hnext k).symm ▸ hwords (j + 1 + k) (by omega)) (by simp [hloops'])
  refine ⟨t', ?_, ?_, hl'.trans hloops'⟩
  · rw [show n + 1 = j + (n - j + 1) by omega, hrun, passOver_word hto.state hw, hback, if_pos rfl]
    exact hrun'
  · rw [hto'.pc, hnext]
    congr 1
    omega

/-- An entry that ends within the body and has repetitions left takes control back to its first word, where the pass ends. -/
theorem passOver_body_back {e : LoopEnt} {r : List LoopEnt} {j : Nat} (hl : s.cur.loops = e :: r) (hj : j ≤ n) (hn : n < 64)
    (hlast : e.last = wordAt s.cur.pc (j + 1)) (hrem : 1 < e.remaining) (hfirst : e.first ≠ e.last + 6) :
    ∃ t', passOver (n + 1) (s.started.skipStart hold) = (t', false) ∧ PassState s.started t' ∧ t'.cur.pc = e.first
      ∧ t'.cur.loops = { e with remaining := e.remaining - 1 } :: r ∧ t'.cur.slot = (s.started.skipStart hold).cur.slot := by
  obtain ⟨t, hrun, hto, hpc, hloops⟩ := passOver_body hwords hold (n - j + 1) (j := j) (by omega) fun e' r he k hk => by
    rw [hl] at he
    cases he
    exact hlast ▸ wordAt_ne (by omega) (by omega) (by omega)
  obtain ⟨w, i, hw⟩ := hwords j hj
  rw [← hpc] at hw
  have hback : loopBack t.cur.pc t.cur.loops = (e.first, { e with remaining := e.remaining - 1 } :: r) := by
    rw [hloops, hl, hpc]
    simp [loopBack, hlast, hrem]
  refine ⟨t.passed i, ?_, hto.state.passed i, congrArg Prod.fst hback, congrArg Prod.snd hback,
    (t.passed_cur_slot i).trans hto.slot⟩
  rw [show n + 1 = j + (n - j + 1) by omega, hrun, passOver_word hto.state hw, hback, hpc, ← hlast, if_neg hfirst]

end

/-- A body whose first word cannot be fetched, or is turned down by the checks of R52, traps there (R93, R127). -/
theorem passOver_fault {t : State} {c : Nat} {v : Word} (n : Nat)
    (h : t.fetchFails t.cur.pc = some (c, v)
      ∨ t.fetchFails t.cur.pc = none ∧ ∃ w, t.fetchWord t.cur.pc = some w ∧ isPrefixWord w = false ∧ t.unitFault w = some (c, v)) :
    passOver (n + 1) t = (t.precise c v, true) := by
  unfold passOver
  rcases h with h | ⟨h, w, hw, hp, hf⟩
  · simp [h]
  · simp [h, hw, hp, hf]

/-- What the checks of R52 find at a word that no prefix governs depends on the die only. -/
theorem State.unitFault_congr {s t : State} (hs : s.cur.pfx = none) (ht : t.cur.pfx = none) (hvd : t.vd = s.vd) (w : BitVec 48) :
    t.unitFault w = s.unitFault w := by
  have hvalue : t.cur.illegalValue w = s.cur.illegalValue w := by
    rw [Strand.illegalValue_of_no_prefix hs, Strand.illegalValue_of_no_prefix ht]
  have hlegal (i : Instr) : t.legal i = s.legal i := by
    unfold State.legal Strand.pfxOk Strand.rptFits
    simp [hs, ht, hvd]
  unfold State.unitFault
  simp only [hvalue, hlegal, hvd]

/-- A pass whose first word traps ends in the trap of that word. -/
theorem exec_loop_of_fault {g : Ctl} {n a : BitVec 6} {s : State} {c : Nat} {v : Word}
    (hi : Issues (.loop g n a) { reads := [a.toNat] } s) (h0 : s.started.rx a.toNat = 0)
    (hback : loopBack s.cur.pc s.cur.loops = (s.cur.pc + 6, s.cur.loops))
    (hrun : passOver (n.toNat + 1) (s.started.skipStart (holdOf (.loop g n a)))
      = ((s.started.skipStart (holdOf (.loop g n a))).precise c v, true)) :
    exec (.loop g n a) s = .next (takeTrap { code := c, tval := v, tpc := some (s.cur.pc + 6) }
      (s.started.skipStart (holdOf (.loop g n a)))) := by
  rw [exec_loop_zero hi h0, State.skipBody_eq _ _ (by rw [s.started_cur]; exact hback), hrun, if_pos rfl]
  dsimp only
  rw [State.precise_of_no_prefix rfl]
  show Host.Outcome.next (takeTrap { code := c, tval := v, tpc := some (s.started.cur.pc + 6) } _) = _
  rw [s.started_cur]

/-- Settles O20: the pass over a body word by word, and the push of a body. -/
theorem nopAndLoop : Obligations.NopAndLoop := by
  unfold Obligations.NopAndLoop
  refine ⟨?_, ?_, ?_, ?_, ?_, ?_⟩
  · intro g s hi
    exact issue_ready _ hi
  · intro g n a s hi h0 hbody
    have hwords : ∀ k, k ≤ n.toNat → ∃ w i, PassWord s.started (wordAt s.cur.pc (k + 1)) w i := by
      intro k hk
      obtain ⟨w, i, hword, hp, hfetch, hd, -, hu, hfit⟩ := hbody k hk
      have hvd : s.started.vd = s.vd := State.vd_of_core s.core_started
      exact ⟨w, i, hword, hp, hfetch, hd, hvd ▸ hu, hvd ▸ hfit⟩
    have hn := n.isLt
    refine ⟨fun hno => ?_, fun e j hl hj hlast hrem => ?_, fun e r j hl hj hlast hrem hfirst => ?_⟩
    · have hback : loopBack s.cur.pc s.cur.loops = (s.cur.pc + 6, s.cur.loops) := by
        cases hl : s.cur.loops with
        | nil => rfl
        | cons e r => exact loopBack_of_ne (by simpa using hno e r hl 0 (by omega))
      obtain ⟨t', hrun, hto, hpc, hloops⟩ := passOver_body hwords (holdOf (.loop g n a)) 0 (le_refl _)
        fun e r hl k hk => hno e r hl (k + 1) (by omega)
      obtain ⟨hregs, hmem⟩ := hto.state.frame
      refine ⟨_, exec_loop_of_passed hi h0 hback hrun, ?_, ?_, ?_, ?_, ?_, ?_, hregs, hmem⟩
      · rw [State.startFetch_cur_pc, hpc]; rfl
      · rw [State.startFetch_cur_loops, hloops]
      · rw [State.startFetch_cur_status, hto.status]
        exact (congrArg Strand.status s.started_cur).trans hi.1
      · rw [State.startFetch_cur_pfx, hto.state.pfx]
      · rw [State.startFetch_cur_slot, hto.slot, State.skipStart_slot]
      · intro k w i hk hw hd hlo hhi
        rw [State.startFetch_cur_chain]
        obtain ⟨w', i', hpw⟩ := hwords k hk
        obtain rfl : w = w' := Option.some.inj (hw.symm.trans hpw.word)
        obtain rfl : i = i' := Except.ok.inj (hd.symm.trans hpw.decodes)
        exact hto.chain (.inr ⟨k, w, i, by omega, (s.skipStart_wordAt _ k).symm ▸ hpw, hlo, hhi⟩)
    · have hback : loopBack s.cur.pc s.cur.loops = (s.cur.pc + 6, s.cur.loops) := by
        rw [hl]
        exact loopBack_of_ne (hlast ▸ wordAt_succ_ne (by omega))
      obtain ⟨t', hrun, hpc, hloops⟩ := passOver_body_pop hwords (holdOf (.loop g n a)) hl hj hn hlast hrem
      exact ⟨_, exec_loop_of_passed hi h0 hback hrun, by rw [State.startFetch_cur_pc, hpc]; rfl,
        by rw [State.startFetch_cur_loops, hloops]⟩
    · have hback : loopBack s.cur.pc s.cur.loops = (s.cur.pc + 6, s.cur.loops) := by
        rw [hl]
        exact loopBack_of_ne (hlast ▸ wordAt_succ_ne (by omega))
      obtain ⟨t', hrun, hstate, hpc, hloops, hslot⟩ :=
        passOver_body_back hwords (holdOf (.loop g n a)) hl hj hn hlast hrem hfirst
      obtain ⟨hregs, hmem⟩ := hstate.frame
      exact ⟨_, exec_loop_of_passed hi h0 hback hrun, by rw [State.startFetch_cur_pc, hpc], by rw [State.startFetch_cur_loops, hloops],
        by rw [State.startFetch_cur_slot, hslot, State.skipStart_slot], hregs, hmem⟩
  · intro g n a c v s hi h0 hl hfault
    have hback : loopBack s.cur.pc s.cur.loops = (s.cur.pc + 6, s.cur.loops) := by rw [hl]; rfl
    have hstate := s.started.passState_skipStart (holdOf (.loop g n a))
    have hpc : (s.started.skipStart (holdOf (.loop g n a))).cur.pc = s.cur.pc + 6 := by
      show s.started.cur.pc + 6 = s.cur.pc + 6
      rw [s.started_cur]
    have hrun := passOver_fault (t := s.started.skipStart (holdOf (.loop g n a))) (c := c) (v := v) n.toNat (by
      rw [hpc, hstate.fails, hstate.text]
      refine hfault.imp id (And.imp_right ?_)
      rintro ⟨w, hw, hp, hf⟩
      exact ⟨w, hw, hp, (State.unitFault_congr (s := s.started.modCur fun c => { c with pfx := none })
        (t := s.started.skipStart (holdOf (.loop g n a))) rfl rfl rfl w).trans hf⟩)
    have hcore : (s.started.skipStart (holdOf (.loop g n a))).core = s.core := hstate.core.trans s.core_started
    exact ⟨_, exec_loop_of_fault hi h0 hback hrun, hpc, .of_core hcore, .of_core hcore,
      .of_saved (hstate.saved.trans s.saved_started)⟩
  · intro g n a s hi h0 hlen hp
    rw [exec_loop_count hi h0, if_neg (not_or.mpr ⟨by omega, by rw [hp]; exact Bool.false_ne_true⟩)]
    exact ⟨_, rfl, State.goTo_cur_pc _ _ _ _, State.goTo_cur_loops _ _ _ _, .of_core (by simp), .of_core (by simp)⟩
  · intro g n a s hi h0 hlen
    rw [exec_loop_count hi h0, if_pos (.inl (by omega))]
  · intro g n a w s hi h0 hw hp
    rw [exec_loop_count hi h0, if_pos (.inr (by rw [hw]; exact hp))]

end Sys2Proof.Machine
end

section
/-! PROOFS. The completions of loads and stores (R57, R92, R117, R118, R155, R176, R282, R285). -/

namespace Sys2Proof.Machine

/-! ### What a first operation that may take effect does -/

theorem exec_scalarAccessCompletion {s : State} {p : PendOp} (h : s.cur.pend.find? s.pendReady = some p) :
    exec .scalarAccessCompletion s = .next (performPend p s) := by
  show execScalarAccessCompletion s = _
  unfold execScalarAccessCompletion
  rw [h]

/-- The state in which an operation of the strand is no longer outstanding. -/
def State.afterPend (s : State) (p : PendOp) : State := s.rePend p.seq (leftover p s.z0)

/-- A change of what is outstanding, and of what waits for it, changes no register and no memory. -/
structure OnlyPend (s t : State) : Prop where
  regs : SameRegs [] [] [] [] s t
  mem : t.mem = s.mem
  held : t.held = s.held
  saved : t.saved = s.saved
  slotNo : t.slotNo = s.slotNo
  cell : t.cur.cell = s.cur.cell
  status : t.cur.status = s.cur.status
  asyncs : t.cur.asyncs = s.cur.asyncs

theorem State.onlyPend_afterPend (s : State) (p : PendOp) : OnlyPend s (s.afterPend p) :=
  ⟨⟨fun _ _ _ => rfl, fun _ _ _ => rfl, fun _ _ => rfl, fun _ _ => rfl, rfl, rfl, rfl, rfl, rfl⟩, rfl, rfl, rfl, rfl, rfl, rfl, rfl⟩

theorem State.onlyPend_settled (s : State) (p : PendOp) : OnlyPend s ((s.afterPend p).settle p.seq) :=
  ⟨⟨fun _ _ _ => rfl, fun _ _ _ => rfl, fun _ _ => rfl, fun _ _ => rfl, rfl, rfl, rfl, rfl, rfl⟩, rfl, rfl, rfl, rfl, rfl, rfl, rfl⟩

section
variable {s t u : State} {xs hs : List Nat} {w : Nat → Prop}

theorem OnlyPend.before_regs (h : OnlyPend s t) (r : SameRegs xs [] hs [] t u) : SameRegs xs [] hs [] s u :=
  ⟨fun k h1 h2 => (r.x k h1 h2).trans (h.regs.x k h1 (by simp)), fun k h1 h2 => (r.p k h1 h2).trans (h.regs.p k h1 (by simp)),
    fun k h1 => (r.h k h1).trans (h.regs.h k (by simp)), fun k h1 => (r.q k h1).trans (h.regs.q k (by simp)),
    r.arith.trans h.regs.arith, r.expf.trans h.regs.expf, r.sem.trans h.regs.sem, r.matrix.trans h.regs.matrix,
    r.sump.trans h.regs.sump⟩

theorem OnlyPend.before_mem (h : OnlyPend s t) (r : SameMem w t u) : SameMem w s u :=
  ⟨fun a ha => (r.mem a ha).trans (by rw [h.mem]), r.held.trans h.held⟩

theorem OnlyPend.inboxBytes (h : OnlyPend s t) (l : List Nat) : inboxBytes t l = inboxBytes s l := by
  unfold Machine.inboxBytes
  rw [h.slotNo, h.cell]

end

/-! ### Bus errors -/

/-- A bus error of a strand that has not stopped waits for a word boundary (R155, R321). -/
theorem busError_asyncs {s : State} (ea : Word) (he : s.cur.status ≠ .ended) (hs : s.cur.status ≠ .stopped) :
    (busError ea s).cur.asyncs = s.cur.asyncs ++ [{ code := Cause.bus, tval := ea, tpc := none }] := by
  unfold busError raiseAsync
  dsimp only
  rw [State.late_cur]
  simp [he, hs]

@[simp] theorem core_busError (ea : Word) (s : State) : (busError ea s).core = s.core := core_raiseAsync _ _

/-! ### Loads -/

/-- The value that a load delivers to x[D]. -/
def loadValue (n : Nat) (sgn : Bool) (bytes : List Byte) : Word :=
  if sgn then BitVec.ofInt 64 (toSInt (8 * n) (leNat bytes)) else BitVec.ofNat 64 (leNat bytes)

theorem performPend_loaded_x {s : State} {p : PendOp} {d n : Nat} {sgn bus : Bool} {bytes : List Byte} {ea : Word}
    (ha : p.act = .loaded (.x d n sgn) bytes bus ea) (hn : bytes.length = n) :
    performPend p s = if bus then busError ea (((s.afterPend p).settle p.seq).setX d (loadValue n sgn bytes))
      else ((s.afterPend p).settle p.seq).setX d (loadValue n sgn bytes) := by
  unfold performPend
  rw [ha]
  simp only [State.deliver, ← hn, List.take_length]
  rfl

theorem performPend_loaded_h {s : State} {p : PendOp} {d : Nat} {bus : Bool} {bytes : List Byte} {ea : Word}
    (ha : p.act = .loaded (.h d) bytes bus ea) :
    performPend p s = if bus then busError ea (((s.afterPend p).settle p.seq).setH d (BitVec.ofNat 256 (leNat bytes)))
      else ((s.afterPend p).settle p.seq).setH d (BitVec.ofNat 256 (leNat bytes)) := by
  unfold performPend
  rw [ha]
  rfl

/-- What the delivery of a loaded value changes. -/
theorem State.settled_setX_frame (s : State) (p : PendOp) (d : Nat) (v : Word) :
    (d ≠ 0 → (((s.afterPend p).settle p.seq).setX d v).getX d = v)
      ∧ SameRegs [d] [] [] [] s (((s.afterPend p).settle p.seq).setX d v)
      ∧ SameMem (inboxBytes s [d]) s (((s.afterPend p).settle p.seq).setX d v)
      ∧ (((s.afterPend p).settle p.seq).setX d v).saved = s.saved := by
  have ho := s.onlyPend_settled p
  refine ⟨fun hd => ?_, ho.before_regs (SameRegs.setX _ d v), ?_, (State.saved_setX _ _ _).trans ho.saved⟩
  · rw [State.getX_setX _ v hd, if_pos rfl]
  · exact ho.before_mem (ho.inboxBytes [d] ▸ SameMem.setX _ d v)

/-! ### Stores -/

/-- A store that some die answers, outside fleeting memory, writes its bytes (R118). -/
theorem performPend_store {s : State} {p : PendOp} {acc : Acc} {bytes : List Byte} {ea : Word} (ha : p.act = .store acc bytes ea)
    (hr : s.refuses acc = false) (ht : s.inTile acc.phys = false) : performPend p s = (s.afterPend p).writeRaw acc bytes := by
  have hplace : (s.afterPend p).placeOf acc.phys = s.placeOf acc.phys := rfl
  unfold State.inTile at ht
  unfold performPend
  rw [ha]
  dsimp only
  rw [if_neg (by simp [hr]), if_neg (by unfold State.inTile; simp [ht])]
  unfold State.writeOwn
  dsimp only
  show (match (s.afterPend p).placeOf acc.phys with | .tile _ _ _ => _ | _ => _) = _
  rw [hplace]
  split
  next h => rw [h] at ht; exact Bool.noConfusion ht
  next => rfl

/-- A store that is refused takes a bus error (R92, R155). -/
theorem performPend_store_refused {s : State} {p : PendOp} {acc : Acc} {bytes : List Byte} {ea : Word}
    (ha : p.act = .store acc bytes ea) (hr : s.refuses acc = true) : performPend p s = busError ea (s.afterPend p) := by
  unfold performPend
  rw [ha]
  dsimp only
  rw [if_pos hr]
  rfl

theorem State.inTile_of_heldKind {s : State} {a : Nat} (h : (s.placeOf a).heldKind = true) : s.inTile a = false := by
  unfold State.inTile
  cases hp : s.placeOf a
  case tile => rw [hp] at h; exact Bool.noConfusion h
  all_goals rfl

/-- The state in which a store through an SO page has been noted (R282). -/
def State.noteAccess (s : State) (acc : Acc) : State :=
  if acc.so then s.modLaunch s.cur.prio fun l => { l with soWritten := true } else s

theorem State.noteAccess_mem (s : State) (acc : Acc) : (s.noteAccess acc).mem = s.mem := by
  unfold State.noteAccess; split <;> simp

theorem State.noteAccess_held (s : State) (acc : Acc) : (s.noteAccess acc).held = s.held := by
  unfold State.noteAccess; split <;> simp

theorem State.noteAccess_cur (s : State) (acc : Acc) : (s.noteAccess acc).cur = s.cur := by
  unfold State.noteAccess; split <;> simp

theorem State.noteAccess_placeOf (s : State) (acc : Acc) : (s.noteAccess acc).placeOf = s.placeOf := by
  unfold State.noteAccess State.modLaunch
  split
  · split <;> rfl
  · rfl

/-- A store into a scratchpad or an accumulator bank writes memory at once (R118). -/
theorem State.writeRaw_local {s : State} {acc : Acc} (bytes : List Byte) (hr : s.refuses acc = false) {n c o : Nat}
    (hplace : s.placeOf acc.phys = .scratch n c o ∨ s.placeOf acc.phys = .acc n c o) :
    s.writeRaw acc bytes = { s.noteAccess acc with mem := wrMems s.mem acc.phys bytes } := by
  have hp := congrFun (s.noteAccess_placeOf acc) acc.phys
  have hm := s.noteAccess_mem acc
  unfold State.noteAccess at hp hm ⊢
  unfold State.writeRaw
  dsimp only
  rw [if_neg (by simp [hr]), hp, hm]
  rcases hplace with h | h <;> rw [h]

/-- A store through an SO page to HBM or host memory writes memory at once (R282). -/
theorem State.writeRaw_so {s : State} {acc : Acc} (bytes : List Byte) (hr : s.refuses acc = false) (hso : acc.so = true)
    (hplace : (s.placeOf acc.phys).heldKind = true) :
    s.writeRaw acc bytes = { s.noteAccess acc with mem := wrMems s.mem acc.phys bytes } := by
  have hp := congrFun (s.noteAccess_placeOf acc) acc.phys
  have hm := s.noteAccess_mem acc
  unfold State.noteAccess at hp hm ⊢
  unfold State.writeRaw
  dsimp only
  rw [if_neg (by simp [hr]), hp, hm]
  cases h : s.placeOf acc.phys
  case hbm | host => simp [hso]
  all_goals simp [h, Place.heldKind] at hplace

/-- A store to HBM or host memory through a page that is not SO is held for commit (R285). -/
theorem State.writeRaw_held {s : State} {acc : Acc} (bytes : List Byte) (hr : s.refuses acc = false) (hso : acc.so = false)
    (hplace : (s.placeOf acc.phys).heldKind = true) (hroom : s.heldRoom acc.phys = true) :
    s.writeRaw acc bytes = s.holdBytes acc.phys bytes := by
  unfold State.writeRaw
  dsimp only
  rw [if_neg (by simp [hr]), hso, if_neg Bool.false_ne_true]
  cases h : s.placeOf acc.phys
  case hbm | host => simp [hroom]
  all_goals simp [h, Place.heldKind] at hplace

/-- Inbox bytes of a cell whose strands are in lie in its window (R57). -/
theorem State.wrInbox_of_in {s : State} (h : ∀ x ∈ s.others, x.inboxOut = false) (slot cell off : Nat) (bytes : List Byte) :
    s.wrInbox slot cell off bytes = s.inboxWrite s.slotNo s.cur.cell (inboxBase slot cell + off) bytes := by
  unfold State.wrInbox
  dsimp only
  rw [if_neg]
  simp only [List.any_eq_true, not_exists, not_and]
  intro x hx
  simp [h x hx]

/-- A store into the inbox registers of a cell whose strands are in writes their bytes (R57). -/
theorem State.writeRaw_inbox {s : State} {acc : Acc} (bytes : List Byte) (hr : s.refuses acc = false) {n c o : Nat}
    (hplace : s.placeOf acc.phys = .inbox n c o) (hin : ∀ x ∈ s.others, x.inboxOut = false) :
    (s.writeRaw acc bytes).mem = wrMems s.mem (inboxBase n c + o) bytes ∧ (s.writeRaw acc bytes).held = s.held := by
  have hp := congrFun (s.noteAccess_placeOf acc) acc.phys
  have ho : (s.noteAccess acc).others = s.others := by unfold State.noteAccess; split <;> simp
  have heq : s.writeRaw acc bytes = (s.noteAccess acc).wrInbox n c o bytes := by
    unfold State.noteAccess at hp ⊢
    unfold State.writeRaw
    dsimp only
    rw [if_neg (by simp [hr]), hp, hplace]
  rw [heq, State.wrInbox_of_in (ho ▸ hin)]
  exact ⟨congrArg (wrMems · _ bytes) (s.noteAccess_mem acc), s.noteAccess_held acc⟩

/-! ### Held bytes (R285) -/

theorem heldKey_inj {prio : Bool} {v a b : Nat} (h : a ≠ b) : heldKey prio v a ≠ heldKey prio v b := by
  unfold heldKey
  omega

section
variable (bytes : List Byte)

theorem State.holdBytes_mem (s : State) (a : Nat) : (s.holdBytes a bytes).mem = s.mem := by
  induction bytes generalizing s a with
  | nil => rfl
  | cons b r ih => exact ih _ _

theorem State.holdBytes_cur (s : State) (a : Nat) : (s.holdBytes a bytes).cur = s.cur := by
  induction bytes generalizing s a with
  | nil => rfl
  | cons b r ih => exact ih _ _

/-- Holding bytes leaves the held bytes below them alone. -/
theorem State.sget_holdBytes_below (s : State) {a j : Nat} (h : j < a) :
    sget none (s.holdBytes a bytes).held (heldKey s.cur.prio s.cur.vdie j) = sget none s.held (heldKey s.cur.prio s.cur.vdie j) := by
  induction bytes generalizing s a with
  | nil => rfl
  | cons b r ih =>
    refine (ih _ (by omega)).trans ?_
    exact sget_sset_other none s.held (some b) (heldKey_inj (by omega))

/-- The die reads back the bytes that it holds. -/
theorem State.sget_holdBytes (s : State) (a : Nat) {k : Nat} (hk : k < bytes.length) :
    sget none (s.holdBytes a bytes).held (heldKey s.cur.prio s.cur.vdie (a + k)) = some (bytes.getD k 0) := by
  induction bytes generalizing s a k with
  | nil => simp at hk
  | cons b r ih =>
    cases k with
    | zero =>
      refine (State.sget_holdBytes_below r { s with held := sset none s.held (heldKey s.cur.prio s.cur.vdie a) (some b) }
        (a := a + 1) (j := a) (by omega)).trans ?_
      exact sget_sset_same none s.held _ _
    | succ k =>
      have h := ih { s with held := sset none s.held (heldKey s.cur.prio s.cur.vdie a) (some b) } (a + 1) (k := k) (by simpa using hk)
      rw [Nat.add_right_comm, Nat.add_assoc] at h
      exact h

end

/-- What a store that writes memory at once leaves alone: every register, and every byte but its own. -/
theorem State.noteAccess_write_frame (s : State) (p : PendOp) (acc : Acc) (bytes : List Byte) :
    (∀ k, k < bytes.length → rdMem ({ (s.afterPend p).noteAccess acc with mem := wrMems s.mem acc.phys bytes } : State).mem (acc.phys + k)
        = bytes.getD k 0)
      ∧ SameMem (fun a => acc.phys ≤ a ∧ a < acc.phys + bytes.length) s
        { (s.afterPend p).noteAccess acc with mem := wrMems s.mem acc.phys bytes } :=
  ⟨fun _ hk => rdMem_wrMems_in bytes s.mem acc.phys _ hk,
    fun _ ha => rdMem_wrMems_out bytes s.mem acc.phys _ (by omega), (s.afterPend p).noteAccess_held acc⟩

/-- A store through an SO page marks the superstep (R282). -/
theorem State.soWritten_noteAccess {s : State} {acc : Acc} (hso : acc.so = true) {l : Launch} (hl : s.launchOf s.cur.prio = some l) :
    ((s.noteAccess acc).launchD s.cur.prio).soWritten = true := by
  unfold State.noteAccess State.modLaunch
  rw [if_pos hso]
  unfold State.launchOf at hl
  unfold State.launchD State.launchOf
  cases hp : s.cur.prio <;> rw [hp] at hl <;> simp_all

theorem State.setX_cur_asyncs (s : State) (k : Nat) (v : Word) : (s.setX k v).cur.asyncs = s.cur.asyncs := by
  unfold State.setX
  split
  · rfl
  · split <;> rfl

/-- Settles O15: the operation that is due, by its kind and the place of its access. -/
theorem accessCompletion : Obligations.AccessCompletion := by
  unfold Obligations.AccessCompletion
  refine ⟨fun s p h => exec_scalarAccessCompletion h, ⟨?_, ?_, ?_⟩, ?_, ?_, ?_, ?_, ?_⟩
  · intro s p d n sgn bytes ea h ha hn _ _
    obtain ⟨hval, hregs, hmem, hsaved⟩ := s.settled_setX_frame p d (loadValue n sgn bytes)
    rw [exec_scalarAccessCompletion h, performPend_loaded_x ha hn, if_neg Bool.false_ne_true]
    exact ⟨_, rfl, hval, hregs, hmem, .of_saved hsaved⟩
  · intro s p d bytes ea h ha
    have ho := s.onlyPend_settled p
    rw [exec_scalarAccessCompletion h, performPend_loaded_h ha, if_neg Bool.false_ne_true]
    refine ⟨_, rfl, sget_sset_same _ _ _ _, ho.before_regs (SameRegs.setH _ _ _), ho.before_mem ⟨fun _ _ => rfl, rfl⟩,
      .of_saved ho.saved⟩
  · intro s p d n sgn bytes ea h ha hn _ _ he hs
    obtain ⟨hval, hregs, hmem, -⟩ := s.settled_setX_frame p d (loadValue n sgn bytes)
    have hcore := core_busError ea (((s.afterPend p).settle p.seq).setX d (loadValue n sgn bytes))
    have hstatus : (((s.afterPend p).settle p.seq).setX d (loadValue n sgn bytes)).cur.status = s.cur.status := by
      rw [State.setX_cur_status]; rfl
    rw [exec_scalarAccessCompletion h, performPend_loaded_x ha hn, if_pos rfl]
    refine ⟨_, rfl, fun hd => ?_, ?_, hregs.after_core hcore, hmem.after_core hcore⟩
    · rw [← State.getX_core, hcore, State.getX_core]
      exact hval hd
    · rw [busError_asyncs ea (hstatus ▸ he) (hstatus ▸ hs)]
      rw [State.setX_cur_asyncs]
      rfl
  · intro s p acc bytes ea n c o h ha hr hplace
    have ht : s.inTile acc.phys = false := by unfold State.inTile; rcases hplace with h | h <;> rw [h]
    obtain ⟨hbytes, hmem⟩ := s.noteAccess_write_frame p acc bytes
    have e {β : Type} (f : Strand → β) : f ((s.afterPend p).noteAccess acc).cur = f (s.afterPend p).cur :=
      congrArg f ((s.afterPend p).noteAccess_cur acc)
    rw [exec_scalarAccessCompletion h, performPend_store ha hr ht, State.writeRaw_local (s := s.afterPend p) bytes hr hplace]
    exact ⟨_, rfl, hbytes, hmem, e Strand.x, e Strand.p, e Strand.h, e Strand.q,
      .of_saved (e fun c => (c.tvec, c.tpc, c.tcause, c.tval))⟩
  · intro s p acc bytes ea h ha hr hso hplace
    have ht := State.inTile_of_heldKind hplace
    obtain ⟨hbytes, hmem⟩ := s.noteAccess_write_frame p acc bytes
    rw [exec_scalarAccessCompletion h, performPend_store ha hr ht, State.writeRaw_so (s := s.afterPend p) bytes hr hso hplace]
    exact ⟨_, rfl, hbytes, hmem, fun l hl => State.soWritten_noteAccess (s := s.afterPend p) hso hl⟩
  · intro s p acc bytes ea n c o h ha hr hplace hin
    have ht : s.inTile acc.phys = false := by unfold State.inTile; rw [hplace]
    obtain ⟨hmem, hheld⟩ := State.writeRaw_inbox (s := s.afterPend p) bytes hr hplace hin
    rw [exec_scalarAccessCompletion h, performPend_store ha hr ht]
    refine ⟨_, rfl, fun k hk => ?_, fun a ha => ?_, hheld⟩
    · rw [hmem]
      exact rdMem_wrMems_in bytes _ _ k hk
    · rw [hmem]
      exact rdMem_wrMems_out bytes _ _ a (by omega)
  · intro s p acc bytes ea h ha hr hso hplace hroom
    have ht := State.inTile_of_heldKind hplace
    rw [exec_scalarAccessCompletion h, performPend_store ha hr ht,
      State.writeRaw_held (s := s.afterPend p) bytes hr hso hplace hroom]
    refine ⟨_, rfl, State.holdBytes_mem bytes _ _, fun k hk hkind => ?_⟩
    unfold State.rdByte
    rw [if_pos hkind, State.holdBytes_cur, State.sget_holdBytes bytes _ _ hk]
    rfl
  · intro s p acc bytes ea h ha hr he hs
    have ho := s.onlyPend_afterPend p
    have hcore := core_busError ea (s.afterPend p)
    rw [exec_scalarAccessCompletion h, performPend_store_refused ha hr]
    refine ⟨_, rfl, ?_, (ho.before_mem (SameMem.of_core rfl)).after_core hcore, ho.regs.after_core hcore⟩
    rw [busError_asyncs ea (ho.status ▸ he) (ho.status ▸ hs), ho.asyncs]
    rfl

end Sys2Proof.Machine
end

section
/-! PROOFS. What a state stores is in its canonical form: memory, the writes held for commit and the births of tiles (O58), and the
operations on it and on the strands keep it so (R44, R155, R160, R285). -/

namespace Sys2Proof
namespace Machine

-- One proof after another: those that wait for the equations of the model's functions would each hold a thread and its stack.
set_option Elab.async false

/-! ### The invariant -/

/-- `s` stores in canonical form whatever `o` does: memory for itself, held writes and births together. -/
structure State.Keeps (o s : State) : Prop where
  mem : o.MemOk → s.MemOk
  held : swf none o.held = true ∧ swf none o.births = true → swf none s.held = true ∧ swf none s.births = true

theorem State.Keeps.refl (s : State) : s.Keeps s := ⟨id, id⟩

section
variable {o s t : State}

/-- Nothing stored has changed. -/
theorem State.Keeps.same (h : o.Keeps s) (hm : t.mem = s.mem := by rfl) (hh : t.held = s.held := by rfl)
    (hb : t.births = s.births := by rfl) : o.Keeps t :=
  ⟨fun w => by unfold State.MemOk; rw [hm]; exact h.mem w, fun w => by rw [hh, hb]; exact h.held w⟩

/-- Memory has changed, and is in canonical form again. -/
theorem State.Keeps.withMem (h : o.Keeps s) (hm : Memory.wf s.mem = true → Memory.wf t.mem = true)
    (hh : t.held = s.held := by rfl) (hb : t.births = s.births := by rfl) : o.Keeps t :=
  ⟨fun w => hm (h.mem w), fun w => by rw [hh, hb]; exact h.held w⟩

/-- Bytes have been written to memory. -/
theorem State.Keeps.wrote (h : o.Keeps s) (a : Nat) (bytes : List Byte) (hm : t.mem = wrMems s.mem a bytes := by rfl)
    (hh : t.held = s.held := by rfl) (hb : t.births = s.births := by rfl) : o.Keeps t :=
  h.withMem (fun w => by rw [hm]; exact wf_wrMems bytes w a) hh hb

theorem State.Keeps.put (h : o.Keeps s) (a : Nat) (bytes : List Byte) : o.Keeps { s with mem := wrMems s.mem a bytes } :=
  h.wrote a bytes

/-- The held writes have changed, and are in canonical form again. -/
theorem State.Keeps.withHeld (h : o.Keeps s) (hh : swf none s.held = true → swf none t.held = true)
    (hm : t.mem = s.mem := by rfl) (hb : t.births = s.births := by rfl) : o.Keeps t :=
  ⟨fun w => by unfold State.MemOk; rw [hm]; exact h.mem w, fun w => by rw [hb]; exact (h.held w).imp_left hh⟩

/-- The births of tiles have changed, and are in canonical form again. -/
theorem State.Keeps.withBirths (h : o.Keeps s) (hb : swf none s.births = true → swf none t.births = true)
    (hm : t.mem = s.mem := by rfl) (hh : t.held = s.held := by rfl) : o.Keeps t :=
  ⟨fun w => by unfold State.MemOk; rw [hm]; exact h.mem w, fun w => by rw [hh]; exact (h.held w).imp_right hb⟩

theorem State.Keeps.foldl {α : Type} {f : State → α → State} (hf : ∀ t x, o.Keeps t → o.Keeps (f t x)) (h : o.Keeps s) (l : List α) :
    o.Keeps (l.foldl f s) := by
  induction l generalizing s with
  | nil => exact h
  | cons x l ih => exact ih (hf s x h)

/-- The same of a fold that carries the state with something else. -/
theorem State.Keeps.foldl_with {α β : Type} {p : β → State} {f : β → α → β} (hf : ∀ b x, o.Keeps (p b) → o.Keeps (p (f b x))) {b : β}
    (h : o.Keeps (p b)) (l : List α) : o.Keeps (p (l.foldl f b)) := by
  induction l generalizing b with
  | nil => exact h
  | cons x l ih => exact ih (hf b x h)

theorem State.Keeps.ite {c : Prop} [Decidable c] (ht : o.Keeps s) (hf : o.Keeps t) : o.Keeps (if c then s else t) := by
  split
  · exact ht
  · exact hf

/-! ### Dropping entries -/

theorem swf_filter {α : Type} [DecidableEq α] (d : α) (f : Nat × α → Bool) {m : SMap α} (h : swf d m = true) :
    swf d (m.filter f) = true := by
  rw [← List.filterMap_eq_filter]
  refine swfFrom_filterMap d _ (fun e e' he => ?_) m 0 h
  obtain ⟨rfl, -⟩ := Option.guard_eq_some_iff.mp he
  exact ⟨rfl, id⟩

theorem swf_foldl_sset {α β : Type} [DecidableEq α] (d : α) (k : β → Nat) (v : β → α) (l : List β) :
    ∀ {m : SMap α}, swf d m = true → swf d (l.foldl (fun m x => sset d m (k x) (v x)) m) = true := by
  induction l with
  | nil => exact fun h => h
  | cons x l ih => exact fun h => ih (swf_sset d _ _ h)

/-! ### The strands and the launches -/

theorem State.Keeps.modCur (h : o.Keeps s) (f : Strand → Strand) : o.Keeps (s.modCur f) := h.same

theorem State.Keeps.mapStrands (h : o.Keeps s) (f : Strand → Strand) : o.Keeps (s.mapStrands f) := h.same

theorem State.Keeps.modLaunch (h : o.Keeps s) (p : Bool) (f : Launch → Launch) : o.Keeps (s.modLaunch p f) :=
  h.same (by simp) (by simp) (by simp)

theorem State.Keeps.modJob (h : o.Keeps s) (p : Bool) (f : JobRegs → JobRegs) : o.Keeps (s.modJob p f) := by
  unfold State.modJob
  split <;> exact h.same

theorem State.Keeps.setJob (h : o.Keeps s) (p : Bool) (job : Nat) : o.Keeps (s.setJob p job) := by
  have ht := h.modJob p fun r => { r with job := job }
  unfold State.setJob
  exact State.Keeps.ite ht ht.same

theorem State.Keeps.signal (h : o.Keeps s) (old : State) : o.Keeps (State.signal old s) := h.same

theorem State.Keeps.focus (h : o.Keeps s) (f : Strand → Bool) : o.Keeps (s.focus f) := by
  unfold State.focus
  split
  · exact h
  · split
    · exact h.same
    · exact h

theorem State.Keeps.focusWho (h : o.Keeps s) (w : Bool × Nat × Nat) : o.Keeps (s.focusWho w) := h.focus _

theorem State.Keeps.asStrand (h : o.Keeps s) (f : Strand → Bool) {g : State → State} (hg : ∀ t, o.Keeps t → o.Keeps (g t)) :
    o.Keeps (s.asStrand f g) := by
  unfold State.asStrand
  exact State.Keeps.ite (hg _ (h.focus f)) h

theorem State.Keeps.asCell (h : o.Keeps s) (cell : Nat) {g : State → State} (hg : ∀ t, o.Keeps t → o.Keeps (g t)) :
    o.Keeps (s.asCell cell g) := by
  unfold State.asCell
  exact (h.asStrand _ hg).focus _

theorem State.Keeps.toCell (h : o.Keeps s) (cell : Nat) : o.Keeps (s.toCell cell) := by
  unfold State.toCell
  exact h.focus _

/-! ### Registers, flags and late events -/

theorem State.Keeps.setX (h : o.Keeps s) (k : Nat) (v : Word) : o.Keeps (s.setX k v) := by
  unfold State.setX
  split
  · exact h
  · exact State.Keeps.ite (h.modCur _) (h.wrote _ _)

theorem State.Keeps.setP (h : o.Keeps s) (k : Nat) (v : Bool) : o.Keeps (s.setP k v) := State.Keeps.ite h (h.modCur _)

theorem State.Keeps.setH (h : o.Keeps s) (k : Nat) (v : HRec) : o.Keeps (s.setH k v) := h.modCur _

theorem State.Keeps.setQ (h : o.Keeps s) (k : Nat) (v : Port) : o.Keeps (s.setQ k v) := h.modCur _

theorem State.Keeps.orExp (h : o.Keeps s) (f : BitVec 2) : o.Keeps (s.orExp f) := h.modCur _

theorem State.Keeps.markDie (h : o.Keeps s) (p : Bool) (e : Late) : o.Keeps (s.markDie p e) := h.modLaunch _ _

theorem State.Keeps.fault (h : o.Keeps s) (c : Nat) (d : Word) : o.Keeps (s.fault c d) := h.markDie _ _

theorem State.Keeps.late (h : o.Keeps s) (c : Nat) (d : Word) : o.Keeps (s.late c d) := State.Keeps.ite (h.fault c d) h

theorem State.Keeps.lateIssue (h : o.Keeps s) : o.Keeps s.lateIssue := h.late _ _

theorem State.Keeps.setXs (h : o.Keeps s) (l : List (Nat × Word)) : o.Keeps (s.setXs l) := h.foldl (fun _ r ht => ht.setX r.1 r.2) l

/-! ### Traps -/

theorem State.Keeps.enterTrap (h : o.Keeps s) (t : TrapRec) : o.Keeps (enterTrap t s) := h.modCur _

theorem State.Keeps.stopStrand (h : o.Keeps s) (t : TrapRec) : o.Keeps (stopStrand t s) :=
  ((State.Keeps.ite h.same h).fault _ _).modCur _

theorem State.Keeps.takeTrap (h : o.Keeps s) (t : TrapRec) : o.Keeps (takeTrap t s) := by
  have hl := h.late t.code (s.trapDetail t)
  unfold Machine.takeTrap
  exact State.Keeps.ite (hl.stopStrand t) (State.Keeps.ite (hl.enterTrap t) (hl.modCur _))

theorem State.Keeps.raiseAsync (h : o.Keeps s) (t : TrapRec) : o.Keeps (raiseAsync t s) := by
  have hl := h.late t.code (s.trapDetail t)
  unfold Machine.raiseAsync
  exact State.Keeps.ite hl (State.Keeps.ite (hl.stopStrand t) (hl.modCur _))

theorem State.Keeps.busError (h : o.Keeps s) (ea : Word) : o.Keeps (busError ea s) := h.raiseAsync _

theorem State.Keeps.precise (h : o.Keeps s) (c : Nat) (v : Word) : o.Keeps (s.precise c v) := h.takeTrap _

/-! ### Where a strand goes on -/

theorem State.Keeps.fetchAt (h : o.Keeps s) (pc : Word) : o.Keeps (s.fetchAt pc) := State.Keeps.ite h (h.modCur _)

theorem State.Keeps.startFetch (h : o.Keeps s) : o.Keeps s.startFetch := h.fetchAt _

theorem State.Keeps.goTo (h : o.Keeps s) (k : Nat) (pc : Word) (l : List LoopEnt) : o.Keeps (s.goTo k pc l) :=
  (h.modCur _).startFetch

theorem State.Keeps.advance (h : o.Keeps s) (k : Nat) : o.Keeps (s.advance k) := h.same (by simp) (by simp) (by simp)

theorem State.Keeps.transfer (h : o.Keeps s) (k : Nat) (pc : Word) : o.Keeps (s.transfer k pc) := h.goTo _ _ _

theorem State.Keeps.holdTick (h : o.Keeps s) : o.Keeps s.holdTick := h.lateIssue.modCur _

theorem State.Keeps.stall (h : o.Keeps s) : o.Keeps s.stall := State.Keeps.ite h.holdTick (h.modCur _)

theorem State.Keeps.lateWait (h : o.Keeps s) : o.Keeps s.lateWait := State.Keeps.ite h.lateIssue h

theorem State.Keeps.awaitBlock (h : o.Keeps s) : o.Keeps s.awaitBlock := State.Keeps.ite (h.modCur _) h.holdTick

theorem State.Keeps.squash (h : o.Keeps s) (i : Instr) : o.Keeps (s.squash i) := State.Keeps.ite (h.modCur _) h

/-! ### Outstanding operations -/

theorem State.Keeps.pendOp (h : o.Keeps s) (due : Nat) (act : PendAct) (sr sw so acq : Bool) (port sem : Option Nat) (rel uo : Bool) :
    o.Keeps (s.pendOp due act sr sw so acq port sem rel uo) := h.modCur _

theorem State.Keeps.setBusys {α : Type} (h : o.Keeps s) (l : List α) (r : α → Nat) (a b : Option Nat) :
    o.Keeps (l.foldl (fun t x => t.setBusy (r x) a b) s) := h.foldl (fun _ _ ht => ht.modCur _) l

end
end Machine
end Sys2Proof
end

section
/-! PROOFS. Words keep memory, held writes and births in their canonical forms when they issue (O58). -/

namespace Sys2Proof
namespace Machine

-- One proof after another: those that wait for the equations of the model's functions would each hold a thread and its stack.
set_option Elab.async false

/-- What is stored in the state that an effect leads to is in canonical form where it is in `o`. -/
def Eff.Keeps (o : State) : Eff → Prop
  | .done s => o.Keeps s
  | .jump s _ => o.Keeps s
  | .trap _ _ => True
  | .hold s => o.Keeps s
  | .raw s => o.Keeps s

/-- What is stored in the next state, if there is one, is in canonical form where it is in `o`. -/
def State.Leads (o : State) (r : Host.Outcome State Fault Refusal) : Prop := ∀ t, r = .next t → o.Keeps t

theorem State.Keeps.next {o s : State} (h : o.Keeps s) : o.Leads (.next s) := by
  rintro t ⟨⟩
  exact h

theorem State.leads_fault (o : State) (e : Fault) : o.Leads (.fault e) := by
  rintro t ⟨⟩

section
variable {o s : State}

theorem State.Keeps.begun (h : o.Keeps s) : o.Keeps s.begun := h.same

theorem State.Keeps.started (h : o.Keeps s) : o.Keeps s.started := by
  unfold State.started
  split
  · exact State.Keeps.ite h.begun.lateIssue h.begun
  · exact h.begun

theorem State.Keeps.finish (h : o.Keeps s) {e : Eff} (he : e.Keeps o) (i : Instr) : o.Keeps (finish i s e) := by
  cases e with
  | done t => exact State.Keeps.advance he _
  | jump t a => exact State.Keeps.transfer he _ a
  | trap c v => exact h.precise c v
  | hold t => exact State.Keeps.stall he
  | raw t => exact he

/-- Whatever comes of issuing a word keeps what is stored in canonical form when the word's own effect does. -/
theorem State.Keeps.issue (h : o.Keeps s) {i : Instr} {u : Use} {eff : State → Eff} (he : ∀ t, o.Keeps t → (eff t).Keeps o) :
    o.Leads (issue i u s eff) := by
  intro t ht
  obtain ⟨-, ⟨-, rfl⟩ | ⟨-, -, rfl⟩ | ⟨tk, -, -, rfl⟩ | rfl | ⟨-, rfl⟩ | ⟨-, rfl⟩⟩ := issue_cases ht
  · exact h.begun.precise _ _
  · exact h.begun.precise _ _
  · exact h.begun.modCur _
  · exact h.started.stall
  · exact (h.started.squash i).advance _
  · exact h.started.finish (he _ h.started) i

/-! ### Words that write scalar registers and predicates -/

theorem State.Keeps.alu3 (h : o.Keeps s) (i : Instr) (d a b : BitVec 6) (f : Word → Word → Word) : o.Leads (alu3 i d a b f s) :=
  h.issue fun _ ht => ht.setX _ _

theorem State.Keeps.alu2 (h : o.Keeps s) (i : Instr) (d a : BitVec 6) (f : Word → Word) : o.Leads (alu2 i d a f s) :=
  h.issue fun _ ht => ht.setX _ _

theorem State.Keeps.cmpTo (h : o.Keeps s) (i : Instr) (d a b : BitVec 6) (f : Word → Word → Bool) : o.Leads (cmpTo i d a b f s) :=
  h.issue fun _ ht => ht.setP _ _

theorem State.Keeps.predTo (h : o.Keeps s) (i : Instr) (d a b : BitVec 6) (f : Bool → Bool → Bool) : o.Leads (predTo i d a b f s) :=
  h.issue fun _ ht => ht.setP _ _

theorem State.Keeps.mulDiv (h : o.Keeps s) (i : Instr) (lat : Nat) (a b : BitVec 6) (f : Word → Word → List (Nat × Word)) :
    o.Leads (mulDiv i lat a b f s) :=
  h.issue fun _ ht => (ht.setBusys _ Prod.fst _ _).pendOp _ _ _ _ _ _ _ _ _ _

theorem State.Keeps.csrWord (h : o.Keeps s) (i : Instr) (op : CsrOp) (d a : BitVec 6) (csr : BitVec 12) :
    o.Leads (csrWord i op d a csr s) :=
  h.issue fun _ ht => (ht.modCur _).setX _ _

/-! ### Transfers of control -/

theorem State.Keeps.branch (h : o.Keeps s) (i : Instr) (a b : BitVec 6) (off : BitVec 18) (f : Word → Word → Bool) :
    o.Leads (branch i a b off f s) :=
  h.issue fun t ht => by
    split <;> exact ht

theorem State.Keeps.jumpReg (h : o.Keeps s) (i : Instr) (d a : Nat) (imm : BitVec 20) : o.Leads (jumpReg i d a imm s) :=
  h.issue fun t ht => by
    dsimp only
    split
    · exact ht.setX _ _
    · trivial

theorem State.Keeps.joinPrefix (h : o.Keeps s) (w : BitVec 48) (ok : Bool) (at_ : Option (BitVec 28)) (rpt : Option RptPfx) :
    o.Keeps (s.joinPrefix w ok at_ rpt) := h.modCur _

theorem State.Keeps.joinWord (h : o.Keeps s) (w : BitVec 48) : o.Keeps (s.joinWord w) := by
  unfold State.joinWord
  split
  · exact h.joinPrefix _ _ _ _
  · exact h.joinPrefix _ _ _ _
  · exact State.Keeps.ite (h.joinPrefix _ _ _ _) (h.joinPrefix _ _ _ _)

theorem State.Keeps.addPrefix (h : o.Keeps s) (w : BitVec 48) (ok : Bool) (at_ : Option (BitVec 28)) (rpt : Option RptPfx) :
    o.Keeps (s.addPrefix w ok at_ rpt) := (h.joinPrefix _ _ _ _).startFetch

theorem State.Keeps.prefixWord {f : State → State} (hf : o.Keeps (f s)) : o.Leads (prefixWord s f) := by
  unfold Machine.prefixWord
  split
  · exact hf.next
  · exact o.leads_fault _

theorem State.Keeps.passOver (h : o.Keeps s) (n : Nat) : o.Keeps (passOver n s).1 := by
  induction n generalizing s with
  | zero => exact h
  | succ n ih =>
    have next : ∀ {c : Prop} [Decidable c] {t : State}, o.Keeps t → o.Keeps (if c then Machine.passOver n t else (t, false)).1 := by
      intro c _ t ht
      split
      · exact ih ht
      · exact ht
    unfold Machine.passOver
    split
    · exact h.precise _ _
    · split
      · exact ih (h.joinWord _)
      · split
        · exact h.precise _ _
        · split
          · exact next ((h.squash _).modCur _)
          · exact next (h.modCur _)
    · exact h.precise _ _

theorem State.Keeps.skipBody (h : o.Keeps s) (n k : Nat) : o.Keeps (s.skipBody n k) := by
  unfold State.skipBody
  dsimp only
  split
  · split
    · exact (h.modCur _).passOver n
    · exact (State.Keeps.passOver (h.modCur _) n).startFetch
  · exact (h.modCur _).startFetch

theorem State.Keeps.execLoop (h : o.Keeps s) (g : Ctl) (n a : BitVec 6) : o.Leads (execLoop g n a s) :=
  h.issue fun t ht => by
    dsimp only
    split
    · exact ht.skipBody _ _
    · split
      · trivial
      · split
        · trivial
        · exact ht.goTo _ _ _

/-! ### Memory words and atomics -/

theorem State.Keeps.startLoad (h : o.Keeps s) (acc : Acc) (n : Nat) (dst : LoadDst) (acq : Bool) (ea : Word) (port sem : Option Nat) :
    o.Keeps (s.startLoad acc n dst acq ea port sem) := by
  unfold State.startLoad
  exact State.Keeps.ite (h.pendOp _ _ _ _ _ _ _ _ _ _) (h.pendOp _ _ _ _ _ _ _ _ _ _)

theorem State.Keeps.loadWord (h : o.Keeps s) (i : Instr) (reads : List Nat) (reg : Nat) (dst : LoadDst) (n : Nat) (acq : Bool)
    (ea : State → Word) : o.Leads (loadWord i reads reg dst n acq ea s) :=
  h.issue fun t ht => by
    dsimp only
    split
    · trivial
    · split
      · exact ht
      · exact State.Keeps.startLoad (ht.modCur _) _ _ _ _ _ _ _

theorem State.Keeps.storeWord (h : o.Keeps s) (i : Instr) (reads : List Nat) (need : Need) (n : Nat) (rel : Bool) (ea : State → Word)
    (bytes : State → List Byte) {sample : State → State} (hs : ∀ t, o.Keeps t → o.Keeps (sample t)) :
    o.Leads (storeWord i reads need n rel ea bytes s sample) :=
  h.issue fun t ht => by
    dsimp only
    split
    · trivial
    · split
      · exact ht
      · exact (hs t ht).pendOp _ _ _ _ _ _ _ _ _ _

theorem State.Keeps.sendAtom (h : o.Keeps s) (f : AtomForm) (ea : Word) (acc : Acc) : o.Keeps (s.sendAtom f ea acc) := by
  have ht : o.Keeps (if f.takes then s.setBusy f.d.toNat (some (s.z0 + s.scalarBound acc.phys)) none else s) :=
    State.Keeps.ite (h.modCur _) h
  unfold State.sendAtom
  exact State.Keeps.ite (ht.pendOp _ _ _ _ _ _ _ _ _ _) (ht.same.pendOp _ _ _ _ _ _ _ _ _ _)

theorem State.Keeps.atomWord (h : o.Keeps s) (i : Instr) (f : AtomForm) : o.Leads (atomWord i f s) :=
  h.issue fun t ht => by
    dsimp only
    split
    · trivial
    · split
      · trivial
      · split
        · exact ht
        · exact ht.sendAtom _ _ _

theorem State.Keeps.meetAt (h : o.Keeps s) (i : Instr) (tick : BitVec 24) (mark : Bool) : o.Leads (meetAt i tick mark s) :=
  h.issue fun _ ht => (State.Keeps.advance (ht.modCur _) 0).modCur _

theorem State.Keeps.railUpdate (h : o.Keeps s) (slot cl : Nat) : o.Keeps (s.railUpdate slot cl) := by
  unfold State.railUpdate
  exact State.Keeps.ite (State.Keeps.ite h h.same) h.same

theorem State.Keeps.railClear (h : o.Keeps s) : o.Keeps s.railClear := (h.modCur _).railUpdate _ _

/-! ### Semaphores, ports and queues -/

theorem State.Keeps.setSem (h : o.Keeps s) (slot n v : Nat) : o.Keeps (s.setSem slot n v) := h.wrote _ _

theorem State.Keeps.takeSem (h : o.Keeps s) {slot n : Nat} {t : State} (ht : s.takeSem slot n = some t) : o.Keeps t := by
  unfold State.takeSem at ht
  split at ht
  · cases ht
    exact h.setSem _ _ _
  · cases ht

theorem State.Keeps.awaitSeq (h : o.Keeps s) {sw : Option Nat} {t : State} (ht : s.awaitSeq sw = some t) : o.Keeps t := by
  cases sw with
  | none => cases ht; exact h
  | some n => exact h.takeSem ht

theorem State.Keeps.raiseAt (h : o.Keeps s) (sr : Option Nat) (due n : Nat) : o.Keeps (s.raiseAt sr due n) := by
  cases sr with
  | none => exact h
  | some k => exact h.pendOp _ _ _ _ _ _ _ _ _ _

theorem State.Keeps.semWord (h : o.Keeps s) (i : Instr) (c : TCtl) (u : Use) {act : State → Option Nat → State}
    (ha : ∀ t r, o.Keeps t → o.Keeps (act t r)) : o.Leads (semWord i c u s act) :=
  h.issue fun t ht => by
    split
    · trivial
    · split
      · exact ht.modCur _
      next hw => exact ha _ _ (ht.awaitSeq hw)

theorem State.Keeps.portWord (h : o.Keeps s) (i : Instr) (c : TCtl) (d : BitVec 4) (handle : Option Nat) (sr sw : Bool)
    (so : State → Bool) (check : State → Option (Nat × Word)) {act : State → Option Nat → Eff}
    (ha : ∀ t r, o.Keeps t → (act t r).Keeps o) : o.Leads (portWord i c d handle sr sw so check act s) :=
  h.issue fun t ht => by
    dsimp only
    split
    · trivial
    · split
      · trivial
      · split
        · split
          · trivial
          · split <;> trivial
        · split
          · trivial
          · split
            · exact ht
            · split
              · exact ht.modCur _
              next hw => exact ha _ _ (ht.awaitSeq hw)

theorem State.Keeps.enqueueWord (h : o.Keeps s) (w : QWord) (dests : List Nat) : o.Keeps (s.enqueueWord w dests) := by
  unfold State.enqueueWord
  exact (h.setBusys dests id none none).modCur _

theorem State.Keeps.enqueue (h : o.Keeps s) (i : Instr) (c : TCtl) (e : EngSpec) (hp : ∀ t, o.Keeps t → o.Keeps (e.post t)) :
    o.Leads (enqueue i c e s) :=
  h.issue fun t ht => by
    split
    · trivial
    · exact hp _ (ht.enqueueWord _ _)

end
end Machine
end Sys2Proof
end

section
/-! PROOFS. Writes keep memory, held writes and births in their canonical forms: sessions on tiles, accesses, atomics, and the
completions of what a strand has outstanding (O58; R44, R155, R160, R285). -/

namespace Sys2Proof
namespace Machine

-- One proof after another: those that wait for the equations of the model's functions would each hold a thread and its stack.
set_option Elab.async false

section
variable {o s : State}

/-! ### Sessions on fleeting tiles -/

theorem State.Keeps.noteBusy (h : o.Keeps s) (key last : Nat) : o.Keeps (s.noteBusy key last) := h.same

theorem State.Keeps.tagTile (h : o.Keeps s) (key : Nat) : o.Keeps (s.tagTile key) := h.same

theorem State.Keeps.charge (h : o.Keeps s) (l : List Writer) : o.Keeps (s.charge l) := State.Keeps.ite h (h.mapStrands _)

theorem State.Keeps.refund (h : o.Keeps s) (l : List Writer) : o.Keeps (s.refund l) := State.Keeps.ite h (h.mapStrands _)

theorem State.Keeps.settleStores (h : o.Keeps s) (x : OpenSess) : o.Keeps (s.settleStores x) := State.Keeps.ite h (h.mapStrands _)

/-- The birth of a tile is written anew (R160). -/
theorem State.Keeps.bear (h : o.Keeps s) (key : Nat) (b : Option Int) : o.Keeps { s with births := sset none s.births key b } :=
  h.withBirths (swf_sset none key b)

/-- A tile that expires at the end of a session is cleared where nothing was written (R160). -/
theorem State.Keeps.endSession (h : o.Keeps s) (x : OpenSess) : o.Keeps (s.endSession x) := by
  have hm : o.Keeps ((if s.liveAt x.key x.last then s else { s with
      mem := clearUnwritten s.mem (tileBase (x.key / 2 ^ 20) + x.key % 2 ^ 20 * 4096) x.mask }).settleStores x) :=
    (State.Keeps.ite h (h.withMem fun w => wf_clearUnwritten w _ _)).settleStores x
  have hb := hm.bear x.key (some (x.last : Int))
  unfold State.endSession
  exact State.Keeps.ite hb.same (hb.same.noteBusy _ _)

theorem State.Keeps.rejoin (h : o.Keeps s) (w : Option Writer) (key : Nat) : o.Keeps (s.rejoin w key).1 := by
  unfold State.rejoin
  split
  · exact h
  · exact (State.Keeps.ite h (h.refund _)).same

theorem State.Keeps.sessWrite (h : o.Keeps s) (w : Writer) (key : Nat) (mask : BitVec 8192) : o.Keeps (s.sessWrite w key mask) := by
  unfold State.sessWrite
  dsimp only
  split
  · exact (h.tagTile key).same
  · exact ((h.tagTile key).rejoin _ key).same

theorem State.Keeps.sessLeave (h : o.Keeps s) (w : Writer) (key : Nat) : o.Keeps (s.sessLeave w key).1 := by
  unfold State.sessLeave
  split
  · exact h
  · dsimp only
    split
    · split
      · exact h.same.endSession _
      · exact (h.same.endSession _).charge _
    · exact h.same

theorem State.Keeps.sessOwn (h : o.Keeps s) (key : Nat) (mask : BitVec 8192) (w : Option Writer) : o.Keeps (s.sessOwn key mask w) := by
  unfold State.sessOwn
  dsimp only
  split
  · exact (h.tagTile key).same
  · have he := ((h.tagTile key).rejoin none key).endSession
    exact State.Keeps.ite (he _) ((he _).charge _)

/-! ### Accesses -/

theorem State.Keeps.holdBytes (h : o.Keeps s) (a : Nat) (bytes : List Byte) : o.Keeps (s.holdBytes a bytes) := by
  induction bytes generalizing s a with
  | nil => exact h
  | cons b bytes ih => exact ih (h.withHeld (swf_sset none _ _)) (a + 1)

theorem State.Keeps.inboxWrite (h : o.Keeps s) (slot cell a : Nat) (bytes : List Byte) : o.Keeps (s.inboxWrite slot cell a bytes) :=
  h.wrote a bytes

theorem State.Keeps.wrInbox (h : o.Keeps s) (slot cell off : Nat) (bytes : List Byte) : o.Keeps (s.wrInbox slot cell off bytes) := by
  unfold State.wrInbox
  exact State.Keeps.ite h.same (h.inboxWrite _ _ _ _)

theorem State.Keeps.noteSo (h : o.Keeps s) (prio so : Bool) : o.Keeps (s.noteSo prio so) := State.Keeps.ite (h.modLaunch _ _) h

theorem State.Keeps.writeRaw (h : o.Keeps s) (acc : Acc) (bytes : List Byte) : o.Keeps (s.writeRaw acc bytes) := by
  unfold State.writeRaw
  have hs := h.noteSo s.cur.prio acc.so
  unfold State.noteSo at hs
  split
  · exact h
  · dsimp only
    split
    · exact State.Keeps.ite (hs.wrote _ _) (State.Keeps.ite (hs.holdBytes _ _) (hs.markDie _ _))
    · exact State.Keeps.ite (hs.wrote _ _) (State.Keeps.ite (hs.holdBytes _ _) (hs.markDie _ _))
    · exact hs.wrInbox _ _ _ _
    · exact State.Keeps.ite (hs.wrote _ _) hs
    · exact hs
    · exact hs.wrote _ _

theorem State.Keeps.writeOwn (h : o.Keeps s) (acc : Acc) (bytes : List Byte) (w : Option Writer) : o.Keeps (s.writeOwn acc bytes w) := by
  have hr := h.writeRaw acc bytes
  unfold State.writeOwn
  dsimp only
  split
  · exact State.Keeps.ite hr (hr.sessOwn _ _ _)
  · exact hr

/-! ### Completions of a strand's operations -/

theorem State.Keeps.rePend (h : o.Keeps s) (seq : Nat) (l : List PendOp) : o.Keeps (s.rePend seq l) := h.modCur _

theorem State.Keeps.settle (h : o.Keeps s) (seq : Nat) : o.Keeps (s.settle seq) := h.modCur _

theorem State.Keeps.raiseNow (h : o.Keeps s) (sem n : Nat) (init : Bool) : o.Keeps (s.raiseNow sem n init) := h.same

theorem State.Keeps.settleFlags (h : o.Keeps s) (f : BitVec 8) (addr : Word) : o.Keeps (s.settleFlags f addr) :=
  State.Keeps.ite (State.Keeps.raiseAsync (h.modCur _) _) (h.modCur _)

theorem State.Keeps.deliver (h : o.Keeps s) (dst : LoadDst) (bytes : List Byte) : o.Keeps (s.deliver dst bytes) := by
  cases dst with
  | x d n signed => exact h.setX _ _
  | h d => exact h.setH d _
  | port q w => exact h

theorem State.Keeps.endPrest (h : o.Keeps s) (q : Nat) (word : BitVec 48) (bytes : List Byte) : o.Keeps (s.endPrest q word bytes) := by
  have hr := h.modCur fun c => { c with status := .running }
  unfold State.endPrest
  dsimp only
  split
  · refine State.Keeps.modCur ?_ _
    split
    · exact (((hr.setQ q _).advance 0).modCur _).lateIssue
    · exact ((hr.setQ q _).advance 0).modCur _
  · exact hr.precise _ _

theorem State.Keeps.performPend (h : o.Keeps s) (p : PendOp) : o.Keeps (performPend p s) := by
  have hr := h.rePend p.seq (leftover p s.z0)
  unfold Machine.performPend
  dsimp only
  split
  · exact (hr.setXs _).settle _
  · exact (hr.setP _ _).settle _
  · exact (hr.setP _ _).settle _
  · exact (State.Keeps.ite ((State.Keeps.ite h.lateIssue h).orExp 1) (State.Keeps.ite h.lateIssue h)).rePend _ _
  · rename_i dst bytes bus ea _
    cases dst with
    | x d n signed =>
      have ht := (hr.settle p.seq).deliver (.x d n signed) bytes
      exact State.Keeps.ite (ht.busError ea) ht
    | h d =>
      have ht := (hr.settle p.seq).deliver (.h d) bytes
      exact State.Keeps.ite (ht.busError ea) ht
    | port q w =>
      have ht := ((State.Keeps.ite (c := (imagePort bytes).isSome) hr (h.rePend p.seq [])).settle p.seq).endPrest q w bytes
      exact State.Keeps.ite (ht.busError ea) ht
  · split
    · exact hr.busError _
    · exact State.Keeps.ite (((State.Keeps.ite h.lateIssue h).rePend _ _).writeOwn _ _ _) (hr.writeOwn _ _ _)
  · exact hr.raiseNow _ _ _
  · exact hr.raiseNow _ _ _
  · exact ((hr.setXs _).settle _).settleFlags _ _
  · exact hr.modCur _
  · exact hr
  · exact h

theorem State.Keeps.tileOps (h : o.Keeps s) (sel : PendAct → Bool) (n : Nat) : o.Keeps (State.tileOps sel n s) := by
  induction n generalizing s with
  | zero => exact h
  | succ n ih =>
    unfold State.tileOps
    split
    · exact ih (h.performPend _)
    · exact h

theorem State.Keeps.tileScalars (h : o.Keeps s) (t : TileTurn) (l : List Strand) : o.Keeps (s.tileScalars t l) :=
  h.foldl (fun _ _ hs => State.Keeps.ite hs ((hs.focusWho _).tileOps _ _)) l

/-! ### Atomics -/

theorem State.Keeps.applyAtom (h : o.Keeps s) (a : Atom) : o.Keeps (applyAtom a s) := by
  unfold Machine.applyAtom
  exact ((h.put _ _).noteSo _ _).asStrand _ fun _ ht => (State.Keeps.ite ht.lateIssue ht).modCur _

theorem State.Keeps.applyAtoms (h : o.Keeps s) (l : List Atom) (done : List (Nat × Nat)) (kept : List Atom) :
    o.Keeps (applyAtoms l done kept s) := by
  induction l generalizing s done kept with
  | nil => exact h
  | cons a l ih =>
    unfold Machine.applyAtoms
    exact State.Keeps.ite (ih h.same _ _) (ih (h.applyAtom a) _ _)

end
end Machine
end Sys2Proof
end

section
/-! PROOFS. The steps of engine words: what they leave of the state alone, and that what is stored stays in its canonical form where
they write (O58; R44, R155, R160). -/

namespace Sys2Proof
namespace Machine

-- One proof after another: those that wait for the equations of the model's functions would each hold a thread and its stack.
set_option Elab.async false

/-! ### Steps that leave the state alone -/

theorem Run.foldl_s {α : Type} {f : Run → α → Run} (hf : ∀ r x, (f r x).s = r.s) (r : Run) (l : List α) : (l.foldl f r).s = r.s := by
  induction l generalizing r with
  | nil => rfl
  | cons x l ih => exact (ih _).trans (hf r x)

@[simp] theorem Run.ends_s (r : Run) (t : Nat) : (r.ends t).s = r.s := rfl

@[simp] theorem Run.pushAt_s (r : Run) (q t : Nat) (data : List (Byte × Nat)) : (r.pushAt q t data).s = r.s := rfl

@[simp] theorem Run.popped_s (r : Run) (q : Nat) (bytes : List Byte) : (r.popped q bytes).1.s = r.s := by
  unfold Run.popped
  dsimp only
  split <;> rfl

@[simp] theorem Run.takeLanes_s (r : Run) (qs : List Nat) (got : List (List Byte)) : (r.takeLanes qs got).1.s = r.s := by
  unfold Run.takeLanes
  generalize List.zip qs got = l
  suffices h : ∀ (l : List (Nat × List Byte)) (acc : Run × List (Nat × List (Option Lane))),
      (l.foldl (fun acc e => let x := acc.1.popped e.1 e.2; (x.1, acc.2 ++ [(e.1, x.2)])) acc).1.s = acc.1.s from h l _
  intro l
  induction l with
  | nil => exact fun _ => rfl
  | cons e l ih => exact fun acc => (ih _).trans (acc.1.popped_s e.1 e.2)

theorem stepTake_s (src : List Nat) (qd occ delay : Nat) (emit : Emit) (r : Run) (got : List (List Byte)) :
    (stepTake src qd occ delay emit r got).s = r.s := by
  unfold stepTake
  dsimp only
  split
  · simp
  · simp only [Run.pushesNext_s, Run.goOn_s, Run.ite_accepts_s]
    refine (Run.foldl_s ?_ _ _).trans (r.takeLanes_s _ _)
    exact fun _ _ => Run.push_s _ _ _ _ _

theorem blockTake_s (qa qd : Nat) (vec : List (Option Lane) → List (Byte × Nat) × BitVec 8) (r : Run) (got : List (List Byte)) :
    (blockTake qa qd vec r got).s = r.s := by
  unfold blockTake
  dsimp only
  split <;> simp only [Run.pushesNext_s, Run.goOn_s, Run.at_s, Run.count_s, Run.ite_accepts_s]
  all_goals
    refine (Run.foldl_s ?_ _ _).trans (r.takeLanes_s _ _)
    exact fun _ _ => Run.push_s _ _ _ _ _

theorem redTake_s (k : Red) (qa qd fa : Nat) (r : Run) (got : List (List Byte)) : (redTake k qa qd fa r got).s = r.s := by
  unfold redTake
  dsimp only
  split
  · simp
  · simp only [Run.pushesNext_s, Run.goOn_s, Run.accepts_s, Run.count_s, apply_ite Run.s, Run.push_s, Run.flag_s, ite_self,
      Run.takeLanes_s]

theorem redxTake_s (k : Red) (qa fa : Nat) (r : Run) (got : List (List Byte)) : (redxTake k qa fa r got).s = r.s := by
  unfold redxTake
  dsimp only
  split <;> simp

theorem scanTake_s (k : Red) (qa qd fa : Nat) (r : Run) (got : List (List Byte)) : (scanTake k qa qd fa r got).s = r.s := by
  unfold scanTake
  dsimp only
  split <;> simp only [Run.pushesNext_s, Run.goOn_s, Run.at_s, Run.count_s, Run.ite_accepts_s, Run.push_s, Run.takeLanes_s]

theorem topPush_s (q t : Nat) (vals : List Nat) (r : Run) : (topPush q t vals r).s = r.s := by
  unfold topPush
  refine Run.foldl_s ?_ _ _
  exact fun _ _ => Run.push_s _ _ _ _ _

theorem topTake_s (qa qd qb k : Nat) (g : FFmt) (r : Run) (got : List (List Byte)) : (topTake qa qd qb k g r got).s = r.s := by
  unfold topTake
  dsimp only
  split
  · simp
  · simp only [Run.pushesNext_s, Run.goOn_s, Run.ite_accepts_s, topPush_s, Run.takeLanes_s]

theorem fillTake_s (qd delay : Nat) (val : Nat → Nat → Nat) (r : Run) : (fillTake qd delay val r).s = r.s := by
  unfold fillTake
  simp only [Run.pushesNext_s, Run.goOn_s, Run.push_s]

/-- A step of a vector word only counts, reads and plans writes. -/
theorem VForm.take_s (f : VForm) (r : Run) (got : List (List Byte)) : (f.take r got).s = r.s := by
  unfold VForm.take
  dsimp only
  split
  · exact blockTake_s _ _ _ _ _
  · exact blockTake_s _ _ _ _ _
  · exact redTake_s _ _ _ _ _ _
  · exact redxTake_s _ _ _ _ _
  · exact scanTake_s _ _ _ _ _ _
  · split
    · exact topTake_s _ _ _ _ _ _ _
    · rfl
  · exact fillTake_s _ _ _ _
  · exact fillTake_s _ _ _ _
  · exact fillTake_s _ _ _ _
  · exact fillTake_s _ _ _ _
  · simp
  · exact stepTake_s _ _ _ _ _ _ _

@[simp] theorem Run.outElems_s (r : Run) (h : HRec) (i t : Nat) (nibs : List Nat) : (r.outElems h i t nibs).s = r.s := by
  unfold Run.outElems
  dsimp only
  split <;> rfl

@[simp] theorem Run.outSpan_s (h : HRec) (t n : Nat) (r : Run) (i : Nat) (nibs : List Nat) : (Run.outSpan h t n r i nibs).s = r.s := by
  induction n generalizing r i nibs with
  | zero => rfl
  | succ n ih =>
    unfold Run.outSpan
    split
    · rfl
    · exact (ih _ _ _).trans (r.outElems_s _ _ _ _)

@[simp] theorem Run.gatherNext_s (r : Run) (op : GatherOp) (q : Nat) : (r.gatherNext op q).s = r.s := by
  unfold Run.gatherNext
  dsimp only
  split
  · rfl
  · split <;> rfl

theorem gatherTake_s (op : GatherOp) (q : Nat) (r : Run) (got : List (List Byte)) : (gatherTake op q r got).s = r.s := by
  unfold gatherTake
  dsimp only
  split
  · split
    · simp
    · simp
  · simp only [Run.gatherNext_s, Run.at_s, Run.count_s]
    split
    · cases op <;> simp
    · cases op <;> simp

@[simp] theorem Run.takeRow_s (r : Run) (ports : List Nat) (j i : Nat) (got : List (List Byte)) : (r.takeRow ports j i got).s = r.s := by
  unfold Run.takeRow
  refine Run.foldl_s ?_ _ _
  exact fun r e => r.popped_s e.1 e.2

/-! ### Reads -/

@[simp] theorem Run.readPiece_s (r : Run) (p : Piece) : (r.readPiece p).1.s = r.s := by
  unfold Run.readPiece
  dsimp only
  split
  · rfl
  · split
    · split <;> rfl
    · rfl

@[simp] theorem Run.readPieces_s (r : Run) (tiles : Bool) : (r.readPieces tiles).s = r.s := by
  unfold Run.readPieces
  generalize r.w.pieces = l
  suffices h : ∀ (l : List Piece) (f : Run × List Piece → Piece → Run × List Piece) (_ : ∀ acc p, (f acc p).1.s = acc.1.s)
      (acc : Run × List Piece), (l.foldl f acc).1.s = acc.1.s by
    refine h l _ (fun acc p => ?_) (r, [])
    dsimp only
    split
    · rfl
    · exact acc.1.readPiece_s p
  intro l f hf
  induction l with
  | nil => exact fun _ => rfl
  | cons p l ih => exact fun acc => (ih _).trans (hf acc p)

@[simp] theorem Run.ask_s (r : Run) : r.ask.s = r.s := by
  unfold Run.ask
  split <;> rfl

end Machine
end Sys2Proof
end

section
/-! PROOFS. The steps of engine words that write, and the banks that serve them, keep what is stored in its canonical form (O58; R44,
R155, R160). -/

namespace Sys2Proof
namespace Machine

-- One proof after another: those that wait for the equations of the model's functions would each hold a thread and its stack.
set_option Elab.async false

section
variable {o s : State} {r : Run}

theorem Run.foldl_keeps {α : Type} {f : Run → α → Run} (hf : ∀ t x, o.Keeps t.s → o.Keeps (f t x).s) (h : o.Keeps r.s) (l : List α) :
    o.Keeps (l.foldl f r).s := State.Keeps.foldl_with (p := Run.s) hf h l

/-! ### Writes -/

theorem Run.leave_keeps (h : o.Keeps r.s) (key : Nat) : o.Keeps (r.leave key).s := by
  have hx := h.sessLeave r.writer key
  unfold Run.leave
  dsimp only
  split
  · dsimp only
    exact hx.modCur _
  · exact hx

theorem Run.afterWrite_keeps (h : o.Keeps r.s) (key : Nat) : o.Keeps (r.afterWrite key).s := by
  unfold Run.afterWrite
  split
  · exact h
  · exact Run.leave_keeps h key

theorem State.Keeps.tear (h : o.Keeps s) (w : Writer) (g : Nat) : o.Keeps (s.tear w g) := by
  unfold State.tear
  exact State.Keeps.ite (h.mapStrands _) h

theorem Run.putOut_keeps (h : o.Keeps r.s) (x : Out) : o.Keeps (r.putOut x).s := by
  unfold Run.putOut
  dsimp only
  split
  · exact (h.writeRaw _ _).sessWrite _ _ _
  · exact h.writeRaw _ _

theorem Run.writeOut_keeps (h : o.Keeps r.s) (x : Out) : o.Keeps (r.writeOut x).s := by
  unfold Run.writeOut
  dsimp only
  split
  · exact h
  · have ht : o.Keeps ((r.again ((r.s.reach x.space x.addr).phys / 64) ++ [x]).foldl Run.putOut r).s :=
      Run.foldl_keeps (fun _ _ ht => Run.putOut_keeps ht _) h _
    generalize (r.again ((r.s.reach x.space x.addr).phys / 64) ++ [x]).foldl Run.putOut r = t at ht ⊢
    have hu : o.Keeps (if t.w.batch.isSome then
        ({ t with s := t.s.tear t.writer ((r.s.reach x.space x.addr).phys / 64) } : Run).noteWrote x ((r.s.reach x.space x.addr).phys / 64)
        else t).s := by
      split
      · exact ht.tear _ _
      · exact ht
    split
    · exact Run.afterWrite_keeps hu _
    · exact hu

theorem Run.writeDue_keeps (h : o.Keeps r.s) (sel : Run → Out → Bool) (n : Nat) : o.Keeps (Run.writeDue sel n r).s := by
  induction n generalizing r with
  | zero => exact h
  | succ n ih =>
    unfold Run.writeDue
    split
    · exact h
    · split
      · exact h
      · split
        · exact h
        · refine ih (Run.writeOut_keeps ?_ _)
          exact h

/-! ### The steps of copies, pushes, renewals, matrix words and loads -/

theorem copyTake_keeps (h : o.Keeps r.s) (got : List (List Byte)) : o.Keeps (copyTake r got).s := by
  unfold copyTake
  dsimp only
  split
  · simpa using h
  · simp only [Run.ends_s, Run.at_s, Run.count_s, Run.outSpan_s]
    exact State.Keeps.ite h.lateIssue h

theorem pushTake_keeps (h : o.Keeps r.s) (got : List (List Byte)) : o.Keeps (pushTake r got).s := h.same

theorem renewTake_keeps (h : o.Keeps r.s) : o.Keeps (renewTake r).s := by
  unfold renewTake
  split
  · exact h
  · exact State.Keeps.ite ((h.bear _ _).noteBusy _ _) (h.orExp 2)

theorem State.Keeps.setAccRow (h : o.Keeps s) (bank m : Nat) (l : List Nat) : o.Keeps (s.setAccRow bank m l) := h.put _ _

theorem Run.flags_s {α : Type} (r : Run) (f : α → BitVec 8) (l : List α) : (l.foldl (fun r e => r.flag (f e)) r).s = r.s :=
  Run.foldl_s (fun _ _ => Run.flag_s _ _) r l

theorem drainRow_keeps (h : o.Keeps r.s) (bank qd : Nat) (zero : Bool) (m : Nat) : o.Keeps (drainRow bank qd zero m r).s := by
  unfold drainRow
  dsimp only
  rw [Run.pushAt_s]
  split
  · refine State.Keeps.setAccRow ?_ _ _ _
    rw [Run.flags_s]
    exact h
  · rw [Run.flags_s]
    exact h

theorem drainTake_keeps (h : o.Keeps r.s) (bank qd : Nat) (zero : Bool) : o.Keeps (drainTake bank qd zero r).s := by
  unfold drainTake
  dsimp only
  split <;> simp only [Run.writesNext_s, Run.at_s, Run.count_s]
  all_goals exact drainRow_keeps h _ _ _ _

theorem msumCorrect_keeps (h : o.Keeps r.s) (bank : Nat) (sideB : Bool) (z : Int) (sums : List Int) :
    o.Keeps (msumCorrect bank sideB z sums r).s := by
  unfold msumCorrect
  refine Run.foldl_keeps (fun t m ht => ?_) h _
  dsimp only
  rw [Run.flags_s]
  exact ht.setAccRow _ _ _

theorem msumTake_keeps (h : o.Keeps r.s) (bank : Nat) (sideB : Bool) (f g : Nat) (got : List (List Byte)) :
    o.Keeps (msumTake bank sideB f g r got).s := by
  unfold msumTake
  dsimp only
  split
  · refine Run.foldl_keeps (fun t e ht => ?_) h _
    simpa using ht
  · exact msumCorrect_keeps h _ _ _ _

theorem kstepAll_keeps (h : o.Keeps r.s) (k : PairKind) (kel ext0 : Nat) (f : MForm) (a b : List (Nat × List (Option Lane)))
    (steps j t : Nat) : o.Keeps (kstepAll k kel ext0 f a b steps j t r).s := by
  unfold kstepAll
  refine Run.foldl_keeps (fun t m ht => ?_) h _
  dsimp only
  rw [Run.flags_s]
  exact ht.setAccRow _ _ _

theorem MForm.take_keeps (h : o.Keeps r.s) (f : MForm) (got : List (List Byte)) : o.Keeps (f.take r got).s := by
  unfold MForm.take
  split
  · split
    · exact drainTake_keeps h _ _ _
    · exact h
  · split
    · simpa using h
    · exact h

theorem MForm.sum_keeps (h : o.Keeps r.s) (f : MForm) : o.Keeps (f.sum r).s := by
  unfold MForm.sum
  split
  · refine kstepAll_keeps ?_ _ _ _ _ _ _ _ _ _
    exact h.toCell _
  · exact h

@[simp] theorem Run.dropChunk_s (r : Run) (j : Nat) : (r.dropChunk j).s = r.s := rfl

theorem MForm.goOn_keeps (h : o.Keeps r.s) (f : MForm) : o.Keeps (f.goOn r).s := by
  have hd : o.Keeps ((r.w.st.plan.filter fun c => decide (c.2.2 + r.w.fig.rd * r.w.fig.setup ≤ r.w.time + 1)).foldl
      (fun r c => r.dropChunk c.1) r).s := by
    rw [Run.foldl_s fun r (c : Nat × Nat × Nat) => r.dropChunk_s c.1]
    exact h
  unfold MForm.goOn
  dsimp only
  split
  · exact hd
  · split
    · split
      · exact hd
      · exact hd
    · exact hd

theorem State.Keeps.makeWay (h : o.Keeps s) (seq : Nat) (own : List (Nat × Nat)) : o.Keeps (s.makeWay seq own) := h.modCur _

theorem spLoaded_keeps (h : o.Keeps r.s) (nibs : List Nat) : o.Keeps (spLoaded r nibs).s := by
  have load : ∀ (vals : List (Nat × BitVec 8)) (t : Run) (x y : Running) (seq : Nat) (b : List (Nat × Nat)),
      t = vals.foldl (fun r v => r.flag v.2) r →
      o.Keeps (if t.w.moved = 0 then { t with w := x } else { s := t.s.makeWay seq b, w := y } : Run).s := by
    rintro vals t x y seq b rfl
    have hf : o.Keeps (vals.foldl (fun r v => r.flag v.2) r).s := by
      rw [Run.flags_s]
      exact h
    split
    · exact hf
    · exact hf.makeWay _ _
  unfold spLoaded
  dsimp only
  split
  · exact h
  · exact h
  · exact load _ _ _ _ _ _ rfl
  · exact load _ _ _ _ _ _ rfl
  · exact h

theorem spTake_keeps (h : o.Keeps r.s) (got : List (List Byte)) : o.Keeps (spTake r got).s := by
  unfold spTake
  dsimp only
  split
  · exact h
  · refine spLoaded_keeps ?_ _
    exact h

theorem Run.take_keeps (h : o.Keeps r.s) (got : List (List Byte)) : o.Keeps (r.take got).s := by
  unfold Run.take
  split
  · rw [VForm.take_s]
    exact h
  · exact MForm.take_keeps h _ _
  · split
    · exact copyTake_keeps h _
    · exact copyTake_keeps h _
    · exact pushTake_keeps h _
    · rw [gatherTake_s]; exact h
    · rw [gatherTake_s]; exact h
    · rw [gatherTake_s]; exact h
    · exact drainTake_keeps h _ _ _
    · exact msumTake_keeps h _ _ _ _ _
    · exact h
    · exact renewTake_keeps h
    · exact spTake_keeps h _
    · exact spTake_keeps h _
    · exact spTake_keeps h _
    · exact spTake_keeps h _
    · exact h

end
end Machine
end Sys2Proof
end

section
/-! PROOFS. The engine steps of a tick keep what is stored in its canonical form (O58; R44, R142, R155, R160). -/

namespace Sys2Proof
namespace Machine

-- One proof after another: those that wait for the equations of the model's functions would each hold a thread and its stack.
set_option Elab.async false

section
variable {o s : State} {r : Run}

/-! ### The words of the engines -/

theorem State.Keeps.runOf (h : o.Keeps s) {i : WordId} (hr : s.runOf i = some r) : o.Keeps r.s := by
  unfold State.runOf at hr
  obtain ⟨w, -, rfl⟩ := Option.map_eq_some_iff.mp hr
  exact h.focusWho _

theorem State.Keeps.onWord (h : o.Keeps s) (i : WordId) {f : Run → Run} (hf : ∀ r, o.Keeps r.s → o.Keeps (f r).s) :
    o.Keeps (s.onWord i f) := by
  unfold State.onWord
  split
  next hr => exact (hf _ (h.runOf hr)).modCur _
  · exact h

theorem State.Keeps.onWords (h : o.Keeps s) (l : List WordId) {f : Run → Run} (hf : ∀ r, o.Keeps r.s → o.Keeps (f r).s) :
    o.Keeps (s.onWords l f) := h.foldl (fun _ i ht => ht.onWord i hf) l

/-! ### Banks -/

theorem State.Keeps.serveBank (h : o.Keeps s) (g : Nat) : o.Keeps (s.serveBank g).1 := h.same

theorem Run.reserveReads_keeps (h : o.Keeps r.s) (sel : Nat → Bool → Bool) : o.Keeps (r.reserveReads sel).s := by
  unfold Run.reserveReads
  refine State.Keeps.foldl_with (p := Prod.fst) (fun acc p ha => ?_) h _
  dsimp only
  split
  · split
    · exact ha
    · split
      · exact ha.serveBank _
      · exact ha
  · exact ha

theorem Run.reserveWrites_keeps (h : o.Keeps r.s) (sel : Nat → Bool → Bool) : o.Keeps (r.reserveWrites sel).s := by
  unfold Run.reserveWrites
  refine State.Keeps.foldl_with (p := Prod.fst) (fun acc p ha => ?_) h _
  dsimp only
  split
  · split
    · exact ha
    · split
      · exact ha.serveBank _
      · exact ha
  · exact ha

theorem Run.reserve_keeps (h : o.Keeps r.s) (sel : Nat → Bool → Bool) : o.Keeps (r.reserve sel).s :=
  Run.reserveWrites_keeps (Run.reserveReads_keeps h sel) sel

theorem State.Keeps.reserveScalar (h : o.Keeps s) (ready : State → PendOp → Bool) (own : Bool) :
    o.Keeps (s.reserveScalar ready own) := by
  unfold State.reserveScalar
  refine State.Keeps.modCur ?_ _
  refine State.Keeps.foldl_with (p := Prod.fst) (fun acc p ha => ?_) h _
  dsimp only
  split
  · split
    · exact ha.serveBank _
    · exact ha
  · exact ha

theorem State.Keeps.reserveWindows (h : o.Keeps s) (n : Nat) : o.Keeps (s.reserveWindows n) := by
  unfold State.reserveWindows
  refine State.Keeps.foldl (fun t e ht => ?_) (State.Keeps.same h) _
  refine State.Keeps.same (State.Keeps.foldl_with (p := Prod.fst) (fun acc g ha => ?_) ht _)
  exact ha.serveBank _

theorem State.Keeps.promise (h : o.Keeps s) (l : List Promise) : o.Keeps (s.promise l) :=
  h.foldl (fun _ e ht => (ht.serveBank e.gran).same) l

theorem State.Keeps.serveBanks (h : o.Keeps s) (ready : State → PendOp → Bool) (late : List Promise) (l : List Strand) :
    o.Keeps (s.serveBanks ready late l) := by
  unfold State.serveBanks
  refine State.Keeps.foldl (fun t n ht => ?_) ?_ _
  · refine State.Keeps.reserveWindows (State.Keeps.foldl (fun t c ht => ?_) ht _) n
    have hw := ht.onWords (((s.words l).filter fun i => (s.runOf i).any fun r => r.w.wantsBank).filter fun i => i.1 == c.who)
      fun _ hr => Run.reserve_keeps hr fun _ own => !own
    exact State.Keeps.ite hw ((hw.focusWho _).reserveScalar _ _)
  · refine State.Keeps.promise (State.Keeps.onWords ?_ _ fun _ hr => Run.reserve_keeps hr _) _
    refine State.Keeps.foldl (fun t c ht => State.Keeps.ite ht ((ht.focusWho _).reserveScalar _ _)) ?_ _
    exact h.foldl (fun t q ht => (ht.onWords _ fun _ hr => Run.reserve_keeps hr _).promise _) _

/-! ### Reads, steps and writes -/

theorem Run.readPieces_keeps (h : o.Keeps r.s) (tiles : Bool) : o.Keeps (r.readPieces tiles).s := (r.readPieces_s tiles).symm ▸ h

theorem Run.ask_keeps (h : o.Keeps r.s) : o.Keeps r.ask.s := r.ask_s.symm ▸ h

theorem Run.writeSel_keeps (h : o.Keeps r.s) (sel : Run → Out → Bool) : o.Keeps (r.writeSel sel).s :=
  Run.writeDue_keeps (Run.reserveWrites_keeps h _) sel _

theorem Run.takeDue_keeps (h : o.Keeps r.s) : o.Keeps r.takeDue.s := by
  unfold Run.takeDue
  split
  · refine Run.take_keeps ?_ _
    exact h
  · exact h

theorem Run.takeAll_keeps (h : o.Keeps r.s) (tiles : Bool) : o.Keeps (r.takeAll tiles).s := by
  have ht := Run.takeDue_keeps (Run.readPieces_keeps h tiles)
  unfold Run.takeAll
  dsimp only
  refine Run.writeSel_keeps ?_ _
  split
  · exact Run.takeDue_keeps (Run.readPieces_keeps (Run.reserve_keeps (Run.ask_keeps ht) _) _)
  · exact ht

theorem Run.renewNow_keeps (h : o.Keeps r.s) : o.Keeps r.renewNow.s := by
  unfold Run.renewNow
  split
  · split
    · refine renewTake_keeps ?_
      exact h
    · exact h
  · exact h

theorem Run.drainNow_keeps (h : o.Keeps r.s) : o.Keeps r.drainNow.s := by
  unfold Run.drainNow
  split
  · exact Run.takeDue_keeps h
  · exact h

theorem Run.moveBound_keeps (h : o.Keeps r.s) : o.Keeps r.moveBound.s := by
  unfold Run.moveBound
  split
  · dsimp only
    exact h.modCur _
  · exact h

theorem Run.clock_keeps (h : o.Keeps r.s) (stopping : Bool) : o.Keeps (r.clock stopping).s := by
  have moved : ∀ t : Run, o.Keeps t.s → ∀ (c : Prop) [Decidable c] (w : Running) (own : Bool),
      o.Keeps (if own then ({ s := if c then t.s.lateIssue else t.s, w := w } : Run).shift
        else { s := if c then t.s.lateIssue else t.s, w := w }).s := by
    intro t ht c _ w own
    have hl : o.Keeps (if c then t.s.lateIssue else t.s) := State.Keeps.ite ht.lateIssue ht
    split
    · exact hl
    · exact hl
  unfold Run.clock
  split
  · exact h
  · split
    · refine moved _ ?_ _ _ _
      split
      · exact Run.moveBound_keeps h
      · exact Run.moveBound_keeps h
    · split
      · exact h
      · exact h

theorem State.Keeps.writePorts (h : o.Keeps s) (l : List WordId) : o.Keeps (s.writePorts l) :=
  h.foldl (fun _ _ ht => ht.onWords _ fun _ hr => Run.writeDue_keeps hr _ _) _

/-! ### Segments that are sent -/

theorem State.Keeps.send (h : o.Keeps s) (g : Seg) (wt : Running → Nat) : o.Keeps (s.send g wt) := by
  unfold State.send
  exact State.Keeps.ite (State.Keeps.mapStrands h.same _) h.same

theorem State.Keeps.sendAll (h : o.Keeps s) (prio : Bool) : o.Keeps (s.sendAll prio) :=
  h.foldl (fun _ _ ht => ht.foldl (fun _ _ hu => State.Keeps.ite (hu.send _ _) (hu.asStrand _ fun _ hv => hv.lateIssue)) _) _

/-! ### The tick -/

theorem State.Keeps.finishSteps (h : o.Keeps s) (go ws : List WordId) : o.Keeps (s.finishSteps go ws) := by
  unfold State.finishSteps
  refine State.Keeps.foldl (fun _ _ ht => State.Keeps.ite ht (ht.sendAll _)) ?_ _
  refine State.Keeps.onWords (State.Keeps.onWords ?_ _ fun _ hr => Run.writeSel_keeps hr _) _ fun _ hr => Run.renewNow_keeps hr
  refine State.Keeps.onWords (State.Keeps.onWords ?_ _ fun t ht => ?_) _ fun t ht => ?_
  · exact (h.onWords _ fun _ hr => Run.readPieces_keeps hr _).onWords _ fun _ hr => Run.takeAll_keeps hr _
  · split
    · exact MForm.sum_keeps ht _
    · exact ht
  · split
    · exact MForm.goOn_keeps ht _
    · exact ht

theorem State.Keeps.engineTick (h : o.Keeps s) (ready : State → PendOp → Bool) {rest : List WordId → State → State}
    (hr : ∀ ws t, o.Keeps t → o.Keeps (rest ws t)) (late : List Promise) (l : List Strand) :
    o.Keeps (s.engineTick ready rest late l) := by
  unfold State.engineTick
  dsimp only
  refine State.Keeps.same (State.Keeps.onWords (State.Keeps.onWords ?_ _ fun _ hr => Run.clock_keeps hr _) _ fun _ hr => Run.clock_keeps hr _)
  refine State.Keeps.finishSteps (hr _ _ ?_) _ _
  refine State.Keeps.onWords (State.Keeps.writePorts (State.Keeps.serveBanks ?_ _ _ _) _) _ fun _ hr => Run.takeAll_keeps hr _
  refine State.Keeps.onWords (State.Keeps.onWords ?_ _ fun _ hr => Run.ask_keeps hr) _ fun _ hr => Run.drainNow_keeps hr
  exact h.onWords _ fun _ hr => hr

theorem State.Keeps.lateSteps (h : o.Keeps s) (ws : List WordId) : o.Keeps (s.lateSteps ws) := by
  unfold State.lateSteps
  refine State.Keeps.onWords (State.Keeps.finishSteps (State.Keeps.onWords ?_ _ fun t ht => ?_) _ _) _ fun _ hr => Run.clock_keeps hr _
  · exact (h.onWords _ fun _ hr => Run.ask_keeps hr).onWords _ fun _ hr => Run.drainNow_keeps hr
  · refine State.Keeps.same (Run.reserve_keeps (r := t.redeem) ht fun _ _ => true)

end
end Machine
end Sys2Proof
end

section
/-! PROOFS. Dispatches, completions of engine words, and landings of segments keep what is stored in its canonical form (O58; R44,
R155, R160). -/

namespace Sys2Proof
namespace Machine

-- One proof after another: those that wait for the equations of the model's functions would each hold a thread and its stack.
set_option Elab.async false

section
variable {o s : State} {r : Run}

/-! ### Dispatch -/

theorem State.Keeps.start (h : o.Keeps s) (x : Running) : o.Keeps (s.start x) := h.modCur _

theorem Run.takePorts_keeps (h : o.Keeps r.s) : o.Keeps r.takePorts.s :=
  Run.foldl_keeps (fun _ _ ht => ht.setQ _ _) h _

theorem Run.start_keeps (h : o.Keeps r.s) : o.Keeps r.start := (Run.takePorts_keeps h).start _

theorem State.Keeps.dispCopy (h : o.Keeps s) (w : QWord) (pred : BitVec 4) : o.Keeps (dispCopy w pred s) := by
  have hs := State.Keeps.ite (c := s.cur.batchOpen) h (h.modCur fun c => { c with batch := c.batch + 1, batchOpen := true })
  unfold Machine.dispCopy
  exact State.Keeps.ite (hs.start _) (State.Keeps.start (State.Keeps.same hs) _)

theorem State.Keeps.dispClose (h : o.Keeps s) (w : QWord) : o.Keeps (dispClose w s) := (h.modCur _).start _

theorem State.Keeps.dispCwait (h : o.Keeps s) (w : QWord) : o.Keeps (dispCwait w s) := by
  unfold Machine.dispCwait
  exact (h.modCur _).modCur _

theorem State.Keeps.dispPush (h : o.Keeps s) (w : QWord) (ctx : Nat) : o.Keeps (dispPush w ctx s) := by
  unfold Machine.dispPush
  dsimp only
  split
  · exact h.start _
  · exact State.Keeps.ite (h.start _) (h.start _)

theorem State.Keeps.dispLink (h : o.Keeps s) (w : QWord) : o.Keeps (dispLink w s) := by
  unfold Machine.dispLink
  split
  · exact h.start _
  · exact h.start _
  · exact h.start _
  · exact h.start _
  · exact h.start _
  · exact h.dispPush _ _
  · exact h

theorem State.Keeps.dispGather (h : o.Keeps s) (op : GatherOp) (w : QWord) (pred : BitVec 4) : o.Keeps (dispGather op w pred s) := by
  unfold Machine.dispGather
  dsimp only
  exact Run.start_keeps h

theorem State.Keeps.dispVector (h : o.Keeps s) (f : VForm) (w : QWord) : o.Keeps (dispVector f w s) := by
  unfold Machine.dispVector
  dsimp only
  exact Run.start_keeps h

theorem State.Keeps.dispMma (h : o.Keeps s) (cells : List (Nat × QWord × MForm)) : o.Keeps (dispMma cells s) := by
  unfold Machine.dispMma
  dsimp only
  split
  · exact h
  · split
    · exact h
    · refine State.Keeps.toCell (State.Keeps.same (State.Keeps.foldl (fun t e ht => ?_) h _)) _
      refine ht.asCell _ fun u hu => ?_
      unfold mmaStart
      exact Run.start_keeps hu

theorem State.Keeps.mmaDiscard (h : o.Keeps s) (cells : List (Nat × QWord × MForm)) : o.Keeps (mmaDiscard cells s) :=
  h.foldl (fun _ _ ht => ht.asCell _ fun _ hu => hu.raiseAsync _) _

theorem State.Keeps.dispMdrain (h : o.Keeps s) (w : QWord) (q : Nat) : o.Keeps (dispMdrain w q s) := by
  unfold Machine.dispMdrain
  exact Run.start_keeps h

theorem State.Keeps.dispMzero (h : o.Keeps s) (w : QWord) (bank : Nat) : o.Keeps (dispMzero w bank s) := by
  unfold Machine.dispMzero
  exact (h.foldl (fun _ _ ht => ht.setAccRow _ _ _) _).start _

theorem State.Keeps.dispMsum (h : o.Keeps s) (w : QWord) (f g : Nat) : o.Keeps (dispMsum w f g s) := by
  unfold Machine.dispMsum
  exact Run.start_keeps h

theorem State.Keeps.dispMscale (h : o.Keeps s) (w : QWord) (q : Nat) : o.Keeps (dispMscale w q s) := by
  unfold Machine.dispMscale
  exact Run.start_keeps h

theorem State.Keeps.dispMmode (h : o.Keeps s) (w : QWord) : o.Keeps (dispMmode w s) := (h.modCur _).start _

theorem State.Keeps.dispPass (h : o.Keeps s) (w : QWord) (p : SpRun × List (Nat × Nat) × Nat) : o.Keeps (dispPass w p s) := by
  unfold Machine.dispPass
  exact State.Keeps.ite (h.raiseAsync _) (h.start _)

theorem State.Keeps.dispSpmode (h : o.Keeps s) (w : QWord) (fp mx : BitVec 1) (goff : BitVec 10) :
    o.Keeps (dispSpmode w fp mx goff s) := (h.modCur _).start _

theorem State.Keeps.dispatchWord (h : o.Keeps s) (w : QWord) : o.Keeps (dispatchWord w s) := by
  unfold Machine.dispatchWord
  split
  · exact h.dispVector _ _
  · exact h.dispMma _
  · exact h.dispPass _ _
  · split
    · exact h.dispCopy _ _
    · exact h.dispCopy _ _
    · exact h.dispClose _
    · exact h.dispCwait _
    · exact h.start _
    · exact h.start _
    · exact h.start _
    · exact h.start _
    · exact h.dispGather _ _ _
    · exact h.dispGather _ _ _
    · exact h.dispGather _ _ _
    · exact h.dispMdrain _ _
    · exact h.dispMzero _ _
    · exact h.dispMsum _ _ _
    · exact h.dispMscale _ _
    · exact h.dispMmode _
    · exact h.start _
    · exact h.dispSpmode _ _ _ _
    · exact h.start _
    · exact h.start _
    · exact h.start _
    · exact h.start _
    · exact h.start _
    · exact h.start _
    · exact h.modCur _
    · exact h.start _
    · exact h.dispLink _

/-! ### The queues -/

theorem State.Keeps.awaitWord (h : o.Keeps s) {w : QWord} {t : State} (ht : s.awaitWord w = some t) : o.Keeps t := by
  unfold State.awaitWord at ht
  split at ht
  · cases ht
    exact h
  · exact h.takeSem ht

theorem State.Keeps.catchUp (h : o.Keeps s) (ws : List WordId) : o.Keeps (s.catchUp ws) := State.Keeps.ite (h.lateSteps ws) h

theorem State.Keeps.loneDispatch (h : o.Keeps s) (w : QWord) : o.Keeps (loneDispatch w s) := by
  unfold Machine.loneDispatch
  split
  · exact h
  · split
    · exact h.lateWait
    · split
      · exact h.modCur _
      next ht => exact (State.Keeps.modCur (State.Keeps.dispatchWord ((h.awaitWord ht).modCur _) w) _).catchUp _

theorem State.Keeps.groupAwaits {l : List (Nat × QWord × MForm)} {t : State} (h : o.Keeps s) (ht : groupAwaits l s = some t) :
    o.Keeps t := by
  induction l generalizing s with
  | nil => cases ht; exact h
  | cons c l ih =>
    obtain ⟨u, hu, ht⟩ := Option.bind_eq_some_iff.mp ht
    exact ih (h.awaitWord hu) ht

theorem State.Keeps.eachMember (h : o.Keeps s) (heads : List (Nat × QWord × MForm)) {f : State → QWord → State}
    (hf : ∀ t w, o.Keeps t → o.Keeps (f t w)) : o.Keeps (eachMember heads f s) :=
  h.foldl (fun _ _ ht => ht.asCell _ fun _ hu => hf _ _ hu) _

theorem State.Keeps.groupDispatch (h : o.Keeps s) (cells : List Nat) : o.Keeps (groupDispatch cells s) := by
  unfold Machine.groupDispatch
  split
  · exact h
  · split
    · exact h.eachMember _ fun _ _ ht => ht.lateWait
    · split
      · exact h.lateWait
      · split
        · exact h.foldl (fun _ _ ht => ht.asCell _ fun _ hu => State.Keeps.ite (hu.modCur _) hu) _
        next ht =>
          split
          · refine State.Keeps.catchUp (State.Keeps.eachMember (State.Keeps.dispMma ?_ _) _ fun _ _ hu => hu.modCur _) _
            exact (h.groupAwaits ht).eachMember _ fun _ _ hu => hu.modCur _
          · refine State.Keeps.eachMember (State.Keeps.mmaDiscard (State.Keeps.eachMember ?_ _ fun _ _ hu => hu.modCur _) _) _ fun _ _ hu =>
              State.Keeps.ite hu (State.Keeps.railClear (hu.modCur _))
            exact h.eachMember _ fun _ _ hu => hu.modCur _

theorem State.Keeps.execEngineDispatch (h : o.Keeps s) (queue : Nat) : o.Leads (execEngineDispatch queue s) := by
  refine State.Keeps.next ?_
  dsimp only
  split
  · exact h.modCur _
  · exact State.Keeps.ite ((h.modCur _).groupDispatch _) ((h.modCur _).loneDispatch _)

/-! ### Segments that land -/

theorem State.Keeps.modCtx (h : o.Keeps s) (prio : Bool) (vdie ctx : Nat) (f : LinkCtx → LinkCtx) : o.Keeps (s.modCtx prio vdie ctx f) :=
  h.same

theorem State.Keeps.landPart (h : o.Keeps s) (w : Writer) (a : HRec) (e : Int × List Byte) : o.Keeps (s.landPart w a e) := by
  unfold State.landPart
  dsimp only
  split
  · exact (h.writeRaw _ _).sessWrite _ _ _
  · exact h.writeRaw _ _

theorem State.Keeps.misTimed (h : o.Keeps s) (g : Seg) (cell : Nat) : o.Keeps (s.misTimed g cell) := by
  unfold State.misTimed
  exact (h.markDie _ _).asStrand _ fun _ ht => ht.raiseAsync _

theorem State.Keeps.countMiss (h : o.Keeps s) (g : Seg) : o.Keeps (s.countMiss g) := by
  unfold State.countMiss
  exact State.Keeps.ite (h.modCtx _ _ _ _) h.same

theorem State.Keeps.landNow (h : o.Keeps s) (g : Seg) : o.Keeps (landNow g s) := by
  unfold Machine.landNow
  refine State.Keeps.modCtx ?_ _ _ _ _
  split
  · exact h.same
  · exact State.Keeps.countMiss (State.Keeps.misTimed h.same _ _) _

theorem State.Keeps.landBanks (h : o.Keeps s) (a : HRec) (l : List (Int × List Byte)) : o.Keeps (s.landBanks a l).1 := by
  unfold State.landBanks
  refine State.Keeps.foldl_with (p := Prod.fst) (fun acc g ht => ?_) h _
  exact ht.serveBank g

theorem State.Keeps.landWrite (h : o.Keeps s) (g : Seg) (a : Landing) (parts : List (Int × List Byte)) :
    o.Keeps (landWrite g a parts s) := by
  unfold Machine.landWrite
  exact (State.Keeps.asStrand h.same _ fun _ ht => ht.foldl (fun _ _ hu => hu.landPart _ _ _) _).modCtx _ _ _ _

theorem State.Keeps.landLater (h : o.Keeps s) (g : Seg) (a : Landing) (due : Nat) : o.Keeps (landLater g a due s) := by
  unfold Machine.landLater
  exact State.Keeps.ite (State.Keeps.asStrand h.same _ fun _ ht => ht.lateIssue) h.same

theorem State.Keeps.performSeg (h : o.Keeps s) (g : Seg) (a : Landing) : o.Keeps (performSeg g a s) := by
  unfold Machine.performSeg
  exact State.Keeps.ite (h.landLater _ _ _)
    (State.Keeps.ite (h.landWrite _ _ _) (State.Keeps.ite (State.Keeps.landWrite h.same _ _ _) (State.Keeps.landLater h.same _ _ _)))

theorem State.Keeps.closeLandings (h : o.Keeps s) : o.Keeps s.closeLandings :=
  h.foldl (fun _ _ ht => ht.sessLeave _ _) _

theorem State.Keeps.execLinkSegmentLanding (h : o.Keeps s) (seg : Nat) : o.Leads (execLinkSegmentLanding seg s) := by
  refine State.Keeps.next ?_
  split
  · exact h
  · split
    · exact h.performSeg _ _
    · exact h.landNow _

theorem State.Keeps.execLinkSegmentAdmit (h : o.Keeps s) (seg : Nat) : o.Leads (execLinkSegmentAdmit seg s) := by
  refine State.Keeps.next ?_
  split
  · exact h
  · exact h.send _ _

/-! ### Completions -/

theorem State.Keeps.putTables (h : o.Keeps s) (l : List (Nat × Nat × Nat)) : o.Keeps (s.putTables l) :=
  h.foldl (fun _ _ ht => ht.modCur _) l

theorem State.Keeps.railSettle (h : o.Keeps s) : o.Keeps s.railSettle := State.Keeps.ite h (State.Keeps.railClear (h.modCur _))

theorem State.Keeps.closeWord (h : o.Keeps s) (w : QWord) : o.Keeps (s.closeWord w) := h.foldl (fun _ _ ht => ht.sessLeave _ _) _

theorem State.Keeps.completeLink (h : o.Keeps s) (w : QWord) (disp : Nat) : o.Keeps (completeLink w disp s) := by
  unfold Machine.completeLink
  dsimp only
  split
  · exact h.same
  · exact h.same
  · exact h.modCtx _ _ _ _
  · exact h.modCtx _ _ _ _
  · exact h

theorem State.Keeps.completeWord (h : o.Keeps s) (r : Running) : o.Keeps (completeWord r s) := by
  unfold Machine.completeWord
  extract_lets s1 s2 s3 s4 s5 s6 s7 s8 s9 s10 s11 s12
  have h3 : o.Keeps s3 :=
    have h2 := State.Keeps.settleFlags (State.Keeps.modCur (h.modCur _) _) _ _
    State.Keeps.ite (h2.orExp 1) h2
  have h4 : o.Keeps s4 := by
    dsimp only [s4]
    split
    · exact h3.setX _ _
    · exact h3
  have h5 : o.Keeps s5 := by
    dsimp only [s5]
    split
    · exact h4.setP _ _
    · exact h4
  have h6 : o.Keeps s6 := by
    dsimp only [s6]
    split
    · exact h5.setP _ _
    · exact h5
  have h8 : o.Keeps s8 := by
    dsimp only [s8]
    split
    · exact (h6.putTables _).modCur _
    · exact h6.putTables _
  have h10 : o.Keeps s10 := (h8.completeLink _ _).closeWord _
  have h11 : o.Keeps s11 := by
    dsimp only [s11]
    split
    · exact h10.busError _
    · exact h10
  have h12 : o.Keeps s12 := by
    dsimp only [s12]
    split
    · exact h11.raiseNow _ _ _
    · exact h11
  exact State.Keeps.railSettle (State.Keeps.modCur (h12.settle _) _)

theorem State.Keeps.execEngineWordCompletion (h : o.Keeps s) (seq : Nat) : o.Leads (execEngineWordCompletion seq s) := by
  refine State.Keeps.next ?_
  split
  · exact h.completeWord _
  · exact h

theorem State.Keeps.execScalarAccessCompletion (h : o.Keeps s) : o.Leads (execScalarAccessCompletion s) := by
  refine State.Keeps.next ?_
  split
  · exact h.performPend _
  · exact h

theorem State.Keeps.blockCame (h : o.Keeps s) (blk : Word) : o.Keeps (s.blockCame blk) := by
  unfold State.blockCame
  dsimp only
  exact State.Keeps.ite h (State.Keeps.ite h.awaitBlock (State.Keeps.ite ((State.Keeps.awaitBlock (h.modCur _)).modCur _) h))

theorem State.Keeps.execBlockFetchComplete (h : o.Keeps s) : o.Leads (execBlockFetchComplete s) := by
  refine State.Keeps.next ?_
  split
  · exact (h.modCur _).blockCame _
  · exact h

theorem State.Keeps.execSyncEngineAtomicApply (h : o.Keeps s) (slot : Nat) : o.Leads (execSyncEngineAtomicApply slot s) := by
  refine State.Keeps.next ?_
  exact State.Keeps.ite h (State.Keeps.applyAtoms h.same _ _ _)

theorem State.Keeps.execTrapEntry (h : o.Keeps s) : o.Leads (execTrapEntry s) := by
  refine State.Keeps.next ?_
  split
  · split
    · exact State.Keeps.ite (h.enterTrap _) h
    · exact h
  · split
    · split
      · exact State.Keeps.ite (State.Keeps.stopStrand (h.modCur _) _) (State.Keeps.ite (State.Keeps.enterTrap (h.modCur _) _) ((h.modCur _).modCur _))
      · exact h
    · exact h

theorem State.Keeps.execTileBusyWindowEnd (h : o.Keeps s) (slot tile : Nat) : o.Leads (execTileBusyWindowEnd slot tile s) := h.same.next

theorem State.Keeps.execRailStepStands (h : o.Keeps s) (slot cl : Nat) : o.Leads (execRailStepStands slot cl s) :=
  State.Keeps.next (State.Keeps.ite h.same h)

end
end Machine
end Sys2Proof
end

section
/-! PROOFS. Rendezvous, commits, aborts, retirement and bindings keep what is stored in its canonical form (O58; R44, R155, R160,
R285). -/

namespace Sys2Proof
namespace Machine

-- One proof after another: those that wait for the equations of the model's functions would each hold a thread and its stack.
set_option Elab.async false

section
variable {o s : State}

/-! ### Memory written and cleared in ranges -/

theorem wf_foldl {α : Type} {f : Memory → α → Memory} (hf : ∀ m x, Memory.wf m = true → Memory.wf (f m x) = true) (l : List α) :
    ∀ {m : Memory}, Memory.wf m = true → Memory.wf (l.foldl f m) = true := by
  induction l with
  | nil => exact fun h => h
  | cons x l ih => exact fun h => ih (hf _ x h)

theorem wf_clearRange {m : Memory} (h : Memory.wf m = true) (a n : Nat) : Memory.wf (clearRange m a n) = true := swf_filter 0 _ h

theorem wf_copyRange (ok : Nat → Bool) {m : Memory} (h : Memory.wf m = true) (src dst n : Nat) :
    Memory.wf (copyRange ok m src dst n) = true := by
  unfold copyRange
  refine wf_foldl (fun acc c ha => ?_) m h
  split
  · exact wf_wrMem ha _ _
  · exact ha

/-! ### Commit and abort -/

theorem State.Keeps.modStrands (h : o.Keeps s) (prio : Bool) (f : Strand → Strand) : o.Keeps (s.modStrands prio f) := h.same

theorem State.Keeps.checkAt (h : o.Keeps s) (prio : Bool) (l : Launch) (T : Nat) : o.Keeps (s.checkAt prio l T) := by
  unfold State.checkAt
  exact (h.foldl (fun _ _ ht => ht.markDie _ _) _).modLaunch _ _

theorem State.Keeps.execRendezvousCheck (h : o.Keeps s) (prio : Bool) : o.Leads (execRendezvousCheck prio s) := by
  refine State.Keeps.next ?_
  split
  · exact h
  · split
    · exact h
    · dsimp only
      split
      · exact State.Keeps.ite (h.checkAt _ _ _) h
      · exact State.Keeps.ite (h.checkAt _ _ _) h

theorem State.Keeps.execLockRendezvous (h : o.Keeps s) (prio : Bool) : o.Leads (execLockRendezvous prio s) := by
  refine State.Keeps.next ?_
  split
  · exact h
  · split
    · exact h
    · split
      · exact h.modLaunch _ _
      · exact State.Keeps.ite h (h.modLaunch _ _)

theorem State.Keeps.putInbox (h : o.Keeps s) (c : Strand) : o.Keeps (s.putInbox c) := by
  unfold State.putInbox
  exact h.foldl (fun _ _ ht => ht.put _ _) _

theorem State.Keeps.inboxBack (h : o.Keeps s) (prio : Bool) : o.Keeps (s.inboxBack prio) := by
  unfold State.inboxBack
  exact (h.modStrands _ _).foldl (fun _ _ ht => ht.putInbox _) _

theorem State.Keeps.recordImage (h : o.Keeps s) (prio : Bool) : o.Keeps (s.recordImage prio) := h.modLaunch _ _

/-- The held writes of a launch are dropped (R285). -/
theorem State.Keeps.dropHeld (h : o.Keeps s) (prio : Bool) : o.Keeps { s with held := s.held.filter fun e => !heldOf prio e } :=
  h.withHeld (swf_filter none _)

/-- The held writes of a launch enter memory (R285). -/
theorem State.Keeps.commitHeld (h : o.Keeps s) (prio : Bool) : o.Keeps (s.commitHeld prio) := by
  refine State.Keeps.withMem (h.dropHeld prio) (wf_foldl (fun m e hm => ?_) _)
  split
  · exact wf_wrMem hm _ _
  · exact hm

theorem State.Keeps.commitStep (h : o.Keeps s) (prio : Bool) : o.Keeps (s.commitStep prio) := by
  unfold State.commitStep
  have ht := fun f => (h.commitHeld prio).modJob prio f
  exact State.Keeps.modLaunch (State.Keeps.ite (ht _).same (ht _)) _ _

theorem State.Keeps.nextStep (h : o.Keeps s) (prio : Bool) : o.Keeps (s.nextStep prio) := by
  unfold State.nextStep
  have ht := fun f g => (State.Keeps.modStrands (h.modLaunch prio f) prio g).recordImage prio
  exact State.Keeps.ite (ht _ _) (ht _ _).same

theorem State.Keeps.killTiles (h : o.Keeps s) (keys : List Nat) : o.Keeps (s.killTiles keys) :=
  h.withBirths (swf_foldl_sset none (fun k => k) (fun _ => some ((s.z0 : Int) - Config.retention)) keys)

theorem State.Keeps.dropSessions (h : o.Keeps s) (prio : Bool) : o.Keeps (s.dropSessions prio) := h.same

theorem State.Keeps.abortStep (h : o.Keeps s) (prio : Bool) : o.Keeps (abortStep prio s) := by
  unfold Machine.abortStep
  refine State.Keeps.setJob (State.Keeps.modLaunch (State.Keeps.modJob (State.Keeps.modJob (State.Keeps.killTiles ?_ _) _ _) _ _) _ _) _ _
  exact State.Keeps.dropSessions (State.Keeps.same ((h.modStrands prio _).dropHeld prio)) prio

theorem State.Keeps.execSuperstepAbort (h : o.Keeps s) (prio : Bool) : o.Leads (execSuperstepAbort prio s) := by
  refine State.Keeps.next ?_
  split
  · exact State.Keeps.ite (h.abortStep _) h
  · exact h

theorem State.Keeps.execRendezvousCommit (h : o.Keeps s) (prio : Bool) : o.Leads (execRendezvousCommit prio s) :=
  State.Keeps.next (State.Keeps.ite h (State.Keeps.ite ((h.commitStep _).nextStep _) (h.abortStep _)))

/-! ### The end of a launch -/

theorem State.Keeps.dropStrands (h : o.Keeps s) (prio : Bool) : o.Keeps (s.dropStrands prio) := h.same

theorem State.Keeps.settleCache (h : o.Keeps s) : o.Keeps s.settleCache := h.same

theorem State.Keeps.dropLaunch (h : o.Keeps s) (prio : Bool) : o.Keeps (s.dropLaunch prio) := by
  unfold State.dropLaunch
  have ht : o.Keeps (State.dropSessions _ prio) :=
    State.Keeps.dropSessions (State.Keeps.same (((h.dropStrands prio).inboxBack (!prio)).dropHeld prio)) prio
  exact State.Keeps.settleCache (State.Keeps.ite ht.same ht.same)

theorem State.Keeps.execJobRetirement (h : o.Keeps s) (prio : Bool) : o.Leads (execJobRetirement prio s) := by
  refine State.Keeps.next ?_
  have ht := (h.commitStep prio).setJob prio 3
  exact State.Keeps.ite h (State.Keeps.ite (State.Keeps.ite ht.same (ht.dropLaunch _)) (h.abortStep _))

theorem State.Keeps.execHostStopsTheJob (h : o.Keeps s) (prio : Bool) : o.Leads (execHostStopsTheJob prio s) :=
  State.Keeps.next (State.Keeps.ite (h.abortStep _) h)

/-! ### Errors and health -/

theorem State.Keeps.markSlot (h : o.Keeps s) (slot cause : Nat) (detail : Word) : o.Keeps (s.markSlot slot cause detail) := by
  unfold State.markSlot
  refine h.foldl (fun t prio ht => ?_) _
  dsimp only
  split
  · exact ht
  · exact State.Keeps.ite ht (State.Keeps.ite (ht.markDie _ _) (ht.foldl (fun _ _ hu => hu.markDie _ _) _))

theorem State.Keeps.execUncorrectableMemoryError (h : o.Keeps s) (slot : Nat) (addr : BitVec 48) (retire : Loss) (cell : Option Nat) :
    o.Leads (execUncorrectableMemoryError slot addr retire cell s) :=
  State.Keeps.next (h.markSlot slot 0x13 (0#16 ++ addr)).same

theorem State.Keeps.execLinkFailure (h : o.Keeps s) (a b : Nat) : o.Leads (execLinkFailure a b s) :=
  State.Keeps.next ((h.markSlot _ _ _).markSlot _ _ _)

theorem State.Keeps.execStagger (h : o.Keeps s) : o.Leads (execStagger s) := State.Keeps.next (h.modLaunch _ _)

theorem State.Keeps.applyHealth (h : o.Keeps s) : o.Keeps s.applyHealth := by
  unfold State.applyHealth
  split
  · exact h
  · exact h.same

/-! ### Bindings to slots -/

theorem State.Keeps.clearSems (h : o.Keeps s) (slot : Nat) (c : Ctx) (cells : Nat) : o.Keeps (s.clearSems slot c cells) :=
  h.withMem fun w => wf_clearRange w _ _

theorem State.Keeps.setBirths (h : o.Keeps s) (slot : Nat) (c : Ctx) (b : Option Int) : o.Keeps (s.setBirths slot c b) := by
  refine h.withBirths fun w => ?_
  unfold State.setBirths
  dsimp only
  split
  · exact swf_filter none _ w
  · exact swf_foldl_sset none _ _ _ (swf_filter none _ w)

theorem State.Keeps.clearRows (h : o.Keeps s) (slot : Nat) (c : Ctx) (bank : Nat) : o.Keeps (s.clearRows slot c bank) := by
  refine h.withMem fun w => wf_foldl (fun m k hm => ?_) _ w
  dsimp only
  split
  · exact wf_clearRange (wf_clearRange hm _ _) _ _
  · exact wf_clearRange hm _ _

theorem State.Keeps.rebind (h : o.Keeps s) (prio : Bool) (l : Launch) : o.Keeps (s.rebind prio l) := by
  unfold State.rebind
  refine (h.modLaunch _ _).foldl (fun t v ht => ?_) _
  exact ((((ht.setBirths _ _ _).setBirths _ _ _).clearRows _ _ _).clearSems _ _ _).clearSems _ _ _

theorem State.Keeps.railUpdates {α : Type} (h : o.Keeps s) (f g : α → Nat) (l : List α) :
    o.Keeps (l.foldl (fun t e => t.railUpdate (f e) (g e)) s) := h.foldl (fun _ _ ht => ht.railUpdate _ _) l

theorem State.Keeps.loadImage (h : o.Keeps s) (prio clear : Bool) (slot : Nat) : o.Keeps (s.loadImage prio clear slot) := by
  unfold State.loadImage
  refine State.Keeps.railUpdates (State.Keeps.same (State.Keeps.foldl (fun t c ht => ?_) (h.dropStrands prio) _)) _ _ _
  exact State.Keeps.ite ht (ht.putInbox _)

end
end Machine
end Sys2Proof
end

section
/-! PROOFS. The loader, launches, swaps, re-runs and the package's other events keep what is stored in its canonical form (O58; R44,
R155, R160, R340). -/

namespace Sys2Proof
namespace Machine

-- One proof after another: those that wait for the equations of the model's functions would each hold a thread and its stack.
set_option Elab.async false

section
variable {o s : State}

/-! ### The loader -/

theorem State.Keeps.patch (h : o.Keeps s) (x : Obj) (off n v : Nat) : o.Keeps (s.patch x off n v) := h.put _ _

theorem State.Keeps.relocOne (h : o.Keeps s) {x : Obj} {syms : List (Nat × Option Nat)} {i : Nat} {t : State}
    (ht : s.relocOne x syms i = .ok t) : o.Keeps t := by
  have patch : ∀ {off n v : Nat}, (Except.ok (s.patch x off n v) : Except Nat State) = .ok t → o.Keeps t := by
    rintro off n v ⟨⟩
    exact h.patch _ _ _ _
  have failed : ∀ {e : Nat}, (Except.error e : Except Nat State) = .ok t → o.Keeps t := by
    rintro e ⟨⟩
  unfold State.relocOne at ht
  extract_lets rd r pairKind size al u P word inside at ht
  split at ht
  · exact failed ht
  · split at ht
    · exact failed ht
    · split at ht
      · split at ht
        · exact failed ht
        · exact patch ht
      · split at ht
        · split at ht
          · exact failed ht
          · dsimp only at ht
            split at ht
            · exact failed ht
            · split at ht
              · exact patch ht
              · split at ht
                · exact patch ht
                · exact failed ht
        · split at ht
          · exact patch ht
          · split at ht
            · exact failed ht
            · exact patch ht

theorem State.Keeps.putCore (h : o.Keeps s) (a v : Nat) : o.Keeps (s.putCore a v) := h.put _ _

theorem State.Keeps.loaderStore (h : o.Keeps s) (map : List (Nat × Nat × Nat)) (va v : Nat) : o.Keeps (s.loaderStore map va v) := by
  unfold State.loaderStore
  split
  · exact h.put _ _
  · exact h

theorem State.Keeps.loaderTables (h : o.Keeps s) (x : Obj) (syms : List (Nat × Option Nat)) : o.Keeps (s.loaderTables x syms) := by
  unfold State.loaderTables
  exact (h.foldl (fun _ _ ht => (ht.putCore _ _).putCore _ _) _).foldl (fun _ _ ht => (ht.putCore _ _).putCore _ _) _

theorem State.Keeps.noteValue (h : o.Keeps s) (x : Obj) (syms : List (Nat × Option Nat)) (i : Nat) : o.Keeps (s.noteValue x syms i) := by
  unfold State.noteValue
  exact State.Keeps.ite h (h.putCore _ _)

theorem State.Keeps.relocGo (h : o.Keeps s) (x : Obj) (syms : List (Nat × Option Nat)) (n i : Nat) :
    o.Keeps (relocGo x syms n i s).1 := by
  induction n generalizing s i with
  | zero => exact h
  | succ n ih =>
    unfold Machine.relocGo
    dsimp only
    split
    · exact h.noteValue _ _ _
    next ht => exact ih ((h.noteValue _ _ _).relocOne ht) _

theorem State.Keeps.relocObj (h : o.Keeps s) (objs : List (Obj × FsfMap)) (me : Nat) : o.Keeps (s.relocObj objs me).1 := by
  unfold State.relocObj
  split
  · exact h
  · refine State.Keeps.putCore (State.Keeps.relocGo (State.Keeps.foldl (fun t e ht => ?_) (h.loaderTables _ _) _) _ _ _ _) _ _
    split
    · exact ht.loaderStore _ _ _
    · exact ht

theorem State.Keeps.loaderInbox (h : o.Keeps s) (x : Obj) : o.Keeps (s.loaderInbox x) := by
  unfold State.loaderInbox
  exact State.Keeps.ite h (h.put _ _)

theorem State.Keeps.relocAll (h : o.Keeps s) (objs : List (Obj × FsfMap)) (n i : Nat) : o.Keeps (relocAll objs n i s).1 := by
  induction n generalizing s i with
  | zero => exact h
  | succ n ih =>
    have ht : o.Keeps ((((objs[i]?).elim s fun x => s.loaderInbox x.1).relocObj objs i).1) := by
      refine State.Keeps.relocObj ?_ _ _
      cases objs[i]? with
      | none => exact h
      | some x => exact h.loaderInbox _
    unfold Machine.relocAll
    split
    next heq =>
      rw [heq] at ht
      exact ht
    next heq =>
      rw [heq] at ht
      exact ih ht.same _

theorem State.Keeps.loadObj (h : o.Keeps s) (x : Obj) : o.Keeps (s.loadObj x) :=
  h.withMem fun w => wf_foldl (fun _ _ hm => wf_copyRange _ hm _ _ _) _ (wf_clearRange w _ _)

/-! ### Page tables -/

theorem Tables.wf_sub {t : Tables} (h : Memory.wf t.mem = true) (entry : Nat) : Memory.wf (t.sub entry).1.mem = true := by
  unfold Tables.sub
  dsimp only
  split
  · exact h
  · exact wf_wrMems _ h _

theorem Tables.wf_leaf {t : Tables} (h : Memory.wf t.mem = true) (va pa bits : Nat) (big : Bool) :
    Memory.wf (t.leaf va pa bits big).mem = true := by
  unfold Tables.leaf
  dsimp only
  split
  · dsimp only
    exact wf_wrMems _ (Tables.wf_sub h _) _
  · dsimp only
    exact wf_wrMems _ (Tables.wf_sub (Tables.wf_sub h _) _) _

theorem wf_mapGo (r : MapSrc) (n p : Nat) {t : Tables} (h : Memory.wf t.mem = true) : Memory.wf (mapGo r n p t).mem = true := by
  induction n generalizing p t with
  | zero => exact h
  | succ n ih =>
    unfold mapGo
    split
    · exact h
    · split
      · exact ih _ (Tables.wf_leaf h _ _ _ _)
      · split
        · exact ih _ (Tables.wf_leaf h _ _ _ _)
        · exact ih _ h

theorem wf_mapGo_foldl {α : Type} (r : α → MapSrc) (n : α → Nat) (l : List α) {t : Tables} (h : Memory.wf t.mem = true) :
    Memory.wf (l.foldl (fun t e => mapGo (r e) (n e) 0 t) t).mem = true := by
  induction l generalizing t with
  | nil => exact h
  | cons e l ih => exact ih (wf_mapGo _ _ _ h)

theorem State.Keeps.remap (h : o.Keeps s) (prio : Bool) (old : List Nat) : o.Keeps (s.remap prio old) := by
  unfold State.remap
  exact State.Keeps.modLaunch (h.withMem fun w => wf_mapGo_foldl _ _ _ w) _ _

theorem State.Keeps.mapLaunch (h : o.Keeps s) (prio : Bool) (p : Plan) : o.Keeps (s.mapLaunch prio p) :=
  h.withMem fun w => wf_mapGo_foldl _ _ _ (wf_clearRange w _ _)

/-! ### Text translated for the dies -/

theorem State.Keeps.cacheText (h : o.Keeps s) (key : BitVec 256) (cls : Cls) (image : List Byte) : o.Keeps (s.cacheText key cls image) := by
  unfold State.cacheText
  exact State.Keeps.ite h h.same

theorem State.Keeps.translateObj (h : o.Keeps s) (c : Ctx) (slots : List Nat) (x : Obj) : o.Keeps (s.translateObj c slots x).1 := by
  unfold State.translateObj
  dsimp only
  split
  · exact h
  · split
    · exact h
    · refine State.Keeps.foldl (fun t k ht => ?_) (State.Keeps.foldl (fun t e ht => ?_) h _) _
      · split
        · exact ht
        · exact ht.cacheText _ _ _
      · exact ht.put _ _

theorem State.Keeps.translateAll (h : o.Keeps s) (c : Ctx) (slots : List Nat) (l : List Obj) : o.Keeps (s.translateAll c slots l).1 := by
  induction l generalizing s with
  | nil => exact h
  | cons x l ih =>
    have hx := h.translateObj c slots x
    unfold State.translateAll
    split
    next heq =>
      rw [heq] at hx
      exact hx
    next heq =>
      rw [heq] at hx
      have hl := ih hx
      split
      next heq' =>
        rw [heq'] at hl
        exact hl
      next heq' =>
        rw [heq'] at hl
        exact hl

theorem State.Keeps.putSlices (h : o.Keeps s) (x : Obj) (k : Nat) (v : VdieEnt) : o.Keeps (s.putSlices x k v) := by
  unfold State.putSlices
  exact State.Keeps.ite h (h.foldl (fun _ _ ht => ht.put _ _) _)

end
end Machine
end Sys2Proof
end

section
/-! PROOFS. Launches, swaps, re-runs and the host's accesses keep what is stored in its canonical form (O58; R44, R155, R160, R340). -/

namespace Sys2Proof
namespace Machine

-- One proof after another: those that wait for the equations of the model's functions would each hold a thread and its stack.
set_option Elab.async false

section
variable {o s : State}

/-! ### Launches -/

theorem State.Keeps.loadPlan (h : o.Keeps s) (prio : Bool) (p : Plan) : o.Keeps (s.loadPlan prio p).1 := by
  have hl : o.Keeps (p.objs.foldl State.loadObj s) := h.foldl (fun _ _ ht => ht.loadObj _) _
  unfold State.loadPlan
  extract_lets s1 s2
  have h2 : o.Keeps s2 := by
    dsimp only [s2]
    split
    · exact hl.foldl (fun _ _ ht => ht.putSlices _ _ _) _
    · exact hl
  have ht := h2.translateAll p.record.ctx0 p.slots p.objs
  split
  next heq =>
    rw [heq] at ht
    exact ht
  next s3 objs heq =>
    rw [heq] at ht
    have hr := State.Keeps.relocAll ht objs objs.length 0
    split
    · exact ht
    · split
      · exact ht
      · split
        next heq' =>
          rw [heq'] at hr
          exact hr
        next heq' =>
          rw [heq'] at hr
          exact hr.mapLaunch _ _

theorem State.Keeps.prepareDies (h : o.Keeps s) (l : Launch) : o.Keeps (s.prepareDies l) := by
  unfold State.prepareDies
  exact h.foldl (fun _ _ ht => (((ht.setBirths _ _ _).setBirths _ _ _).clearSems _ _ _).clearSems _ _ _) _

theorem State.Keeps.startMain (h : o.Keeps s) (l : Launch) : o.Keeps (s.startMain l) := by
  unfold State.startMain
  refine State.Keeps.setJob (State.Keeps.recordImage (State.Keeps.modJob (State.Keeps.railUpdates ?_ _ _ _) _ _) _) _ _
  exact (h.prepareDies l).same

theorem State.Keeps.startPrio (h : o.Keeps s) (l : Launch) : o.Keeps (s.startPrio l) := by
  unfold State.startPrio
  refine State.Keeps.setJob (State.Keeps.modJob ?_ _ _) _ _
  exact (h.prepareDies l).same

theorem State.Keeps.failMain (h : o.Keeps s) (e : Nat × Nat) : o.Keeps (s.failMain e) := (h.modJob _ _).setJob _ _

theorem State.Keeps.failPrio (h : o.Keeps s) (e : Nat × Nat) : o.Keeps (s.failPrio e) := h.same

theorem State.Keeps.launchMain (h : o.Keeps s) (a : Nat) : o.Keeps (s.launchMain a) := by
  unfold State.launchMain
  extract_lets s1 s2
  have h2 : o.Keeps s2 := State.Keeps.setJob (State.Keeps.same (h.dropLaunch false).applyHealth) _ _
  split
  · exact h2.failMain _
  next p _ =>
    have hp := h2.loadPlan false p
    split
    next heq =>
      rw [heq] at hp
      exact hp.failMain _
    next heq =>
      rw [heq] at hp
      exact hp.startMain _

theorem State.Keeps.launchPrio (h : o.Keeps s) (a : Nat) : o.Keeps (s.launchPrio a) := by
  unfold State.launchPrio
  extract_lets base kept s1
  have h1 : o.Keeps s1 := h.same
  split
  · exact h1.failPrio _
  next p _ =>
    have hp := h1.loadPlan true p
    split
    next heq =>
      rw [heq] at hp
      exact hp.failPrio _
    next heq =>
      rw [heq] at hp
      exact hp.startPrio _

theorem State.Keeps.execLaunch (h : o.Keeps s) (addr : BitVec 48) (link : Nat) : o.Leads (execLaunch addr link s) := by
  refine State.Keeps.next (State.Keeps.ite h.same (State.Keeps.ite h.same ?_))
  have ht : o.Keeps (if link = 19 then { s with launchAt := s.z0 + 1 } else s) := State.Keeps.ite h.same h
  exact State.Keeps.ite ht.same (State.Keeps.ite (State.Keeps.launchPrio ht.same _) (State.Keeps.launchMain ht.same _))

/-! ### Swaps and re-runs -/

theorem State.Keeps.swapOut (h : o.Keeps s) (prio : Bool) : o.Keeps (s.swapOut prio) := (h.modStrands _ _).modLaunch _ _

theorem State.Keeps.swapIn (h : o.Keeps s) (prio : Bool) (slot : Nat) : o.Keeps (s.swapIn prio slot) := by
  unfold State.swapIn
  exact State.Keeps.railUpdates (((h.inboxBack prio).modStrands _ _).modLaunch _ _) _ _ _

theorem State.Keeps.execPriorityLaunchSwapIn (h : o.Keeps s) : o.Leads (execPriorityLaunchSwapIn s) :=
  State.Keeps.next (State.Keeps.ite h ((((h.swapOut _).swapIn _ _).modLaunch _ _).recordImage _))

theorem State.Keeps.moveDies (h : o.Keeps s) (prio : Bool) (l : Launch) : o.Keeps (s.moveDies prio l) := (h.rebind _ _).remap _ _

theorem State.Keeps.unplaced (h : o.Keeps s) (prio : Bool) : o.Keeps (s.unplaced prio) := by
  unfold State.unplaced
  split
  · exact ((State.Keeps.modLaunch h.same _ _).modJob _ _).setJob _ _
  · exact (h.dropLaunch _).failMain _

theorem State.Keeps.execPriorityLaunchSwapBack (h : o.Keeps s) : o.Leads (execPriorityLaunchSwapBack s) := by
  refine State.Keeps.next ?_
  split
  · exact h
  · extract_lets s1 s2 l s3
    have h2 : o.Keeps s2 := (h.dropLaunch true).same
    have h3 : o.Keeps s3 := State.Keeps.ite h2 (h2.modLaunch _ _)
    split
    · exact h3.unplaced _
    · refine State.Keeps.ite (h3.swapIn _ _) (State.Keeps.ite ((h3.moveDies _ _).swapIn _ _) ?_)
      refine State.Keeps.loadImage (State.Keeps.modLaunch (State.Keeps.moveDies ?_ _ _) _ _) _ _ _
      exact State.Keeps.dropSessions (State.Keeps.same (h3.dropHeld false)) _

theorem State.Keeps.settleBinding (h : o.Keeps s) (prio : Bool) : o.Keeps (s.settleBinding prio) := by
  unfold State.settleBinding
  split
  · exact h.unplaced _
  · exact h.moveDies _ _

theorem State.Keeps.settleWaiting (h : o.Keeps s) : o.Keeps s.settleWaiting := by
  unfold State.settleWaiting
  split
  · exact h
  · split
    · exact (h.dropLaunch _).failPrio _
    · exact (h.moveDies _ _).modStrands _ _

theorem State.Keeps.keepDmix (h : o.Keeps s) : o.Keeps s.keepDmix := h.modLaunch _ _

theorem State.Keeps.renewBinding (h : o.Keeps s) (prio : Bool) : o.Keeps (s.renewBinding prio) := by
  have ht := h.keepDmix.applyHealth.settleBinding prio
  exact State.Keeps.ite ht ht.settleWaiting

theorem State.Keeps.execRerunRequest (h : o.Keeps s) (value : BitVec 64) : o.Leads (execRerunRequest value s) := by
  refine State.Keeps.next (State.Keeps.ite h.same (State.Keeps.ite ?_ (h.modJob _ _)))
  exact (((h.modJob _ _).modLaunch _ _).setJob _ _).renewBinding _

theorem State.Keeps.rerun (h : o.Keeps s) (prio : Bool) : o.Keeps (s.rerun prio) := by
  have ht := h.renewBinding prio
  unfold State.rerun
  refine State.Keeps.ite ht (State.Keeps.loadImage (State.Keeps.modLaunch (State.Keeps.foldl (fun t v hv => ?_) ht _) _ _) _ _ _)
  exact (hv.clearSems _ _ _).clearSems _ _ _

theorem State.Keeps.execRerunStart (h : o.Keeps s) : o.Leads (execRerunStart s) :=
  State.Keeps.next (State.Keeps.ite (h.rerun _) (State.Keeps.ite (h.rerun _) h))

/-! ### Power, resets and the host -/

theorem State.Keeps.execControlIntervalBoundary (h : o.Keeps s) : o.Leads (execControlIntervalBoundary s) :=
  State.Keeps.next (State.Keeps.ite h h.same)

theorem State.Keeps.demand (h : o.Keeps s) (d : Demand) : o.Keeps (s.demand d) := State.Keeps.ite h.same h

/-- A reset keeps memory; no write is held and no tile born after it (R18). -/
theorem State.Keeps.execPackageReset (h : o.Keeps s) : o.Leads (execPackageReset s) :=
  State.Keeps.next ⟨h.mem, fun _ => ⟨rfl, rfl⟩⟩

theorem State.Keeps.execFirmwareReady (h : o.Keeps s) (fw : FirmwareInfo) : o.Leads (execFirmwareReady fw s) :=
  State.Keeps.next (State.Keeps.ite h h.same)

theorem State.Keeps.execFirmwareUpdate (h : o.Keeps s) (emask : BitVec 64) : o.Leads (execFirmwareUpdate emask s) := by
  refine State.Keeps.next ?_
  split
  · exact h
  · exact h.same

theorem State.Keeps.execHostRegisterWrite (h : o.Keeps s) (off : BitVec 12) (value : BitVec 64) :
    o.Leads (execHostRegisterWrite off value s) := by
  unfold Machine.execHostRegisterWrite
  split
  · exact h.execLaunch _ _
  · split
    · exact h.same.next
    · split
      · exact h.same.next
      · split
        · exact h.execRerunRequest _
        · exact h.next

theorem State.Keeps.hostRead (h : o.Keeps s) (off : Nat) : o.Keeps (s.hostRead off).2 := by
  unfold State.hostRead
  split
  · exact h
  · exact h.same

theorem State.Keeps.outWrite1 (h : o.Keeps s) (slot a : Nat) (b : Byte) : o.Keeps (State.outWrite1 slot s a b) := by
  have hw : o.Keeps { s with mem := wrMem s.mem a b } := h.withMem fun w => wf_wrMem w a b
  unfold State.outWrite1
  split
  · exact h
  · split
    · exact State.Keeps.ite hw h
    · exact h
    · exact h.inboxWrite _ _ _ _
    · exact hw

theorem State.Keeps.outWrites (h : o.Keeps s) (slot a : Nat) (data : List Byte) : o.Keeps (State.outWrites slot s a data) := by
  induction data generalizing s a with
  | nil => exact h
  | cons b data ih => exact ih (h.outWrite1 _ _ _) _

theorem State.Keeps.outAccess (h : o.Keeps s) (slot : Nat) (write : Bool) (a : Nat) (data : List Byte) :
    o.Keeps (State.outAccess slot s write a data) := by
  unfold State.outAccess State.outWrite
  exact State.Keeps.ite ((h.outWrites _ _ _).foldl (fun _ _ ht => ht.sessOwn _ _ _) _) h.same

theorem State.Keeps.execHostBar2Access (h : o.Keeps s) (write : Bool) (link : Nat) (addr : BitVec 48) (data : List (BitVec 8)) :
    o.Leads (execHostBar2Access write link addr data s) := by
  refine State.Keeps.next (State.Keeps.ite (State.Keeps.ite h.same h.same) (State.Keeps.ite (State.Keeps.ite h.same h.same) ?_))
  exact State.Keeps.ite h.same (h.outAccess _ _ _ _)

theorem State.Keeps.execDieWindowAccess (h : o.Keeps s) (write : Bool) (slot : Nat) (addr : BitVec 48) (data : List (BitVec 8)) :
    o.Leads (execDieWindowAccess write slot addr data s) := by
  refine State.Keeps.next (State.Keeps.ite h (State.Keeps.ite h.same ?_))
  have ha := h.outAccess slot write addr.toNat data
  have ht := fun f => State.Keeps.ite (c := (!write && s.outExpired addr.toNat data.length) = true) (ha.asStrand f fun _ hu => hu.orExp 1) ha
  exact State.Keeps.ite ((ht _).asStrand _ fun _ hu => hu.busError _) (ht _)

end
end Machine
end Sys2Proof
end

section
/-! PROOFS. Every step keeps memory, held writes and births in their canonical forms (O58; R44, R155, R160, R285). -/

namespace Sys2Proof
namespace Machine

-- One proof after another: those that wait for the equations of the model's functions would each hold a thread and its stack.
set_option Elab.async false

section
variable {o s : State}

/-! ### What an instruction or an event does -/

theorem State.Keeps.semrot (h : o.Keeps s) (t : TCtl) (k : BitVec 5) : o.Leads (execSemrot t k s) :=
  h.issue fun u hu => by
    dsimp only
    split
    · exact hu.modCur _
    · exact hu

theorem State.Keeps.semtest (h : o.Keeps s) (t : TCtl) (d : BitVec 4) (n : BitVec 12) : o.Leads (execSemtest t d n s) :=
  h.issue fun u hu => by
    split
    · trivial
    · split
      · trivial
      · exact State.Keeps.pendOp (hu.modCur _) _ _ _ _ _ _ _ _ _ _

theorem State.Keeps.eret (h : o.Keeps s) (g : Ctl) : o.Leads (execEret g s) :=
  h.issue fun u hu => by
    split
    · exact State.Keeps.startFetch (hu.modCur _)
    · trivial

theorem State.Keeps.mrailUp (h : o.Keeps s) (g : Ctl) : o.Leads (execMrailUp g s) :=
  h.issue fun u hu => by
    split
    · exact hu
    · exact State.Keeps.railUpdate (hu.modCur _) _ _

theorem State.Keeps.mrailDn (h : o.Keeps s) (g : Ctl) : o.Leads (execMrailDn g s) :=
  h.issue fun u hu => by
    split
    · exact hu.modCur _
    · exact hu.railClear

theorem State.Keeps.psave (h : o.Keeps s) (t : TCtl) (d a : BitVec 4) : o.Leads (execPsave t d a s) :=
  h.portWord _ _ _ _ _ _ _ _ fun u r hu => by
    split
    · trivial
    · exact hu.pendOp _ _ _ _ _ _ _ _ _ _

theorem State.Keeps.prest (h : o.Keeps s) (t : TCtl) (d a : BitVec 4) : o.Leads (execPrest t d a s) :=
  h.portWord _ _ _ _ _ _ _ _ fun u r hu => by
    split
    · trivial
    · exact State.Keeps.modCur (State.Keeps.fetchAt (hu.startLoad _ _ _ _ _ _ _) _) _

theorem State.Keeps.countErrs (h : o.Keeps s) : o.Keeps s.countErrs := h.same

theorem State.Keeps.copyPost (h : o.Keeps s) (i : Instr) (chain : Bool) (d a c : BitVec 4) :
    o.Keeps ((copySpec i chain d a c).post s) := by
  unfold copySpec
  dsimp only
  exact State.Keeps.ite (h.modCur _) h

/-- No instruction and no event takes memory, held writes or births out of their canonical forms. -/
theorem State.Keeps.exec (h : o.Keeps s) (i : Instr) : o.Leads (exec i s) := by
  cases i <;> dsimp only [Machine.exec]
  case atTick | rpt => exact State.Keeps.prefixWord (h.addPrefix _ _ _ _)
  case add | sub | and | or | xor | andn | sll | srl | sra | slt | sltu | min | max | minu | maxu => exact h.alu3 _ _ _ _ _
  case clz | ctz | popc | addi | andi | ori | xori | slli | srli | srai | slti | addhi | movhi => exact h.alu2 _ _ _ _
  case sel | addpch | prd | csrr | hget => exact h.issue fun _ hu => hu.setX _ _
  case cmpEq | cmpNe | cmpLt | cmpGe | cmpLtu | cmpGeu | cmpTst | cmpNtst => exact h.cmpTo _ _ _ _ _
  case pand | por | pxor | pandn => exact h.predTo _ _ _ _ _
  case pnot => exact h.issue fun _ hu => hu.setP _ _
  case pwr => exact h.issue fun _ hu => hu.foldl (fun _ _ hv => hv.setP _ _) _
  case mul | mulw | mulwu | mulwsu | div | divu | divrem | divremu => exact h.mulDiv _ _ _ _ _
  case ld | ldu | ldx | ldxu | hld => exact h.loadWord _ _ _ _ _ _ _
  case st | stx | hst => exact h.storeWord _ _ _ _ _ _ _ fun _ hu => hu
  case zst => exact h.storeWord _ _ _ _ _ _ _ fun _ hu => State.Keeps.ite hu.countErrs hu
  case csrw | csrs | csrc => exact h.csrWord _ _ _ _ _
  case beq | bne | blt | bge | bltu | bgeu => exact h.branch _ _ _ _ _
  case bra => exact h.issue fun _ hu => hu
  case jal => exact h.issue fun _ hu => hu.setX _ _
  case jalr | ret => exact h.jumpReg _ _ _ _
  case nop => exact h.issue fun _ hu => hu
  case loop => exact h.execLoop _ _ _
  case endStrand => exact h.issue fun _ hu => hu.modCur _
  case halt => exact h.issue fun _ hu => (hu.fault _ _).modCur _
  case trap => exact h.issue fun _ hu => hu.takeTrap _
  case eret => exact h.eret _
  case hset | hadd | hcpy | hclr => exact h.issue fun _ hu => hu.setH _ _
  case pbind | punbind => exact h.portWord _ _ _ _ _ _ _ _ fun _ _ hu => (hu.setQ _ _).pendOp _ _ _ _ _ _ _ _ _ _
  case psave => exact h.psave _ _ _
  case prest => exact h.prest _ _ _
  case seminit => exact h.semWord _ _ _ fun _ _ hu => hu.pendOp _ _ _ _ _ _ _ _ _ _
  case semwait => exact h.semWord _ _ _ fun _ _ hu => (hu.setP _ _).raiseAt _ _ _
  case sempost => exact h.semWord _ _ _ fun _ _ hu => hu.raiseAt _ _ _
  case semrot => exact h.semrot _ _
  case semtest => exact h.semtest _ _ _
  case cpy | cpym => exact h.enqueue _ _ _ fun _ hu => hu.copyPost _ _ _ _ _
  case close | cwait | lctxR | lctxS | lopen | lpush | lclose | lstat | gath | scat | scatadd | frenew | flife | fchk | fbirth | mma
      | mmaw | mdrain | mzero | msum | mscale | mmode | mstat | vadd | vsub | vmul | vmin | vmax | vqadd | vqsub | vqmul | vfma | vfms
      | vfnma | vabs | vneg | vmov | vadds | vmuls | vaxpb | vand | vor | vxor | vandn | vshl | vshr | vcmpEq | vcmpNe | vcmpLt | vcmpLe
      | vcmpGt | vcmpGe | vsel | vcvt | vquant | vdequant | vredAdd | vredMax | vredMin | vredxAdd | vredxMax | vredxMin | vscanAdd
      | vscanMax | vscanMin | vtopk | vexp2 | vlog2 | vrcp | vrsqrt | vtanh | vperm | vsplat | viota | vextr | vrandU | vrandB | spup
      | spdn | spmode | spshape | splist | spld | spldCvt | spst | spstCvt | spnorm | spsync | spclr =>
    exact h.enqueue _ _ _ fun _ hu => hu
  case mrailUp => exact h.mrailUp _
  case mrailDn => exact h.mrailDn _
  case fence => exact h.issue fun _ hu => State.Keeps.pendOp (hu.modCur _) _ _ _ _ _ _ _ _ _ _
  case ssend | baskPref => exact h.issue fun _ hu => hu.modCur _
  case rdv | commit => exact h.meetAt _ _ _
  case foldadd | foldand | foldor | foldxor | foldmin | foldmax | foldminu | foldmaxu | foldfadd | foldfmin | foldfmax | takeadd
      | takeand | takeor | takexor | takemin | takemax | takeminu | takemaxu | takefadd | trade | ctrade => exact h.atomWord _ _
  case railStepStands => exact h.execRailStepStands _ _
  case syncEngineAtomicApply => exact h.execSyncEngineAtomicApply _
  case engineDispatch => exact h.execEngineDispatch _
  case engineWordCompletion => exact h.execEngineWordCompletion _
  case blockFetchComplete => exact h.execBlockFetchComplete
  case trapEntry => exact h.execTrapEntry
  case linkSegmentLanding => exact h.execLinkSegmentLanding _
  case linkSegmentAdmit => exact h.execLinkSegmentAdmit _
  case dieWindowAccess => exact h.execDieWindowAccess _ _ _ _
  case tileExpiry => exact h.next
  case tileBusyWindowEnd => exact h.execTileBusyWindowEnd _ _
  case rendezvousCheck => exact h.execRendezvousCheck _
  case rendezvousCommit => exact h.execRendezvousCommit _
  case lockRendezvous => exact h.execLockRendezvous _
  case superstepAbort => exact h.execSuperstepAbort _
  case uncorrectableMemoryError => exact h.execUncorrectableMemoryError _ _ _ _
  case linkFailure => exact h.execLinkFailure _ _
  case jobRetirement => exact h.execJobRetirement _
  case launch => exact h.execLaunch _ _
  case priorityLaunchSwapIn => exact h.execPriorityLaunchSwapIn
  case priorityLaunchSwapBack => exact h.execPriorityLaunchSwapBack
  case rerunRequest => exact h.execRerunRequest _
  case rerunStart => exact h.execRerunStart
  case hostBar2Access => exact h.execHostBar2Access _ _ _ _
  case hostRegisterWrite => exact h.execHostRegisterWrite _ _
  case packageReset => exact h.execPackageReset
  case firmwareReady => exact h.execFirmwareReady _
  case firmwareUpdate => exact h.execFirmwareUpdate _
  case controlIntervalBoundary => exact h.execControlIntervalBoundary
  case currentLimitDemand | thermalDemand | boostDemand => exact (h.demand _).next
  case stagger => exact h.execStagger
  case scalarAccessCompletion => exact h.execScalarAccessCompletion
  case hostStopsTheJob => exact h.execHostStopsTheJob _

/-! ### Issue -/

theorem State.Keeps.undecoded (h : o.Keeps s) (w : BitVec 48) : o.Keeps (s.undecoded w) := by
  unfold State.undecoded
  exact State.Keeps.ite (h.addPrefix _ _ _ _)
    (State.Keeps.ite (h.precise _ _) (State.Keeps.ite (h.precise _ _) (h.precise _ _)))

theorem State.Keeps.fetchTrap (h : o.Keeps s) (cause : Nat) (tval : Word) : o.Keeps (s.fetchTrap cause tval) := by
  unfold State.fetchTrap
  split
  · exact State.Keeps.ite (h.modCur _) (h.precise _ _)
  · exact h.precise _ _

theorem State.Keeps.issueNext (h : o.Keeps s) : o.Leads s.issueNext := by
  unfold State.issueNext
  split
  · exact h.startFetch.awaitBlock.next
  · split
    · exact (h.fetchTrap _ _).next
    · split
      · exact (h.fetchTrap _ _).next
      · split
        · exact (h.undecoded _).next
        · split
          · exact (h.undecoded _).next
          · split
            · exact h.exec _
            · exact (h.undecoded _).next

theorem State.Keeps.doInput (h : o.Keeps s) : o.Leads s.doInput := by
  unfold State.doInput
  split
  · exact h.next
  · split
    · exact State.Keeps.exec h.same _
    · exact h.same.next

theorem State.Keeps.doRead (h : o.Keeps s) : o.Keeps s.doRead := by
  unfold State.doRead
  split
  · exact h
  · rename_i e _
    have hr : o.Keeps (({ s with reads := s.reads.erase e } : State).hostRead e.2).2 := State.Keeps.hostRead h.same _
    exact hr.same

/-! ### The end of a tick -/

theorem State.Keeps.releaseUnit (h : o.Keeps s) (slot sem : Nat) (w : Bool × Nat × Nat) : o.Keeps (s.releaseUnit slot sem w) := by
  unfold State.releaseUnit
  dsimp only
  split
  · split
    · split
      next hu =>
        have ht := ((h.focusWho w).setSem slot sem 1).exec _ _ hu
        split
        · exact ht.setP _ _
        · exact ht
      · exact h
    · exact h
  · exact h

theorem State.Keeps.releaseHead (h : o.Keeps s) (sem : Nat) (w : Bool × Nat × Nat) (q : Nat) : o.Keeps (s.releaseHead sem w q) := by
  unfold State.releaseHead
  dsimp only
  split
  · split
    · split
      next hu => exact State.Keeps.execEngineDispatch (State.Keeps.modCur (h.focusWho w) _) q _ hu
      · exact (h.focusWho w).modCur _
    · exact h
  · exact h

theorem State.Keeps.applyInit (h : o.Keeps s) (r : Raise) : o.Keeps (applyInit r s) := by
  unfold Machine.applyInit
  refine State.Keeps.setSem (State.Keeps.foldl (fun t c ht => ht.foldl (fun _ _ hu => hu.releaseHead _ _ _) _) ?_ _) _ _ _
  exact h.foldl (fun _ _ ht => State.Keeps.ite (ht.releaseUnit _ _ _) ht) _

theorem State.Keeps.applyRaise (h : o.Keeps s) (r : Raise) : o.Keeps (applyRaise r s) := by
  unfold Machine.applyRaise
  exact State.Keeps.ite (h.setSem _ _ _) ((h.setSem _ _ _).mapStrands _)

theorem State.Keeps.settleSems (h : o.Keeps s) : o.Keeps s.settleSems := by
  unfold State.settleSems
  exact State.Keeps.foldl (fun _ r ht => ht.applyRaise r) (State.Keeps.foldl (fun _ r ht => ht.applyInit r) h.same _) _

theorem State.Keeps.settleInboxes (h : o.Keeps s) : o.Keeps s.settleInboxes := by
  unfold State.settleInboxes
  exact State.Keeps.foldl (fun _ _ ht => ht.put _ _) h.same _

theorem State.Keeps.imageStart (h : o.Keeps s) : o.Keeps s.imageStart := State.Keeps.ite (h.recordImage _) h

theorem State.Keeps.sampleTests (h : o.Keeps s) : o.Keeps s.sampleTests := h.mapStrands _

theorem State.Keeps.endTick (h : o.Keeps s) : o.Keeps s.endTick :=
  State.Keeps.same h.sampleTests.settleSems.settleInboxes.imageStart

/-! ### The engine steps of a tick -/

theorem State.Keeps.windowsNow (h : o.Keeps s) (writes : Bool) (n : Nat) : o.Keeps (s.windowsNow writes n) := by
  unfold State.windowsNow
  refine State.Keeps.foldl (fun t e ht => ?_) (State.Keeps.same h) _
  split
  next hu => exact ht.exec _ _ hu
  · exact ht

theorem State.Keeps.amidEngines (h : o.Keeps s) (l : List Strand) (ws : List WordId) : o.Keeps (s.amidEngines l ws) := by
  unfold State.amidEngines
  refine State.Keeps.tileScalars (State.Keeps.foldl (fun _ _ ht => ht.windowsNow _ _) (State.Keeps.closeLandings ?_) _) _ _
  refine State.Keeps.foldl (fun t n ht => State.Keeps.windowsNow (State.Keeps.foldl (fun u c hu => ?_) ht _) _ _) (h.tileScalars _ _) _
  exact State.Keeps.tileScalars (hu.onWords _ fun _ hr => Run.writeDue_keeps hr _ _) _ _

theorem State.Keeps.serveWith (h : o.Keeps s) (late : List Promise) : o.Keeps (s.serveWith late) :=
  State.Keeps.engineTick h.same _ (fun _ _ ht => ht.amidEngines _ _) _ _

theorem State.Keeps.serve (h : o.Keeps s) : o.Keeps s.serve := by
  unfold State.serve
  exact State.Keeps.ite (h.serveWith _) (State.Keeps.ite (h.serveWith _) (State.Keeps.ite (h.serveWith _) (h.serveWith _)))

/-! ### A step -/

theorem State.Keeps.performNext (h : o.Keeps s) (t : Todo) : o.Leads (s.performNext t) := by
  cases t with
  | event w i =>
    cases w with
    | none => exact h.exec i
    | some w => exact (h.focusWho w).exec i
  | input => exact h.doInput
  | read => exact h.doRead.next
  | issue w => exact (h.focusWho w).issueNext
  | serve => exact h.next
  | endTick => exact h.endTick.next

theorem State.Keeps.perform (h : o.Keeps s) (t : Todo) : o.Leads (s.perform t) := by
  unfold State.perform
  split
  · exact h.serve.next
  · exact h.performNext _

end

theorem step_keeps (s : State) : s.Leads (step s) := (State.Keeps.refl s).perform s.due

/-- Settles O58: whatever a step does is made of operations that each keep what is stored in its canonical form (`State.Keeps`). -/
theorem stepKeepsCanonical : Obligations.StepKeepsCanonical := by
  unfold Obligations.StepKeepsCanonical
  refine ⟨fun s u hs hu => (step_keeps s u hu).mem hs, fun s u hh hb hu => (step_keeps s u hu).held ⟨hh, hb⟩⟩

end Machine
end Sys2Proof
end

section
/-! PROOFS. The checks of an engine word in their order, and those of one operand (R72, R144, R149, R342). -/

namespace Sys2Proof.Machine

/-! ### The checks of a word -/

section
variable {i : Instr} {t : TCtl} {e : EngSpec} {s : State} {x : Nat × Word}

/-- An illegal semaphore field comes before everything else. -/
theorem State.enqCheck_illegal {v : Word} (h : s.semFields t (encode i) = .error (Cause.illegal, v)) :
    s.enqCheck i t e = .error (Cause.illegal, v) := by
  unfold State.enqCheck
  rw [h]
  rfl

/-- Semaphores outside the allocation come after what the word names and the word's own checks. -/
theorem State.enqCheck_outside {c : Nat} {v : Word} (h : s.semFields t (encode i) = .error (c, v)) (hc : c ≠ Cause.illegal) :
    s.enqCheck i t e = .error ((s.checkNamed e.portTval e.named <|> e.own s).getD (c, v)) := by
  obtain _ | _ | c := c
  · unfold State.enqCheck
    rw [h]
    cases s.checkNamed e.portTval e.named <;> cases e.own s <;> rfl
  · exact absurd rfl hc
  · unfold State.enqCheck
    rw [h]
    cases s.checkNamed e.portTval e.named <;> cases e.own s <;> rfl

variable {ss : Option Nat × Option Nat}

/-- The checks before the operands of a word whose semaphores pass. -/
theorem State.enqCheck_early (h : s.semFields t (encode i) = .ok ss)
    (hx : (s.checkNamed e.portTval e.named <|> e.own s <|> e.priv s) = some x) : s.enqCheck i t e = .error x := by
  unfold State.enqCheck
  rw [h]
  obtain hn | ⟨hn, hx⟩ := (Option.orElse_eq_some _ _ _).mp hx
  · simp [hn]
  · obtain ho | ⟨ho, hp⟩ := (Option.orElse_eq_some _ _ _).mp hx
    · simp [hn, ho]
    · simp [hn, ho, hp]

/-- What the word names and its own checks come before everything but an illegal semaphore field. -/
theorem State.enqCheck_unlessIllegal (h : ∀ v, s.semFields t (encode i) ≠ .error (Cause.illegal, v))
    (hx : (s.checkNamed e.portTval e.named <|> e.own s) = some x) : s.enqCheck i t e = .error x := by
  cases hs : s.semFields t (encode i) with
  | ok ss =>
    refine State.enqCheck_early hs ?_
    obtain hn | ⟨hn, ho⟩ := (Option.orElse_eq_some _ _ _).mp hx
    · simp [hn]
    · simp [hn, ho]
  | error y => rw [State.enqCheck_outside hs fun hc => h y.2 (by rw [hs, ← hc]), hx, Option.getD_some]

variable (h : s.semFields t (encode i) = .ok ss) (hn : s.checkNamed e.portTval e.named = none) (ho : e.own s = none)
  (hp : e.priv s = none)
include h hn ho hp

theorem State.enqCheck_operands (hx : s.checkOpnds i (e.opnds s) = .error x) : s.enqCheck i t e = .error x := by
  simp [State.enqCheck, h, hn, ho, hp, hx]

variable {ns : List Nat} {so : Bool} (hns : s.checkOpnds i (e.opnds s) = .ok (ns, so))
include hns

theorem State.enqCheck_after (hx : e.after s = some x) : s.enqCheck i t e = .error x := by
  simp [State.enqCheck, h, hn, ho, hp, hns, hx]

/-- At last the pin limits: of each operand, then of the cell. -/
theorem State.enqCheck_pins (ha : e.after s = none) :
    s.enqCheck i t e = if (∃ k ∈ ns, 2048 < k) ∨ 8192 < s.cellPins + ns.sum then .error (Cause.pinLimit, BitVec.ofNat 64 ns.sum)
      else .ok (ss, ns.sum, so) := by
  simp [State.enqCheck, h, hn, ho, hp, hns, ha]

end

/-! ### The operands in their order -/

section
variable {i : Instr} {s : State} {l : List Opnd}

/-- An operand that fails reports before those that follow it. -/
theorem State.checkOpnds_append_cons (h : ∀ p ∈ l, ∃ y, s.checkOpnd i p = .ok y) {o : Opnd} {x : Nat × Word}
    (ho : s.checkOpnd i o = .error x) (m : List Opnd) : s.checkOpnds i (l ++ o :: m) = .error x := by
  induction l with
  | nil => simp [State.checkOpnds, ho]
  | cons p l ih =>
    obtain ⟨⟨n, so⟩, hp⟩ := h p List.mem_cons_self
    simp [State.checkOpnds, hp, ih fun q hq => h q (List.mem_cons_of_mem p hq)]

/-- Operands that all pass give their entries, one number each. -/
theorem State.checkOpnds_ok (h : ∀ p ∈ l, ∃ y, s.checkOpnd i p = .ok y) :
    ∃ ns so, s.checkOpnds i l = .ok (ns, so) ∧ ns.length = l.length := by
  induction l with
  | nil => exact ⟨[], false, rfl, rfl⟩
  | cons p l ih =>
    obtain ⟨⟨n, so⟩, hp⟩ := h p List.mem_cons_self
    obtain ⟨ns, so', hl, hlen⟩ := ih fun q hq => h q (List.mem_cons_of_mem p hq)
    exact ⟨n :: ns, so || so', by simp [State.checkOpnds, hp, hl], by simp [hlen]⟩

end

/-! ### The order of the fields -/

/-- The operands of a word stand in the order of its fields. -/
def EngSpec.Ordered (e : EngSpec) : Prop := ∀ s, ((e.opnds s).map Opnd.fld).Pairwise (· ≤ ·)

@[simp] theorem State.portOpnd_fld (s : State) (f q n : Nat) (rd wr : Bool) : (s.portOpnd f q n rd wr).fld = f := rfl

@[simp] theorem State.hdlOpnd_fld (s : State) (f r : Nat) (rd wr far : Bool) : (s.hdlOpnd f r rd wr far).fld = f := rfl

/-- Operands of one field are in order. -/
theorem pairwise_fld_of_eq {l : List Opnd} {f : Nat} (h : ∀ o ∈ l, o.fld = f) : (l.map Opnd.fld).Pairwise (· ≤ ·) := by
  refine List.pairwise_map.mpr (List.pairwise_of_forall_mem_list fun a ha b hb => ?_)
  rw [h a ha, h b hb]

@[simp] theorem ordered_plainSpec (q : Nat) (i : Instr) (d : List Nat) : (plainSpec q i d).Ordered := fun _ => .nil
@[simp] theorem ordered_copySpec (i : Instr) (m : Bool) (d a c : BitVec 4) : (copySpec i m d a c).Ordered := fun _ => by simp [copySpec]
@[simp] theorem ordered_lctxRSpec (i : Instr) (b c : BitVec 4) : (lctxRSpec i b c).Ordered := fun _ => by simp [lctxRSpec]
@[simp] theorem ordered_lctxSSpec (i : Instr) (c : BitVec 4) : (lctxSSpec i c).Ordered := fun _ => .nil
@[simp] theorem ordered_lopenSpec (i : Instr) (b c : BitVec 4) : (lopenSpec i b c).Ordered := fun _ => .nil
@[simp] theorem ordered_lpushSpec (i : Instr) (b : BitVec 4) : (lpushSpec i b).Ordered := fun _ => by simp [lpushSpec]
@[simp] theorem ordered_gatherSpec (i : Instr) (op : GatherOp) (d a b c : BitVec 4) : (gatherSpec i op d a b c).Ordered :=
  fun _ => by simp [gatherSpec]
@[simp] theorem ordered_fleetSpec (i : Instr) (a : BitVec 4) (d : List Nat) : (fleetSpec i a d).Ordered := fun _ => by simp [fleetSpec]
@[simp] theorem ordered_mmaSpec (i : Instr) (f : MForm) (bank : BitVec 1) : (mmaSpec i f bank).Ordered := fun _ =>
  pairwise_fld_of_eq (f := 0) fun o ho => by
    rcases List.mem_append.mp ho with ho | ho <;> obtain ⟨q, -, rfl⟩ := List.mem_map.mp ho <;> rfl
@[simp] theorem ordered_mdrainSpec (i : Instr) (bank : BitVec 1) (d : BitVec 4) : (mdrainSpec i bank d).Ordered := fun _ => by simp [mdrainSpec]
@[simp] theorem ordered_bankSpec (i : Instr) (bank : BitVec 1) : (bankSpec i bank).Ordered := fun _ => .nil
@[simp] theorem ordered_msumSpec (i : Instr) (bank side : BitVec 1) (f gm c : BitVec 4) : (msumSpec i bank side f gm c).Ordered :=
  fun _ => pairwise_fld_of_eq (f := 0) fun o ho => by obtain ⟨q, -, rfl⟩ := List.mem_map.mp ho; rfl
@[simp] theorem ordered_mscaleSpec (i : Instr) (d : BitVec 4) : (mscaleSpec i d).Ordered := fun _ => by simp [mscaleSpec]
@[simp] theorem ordered_mmodeSpec (i : Instr) (c : BitVec 4) : (mmodeSpec i c).Ordered := fun _ => .nil
@[simp] theorem ordered_vecSpec (f : VForm) : (vecSpec f).Ordered := fun _ =>
  pairwise_fld_of_eq (f := 0) fun o ho => by obtain ⟨q, -, rfl⟩ := List.mem_map.mp ho; rfl
@[simp] theorem ordered_spPlain (i : Instr) : (spPlain i).Ordered := fun _ => .nil
@[simp] theorem ordered_spMem (i : Instr) (h : BitVec 4) (w : Bool) (own : State → Option (Nat × Word)) : (spMem i h w own).Ordered :=
  fun _ => by simp [spMem]

theorem engSpec_ordered {i : Instr} {t : TCtl} {e : EngSpec} (h : engSpec i = some (t, e)) : e.Ordered := by
  cases i <;> cases h <;> simp

/-! ### One operand -/

section
variable {o : Opnd} {s : State} (i : Instr)

/-- A misaligned operand reports its BASE (R144). -/
theorem State.checkOpnd_misaligned (h : hMisaligned o.h = true) :
    s.checkOpnd i o = .error (Cause.misaligned, BitVec.ofNat 64 (hBase o.h)) := by
  simp [State.checkOpnd, h]

variable (h : hMisaligned o.h = false)
include h

/-- SPACE 11 where the entry does not allow it is an illegal word (R149). -/
theorem State.checkOpnd_notFar (hs : hSpace o.h = 3) (hf : o.far = false) :
    s.checkOpnd i o = .error (Cause.illegal, 0#16 ++ encode i) := by
  simp [State.checkOpnd, h, hs, hf, wordTval]

/-- A cell's own spaces: what `ownCheck` finds is the operand's error (R72, R149). -/
theorem State.checkOpnd_own (hs : hSpace o.h = 1 ∨ hSpace o.h = 2) {x : Nat × Word} (hx : s.ownCheck o = some x) :
    s.checkOpnd i o = .error x := by
  rcases hs with hs | hs <;> simp [State.checkOpnd, h, hs, hx]

/-- An operand of the scratchpad: the lowest byte outside it, then the lowest outside the context's rows. -/
theorem State.checkOpnd_scratch (hs : hSpace o.h = 1) :
    (∀ a, lowestOutside o.ranges 0 (s.capss s.slotNo) = some a → s.checkOpnd i o = .error (Cause.translation, BitVec.ofInt 64 a))
    ∧ ∀ a, lowestOutside o.ranges 0 (s.capss s.slotNo) = none →
      lowestOutside o.ranges ((s.ctx.sprow0 * 6144 : Nat) : Int) (((s.ctx.sprow0 + s.ctx.sprows) * 6144 : Nat) : Int) = some a →
      s.checkOpnd i o = .error (Cause.privilege, BitVec.ofInt 64 a) :=
  ⟨fun _ ha => s.checkOpnd_own i h (.inl hs) (by simp [State.ownCheck, hs, ha]),
    fun _ hn ha => s.checkOpnd_own i h (.inl hs) (by simp only [State.ownCheck, hs, if_true, hn, ha])⟩

/-- An operand of fleeting memory: the lowest byte outside it, then the lowest outside the context's tiles. -/
theorem State.checkOpnd_fleeting (hs : hSpace o.h = 2) :
    (∀ a, lowestOutside o.ranges 0 ((clsTiles s.vd.cls * 4096 : Nat) : Int) = some a →
      s.checkOpnd i o = .error (Cause.translation, BitVec.ofInt 64 a))
    ∧ ∀ a, lowestOutside o.ranges 0 ((clsTiles s.vd.cls * 4096 : Nat) : Int) = none →
      lowestOutside o.ranges ((s.ctx.ftile0 * 4096 : Nat) : Int) (((s.ctx.ftile0 + s.ctx.ftiles) * 4096 : Nat) : Int) = some a →
      s.checkOpnd i o = .error (Cause.privilege, BitVec.ofInt 64 a) := by
  have h21 : ¬ (2 = 1) := by decide
  exact ⟨fun _ ha => s.checkOpnd_own i h (.inr hs) (by simp only [State.ownCheck, hs, h21, if_false, ha]),
    fun _ hn ha => s.checkOpnd_own i h (.inr hs) (by simp only [State.ownCheck, hs, h21, if_false, hn, ha])⟩

end

/-- Settles O35: the checks of `enqCheck` one after another, then those of the operands in field order, and those of one operand. -/
theorem engineCheckOrder : Obligations.EngineCheckOrder := by
  unfold Obligations.EngineCheckOrder
  refine ⟨fun i t e v s h => State.enqCheck_illegal h, fun i t e x s h hn => ?_, fun i t e x s h hn ho => ?_,
    fun i t e x s h hn ho => ?_, fun i t e ss s h hn ho => ⟨fun x hp => State.enqCheck_early h (by simp [hn, ho, hp]), fun hp => ?_⟩,
    fun i l m o x s h ho => State.checkOpnds_append_cons h ho m, fun i l s h => State.checkOpnds_ok h,
    fun i t e s h => engSpec_ordered h s, fun i o s => ⟨State.checkOpnd_misaligned i, State.checkOpnd_notFar i,
      State.checkOpnd_scratch i, State.checkOpnd_fleeting i⟩⟩
  case refine_1 => exact State.enqCheck_unlessIllegal h (by simp [hn])
  case refine_2 => exact State.enqCheck_unlessIllegal h (by simp [hn, ho])
  case refine_3 =>
    obtain ⟨c, v⟩ := x
    by_cases hc : c = Cause.illegal
    · subst hc
      exact State.enqCheck_illegal h
    · rw [State.enqCheck_outside h hc, hn, ho]
      rfl
  case refine_4 =>
    refine ⟨fun x hx => State.enqCheck_operands h hn ho hp hx, fun ns so hns =>
      ⟨fun x ha => State.enqCheck_after h hn ho hp hns ha, fun ha hk => ?_, fun ha hk hc => ?_⟩⟩
    · rw [State.enqCheck_pins h hn ho hp hns ha, if_pos hk]
    · rw [State.enqCheck_pins h hn ho hp hns ha, if_neg]
      rintro (⟨k, hm, hlt⟩ | hlt)
      · exact absurd (hk k hm) (by omega)
      · omega

end Sys2Proof.Machine
end

section
/-! PROOFS. Accesses from outside a strand: through BAR2, the host's registers and the die windows (R74, R77, R78, R92, R155, R162,
R164, R167). -/

namespace Sys2Proof.Machine

/-! ### The events' arms -/

theorem exec_launch (addr : BitVec 48) (link : Nat) (s : State) : exec (.launch addr link) s = execLaunch addr link s := by rfl

theorem exec_rerunRequest (value : BitVec 64) (s : State) : exec (.rerunRequest value) s = execRerunRequest value s := by rfl

theorem exec_hostRegisterWrite (off : BitVec 12) (value : BitVec 64) (s : State) :
    exec (.hostRegisterWrite off value) s = execHostRegisterWrite off value s := by rfl

theorem exec_hostBar2Access (wr : Bool) (link : Nat) (addr : BitVec 48) (data : List Byte) (s : State) :
    exec (.hostBar2Access wr link addr data) s = execHostBar2Access wr link addr data s := by rfl

theorem exec_dieWindowAccess (wr : Bool) (slot : Nat) (addr : BitVec 48) (data : List Byte) (s : State) :
    exec (.dieWindowAccess wr slot addr data) s = execDieWindowAccess wr slot addr data s := by rfl

/-! ### Ranges of bytes -/

theorem mem_upFrom {a n k : Nat} : k ∈ upFrom a n ↔ a ≤ k ∧ k < a + n := by
  rw [upFrom_eq_range', List.mem_range'_1]

/-- A function of consecutive numbers, by their distances from the first. -/
theorem map_upFrom {α : Type} (f : Nat → α) (a n : Nat) : (upFrom a n).map f = (List.range n).map fun k => f (a + k) := by
  rw [upFrom_eq_range', List.range'_eq_map_range, List.map_map]
  rfl

theorem anyByte_eq_false {f : Nat → Bool} {a n : Nat} : anyByte f a n = false ↔ ∀ k, a ≤ k → k < a + n → f k = false := by
  simp only [anyByte, List.any_eq_false, mem_upFrom, Bool.not_eq_true, and_imp]

/-! ### HOST_BAR2_ACCESS -/

section
variable {wr : Bool} {link : Nat} {addr : BitVec 48} {data : List Byte} {s : State}

theorem bar2_beforeReady (hr : s.ready = false) : ∃ u, exec (.hostBar2Access wr link addr data) s = .next u
    ∧ u.nracc = true ∧ u.mem = s.mem ∧ u.cur = s.cur := by
  rw [exec_hostBar2Access]
  refine ⟨_, rfl, ?_⟩
  cases wr <;> simp [hr]

variable (hr : s.ready = true)
include hr

/-- What the firewall or the text lock refuses is reported, and writes nothing (R77, R92). -/
theorem bar2_refused
    (h : (anyByte s.secureByte addr.toNat data.length || (wr && anyByte s.lockedByte addr.toNat data.length)) = true) :
    ∃ u, exec (.hostBar2Access wr link addr data) s = .next u ∧ u.aer = s.aer + 1 ∧ u.mem = s.mem ∧ u.cur = s.cur := by
  rw [exec_hostBar2Access]
  refine ⟨_, rfl, ?_⟩
  rw [h]
  cases wr <;> simp [hr]

variable (h : (anyByte s.secureByte addr.toNat data.length || (wr && anyByte s.lockedByte addr.toNat data.length)) = false)
include h

/-- What a tile keeps waiting is made at the next tick (R162, R167). -/
theorem bar2_waits (hw : s.outWaits wr addr.toNat data.length = true) :
    exec (.hostBar2Access wr link addr data) s = .next { s with windows := s.windows ++ [(s.z0 + 1, .hostBar2Access wr link addr data)] } := by
  rw [exec_hostBar2Access]
  simp [execHostBar2Access, hr, h, hw]

theorem bar2_made (hw : s.outWaits wr addr.toNat data.length = false) :
    exec (.hostBar2Access wr link addr data) s = .next (State.outAccess link s wr addr.toNat data) := by
  rw [exec_hostBar2Access]
  simp [execHostBar2Access, hr, h, hw]

end

/-- A read leaves the bytes that it finds, and changes nothing else. -/
theorem State.outAccess_read (slot a : Nat) (data : List Byte) (s : State) :
    State.outAccess slot s false a data = { s with readData := (List.range data.length).map fun k => s.outByte (a + k) } := by
  unfold State.outAccess
  rw [map_upFrom]
  rfl

theorem State.outAccess_read_parts (slot a : Nat) (data : List Byte) (s : State) :
    (State.outAccess slot s false a data).readData = (List.range data.length).map (fun k => s.outByte (a + k))
      ∧ (State.outAccess slot s false a data).mem = s.mem ∧ (State.outAccess slot s false a data).cur = s.cur := by
  rw [State.outAccess_read]
  exact ⟨rfl, rfl, rfl⟩

/-! ### A write into HBM -/

/-- Bytes written into HBM by dies that answer stand in memory, and nothing else changes. -/
theorem State.outWrites_hbm (slot : Nat) (data : List Byte) {s : State} {a : Nat} (htop : a + data.length ≤ s.hbmTop)
    (hans : ∀ k, a ≤ k → k < a + data.length → s.answers k = true) :
    State.outWrites slot s a data = { s with mem := wrMems s.mem a data } := by
  induction data generalizing s a with
  | nil => rfl
  | cons b data ih =>
    rw [List.length_cons] at htop hans
    have h1 : State.outWrite1 slot s a b = { s with mem := wrMem s.mem a b } := by
      simp [State.outWrite1, hans a le_rfl (by omega), State.placeOf_of_hbm (show a < s.hbmTop by omega)]
    rw [State.outWrites, h1]
    exact ih (s := { s with mem := wrMem s.mem a b }) (show a + 1 + data.length ≤ s.hbmTop by omega)
      fun k hk hlt => hans k (by omega) (by omega)

/-- No tile lies in HBM. -/
theorem State.outTiles_hbm {s : State} {a n : Nat} (h : a + n ≤ s.hbmTop) : s.outTiles a n = [] := by
  unfold State.outTiles
  refine List.filterMap_eq_nil_iff.mpr fun p _ => ?_
  dsimp only
  by_cases hlt : max a (p * 4096) < min (a + n) (p * 4096 + 4096)
  · rw [State.placeOf_of_hbm (by omega)]
  · split
    · simp [hlt]
    · rfl

theorem State.outWaits_hbm {s : State} {a n : Nat} (h : a + n ≤ s.hbmTop) (wr : Bool) : s.outWaits wr a n = false := by
  rw [State.outWaits, State.outTiles_hbm h]
  rfl

theorem State.outAccess_hbm (slot : Nat) {data : List Byte} {s : State} {a : Nat} (htop : a + data.length ≤ s.hbmTop)
    (hans : anyByte (fun k => !s.answers k) a data.length = false) :
    State.outAccess slot s true a data = { s with mem := wrMems s.mem a data } := by
  rw [State.outAccess, if_pos rfl, State.outWrite, State.outTiles_hbm htop, List.foldl_nil, State.outWrites_hbm slot data htop]
  exact fun k hk hlt => by simpa using anyByte_eq_false.mp hans k hk hlt

/-! ### HOST_REGISTER_WRITE -/

theorem register_status (value : BitVec 64) (s : State) :
    exec (.hostRegisterWrite 0x008 value) s = .next (s.writeStatus value) := by
  rw [exec_hostRegisterWrite]
  simp [execHostRegisterWrite, earlyReg]

theorem register_launch (value : BitVec 64) (s : State) :
    exec (.hostRegisterWrite 0x010 value) s = exec (.launch (value.extractLsb' 0 48) 19) s := by rfl

section
variable {s : State} (hr : s.ready = true) (value : BitVec 64)
include hr

theorem register_rerun : exec (.hostRegisterWrite 0x038 value) s = exec (.rerunRequest value) s := by
  rw [exec_hostRegisterWrite, exec_rerunRequest]
  simp [execHostRegisterWrite, hr]

theorem register_readOnly {off : BitVec 12} (h8 : off ≠ 0x008) (h10 : off ≠ 0x010) (h38 : off ≠ 0x038) :
    exec (.hostRegisterWrite off value) s = .next s := by
  rw [exec_hostRegisterWrite, execHostRegisterWrite, if_neg h10, if_neg (by simp [hr]), if_neg h8, if_neg h38]

end

/-! ### DIE_WINDOW_ACCESS -/

section
variable {slot : Nat} {addr : BitVec 48} {data : List Byte} {s : State} (hin : inWindows addr.toNat = true)
include hin

theorem window_waits {wr : Bool} (hw : s.outWaits wr addr.toNat data.length = true) :
    exec (.dieWindowAccess wr slot addr data) s = .next { s with windows := s.windows ++ [(s.z0 + 1, .dieWindowAccess wr slot addr data)] } := by
  rw [exec_dieWindowAccess]
  simp [execDieWindowAccess, hin, hw]

/-- A strand in a cell of a slot's die, which takes what the accesses of that die report. -/
def State.ofDie (s : State) (slot : Nat) (c : Strand) : Bool := c.status != .idle && !c.out && ((s.launchD c.prio).vd c.vdie).slot == slot

omit hin in
theorem State.ofDie_cur (hst : s.cur.status ≠ .idle) (hout : s.cur.out = false) (hslot : s.slotNo = slot) : s.ofDie slot s.cur = true := by
  simp only [State.ofDie, hout, Bool.not_false, Bool.and_true, Bool.and_eq_true, bne_iff_ne, beq_iff_eq]
  exact ⟨hst, hslot⟩

/-- A read of what answers leaves its bytes, and EXP in a strand of the reading die where it meets an expired tile (R155, R164). -/
theorem window_read (hans : anyByte (fun k => !s.answers k) addr.toNat data.length = false)
    (hw : s.outWaits false addr.toNat data.length = false) :
    exec (.dieWindowAccess false slot addr data) s = .next (
      if s.outExpired addr.toNat data.length then (State.outAccess slot s false addr.toNat data).asStrand (s.ofDie slot) (·.orExp 1)
      else State.outAccess slot s false addr.toNat data) := by
  rw [exec_dieWindowAccess]
  unfold execDieWindowAccess
  dsimp only
  rw [hin, hw, hans, if_neg (by decide), if_neg Bool.false_ne_true, if_neg Bool.false_ne_true]
  rfl

end

/-- What the focused strand is leaves memory and the bytes of the last read alone. -/
theorem State.focus_mem_readData (f : Strand → Bool) (s : State) : (s.focus f).mem = s.mem ∧ (s.focus f).readData = s.readData := by
  unfold State.focus
  split
  · exact ⟨rfl, rfl⟩
  · split <;> exact ⟨rfl, rfl⟩

theorem State.asStrand_orExp_mem_readData (f : Strand → Bool) (b : BitVec 2) (s : State) :
    (s.asStrand f (·.orExp b)).mem = s.mem ∧ (s.asStrand f (·.orExp b)).readData = s.readData := by
  unfold State.asStrand
  dsimp only
  split
  · exact s.focus_mem_readData f
  · exact ⟨rfl, rfl⟩

/-- The focused strand acts where the test holds for it. -/
theorem State.asStrand_of_cur {f : Strand → Bool} {s : State} (h : f s.cur = true) (g : State → State) : s.asStrand f g = g s := by
  have hf : s.focus f = s := if_pos h
  rw [State.asStrand, hf, if_pos h]

/-! ### Host reads of BAR0 -/

theorem State.strandDue_ne_read (s : State) (l : List Strand) : s.strandDue l ≠ some .read := by
  induction l with
  | nil => simp [State.strandDue]
  | cons c l ih =>
    unfold State.strandDue
    split
    · split
      · exact ih
      · simp
    · exact ih

theorem firstTry_mem {l : List (List Nat × Todo)} {e : List Nat × Todo} (h : firstTry l = some e) : e ∈ l := by
  induction l with
  | nil => cases h
  | cons a l ih =>
    unfold firstTry at h
    split at h
    next b hb =>
      split at h <;> cases h
      · exact List.mem_cons_self
      · exact List.mem_cons_of_mem a (ih hb)
    next => cases h; exact List.mem_cons_self

theorem State.tries_ne_read {s : State} {c : Strand} {e : List Nat × Todo} (h : e ∈ s.tries c) : e.2 ≠ .read := by
  unfold State.tries at h
  split at h
  · cases h
  · rcases List.mem_append.mp h with h | h
    · split at h
      · rw [List.mem_singleton.mp h]; simp
      · cases h
    · obtain ⟨q, -, hq⟩ := List.mem_filterMap.mp h
      split at hq
      · split at hq
        · cases hq; simp
        · cases hq
      · cases hq

/-- A host read is due only where one has arrived. -/
theorem State.reads_of_due {s : State} (h : s.due = .read) : ∃ e ∈ s.reads, e.1 ≤ s.z0 := by
  by_contra hno
  have hany : (s.reads.any fun e => decide (e.1 ≤ s.z0)) = false := by simpa using hno
  unfold State.due at h
  rw [hany] at h
  split at h
  · cases h
  · split at h
    · cases h
    · rw [if_neg Bool.false_ne_true] at h
      split at h
      · cases h
      · dsimp only at h
        split at h
        next ht => exact s.strandDue_ne_read _ (ht.trans (congrArg some h))
        next =>
          split at h
          next ht =>
            obtain ⟨c, -, hc⟩ := List.mem_flatMap.mp (firstTry_mem ht)
            exact State.tries_ne_read hc h
          next =>
            split at h
            · cases h
            · split at h <;> cases h

/-- A host read that has arrived gives the register, or before READY zero with NRACC but for IDENT and STATUS (R78). -/
theorem step_read {s : State} (h : s.due = .read) : ∃ e u, e ∈ s.reads ∧ e.1 ≤ s.z0 ∧ step s = .next u
    ∧ (if s.ready || e.2 == 0 || e.2 == 8 then u.readData = leBytes 8 (s.hostReg e.2).toNat ∧ u.nracc = s.nracc
        else u.readData = leBytes 8 0 ∧ u.nracc = true)
    ∧ u.mem = s.mem ∧ u.cur = s.cur := by
  obtain ⟨e0, he0, hle0⟩ := State.reads_of_due h
  obtain ⟨e, he⟩ : ∃ e, s.reads.find? (fun e => decide (e.1 ≤ s.z0)) = some e :=
    Option.isSome_iff_exists.mp (List.find?_isSome.mpr ⟨e0, he0, by simpa using hle0⟩)
  have hstep : step s = .next s.doRead := by
    unfold step
    rw [h]
    rfl
  refine ⟨e, s.doRead, List.mem_of_find?_eq_some he, by simpa using List.find?_some he, hstep, ?_⟩
  unfold State.doRead
  rw [he]
  unfold State.hostRead earlyReg
  dsimp only
  rw [← Bool.or_assoc]
  split
  · exact ⟨⟨rfl, rfl⟩, rfl, rfl⟩
  · exact ⟨⟨rfl, rfl⟩, rfl, rfl⟩

/-- Settles O54: each access by the case of its event that it meets. -/
theorem outsideAccesses : Obligations.OutsideAccesses := by
  unfold Obligations.OutsideAccesses
  refine ⟨fun wr link addr data s hr => bar2_beforeReady hr, fun wr link addr data s hr h => bar2_refused hr h,
    fun link addr data s hr hsec hw => ?read, fun link addr data s hr hsec hlock htop hans => ?write,
    register_status, fun value s hr => ⟨register_launch value s, register_rerun hr value⟩,
    fun off value s hr h8 h10 h38 => register_readOnly hr value h8 h10 h38,
    fun slot addr data s hin hans hw => ?window, fun wr slot addr data s hin hw => window_waits hin hw,
    fun wr link addr data s hr hsec hlock hw => bar2_waits hr ?bar2Waits hw, fun s hs => step_read hs⟩
  case read =>
    refine ⟨_, bar2_made hr (by simp [hsec]) hw, State.outAccess_read_parts link addr.toNat data s⟩
  case write =>
    refine ⟨_, bar2_made hr (by simp [hsec, hlock]) (State.outWaits_hbm htop true), ?_⟩
    rw [State.outAccess_hbm link htop hans]
    refine ⟨fun k hk => rdMem_wrMems_in data s.mem addr.toNat k hk, ⟨fun a ha => ?_, rfl⟩, rfl⟩
    exact rdMem_wrMems_out data s.mem addr.toNat a (by omega)
  case window =>
    refine ⟨_, window_read hin hans hw, ?_⟩
    obtain ⟨hread, hmem, hcur⟩ := State.outAccess_read_parts slot addr.toNat data s
    cases hexp : s.outExpired addr.toNat data.length with
    | false => exact ⟨hread, hmem, fun _ => hcur, fun h => absurd h Bool.false_ne_true⟩
    | true =>
      rw [if_pos rfl]
      obtain ⟨hmem', hread'⟩ := State.asStrand_orExp_mem_readData (s.ofDie slot) 1 (State.outAccess slot s false addr.toNat data)
      refine ⟨hread'.trans hread, hmem'.trans hmem, fun h => absurd h.symm Bool.false_ne_true, fun _ hst hout hslot => ?_⟩
      rw [State.asStrand_of_cur (by rw [hcur]; exact State.ofDie_cur hst hout hslot)]
      unfold State.orExp
      rw [State.modCur_cur, hcur]
      exact ⟨rfl, rfl, rfl⟩
  case bar2Waits =>
    cases wr with
    | false => simp [hsec]
    | true => simp [hsec, hlock rfl]

end Sys2Proof.Machine
end

section
/-! PROOFS. What loading work, preparing dies and moving launches leave alone: a state's shell is the state without memory and what
goes with it, and its desk is the shell without the strands and what they own (R69, R75, R83, R87, R172, R315, R316). -/

namespace Sys2Proof.Machine

/-- A state without memory, the births of tiles, the translation cache, the counter of free values and the power controller. -/
def State.shell (s : State) : State := { s with mem := [], births := [], cache := [], free := 0, power := {} }

/-- A state's shell without the strands and what belongs to them: link contexts, segments, atomics, held writes and sessions. -/
def State.desk (s : State) : State :=
  { s.shell with cur := {}, others := [], links := [], segs := [], atoms := [], held := [], sessions := [] }

/-- States of one shell have the same desk. -/
theorem State.desk_of_shell {s t : State} (h : s.shell = t.shell) : s.desk = t.desk :=
  congrArg (fun u : State => { u with cur := {}, others := [], links := [], segs := [], atoms := [], held := [], sessions := [] }) h

/-- Steps that each keep the shell keep it together. -/
theorem State.shell_foldl {α : Type} {f : State → α → State} (hf : ∀ t x, (f t x).shell = t.shell) (l : List α) (s : State) :
    (l.foldl f s).shell = s.shell := by
  induction l generalizing s with
  | nil => rfl
  | cons x l ih => rw [List.foldl_cons, ih, hf]

theorem State.shell_withMem (s : State) (m : Memory) : ({ s with mem := m } : State).shell = s.shell := rfl

/-! ### The loader -/

theorem State.shell_putSlices (s : State) (x : Obj) (k : Nat) (v : VdieEnt) : (s.putSlices x k v).shell = s.shell := by
  unfold State.putSlices
  dsimp only
  split
  · rfl
  · exact State.shell_foldl (fun t _ => t.shell_withMem _) _ s

theorem State.shell_cacheText (s : State) (key : BitVec 256) (cls : Cls) (image : List Byte) :
    (s.cacheText key cls image).shell = s.shell := by
  unfold State.cacheText
  dsimp only
  split <;> rfl

theorem State.shell_translateObj (s : State) (c : Ctx) (slots : List Nat) (x : Obj) : (s.translateObj c slots x).1.shell = s.shell := by
  unfold State.translateObj
  dsimp only
  split
  · rfl
  · split
    · rfl
    · refine (State.shell_foldl (fun t k => ?_) _ _).trans (State.shell_foldl (fun t _ => t.shell_withMem _) _ s)
      split
      · rfl
      · exact t.shell_cacheText _ _ _

theorem State.shell_translateAll (c : Ctx) (slots : List Nat) (l : List Obj) (s : State) :
    (s.translateAll c slots l).1.shell = s.shell := by
  induction l generalizing s with
  | nil => rfl
  | cons x l ih =>
    have hx := s.shell_translateObj c slots x
    unfold State.translateAll
    split
    next heq => rwa [heq] at hx
    next t e heq =>
      rw [heq] at hx
      have hl := (ih t).trans hx
      split
      next heq' => rwa [heq'] at hl
      next heq' => rwa [heq'] at hl

/-- A relocation record fails or patches memory (R139). -/
theorem State.shell_relocOne (s : State) (x : Obj) (syms : List (Nat × Option Nat)) (i : Nat) :
    (s.relocOne x syms i).map State.shell = (s.relocOne x syms i).map fun _ => s.shell := by
  unfold State.relocOne
  dsimp only
  repeat' split
  all_goals rfl

theorem State.shell_putCore (s : State) (a v : Nat) : (s.putCore a v).shell = s.shell := s.shell_withMem _

theorem State.shell_noteValue (s : State) (x : Obj) (syms : List (Nat × Option Nat)) (i : Nat) :
    (s.noteValue x syms i).shell = s.shell := by
  unfold State.noteValue
  dsimp only
  split <;> rfl

theorem State.shell_relocGo (x : Obj) (syms : List (Nat × Option Nat)) (n i : Nat) (s : State) :
    (relocGo x syms n i s).1.shell = s.shell := by
  induction n generalizing s i with
  | zero => rfl
  | succ n ih =>
    have hv := s.shell_noteValue x syms i
    have hr := (s.noteValue x syms i).shell_relocOne x syms i
    unfold relocGo
    dsimp only
    split
    · exact hv
    next heq =>
      rw [heq] at hr
      exact (ih _ _).trans ((Except.ok.inj hr).trans hv)

theorem State.shell_loaderStore (s : State) (map : List (Nat × Nat × Nat)) (va v : Nat) : (s.loaderStore map va v).shell = s.shell := by
  unfold State.loaderStore
  split <;> rfl

theorem State.shell_loaderTables (s : State) (x : Obj) (syms : List (Nat × Option Nat)) : (s.loaderTables x syms).shell = s.shell := by
  unfold State.loaderTables
  dsimp only
  refine (State.shell_foldl (fun t e => ?_) _ _).trans (State.shell_foldl (fun t e => ?_) _ s)
  · exact (State.shell_putCore _ _ _).trans (State.shell_putCore _ _ _)
  · exact (State.shell_putCore _ _ _).trans (State.shell_putCore _ _ _)

theorem State.shell_relocObj (s : State) (objs : List (Obj × FsfMap)) (me : Nat) : (s.relocObj objs me).1.shell = s.shell := by
  unfold State.relocObj
  split
  · rfl
  · dsimp only
    refine (State.shell_relocGo _ _ _ _ _).trans ?_
    refine (State.shell_foldl (fun t e => ?_) _ _).trans (s.shell_loaderTables _ _)
    split
    · exact t.shell_loaderStore _ _ _
    · rfl

theorem State.shell_loaderInbox (s : State) (x : Obj) : (s.loaderInbox x).shell = s.shell := by
  unfold State.loaderInbox
  split
  · rfl
  · exact s.shell_withMem _

theorem State.shell_relocAll (objs : List (Obj × FsfMap)) (n i : Nat) (s : State) : (relocAll objs n i s).1.shell = s.shell := by
  induction n generalizing s i with
  | zero => rfl
  | succ n ih =>
    have ht : ((((objs[i]?).elim s fun x => s.loaderInbox x.1).relocObj objs i).1).shell = s.shell := by
      rw [State.shell_relocObj]
      cases objs[i]? with
      | none => rfl
      | some x => exact s.shell_loaderInbox x.1
    unfold relocAll
    split
    next heq => rwa [heq] at ht
    next t heq =>
      rw [heq] at ht
      exact (ih _ _).trans ht

/-- Loading a plan leaves the shell alone, whether it fails or not. -/
theorem State.shell_loadPlan (s : State) (prio : Bool) (p : Plan) : (s.loadPlan prio p).1.shell = s.shell := by
  unfold State.loadPlan
  extract_lets s1 s2
  have h1 : s1.shell = s.shell := State.shell_foldl (fun t _ => t.shell_withMem _) _ s
  have h2 : s2.shell = s.shell := by
    dsimp only [s2]
    split
    · exact (State.shell_foldl (fun t _ => t.shell_putSlices _ _ _) _ _).trans h1
    · exact h1
  have ht := (State.shell_translateAll p.record.ctx0 p.slots p.objs s2).trans h2
  split
  next heq => rwa [heq] at ht
  next s3 objs heq =>
    rw [heq] at ht
    have hr := (State.shell_relocAll objs objs.length 0 s3).trans ht
    split
    · exact ht
    · split
      · exact ht
      · split
        next heq' => rwa [heq'] at hr
        next heq' =>
          rw [heq'] at hr
          exact hr

/-! ### Dies and rails -/

theorem State.shell_setBirths (s : State) (slot : Nat) (c : Ctx) (b : Option Int) : (s.setBirths slot c b).shell = s.shell := rfl

theorem State.shell_clearSems (s : State) (slot : Nat) (c : Ctx) (n : Nat) : (s.clearSems slot c n).shell = s.shell := rfl

theorem State.shell_prepareDies (s : State) (l : Launch) : (s.prepareDies l).shell = s.shell := by
  unfold State.prepareDies
  exact State.shell_foldl (fun _ _ => by rfl) _ s

theorem State.shell_railUpdate (s : State) (slot cl : Nat) : (s.railUpdate slot cl).shell = s.shell := by
  obtain ⟨p, hp⟩ := s.railUpdate_eq slot cl
  rw [hp]
  rfl

theorem State.shell_railUpdates (l : List (Nat × Nat)) (s : State) :
    (l.foldl (fun (t : State) e => t.railUpdate e.1 e.2) s).shell = s.shell :=
  State.shell_foldl (fun t e => t.shell_railUpdate e.1 e.2) l s

theorem State.shell_putInbox (s : State) (c : Strand) : (s.putInbox c).shell = s.shell := by
  unfold State.putInbox
  exact State.shell_foldl (fun t _ => t.shell_withMem _) _ s

end Sys2Proof.Machine
end

section
/-! PROOFS. The registers that describe a launch, the strands of a launch, and what taking a launch away and applying health leave
(R13, R75, R76, R82, R92, R314). -/

namespace Sys2Proof.Machine

/-! ### The registers of a launch (R76) -/

theorem State.modJob_eq (s : State) (p : Bool) (f : JobRegs → JobRegs) : ∃ r a, s.modJob p f = { s with regs := r, aside := a } := by
  unfold State.modJob
  split
  · exact ⟨s.regs, _, rfl⟩
  · exact ⟨_, s.aside, rfl⟩

theorem State.setJob_eq (s : State) (p : Bool) (j : Nat) :
    ∃ r a m, s.setJob p j = { s with regs := r, aside := a, msi0 := m } := by
  obtain ⟨r, a, h⟩ := s.modJob_eq p fun r => { r with job := j }
  unfold State.setJob
  rw [h]
  dsimp only
  split
  · exact ⟨r, a, s.msi0, rfl⟩
  · exact ⟨r, a, s.msi0 + 1, rfl⟩

@[simp] theorem State.jobRegs_modJob (s : State) (p : Bool) (f : JobRegs → JobRegs) : (s.modJob p f).jobRegs p = f (s.jobRegs p) := by
  unfold State.modJob State.jobRegs
  split <;> rfl

@[simp] theorem State.jobRegs_setJob (s : State) (p : Bool) (j : Nat) :
    (s.setJob p j).jobRegs p = { s.jobRegs p with job := j } := by
  have h := s.jobRegs_modJob p fun r => { r with job := j }
  unfold State.setJob
  dsimp only
  split <;> exact h

/-- Of a launch whose registers are shown, they alone change. -/
theorem State.modJob_shown {s : State} {p : Bool} (h : (!p && s.pri) = false) (f : JobRegs → JobRegs) :
    s.modJob p f = { s with regs := f s.regs } := by
  unfold State.modJob
  rw [h, if_neg Bool.false_ne_true]

theorem State.setJob_shown {s : State} {p : Bool} (h : (!p && s.pri) = false) (j : Nat) :
    s.setJob p j = { s with regs := { s.regs with job := j }, msi0 := if s.regs.job = j then s.msi0 else s.msi0 + 1 } := by
  unfold State.setJob
  rw [State.modJob_shown h]
  dsimp only
  split <;> rfl

/-- The registers that describe a launch depend on those shown, those kept aside, and PRI. -/
theorem State.jobRegs_congr {s t : State} (hr : s.regs = t.regs) (ha : s.aside = t.aside) (hp : s.pri = t.pri) (p : Bool) :
    s.jobRegs p = t.jobRegs p := by
  unfold State.jobRegs
  rw [hr, ha, hp]

/-! ### The strands of a launch -/

/-- A change of strands that keeps where they belong and whether they are there. -/
def KeepsPlace (f : Strand → Strand) : Prop := ∀ c, (f c).prio = c.prio ∧ ((f c).status = .idle ↔ c.status = .idle)

theorem State.strandsOf_congr {s t : State} (hc : s.cur = t.cur) (ho : s.others = t.others) (p : Bool) : s.strandsOf p = t.strandsOf p := by
  unfold State.strandsOf State.allStrands
  rw [hc, ho]

theorem State.strandsOf_of_shell {s t : State} (h : s.shell = t.shell) (p : Bool) : s.strandsOf p = t.strandsOf p :=
  State.strandsOf_congr (congrArg State.cur h) (congrArg State.others h) p

@[simp] theorem State.mem_strandsOf {s : State} {p : Bool} {c : Strand} :
    c ∈ s.strandsOf p ↔ c ∈ s.allStrands ∧ c.prio = p ∧ c.status ≠ .idle := by
  simp [State.strandsOf]

/-- Whether a strand is of a launch survives a change that keeps its place. -/
theorem KeepsPlace.inLaunch {f : Strand → Strand} (hf : KeepsPlace f) (p : Bool) (c : Strand) :
    ((f c).prio == p && (f c).status != .idle) = (c.prio == p && c.status != .idle) := by
  obtain ⟨hp, hi⟩ := hf c
  rw [hp, Bool.eq_iff_iff]
  simp [hi]

section
variable {s : State} {p : Bool} {f : Strand → Strand} (hf : KeepsPlace f)
include hf

/-- The strands of a launch after a change of them all. -/
theorem State.strandsOf_modStrands : (s.modStrands p f).strandsOf p = (s.strandsOf p).map f := by
  change (s.allStrands.map fun c => if c.prio == p && c.status != .idle then f c else c).filter _ = (s.allStrands.filter _).map f
  rw [List.filter_map]
  have hP : ((fun c : Strand => c.prio == p && c.status != .idle) ∘ fun c => if c.prio == p && c.status != .idle then f c else c)
      = fun c => c.prio == p && c.status != .idle := by
    funext c
    dsimp only [Function.comp]
    split
    · exact hf.inLaunch p c
    · rfl
  rw [hP]
  exact List.map_congr_left fun c hc => if_pos (List.mem_filter.mp hc).2

/-- A change of the strands of one launch leaves those of the other alone. -/
theorem State.strandsOf_modStrands_other {q : Bool} (hq : q ≠ p) : (s.modStrands q f).strandsOf p = s.strandsOf p := by
  change (s.allStrands.map fun c => if c.prio == q && c.status != .idle then f c else c).filter _ = s.allStrands.filter _
  rw [List.filter_map]
  have hP : ((fun c : Strand => c.prio == p && c.status != .idle) ∘ fun c => if c.prio == q && c.status != .idle then f c else c)
      = fun c => c.prio == p && c.status != .idle := by
    funext c
    dsimp only [Function.comp]
    split
    · exact hf.inLaunch p c
    · rfl
  rw [hP]
  refine (List.map_congr_left fun c hc => if_neg ?_).trans (List.map_id _)
  have hp := (List.mem_filter.mp hc).2
  simp only [Bool.and_eq_true, beq_iff_eq] at hp ⊢
  exact fun h => hq (h.1.symm.trans hp.1)

end

/-! ### Taking a launch away (R92, R314) -/

theorem keepsPlace_dropInbox : KeepsPlace fun c => if c.inboxOut then c.dropInbox else c := by
  intro c
  dsimp only
  split <;> exact ⟨rfl, Iff.rfl⟩

theorem State.shell_inboxBack (s : State) (p : Bool) :
    (s.inboxBack p).shell = (s.modStrands p fun c => if c.inboxOut then c.dropInbox else c).shell :=
  State.shell_foldl (fun t c => t.shell_putInbox c) _ _

theorem State.strandsOf_dropStrands (s : State) (p : Bool) : (s.dropStrands p).strandsOf p = [] := by
  refine List.filter_eq_nil_iff.mpr fun c hc => ?_
  rcases List.mem_cons.mp hc with rfl | hc
  · dsimp only [State.dropStrands]
    split
    next h => simpa [imp_iff_not_or] using h
    next => simp
  · simpa [imp_iff_not_or] using (List.mem_filter.mp hc).2

theorem State.strandsOf_dropLaunch (s : State) (p : Bool) : (s.dropLaunch p).strandsOf p = [] := by
  have hb : ((s.dropStrands p).inboxBack (!p)).strandsOf p = [] := by
    rw [State.strandsOf_of_shell (State.shell_inboxBack _ _), State.strandsOf_modStrands_other keepsPlace_dropInbox (Bool.not_ne_self p),
      State.strandsOf_dropStrands]
  unfold State.dropLaunch
  dsimp only
  split <;> exact hb

theorem State.desk_dropLaunch_main (s : State) : (s.dropLaunch false).desk = { s.desk with main := none } :=
  congrArg (fun u : State => { u with main := none }) ((State.desk_of_shell ((s.dropStrands false).shell_inboxBack true)).trans
    (by rfl : _ = s.desk))

theorem State.desk_dropLaunch_prio (s : State) : (s.dropLaunch true).desk = { s.desk with prioL := none } :=
  congrArg (fun u : State => { u with prioL := none }) ((State.desk_of_shell ((s.dropStrands true).shell_inboxBack false)).trans
    (by rfl : _ = s.desk))

end Sys2Proof.Machine
end

section
/-! PROOFS. Health and bindings: what the slots of a launch depend on, and what moving it leaves (R13, R79 to R83, R172, R316). -/

namespace Sys2Proof.Machine

/-! ### Health -/

/-- What `applyHealth` reads and changes. -/
def State.health (s : State) : Word × Option FirmwareInfo × List Nat × List (Nat × Nat) × List Nat :=
  (s.dmix, s.fw, s.retire, s.failedCells, s.failedStacks)

/-- Applying health changes the health alone. -/
theorem State.applyHealth_eq (s : State) :
    ∃ d f r c k, s.applyHealth = { s with dmix := d, fw := f, retire := r, failedCells := c, failedStacks := k } := by
  unfold State.applyHealth
  split
  · exact ⟨_, _, _, _, _, rfl⟩
  · exact ⟨_, _, _, _, _, rfl⟩

theorem State.applyHealth_dmix_congr {s t : State} (h : s.health = t.health) : s.applyHealth.dmix = t.applyHealth.dmix := by
  simp only [State.health, Prod.mk.injEq] at h
  obtain ⟨hd, hf, hr, hc, hk⟩ := h
  unfold State.applyHealth
  rw [← hd, ← hf, ← hr, ← hc, ← hk]
  cases s.fw with
  | none => exact hd
  | some fw => rfl

/-! ### Slots -/

/-- What the slots of a launch depend on, beside the health. -/
def Launch.binding (l : Launch) : List VDie × Ctx × Ctx := (l.vdies, l.ctx0, l.ctx1)

/-- A change of a launch that keeps its binding. -/
theorem map_binding (o : Option Launch) {f : Launch → Launch} (h : ∀ l, (f l).binding = l.binding) :
    (o.map f).map Launch.binding = o.map Launch.binding := by
  cases o <;> simp [h]

theorem State.usable_congr {s t : State} (h : s.dmix = t.dmix) : s.usable = t.usable := by
  unfold State.usable State.good
  rw [h]

section
variable {s t : State} (hu : s.usable = t.usable) (high : Bool) (only : Option (List Nat))
include hu

theorem State.bindStep2_congr (l : List (VDie × Option Nat)) (seen : List Cls) (taken : List Nat) :
    s.bindStep2 high only l seen taken = t.bindStep2 high only l seen taken := by
  induction l generalizing seen taken with
  | nil => rfl
  | cons e l ih =>
    obtain ⟨v, _ | n⟩ := e
    · simp only [State.bindStep2, hu, ih]
    · simp only [State.bindStep2, ih]

theorem State.bindStep3_congr (l : List (VDie × Option Nat)) (taken : List Nat) :
    s.bindStep3 high only l taken = t.bindStep3 high only l taken := by
  induction l generalizing taken with
  | nil => rfl
  | cons e l ih => simp only [State.bindStep3, hu, ih]

end

/-- Of the package, the slots of some virtual dies depend on DMIX alone (R79, R80). -/
theorem State.place_congr {s t : State} (h : s.dmix = t.dmix) (high : Bool) (only : Option (List Nat)) (l : List VDie) :
    s.place high only l = t.place high only l := by
  have hu := State.usable_congr h
  unfold State.place
  simp only [hu, State.bindStep2_congr hu, State.bindStep3_congr hu]

/-- Rebinding changes the virtual dies alone. -/
theorem State.rebound_eq {s : State} {only : Option (List Nat)} {l b : Launch} (h : s.rebound only l = some b) :
    b = { l with vdies := b.vdies } := by
  unfold State.rebound at h
  split at h
  · cases h
  · cases h
    rfl

/-- The virtual dies of a rebinding depend on DMIX and on the binding before it. -/
theorem State.rebound_congr {s t : State} {l k : Launch} (hd : s.dmix = t.dmix) (hb : l.binding = k.binding) (only : Option (List Nat)) :
    (s.rebound only l).map Launch.vdies = (t.rebound only k).map Launch.vdies := by
  simp only [Launch.binding, Prod.mk.injEq] at hb
  obtain ⟨hv, h0, h1⟩ := hb
  unfold State.rebound
  rw [State.place_congr hd, hv, h0, h1]
  split <;> rfl

theorem State.rerunSlots_congr {s t : State} (hd : s.dmix = t.dmix) (hm : s.main.map Launch.binding = t.main.map Launch.binding) (p : Bool) :
    s.rerunSlots p = t.rerunSlots p := by
  have hs : s.main.isSome = t.main.isSome := by simpa using congrArg Option.isSome hm
  have hl : (s.launchD false).binding = (t.launchD false).binding := by
    have := congrArg (fun o => o.getD ({} : Launch).binding) hm
    change (s.main.map Launch.binding).getD _ = (t.main.map Launch.binding).getD _ at this
    rwa [Option.getD_map, Option.getD_map] at this
  have hv : ((s.rebound none (s.launchD false)).getD (s.launchD false)).vdies = ((t.rebound none (t.launchD false)).getD (t.launchD false)).vdies := by
    rw [← Option.getD_map Launch.vdies, ← Option.getD_map Launch.vdies, State.rebound_congr hd hl]
    exact congrArg _ (congrArg Prod.fst hl)
  unfold State.rerunSlots
  dsimp only
  rw [hs, hv]

end Sys2Proof.Machine
end

section
/-! PROOFS. A launch moved to the slots of the present health, and one that the health leaves no slot (R13, R14, R76, R83, R316, R328). -/

namespace Sys2Proof.Machine

/-! ### Moving a launch's dies -/

theorem State.desk_modLaunch (s : State) (p : Bool) (f : Launch → Launch) : (s.modLaunch p f).desk = s.desk.modLaunch p f := by
  cases p <;> rfl

theorem State.modLaunch_modLaunch (s : State) (p : Bool) (f g : Launch → Launch) :
    (s.modLaunch p f).modLaunch p g = s.modLaunch p (g ∘ f) := by
  cases p <;> simp [State.modLaunch]

theorem State.shell_clearRows (s : State) (slot : Nat) (c : Ctx) (bank : Nat) : (s.clearRows slot c bank).shell = s.shell := s.shell_withMem _

theorem State.desk_rebind (s : State) (p : Bool) (l : Launch) : (s.rebind p l).desk = s.desk.modLaunch p fun _ => l := by
  rw [← State.desk_modLaunch]
  unfold State.rebind
  refine State.desk_of_shell (State.shell_foldl (fun t v => ?_) _ _)
  dsimp only
  rw [State.shell_clearSems, State.shell_clearSems, State.shell_clearRows, State.shell_setBirths, State.shell_setBirths]

theorem State.desk_remap (s : State) (p : Bool) (old : List Nat) :
    ∃ g : List (Nat × Nat) → List (Nat × Nat), (s.remap p old).desk = s.desk.modLaunch p fun l => { l with digestRanges := g l.digestRanges } := by
  unfold State.remap
  dsimp only
  rw [State.desk_modLaunch]
  exact ⟨List.map _, rfl⟩

/-- A launch whose dies have moved is the rebound one, but for its digest pages; no register, flag or tick has changed. -/
theorem State.desk_moveDies (s : State) (p : Bool) (l : Launch) :
    ∃ r, (s.moveDies p l).desk = s.desk.modLaunch p fun _ => { l with digestRanges := r } := by
  obtain ⟨g, hg⟩ := (s.rebind p l).desk_remap p ((s.launchD p).vdies.map VDie.slot)
  refine ⟨g l.digestRanges, ?_⟩
  unfold State.moveDies
  rw [hg, State.desk_rebind, State.modLaunch_modLaunch]
  rfl

/-! ### What the desk tells -/

theorem State.jobRegs_modLaunch (s : State) (p q : Bool) (f : Launch → Launch) : (s.modLaunch q f).jobRegs p = s.jobRegs p := by
  cases q <;> rfl

section
variable {s t : State} {p : Bool} {f : Launch → Launch} (h : s.desk = t.desk.modLaunch p f)
include h

theorem State.launchOf_of_desk : s.launchOf p = (t.launchOf p).map f :=
  (congrArg (fun u : State => u.launchOf p) h).trans (State.launchOf_modLaunch_same _ p f)

theorem State.launchOf_of_desk_other {q : Bool} (hq : q ≠ p) : s.launchOf q = t.launchOf q := by
  rw [Bool.eq_not_of_ne hq]
  exact (congrArg (fun u : State => u.launchOf (!p)) h).trans (State.launchOf_modLaunch_other _ p f)

theorem State.jobRegs_of_desk (q : Bool) : s.jobRegs q = t.jobRegs q :=
  (congrArg (fun u : State => u.jobRegs q) h).trans (State.jobRegs_modLaunch _ q p f)

theorem State.z0_of_desk : s.z0 = t.z0 := (congrArg State.z0 h).trans (State.modLaunch_z0 _ p f)

end

theorem State.launchOf_modJob (s : State) (p q : Bool) (f : JobRegs → JobRegs) : (s.modJob q f).launchOf p = s.launchOf p := by
  obtain ⟨r, a, h⟩ := s.modJob_eq q f
  rw [h]
  rfl

theorem State.launchOf_setJob (s : State) (p q : Bool) (j : Nat) : (s.setJob q j).launchOf p = s.launchOf p := by
  obtain ⟨r, a, m, h⟩ := s.setJob_eq q j
  rw [h]
  rfl

/-! ### A launch without a slot (R14) -/

theorem State.jobRegs_failMain (s : State) (e : Nat × Nat) :
    (s.failMain e).jobRegs false = { s.jobRegs false with job := 4, lerr := e.1, lerrIdx := e.2 } := by
  unfold State.failMain
  rw [State.jobRegs_setJob, State.jobRegs_modJob]

theorem State.main_failMain (s : State) (e : Nat × Nat) : (s.failMain e).main = s.main :=
  (State.launchOf_setJob _ false _ _).trans (State.launchOf_modJob s false _ _)

/-- While no priority launch is there, the failure of the main launch shows. -/
theorem State.failMain_shown {s : State} (h : s.pri = false) (e : Nat × Nat) :
    ∃ m, s.failMain e = { s with regs := { s.regs with job := 4, lerr := e.1, lerrIdx := e.2 }, msi0 := m } := by
  unfold State.failMain
  rw [State.modJob_shown (by rw [h]; rfl), State.setJob_shown (by exact congrArg (false.not && ·) h)]
  exact ⟨_, rfl⟩

theorem State.main_unplaced (s : State) : (s.unplaced false).main = none := by
  change ((s.dropLaunch false).failMain (err 5)).main = none
  rw [State.main_failMain]
  exact (congrArg State.main (s.desk_dropLaunch_main) :)

/-- A launch without a slot has failed with error 0x05. -/
theorem State.jobRegs_unplaced (s : State) (p : Bool) : ((s.unplaced p).jobRegs p).job = 4 ∧ ((s.unplaced p).jobRegs p).lerr = 5 := by
  unfold State.unplaced
  cases p with
  | false => rw [if_neg Bool.false_ne_true, State.jobRegs_failMain]; exact ⟨rfl, rfl⟩
  | true => rw [if_pos rfl, State.jobRegs_setJob, State.jobRegs_modJob]; exact ⟨rfl, rfl⟩

/-- A priority launch without a slot swaps back with PFAIL (R76). -/
theorem State.unplaced_true (s : State) : (s.unplaced true).pfail = true ∧ ((s.unplaced true).launchD true).started = false := by
  unfold State.unplaced
  rw [if_pos rfl]
  obtain ⟨r, a, m, h⟩ := State.setJob_eq (State.modJob (State.modLaunch { s with pfail := true } true fun l =>
    { l with rerunAt := none, started := false, swapAt := some s.z0 }) true fun r => { r with lerr := 5, lerrIdx := noIdx }) true 4
  rw [h]
  refine ⟨rfl, ?_⟩
  change (Option.getD (s.prioL.map _) ({} : Launch)).started = false
  cases s.prioL <;> rfl

/-! ### A priority launch that waits -/

/-- Rebinding a priority launch that waits leaves the main launch and its registers alone, but for the error of a priority launch that
loses its slots (R76, R81). -/
theorem State.settleWaiting_main (s : State) : s.settleWaiting.main = s.main ∧ s.settleWaiting.z0 = s.z0
    ∧ (s.settleWaiting.jobRegs false = s.jobRegs false
      ∨ s.settleWaiting.jobRegs false = { s.jobRegs false with lerr := 5, lerrIdx := noIdx }) := by
  unfold State.settleWaiting
  split
  · exact ⟨rfl, rfl, .inl rfl⟩
  next hw =>
    have hpri : s.pri = true := by simp at hw; exact hw.1
    split
    · have hd := s.desk_dropLaunch_prio
      have ha : (s.dropLaunch true).aside = s.aside := (congrArg State.aside hd :)
      refine ⟨(congrArg State.main hd :), (congrArg State.z0 hd :), .inr ?_⟩
      change { (s.dropLaunch true).aside.getD {} with lerr := 5, lerrIdx := noIdx } = _
      rw [ha]
      simp [State.jobRegs, hpri]
    next l _ =>
      obtain ⟨r, hr⟩ := s.desk_moveDies true l
      exact ⟨(congrArg State.main hr :), State.z0_of_desk hr, .inl (State.jobRegs_of_desk hr false)⟩

/-! ### The binding renewed (R328) -/

/-- The DMIX that a launch goes on seeing once `keepDmix` has been applied (R13). -/
def State.keptDmix (s : State) (l : Launch) : Option Word :=
  if l.lock && l.started && l.out then some (l.dmix.getD s.dmix) else l.dmix

theorem State.keepDmix_eq (s : State) : s.keepDmix = s.modLaunch false fun l => { l with dmix := s.keptDmix l } := by
  unfold State.keepDmix State.keptDmix
  congr 1
  funext l
  split <;> rfl

/-- Health applied, with the DMIX that a pre-empted launch has seen kept: a launch is as before but for that. -/
theorem State.launchOf_renewed (s : State) (p : Bool) :
    ∃ d : Launch → Option Word, s.keepDmix.applyHealth.launchOf p = (s.launchOf p).map fun l => { l with dmix := d l } := by
  obtain ⟨_, _, _, _, _, h⟩ := s.keepDmix.applyHealth_eq
  rw [h, s.keepDmix_eq]
  cases p with
  | false => exact ⟨s.keptDmix, rfl⟩
  | true => exact ⟨Launch.dmix, by change s.prioL = s.prioL.map _; rw [show (fun l : Launch => { l with dmix := l.dmix }) = id from rfl, Option.map_id]; rfl⟩

theorem State.jobRegs_renewed (s : State) (p : Bool) : s.keepDmix.applyHealth.jobRegs p = s.jobRegs p := by
  obtain ⟨_, _, _, _, _, h⟩ := s.keepDmix.applyHealth_eq
  rw [h]
  exact State.jobRegs_congr rfl rfl rfl p

theorem State.z0_renewed (s : State) : s.keepDmix.applyHealth.z0 = s.z0 := by
  obtain ⟨_, _, _, _, _, h⟩ := s.keepDmix.applyHealth_eq
  rw [h]
  rfl

theorem State.dmix_renewed (s : State) : s.keepDmix.applyHealth.dmix = s.applyHealth.dmix := State.applyHealth_dmix_congr rfl

theorem State.main_applyHealth (s : State) : s.applyHealth.main = s.main := by
  obtain ⟨_, _, _, _, _, h⟩ := s.applyHealth_eq
  rw [h]

theorem State.rerunSlots_renewed (s : State) (p : Bool) : s.keepDmix.applyHealth.rerunSlots p = s.applyHealth.rerunSlots p := by
  refine State.rerunSlots_congr s.dmix_renewed ?_ p
  obtain ⟨d, hd⟩ := s.launchOf_renewed false
  change s.keepDmix.applyHealth.main = _ at hd
  rw [hd, State.main_applyHealth]
  exact map_binding _ fun _ => rfl

/-- The rebinding of a launch whose health has been applied. -/
theorem State.rebound_renewed (s : State) (p : Bool) : ∃ d : Launch → Option Word,
    s.keepDmix.applyHealth.launchOf p = (s.launchOf p).map (fun l => { l with dmix := d l })
    ∧ (s.keepDmix.applyHealth.rebound (s.keepDmix.applyHealth.rerunSlots p) (s.keepDmix.applyHealth.launchD p)).map Launch.vdies
      = (s.applyHealth.rebound (s.applyHealth.rerunSlots p) (s.launchD p)).map Launch.vdies := by
  obtain ⟨d, hd⟩ := s.launchOf_renewed p
  refine ⟨d, hd, ?_⟩
  rw [State.rerunSlots_renewed]
  refine State.rebound_congr s.dmix_renewed ?_ _
  unfold State.launchD
  rw [hd]
  cases s.launchOf p <;> rfl

section
variable {s : State} {p : Bool}

/-- A launch that is bound to slots takes them, and nothing else of it changes but its digest pages. -/
theorem State.settleBinding_bound {l b : Launch} (hl : s.launchOf p = some l) (hb : s.rebound (s.rerunSlots p) l = some b) :
    (∃ r, (s.settleBinding p).launchOf p = some { l with vdies := b.vdies, digestRanges := r })
      ∧ (s.settleBinding p).jobRegs p = s.jobRegs p ∧ (s.settleBinding p).z0 = s.z0 := by
  have hD : s.launchD p = l := by simp [State.launchD, hl]
  have hset : s.settleBinding p = s.moveDies p b := by
    unfold State.settleBinding
    rw [hD, hb]
  obtain ⟨r, hr⟩ := s.desk_moveDies p b
  rw [hset]
  refine ⟨⟨r, ?_⟩, State.jobRegs_of_desk hr p, State.z0_of_desk hr⟩
  rw [State.launchOf_of_desk hr, hl, Option.map_some, State.rebound_eq hb]

/-- What follows the binding of a launch concerns the other one, but for the error that a waiting priority launch may leave. -/
theorem State.renewBinding_settled (s : State) (p : Bool) :
    (s.renewBinding p).launchOf p = (s.keepDmix.applyHealth.settleBinding p).launchOf p
      ∧ (s.renewBinding p).z0 = (s.keepDmix.applyHealth.settleBinding p).z0
      ∧ ((s.renewBinding p).jobRegs p = (s.keepDmix.applyHealth.settleBinding p).jobRegs p
        ∨ (s.renewBinding p).jobRegs p = { (s.keepDmix.applyHealth.settleBinding p).jobRegs p with lerr := 5, lerrIdx := noIdx })
      ∧ (p = true → s.renewBinding p = s.keepDmix.applyHealth.settleBinding p) := by
  unfold State.renewBinding
  dsimp only
  cases p with
  | true => exact ⟨rfl, rfl, .inl rfl, fun _ => rfl⟩
  | false =>
    obtain ⟨hm, hz, hj⟩ := (s.keepDmix.applyHealth.settleBinding false).settleWaiting_main
    exact ⟨hm, hz, hj, nofun⟩

/-- A launch for which there are slots takes them, and goes on. -/
theorem State.renewBinding_bound {l b : Launch} (hl : s.launchOf p = some l)
    (hb : s.applyHealth.rebound (s.applyHealth.rerunSlots p) l = some b) :
    (∃ d r, (s.renewBinding p).launchOf p = some { l with vdies := b.vdies, dmix := d, digestRanges := r })
      ∧ ((s.renewBinding p).jobRegs p).job = (s.jobRegs p).job ∧ ((s.renewBinding p).jobRegs p).base = (s.jobRegs p).base
      ∧ (s.renewBinding p).z0 = s.z0 := by
  obtain ⟨d, hd, hv⟩ := s.rebound_renewed p
  rw [hl, Option.map_some] at hd
  have hD : s.launchD p = l := by simp [State.launchD, hl]
  have hD' : s.keepDmix.applyHealth.launchD p = { l with dmix := d l } := by simp [State.launchD, hd]
  rw [hD, hD', hb] at hv
  obtain ⟨b', hb', hvd⟩ := Option.map_eq_some_iff.mp hv
  obtain ⟨⟨r, hr⟩, hjob, hz⟩ := State.settleBinding_bound hd hb'
  obtain ⟨hlaunch, hz', hj, -⟩ := s.renewBinding_settled p
  rw [hjob, State.jobRegs_renewed] at hj
  refine ⟨⟨d l, r, hlaunch.trans (by rw [hr, hvd])⟩, ?_, ?_, (hz'.trans hz).trans s.z0_renewed⟩
  · rcases hj with hj | hj <;> rw [hj]
  · rcases hj with hj | hj <;> rw [hj]

/-- A launch for which there are none fails with error 0x05. -/
theorem State.renewBinding_unplaced (hb : s.applyHealth.rebound (s.applyHealth.rerunSlots p) (s.launchD p) = none) :
    ((s.renewBinding p).jobRegs p).job = 4 ∧ ((s.renewBinding p).jobRegs p).lerr = 5
      ∧ (p = false → (s.renewBinding p).main = none)
      ∧ (p = true → (s.renewBinding p).pfail = true ∧ ((s.renewBinding p).launchD true).started = false) := by
  obtain ⟨d, -, hv⟩ := s.rebound_renewed p
  rw [hb] at hv
  have hset : s.keepDmix.applyHealth.settleBinding p = s.keepDmix.applyHealth.unplaced p := by
    unfold State.settleBinding
    rw [Option.map_eq_none_iff.mp hv]
  obtain ⟨hlaunch, -, hj, htrue⟩ := s.renewBinding_settled p
  obtain ⟨hjob, herr⟩ := s.keepDmix.applyHealth.jobRegs_unplaced p
  rw [hset] at hlaunch hj htrue
  refine ⟨?_, ?_, fun hp => ?_, fun hp => ?_⟩
  · rcases hj with hj | hj <;> rw [hj] <;> exact hjob
  · rcases hj with hj | hj <;> rw [hj]
    exact herr
  · subst hp
    exact hlaunch.trans (State.main_unplaced _)
  · rw [htrue hp]
    subst hp
    exact State.unplaced_true _

end

end Sys2Proof.Machine
end

section
/-! PROOFS. LAUNCH: a write that is not accepted, the main launch, and a priority launch (R75, R76, R78). -/

namespace Sys2Proof.Machine

/-! ### A write that R75 does not accept -/

section
variable {addr : BitVec 48} {s : State}

theorem launch_beforeReady (link : Nat) (h : s.ready = false) : exec (.launch addr link) s = .next { s with nracc := true, ldrop := true } := by
  rw [exec_launch]
  simp [execLaunch, h]

theorem launch_notFirst {link : Nat} (h : s.ready = true) (hl : link ≠ 19) (hf : s.firstLink = true) :
    exec (.launch addr link) s = .next { s with ldrop := true } := by
  rw [exec_launch]
  simp [execLaunch, h, hl, hf]

/-- The write from slot 19's link is noted before it is judged: that changes nothing of the judgement. -/
theorem launch_19 (h : s.ready = true) : exec (.launch addr 19) s = .next (
    if !s.mayLaunch addr.toNat then { s with launchAt := s.z0 + 1, ldrop := true }
    else if s.recPrio addr.toNat then ({ s with launchAt := s.z0 + 1, launchAddr := addr } : State).launchPrio addr.toNat
    else ({ s with launchAt := s.z0 + 1, launchAddr := addr } : State).launchMain addr.toNat) := by
  rw [exec_launch]
  refine congrArg Host.Outcome.next ?_
  rw [if_neg (by simp [h]), if_neg (by simp), if_pos rfl]
  rfl

theorem State.ready_of_mayLaunch {a : Nat} (h : s.mayLaunch a = true) : s.ready = true ∧ s.pri = false := by
  simp only [State.mayLaunch, Bool.and_eq_true, Bool.not_eq_true'] at h
  exact h.1

end

/-! ### The main launch -/

/-- A strand of a launch was there before others came, or is one of them. -/
theorem State.of_mem_strandsOf_append {s t : State} {l : List Strand} (hc : t.cur = s.cur) (ho : t.others = s.others ++ l) {p : Bool}
    {c : Strand} (h : c ∈ t.strandsOf p) : c ∈ s.strandsOf p ∨ c ∈ l := by
  rw [State.mem_strandsOf] at h ⊢
  obtain ⟨hm, hp⟩ := h
  rw [State.allStrands, hc, ho, ← List.cons_append] at hm
  exact (List.mem_append.mp hm).imp_left (⟨·, hp⟩)

/-- A package in which no launch is present, before the main launch starts: its LAUNCH address and tick. -/
structure State.Vacant (addr : BitVec 48) (now : Nat) (s : State) : Prop where
  pri : s.pri = false
  main : s.main = none
  addr : s.launchAddr = addr
  now : s.z0 = now
  strands : s.strandsOf false = []

theorem State.Vacant.of_shell {addr : BitVec 48} {now : Nat} {s t : State} (h : s.Vacant addr now) (hs : t.shell = s.shell) :
    t.Vacant addr now :=
  ⟨(congrArg State.pri hs :).trans h.pri, (congrArg State.main hs :).trans h.main, (congrArg State.launchAddr hs :).trans h.addr,
    (congrArg State.z0 hs :).trans h.now, (State.strandsOf_of_shell hs false).trans h.strands⟩

/-- What a main launch leaves (R75): a failed load with JOB 4, or JOB 2 with every strand at its ENTRY. -/
structure State.Launched (addr : BitVec 48) (now : Nat) (u : State) : Prop where
  addr : u.launchAddr = addr
  job : u.regs.job = 2 ∨ u.regs.job = 4
  failed : u.regs.job = 4 → u.main = none
  started : u.regs.job = 2 → ∃ l, u.main = some l ∧ l.started = true ∧ l.l0 = now
    ∧ ∀ c ∈ u.strandsOf false, c.pc = (l.vd c.vdie).entry ∧ c.status = .running ∧ c.slot = now

section
variable {addr : BitVec 48} {now : Nat} {s : State} (h : s.Vacant addr now)
include h

theorem State.Vacant.failMain (e : Nat × Nat) : (s.failMain e).Launched addr now := by
  obtain ⟨m, hm⟩ := State.failMain_shown h.pri e
  rw [hm]
  exact ⟨h.addr, .inr rfl, fun _ => h.main, fun hj => absurd (show 4 = 2 from hj) (by decide)⟩

omit h in
/-- The strands of a launch stand at the entries of their virtual dies, and issue from a tick on. -/
theorem Launch.of_mem_strands {l : Launch} {p out : Bool} {slot : Nat} {c : Strand} (hc : c ∈ l.strands p out slot) :
    c.pc = (l.vd c.vdie).entry ∧ c.status = .running ∧ c.slot = slot := by
  obtain ⟨v, hv, hc⟩ := List.mem_flatMap.mp hc
  obtain ⟨k, -, rfl⟩ := List.mem_map.mp hc
  have hk : l.vdies[v.2]? = some v.1 := List.mem_zipIdx_iff_getElem?.mp hv
  refine ⟨?_, rfl, rfl⟩
  simp [Launch.vd, List.getD, hk]

/-- A loaded main launch starts at this tick. -/
theorem State.Vacant.startMain (l : Launch) : (s.startMain l).Launched addr now := by
  have hv := h.of_shell (s.shell_prepareDies l)
  unfold State.startMain
  dsimp only
  generalize s.prepareDies l = v at hv
  generalize hr : List.foldl _ ({ v with main := some { l with l0 := v.z0, started := true }, others := v.others ++ l.strands false false v.z0 } : State) _ = r
  have hrs : r.shell = ({ v with main := some { l with l0 := v.z0, started := true }, others := v.others ++ l.strands false false v.z0 } : State).shell := by
    rw [← hr]
    exact State.shell_railUpdates _ _
  have hpri : r.pri = false := (congrArg State.pri hrs :).trans hv.pri
  have hmain : r.main = some { l with l0 := v.z0, started := true } := (congrArg State.main hrs :)
  have hstrands : ∀ c ∈ r.strandsOf false, c ∈ l.strands false false v.z0 := fun c hc => by
    have hcur : r.cur = v.cur := (congrArg State.cur hrs :)
    have hothers : r.others = v.others ++ l.strands false false v.z0 := (congrArg State.others hrs :)
    simpa [hv.strands] using State.of_mem_strandsOf_append hcur hothers hc
  rw [State.modJob_shown (by rw [hpri]; rfl), State.setJob_shown (by exact congrArg (false.not && ·) hpri)]
  refine ⟨(congrArg State.launchAddr hrs :).trans hv.addr, .inl rfl, fun hj => absurd (show 2 = 4 from hj) (by decide), fun _ => ?_⟩
  refine ⟨_, congrArg (Option.map _) hmain, rfl, hv.now, fun c hc => ?_⟩
  rw [← hv.now]
  exact Launch.of_mem_strands (hstrands c hc)

end

theorem State.vacant_dropLaunch {addr : BitVec 48} {s : State} (hp : s.pri = false) (ha : s.launchAddr = addr) :
    (s.dropLaunch false).Vacant addr s.z0 :=
  have hd := s.desk_dropLaunch_main
  ⟨(congrArg State.pri hd :).trans hp, (congrArg State.main hd :), (congrArg State.launchAddr hd :).trans ha, (congrArg State.z0 hd :),
    s.strandsOf_dropLaunch false⟩

theorem State.launchMain_launched {addr : BitVec 48} {a : Nat} {s : State} (hp : s.pri = false) (ha : s.launchAddr = addr) :
    (s.launchMain a).Launched addr s.z0 := by
  unfold State.launchMain
  extract_lets s1 s2
  have h2 : s2.Vacant addr s.z0 := by
    obtain ⟨r, j, m, hj⟩ := State.setJob_eq { s1 with regs := { job := s1.regs.job } } false 1
    obtain ⟨d, f, q, c, k, hh⟩ := (s.dropLaunch false).applyHealth_eq
    have hv := State.vacant_dropLaunch hp ha
    dsimp only [s2]
    rw [hj]
    dsimp only [s1]
    rw [hh]
    exact ⟨hv.pri, hv.main, hv.addr, hv.now, hv.strands⟩
  split
  · exact h2.failMain _
  next p _ =>
    have hl := h2.of_shell (s2.shell_loadPlan false p)
    split
    next heq =>
      rw [heq] at hl
      exact hl.failMain _
    next heq =>
      rw [heq] at hl
      exact hl.startMain _

/-! ### A priority launch -/

/-- A priority launch waits for its cells (R315), or has failed, and the registers describe the running launch again (R76). -/
def State.PrioLaunched (s u : State) : Prop :=
  (u.pri = true ∧ u.regs.job = 2
    ∧ u.aside = some (if s.regs.job = 2 then { s.regs with lerr := 0, lerrIdx := 0xFFFF } else s.regs)
    ∧ u.prioL.any Launch.out = true)
  ∨ (u.pri = false ∧ u.pfail = true ∧ u.regs.job = s.regs.job ∧ u.aside = none)

section
variable {s t : State} (hpri : t.pri = true)
  (haside : t.aside = some (if s.regs.job = 2 then { s.regs with lerr := 0, lerrIdx := 0xFFFF } else s.regs))
include hpri haside

omit hpri in
theorem State.failPrio_launched (e : Nat × Nat) : s.PrioLaunched (t.failPrio e) := by
  refine .inr ⟨rfl, rfl, ?_, rfl⟩
  change (t.aside.getD {}).job = s.regs.job
  rw [haside, Option.getD_some]
  split <;> rfl

theorem State.startPrio_launched (l : Launch) :
    s.PrioLaunched (t.startPrio l) ∧ (t.startPrio l).main = t.main ∧ (t.startPrio l).cur = t.cur := by
  have hv := t.shell_prepareDies l
  unfold State.startPrio
  dsimp only
  generalize t.prepareDies l = v at hv
  rw [State.modJob_shown (by rfl), State.setJob_shown (by rfl)]
  exact ⟨.inl ⟨(congrArg State.pri hv :).trans hpri, rfl, (congrArg State.aside hv :).trans haside, rfl⟩, (congrArg State.main hv :),
    (congrArg State.cur hv :)⟩

end

theorem State.launchPrio_launched (s : State) (a : Nat) :
    s.PrioLaunched (s.launchPrio a) ∧ (s.launchPrio a).main = s.main ∧ (s.launchPrio a).cur = s.cur := by
  unfold State.launchPrio
  extract_lets _ _ t
  have hpri : t.pri = true := rfl
  have haside : t.aside = some (if s.regs.job = 2 then { s.regs with lerr := 0, lerrIdx := 0xFFFF } else s.regs) := rfl
  have hmain : t.main = s.main := rfl
  have hcur : t.cur = s.cur := rfl
  clear_value t
  split
  · exact ⟨State.failPrio_launched haside _, hmain, hcur⟩
  next p _ =>
    have hl := t.shell_loadPlan true p
    split
    next v e heq =>
      rw [heq] at hl
      exact ⟨State.failPrio_launched ((congrArg State.aside hl :).trans haside) e, (congrArg State.main hl :).trans hmain,
        (congrArg State.cur hl :).trans hcur⟩
    next v l heq =>
      rw [heq] at hl
      obtain ⟨hu, hm, hc⟩ := State.startPrio_launched (s := s) (t := v) ((congrArg State.pri hl :).trans hpri)
        ((congrArg State.aside hl :).trans haside) l
      exact ⟨hu, hm.trans ((congrArg State.main hl :).trans hmain), hc.trans ((congrArg State.cur hl :).trans hcur)⟩

/-- Settles O52: the writes that R75 does not accept, the main launch by `launchMain_launched`, a priority launch by
`launchPrio_launched`. -/
theorem launchEvent : Obligations.LaunchEvent := by
  unfold Obligations.LaunchEvent
  refine ⟨fun addr link s h => launch_beforeReady link h, fun addr s h hm => ?dropped, fun addr link s h hl hf => launch_notFirst h hl hf,
    fun addr s hm hp => ?main, fun addr s hm hp => ?prio⟩
  case dropped => rw [launch_19 h, hm, if_pos (by decide)]
  case main =>
    obtain ⟨hr, hpri⟩ := State.ready_of_mayLaunch hm
    have hu := State.launchMain_launched (a := addr.toNat) (s := { s with launchAt := s.z0 + 1, launchAddr := addr }) hpri rfl
    refine ⟨_, ?_, hu.addr, hu.job, hu.failed, hu.started⟩
    rw [launch_19 hr, hm, hp, if_neg (by decide), if_neg Bool.false_ne_true]
  case prio =>
    obtain ⟨hr, -⟩ := State.ready_of_mayLaunch hm
    obtain ⟨hu, hmain, hcur⟩ := State.launchPrio_launched { s with launchAt := s.z0 + 1, launchAddr := addr } addr.toNat
    refine ⟨_, ?_, hmain, hcur, hu⟩
    rw [launch_19 hr, hm, hp, if_neg (by decide), if_pos rfl]

end Sys2Proof.Machine
end

section
/-! PROOFS. Pre-emption and re-run (R76, R83, R315, R317, R328). -/

namespace Sys2Proof.Machine

theorem exec_priorityLaunchSwapIn (s : State) : exec .priorityLaunchSwapIn s = execPriorityLaunchSwapIn s := by rfl

theorem exec_priorityLaunchSwapBack (s : State) : exec .priorityLaunchSwapBack s = execPriorityLaunchSwapBack s := by rfl

theorem exec_rerunStart (s : State) : exec .rerunStart s = execRerunStart s := by rfl

/-! ### Contexts that go out and come in (R314, R315) -/

theorem State.desk_swapOut (s : State) (p : Bool) : (s.swapOut p).desk = s.desk.modLaunch p fun l => { l with out := true } := by
  unfold State.swapOut
  rw [State.desk_modLaunch]
  rfl

/-- The contexts of a launch come back with their inbox registers, and its rails count their requests again. -/
theorem State.shell_swapIn (s : State) (p : Bool) (t : Nat) : (s.swapIn p t).shell =
    (((s.inboxBack p).modStrands p fun c => { c with out := false, slot := max c.slot t }).modLaunch p fun l => { l with out := false }).shell :=
  State.shell_railUpdates _ _

theorem State.desk_swapIn (s : State) (p : Bool) (t : Nat) : (s.swapIn p t).desk = s.desk.modLaunch p fun l => { l with out := false } := by
  rw [State.desk_of_shell (s.shell_swapIn p t), State.desk_modLaunch]
  exact congrArg (State.modLaunch · p _) ((State.desk_of_shell (s.shell_inboxBack p)).trans (by rfl))

theorem Strand.notePause_prio_status (c : Strand) : c.notePause.prio = c.prio ∧ c.notePause.status = c.status := by
  unfold Strand.notePause
  split
  · split <;> exact ⟨rfl, rfl⟩
  · exact ⟨rfl, rfl⟩

theorem State.strandsOf_modLaunch (s : State) (p q : Bool) (f : Launch → Launch) : (s.modLaunch q f).strandsOf p = s.strandsOf p :=
  State.strandsOf_congr (s.modLaunch_cur q f) (s.modLaunch_others q f) p

theorem State.out_of_mem_swapOut {s : State} {p : Bool} {c : Strand} (h : c ∈ (s.swapOut p).strandsOf p) : c.out = true := by
  unfold State.swapOut at h
  rw [State.strandsOf_modLaunch, State.strandsOf_modStrands] at h
  · obtain ⟨d, -, rfl⟩ := List.mem_map.mp h
    rfl
  · intro d
    dsimp only
    split <;> split <;> simp [Strand.notePause_prio_status, State.withInbox]

theorem keepsPlace_resume (t : Nat) : KeepsPlace fun c => { c with out := false, slot := max c.slot t } := fun _ => ⟨rfl, Iff.rfl⟩

theorem State.of_mem_swapIn {s : State} {p : Bool} {t : Nat} {c : Strand} (h : c ∈ (s.swapIn p t).strandsOf p) :
    c.out = false ∧ t ≤ c.slot := by
  rw [State.strandsOf_of_shell (s.shell_swapIn p t), State.strandsOf_modLaunch, State.strandsOf_modStrands (keepsPlace_resume t)] at h
  obtain ⟨d, -, rfl⟩ := List.mem_map.mp h
  exact ⟨rfl, le_max_right _ _⟩

theorem State.strandsOf_swapIn_other (s : State) {p q : Bool} (hq : q ≠ p) (t : Nat) : (s.swapIn q t).strandsOf p = s.strandsOf p := by
  rw [State.strandsOf_of_shell (s.shell_swapIn q t), State.strandsOf_modLaunch,
    State.strandsOf_modStrands_other (keepsPlace_resume t) hq, State.strandsOf_of_shell (s.shell_inboxBack q),
    State.strandsOf_modStrands_other keepsPlace_dropInbox hq]

/-! ### PRIORITY_LAUNCH_SWAP_IN -/

theorem State.prioL_of_swapDue {s : State} (h : s.swapDue = true) : ∃ l, s.prioL = some l := by
  have hw : s.prioWaits = true := by
    simp only [State.swapDue, Bool.and_eq_true] at h
    exact h.1.1
  unfold State.prioWaits at hw
  cases hp : s.prioL with
  | none => simp [hp] at hw
  | some l => exact ⟨l, rfl⟩

theorem swapIn_due {s : State} (h : s.swapDue = true) : ∃ u, exec .priorityLaunchSwapIn s = .next u
    ∧ (∃ l, u.prioL = some l ∧ l.started = true ∧ l.out = false ∧ l.l0 = s.z0 + 48 ∧ l.base = 0)
    ∧ (∀ l, u.main = some l → l.out = true) ∧ (∀ c ∈ u.strandsOf false, c.out = true)
    ∧ ∀ c ∈ u.strandsOf true, c.out = false ∧ s.z0 + 48 ≤ c.slot := by
  obtain ⟨l, hl⟩ := State.prioL_of_swapDue h
  have h1 := s.desk_swapOut false
  have h2 := (s.swapOut false).desk_swapIn true (s.z0 + swapTicks)
  rw [exec_priorityLaunchSwapIn]
  unfold execPriorityLaunchSwapIn
  rw [h, if_neg (by decide)]
  dsimp only
  generalize ht : (s.swapOut false).swapIn true (s.z0 + swapTicks) = t at h2
  refine ⟨_, rfl, ?_, ?_, fun c hc => ?_, fun c hc => ?_⟩
  · have hp : t.launchOf true = some { l with out := false } := by
      rw [State.launchOf_of_desk h2, State.launchOf_of_desk_other h1 (by decide)]
      exact congrArg (Option.map _) hl
    exact ⟨_, (State.launchOf_modLaunch_same _ true _).trans
      (congrArg (Option.map _) ((State.launchOf_modLaunch_same t true _).trans (congrArg (Option.map _) hp))), rfl, rfl, rfl, rfl⟩
  · intro m hm
    have hf : t.launchOf false = (s.launchOf false).map fun l => { l with out := true } := by
      rw [State.launchOf_of_desk_other h2 (by decide)]
      exact State.launchOf_of_desk h1
    obtain ⟨k, -, rfl⟩ := Option.map_eq_some_iff.mp (hf.symm.trans hm)
    rfl
  · rw [State.recordImage, State.strandsOf_modLaunch, State.strandsOf_modLaunch, ← ht, State.strandsOf_swapIn_other _ (by decide)] at hc
    exact State.out_of_mem_swapOut hc
  · rw [State.recordImage, State.strandsOf_modLaunch, State.strandsOf_modLaunch, ← ht] at hc
    exact State.of_mem_swapIn hc

/-! ### PRIORITY_LAUNCH_SWAP_BACK -/

/-- No priority launch is there, and the registers that are shown are the main launch's. -/
structure State.Alone (r : JobRegs) (s : State) : Prop where
  pri : s.pri = false
  prioL : s.prioL = none
  aside : s.aside = none
  regs : s.regs = r

/-- From one state to another, of what the desk holds only the main launch has changed. -/
def State.OnlyMain (s t : State) : Prop := ∃ f : Launch → Launch, t.desk = s.desk.modLaunch false f

theorem State.OnlyMain.trans {s t u : State} (h : s.OnlyMain t) (k : t.OnlyMain u) : s.OnlyMain u := by
  obtain ⟨f, hf⟩ := h
  obtain ⟨g, hg⟩ := k
  exact ⟨g ∘ f, by rw [hg, hf, State.modLaunch_modLaunch]⟩

theorem State.onlyMain_of_desk {s t : State} (h : t.desk = s.desk) : s.OnlyMain t := ⟨id, by rw [h]; simp [State.modLaunch]⟩

theorem State.onlyMain_modLaunch (s : State) (f : Launch → Launch) : s.OnlyMain (s.modLaunch false f) := ⟨f, s.desk_modLaunch false f⟩

theorem State.onlyMain_swapIn (s : State) (t : Nat) : s.OnlyMain (s.swapIn false t) := ⟨_, s.desk_swapIn false t⟩

theorem State.onlyMain_moveDies (s : State) (l : Launch) : s.OnlyMain (s.moveDies false l) := by
  obtain ⟨r, hr⟩ := s.desk_moveDies false l
  exact ⟨_, hr⟩

theorem State.Alone.of_onlyMain {r : JobRegs} {s t : State} (h : s.Alone r) (hd : s.OnlyMain t) : t.Alone r := by
  obtain ⟨f, hf⟩ := hd
  exact ⟨(congrArg State.pri hf).trans h.pri, (congrArg State.prioL hf).trans h.prioL, (congrArg State.aside hf).trans h.aside,
    (congrArg State.regs hf).trans h.regs⟩

/-- The package once a priority launch has left, before the launch that it pre-empted is bound again. -/
def State.resumed (s : State) : State :=
  let t := s.dropLaunch true
  let t := t.signal { t with pri := false, regs := t.aside.getD {}, aside := none }
  if (t.launchD false).lock then t else t.modLaunch false fun l => { l with base := t.z0 - l.l0 }

theorem State.main_dropLaunch_prio (s : State) : (s.dropLaunch true).main = s.main := (congrArg State.main s.desk_dropLaunch_prio :)

theorem State.alone_resumed (s : State) : s.resumed.Alone (s.aside.getD {}) := by
  have ha : (s.dropLaunch true).aside = s.aside := (congrArg State.aside s.desk_dropLaunch_prio :)
  have hp : (s.dropLaunch true).prioL = none := (congrArg State.prioL s.desk_dropLaunch_prio :)
  unfold State.resumed
  dsimp only
  rw [← ha]
  split <;> exact ⟨rfl, hp, rfl, rfl⟩

theorem State.dmix_resumed (s : State) : s.resumed.dmix = s.dmix := by
  have hd : (s.dropLaunch true).dmix = s.dmix := (congrArg State.dmix s.desk_dropLaunch_prio :)
  unfold State.resumed
  dsimp only
  split <;> exact hd

theorem State.desk_loadImage (s : State) (p clear : Bool) (t : Nat) : (s.loadImage p clear t).desk = s.desk := by
  unfold State.loadImage
  dsimp only
  refine (State.desk_of_shell (State.shell_railUpdates _ _)).trans ?_
  have h : ∀ (l : List Strand) (u : State), (l.foldl (fun t c => if c.out then t else t.putInbox c) u).shell = u.shell :=
    State.shell_foldl fun u c => by
      split
      · rfl
      · exact u.shell_putInbox c
  exact (State.desk_of_shell (h _ (s.dropStrands p)) :)

theorem swapBack_due {s : State} (h : s.swapBackDue = true) : ∃ u, exec .priorityLaunchSwapBack s = .next u
    ∧ ((s.rebound none (s.launchD false) = none ∧ u = s.resumed.unplaced false)
      ∨ s.rebound none (s.launchD false) ≠ none ∧ s.resumed.OnlyMain u) := by
  have hsame : (s.resumed.rebound none (s.launchD false)).map Launch.vdies = (s.rebound none (s.launchD false)).map Launch.vdies :=
    State.rebound_congr s.dmix_resumed rfl none
  rw [exec_priorityLaunchSwapBack]
  unfold execPriorityLaunchSwapBack
  rw [h]
  refine ⟨_, rfl, ?_⟩
  rw [if_neg (by decide)]
  extract_lets t1 t2 l t3
  have hl : l = s.launchD false := congrArg (·.getD {}) s.main_dropLaunch_prio
  have h3 : t3 = s.resumed := rfl
  clear_value t3 l
  subst h3 hl
  cases hb : s.resumed.rebound none (s.launchD false) with
  | none =>
    rw [hb] at hsame
    exact .inl ⟨Option.map_eq_none_iff.mp hsame.symm, rfl⟩
  | some b =>
    rw [hb] at hsame
    refine .inr ⟨fun h => by simp [h] at hsame, ?_⟩
    dsimp only
    split
    · exact s.resumed.onlyMain_swapIn _
    · split
      · exact (s.resumed.onlyMain_moveDies b).trans (State.onlyMain_swapIn _ _)
      · refine .trans (.trans (.trans ?_ (State.onlyMain_moveDies _ b)) (State.onlyMain_modLaunch _ _))
          (State.onlyMain_of_desk (State.desk_loadImage _ false false _))
        exact State.onlyMain_of_desk (by rfl)

/-- At its swap-back a priority launch is gone, and the launch that it pre-empted is shown again (R76, R315). -/
theorem swapBack_shown {s : State} (h : s.swapBackDue = true) : ∃ u, exec .priorityLaunchSwapBack s = .next u
    ∧ u.pri = false ∧ u.prioL = none ∧ u.aside = none
    ∧ (s.rebound none (s.launchD false) ≠ none → u.regs = s.aside.getD {})
    ∧ (s.rebound none (s.launchD false) = none → u.main = none ∧ u.regs.job = 4 ∧ u.regs.lerr = 5) := by
  obtain ⟨u, hu, ⟨hn, rfl⟩ | ⟨hb, ho⟩⟩ := swapBack_due h
  · have hd := s.resumed.desk_dropLaunch_main
    have hpri : (s.resumed.dropLaunch false).pri = false := (congrArg State.pri hd :).trans s.alone_resumed.pri
    obtain ⟨m, hm⟩ := State.failMain_shown hpri (err 5)
    have hun : s.resumed.unplaced false = _ := hm
    refine ⟨_, hu, ?_⟩
    rw [hun]
    exact ⟨hpri, (congrArg State.prioL hd :).trans s.alone_resumed.prioL, (congrArg State.aside hd :).trans s.alone_resumed.aside,
      fun h => absurd hn h, fun _ => ⟨(congrArg State.main hd :), rfl, rfl⟩⟩
  · have ha := s.alone_resumed.of_onlyMain ho
    exact ⟨u, hu, ha.pri, ha.prioL, ha.aside, fun _ => ha.regs, fun h => absurd h hb⟩

/-! ### RERUN_REQUEST (R328) -/

/-- A re-run request that has been accepted, before the launch is bound to the present health. -/
def State.rerunAccepted (s : State) (p : Bool) (value : BitVec 64) : State :=
  let base := (value.extractLsb' 0 48).toNat
  ((s.modJob p fun r => { r with base := base, refused := r.refused && !value.getLsbD 48 }).modLaunch p fun l =>
    { l with rerunAt := some (l.l0 + base) }).setJob p 2

section
variable {value : BitVec 64} {s : State}

theorem rerunRequest_beforeReady (h : s.ready = false) : exec (.rerunRequest value) s = .next { s with nracc := true } := by
  rw [exec_rerunRequest]
  simp [execRerunRequest, h]

theorem rerunRequest_accepted (h : s.ready = true) (hok : s.rerunOk (value.extractLsb' 0 48).toNat = true) :
    exec (.rerunRequest value) s = .next ((s.rerunAccepted s.rerunPrio value).renewBinding s.rerunPrio) := by
  rw [exec_rerunRequest, execRerunRequest]
  dsimp only
  rw [h, hok, if_neg (by decide), if_pos rfl]
  rfl

theorem rerunRequest_refused (h : s.ready = true) (hok : s.rerunOk (value.extractLsb' 0 48).toNat = false) :
    exec (.rerunRequest value) s = .next (s.modJob s.rerunPrio fun r => { r with refused := true }) := by
  rw [exec_rerunRequest, execRerunRequest]
  dsimp only
  rw [h, hok, if_neg (by decide), if_neg Bool.false_ne_true]

variable (s value) (p : Bool)

theorem State.rerunAccepted_eq : ∃ r a m, s.rerunAccepted p value
    = { s.modLaunch p (fun l => { l with rerunAt := some (l.l0 + (value.extractLsb' 0 48).toNat) }) with regs := r, aside := a, msi0 := m } := by
  unfold State.rerunAccepted
  dsimp only
  obtain ⟨r, a, h⟩ := s.modJob_eq p fun r =>
    { r with base := (value.extractLsb' 0 48).toNat, refused := r.refused && !value.getLsbD 48 }
  obtain ⟨r', a', m, h'⟩ := State.setJob_eq (State.modLaunch { s with regs := r, aside := a } p fun l =>
    { l with rerunAt := some (l.l0 + (value.extractLsb' 0 48).toNat) }) p 2
  rw [h, h']
  refine ⟨r', a', m, ?_⟩
  cases p <;> rfl

theorem State.launchOf_rerunAccepted : (s.rerunAccepted p value).launchOf p =
    (s.launchOf p).map fun l => { l with rerunAt := some (l.l0 + (value.extractLsb' 0 48).toNat) } := by
  obtain ⟨r, a, m, h⟩ := s.rerunAccepted_eq value p
  rw [h]
  exact s.launchOf_modLaunch_same p _

theorem State.jobRegs_rerunAccepted : ((s.rerunAccepted p value).jobRegs p).job = 2
    ∧ ((s.rerunAccepted p value).jobRegs p).base = (value.extractLsb' 0 48).toNat := by
  unfold State.rerunAccepted
  rw [State.jobRegs_setJob, State.jobRegs_modLaunch, State.jobRegs_modJob]
  exact ⟨rfl, rfl⟩

/-- A request changes no binding: the slots that it finds are those of the state in which it came. -/
theorem State.rebound_rerunAccepted {l k : Launch} (hb : l.binding = k.binding) :
    ((s.rerunAccepted p value).applyHealth.rebound ((s.rerunAccepted p value).applyHealth.rerunSlots p) l).map Launch.vdies
      = (s.applyHealth.rebound (s.applyHealth.rerunSlots p) k).map Launch.vdies := by
  obtain ⟨r, a, m, h⟩ := s.rerunAccepted_eq value p
  have hd : (s.rerunAccepted p value).applyHealth.dmix = s.applyHealth.dmix := by
    refine State.applyHealth_dmix_congr ?_
    rw [h]
    cases p <;> rfl
  have hm : (s.rerunAccepted p value).applyHealth.main.map Launch.binding = s.applyHealth.main.map Launch.binding := by
    rw [State.main_applyHealth, State.main_applyHealth, h]
    cases p with
    | true => rfl
    | false => exact map_binding _ fun _ => rfl
  rw [State.rerunSlots_congr hd hm]
  exact State.rebound_congr hd hb _

end

/-! ### RERUN_START (R328) -/

theorem State.launchOf_of_rerunDue {s : State} {p : Bool} (h : s.rerunDue p = true) :
    ∃ l, s.launchOf p = some l ∧ l.rerunAt.isSome = true := by
  unfold State.rerunDue at h
  split at h
  next l hl =>
    refine ⟨l, hl, ?_⟩
    cases hr : l.rerunAt with
    | none => simp [hr] at h
    | some t => rfl
  next => cases h

/-- A re-run that finds its slots starts the launch with the base of this tick. -/
theorem State.rerun_started {s : State} {p : Bool} (h : s.rerunDue p = true)
    (hb : s.applyHealth.rebound (s.applyHealth.rerunSlots p) (s.launchD p) ≠ none) :
    ∃ l, (s.rerun p).launchOf p = some l ∧ l.started = true ∧ l.rerunAt = none ∧ l.base = s.z0 - l.l0 := by
  obtain ⟨l, hl, hr⟩ := State.launchOf_of_rerunDue h
  have hD : s.launchD p = l := by simp [State.launchD, hl]
  obtain ⟨b, hb⟩ := Option.ne_none_iff_exists'.mp hb
  rw [hD] at hb
  obtain ⟨⟨d, r, hu⟩, -, -, hz⟩ := State.renewBinding_bound hl hb
  unfold State.rerun
  dsimp only
  generalize s.renewBinding p = t at hu hz
  rw [if_neg (by simp [State.launchD, hu, Option.isNone_iff_eq_none, Option.isSome_iff_ne_none.mp hr])]
  generalize hv : (t.launchD p).vdies.foldl _ t = v
  have hvs : v.shell = t.shell := by
    rw [← hv]
    exact State.shell_foldl (fun w _ => (State.shell_clearSems _ _ _ _).trans (w.shell_clearSems _ _ _)) _ t
  have hvz : v.z0 = s.z0 := (congrArg State.z0 hvs :).trans hz
  have hdesk := (State.desk_loadImage (v.modLaunch p fun l => { l with rerunAt := none, base := v.z0 - l.l0, started := true, staggers := [] })
    p true (State.z0 (v.modLaunch p fun l => { l with rerunAt := none, base := v.z0 - l.l0, started := true, staggers := [] }))).trans
    ((v.desk_modLaunch p _).trans (congrArg (State.modLaunch · p _) (State.desk_of_shell hvs)))
  refine ⟨_, (State.launchOf_of_desk hdesk).trans (congrArg (Option.map _) hu), rfl, rfl, ?_⟩
  dsimp only
  rw [hvz]

theorem State.rerun_unplaced {s : State} (hb : s.applyHealth.rebound none (s.launchD false) = none) :
    (s.rerun false).main = none ∧ ((s.rerun false).jobRegs false).job = 4 ∧ ((s.rerun false).jobRegs false).lerr = 5 := by
  obtain ⟨hjob, herr, hm, -⟩ := State.renewBinding_unplaced (p := false) hb
  have hn : s.rerun false = s.renewBinding false := by
    unfold State.rerun
    exact if_pos (by simp [State.launchD, State.launchOf, hm rfl])
  rw [hn]
  exact ⟨hm rfl, hjob, herr⟩

theorem rerunStart_main {s : State} (hno : s.rerunDue true = false) (h : s.rerunDue false = true) :
    exec .rerunStart s = .next (s.rerun false) := by
  rw [exec_rerunStart, execRerunStart, hno, if_neg Bool.false_ne_true, if_pos h]

/-- Settles O53: the swaps by what they leave of the two launches and their registers, the re-runs by the binding of the present health. -/
theorem preemptAndRerun : Obligations.PreemptAndRerun := by
  unfold Obligations.PreemptAndRerun
  refine ⟨fun s h => swapIn_due h, fun s h => swapBack_shown h, fun value s h => rerunRequest_beforeReady h,
    fun value p l b s hr hok hp hl hb => ?accepted, fun value p l s hr hok hp hl hb => ?unplaced,
    fun value s hr hok => ?refused, fun s h hb => ?startPrio, fun s hno h => ⟨fun hb => ?startMain, fun hb => ?startFails⟩⟩
  case accepted =>
    subst hp
    have hl' := (s.launchOf_rerunAccepted value s.rerunPrio).trans (congrArg (Option.map _) hl)
    have hv := s.rebound_rerunAccepted value s.rerunPrio (l := { l with rerunAt := some (l.l0 + (value.extractLsb' 0 48).toNat) })
      (k := l) rfl
    rw [hb] at hv
    obtain ⟨b', hb', hvd⟩ := Option.map_eq_some_iff.mp hv
    obtain ⟨⟨d, r, hu⟩, hjob, hbase, -⟩ := State.renewBinding_bound hl' hb'
    obtain ⟨hjob', hbase'⟩ := s.jobRegs_rerunAccepted value s.rerunPrio
    exact ⟨_, _, rerunRequest_accepted hr hok, hjob.trans hjob', hbase.trans hbase', hu, rfl, hvd⟩
  case unplaced =>
    subst hp
    have hv := s.rebound_rerunAccepted value s.rerunPrio (l := (s.rerunAccepted s.rerunPrio value).launchD s.rerunPrio) (k := l)
      (by unfold State.launchD; rw [State.launchOf_rerunAccepted, hl]; rfl)
    rw [hb] at hv
    exact ⟨_, rerunRequest_accepted hr hok, State.renewBinding_unplaced (Option.map_eq_none_iff.mp hv)⟩
  case refused =>
    refine ⟨_, rerunRequest_refused hr hok, s.jobRegs_modJob _ _, ?_⟩
    obtain ⟨r, a, h⟩ := s.modJob_eq s.rerunPrio fun r => { r with refused := true }
    rw [h]
    exact ⟨rfl, rfl⟩
  case startPrio =>
    obtain ⟨l, hl, hst, hre, hba⟩ := State.rerun_started h hb
    refine ⟨s.rerun true, l, ?_, hl, hst, hre, hba⟩
    rw [exec_rerunStart, execRerunStart, if_pos h]
  case startMain =>
    obtain ⟨l, hl, hst, hre, hba⟩ := State.rerun_started h hb
    exact ⟨s.rerun false, l, rerunStart_main hno h, hl, hst, hre, hba⟩
  case startFails => exact ⟨s.rerun false, rerunStart_main hno h, State.rerun_unplaced hb⟩

end Sys2Proof.Machine
end
